-- ==== Sys2Proof/Word.lean ====
section
/-! DEFINITION. The word types of the machine: 64-bit register words and bytes (R3, R118). -/

namespace Sys2Proof

/-- A general register's contents (R118). -/
abbrev Word := BitVec 64

/-- The smallest unit of memory (R3). -/
abbrev Byte := BitVec 8

end Sys2Proof
end

