-- ==== Sys2Proof/Config.lean ====
section
/-! DEFINITION. What the spec leaves to an implementation and what it leaves open: constants without a body, so that
nothing can be proved about their values, and the constants that the spec states for the whole package. -/

namespace Sys2Proof.Config

/-- An unspecified 64-bit value, by the number of the draw (R4): a read of a field that has no defined value yet. -/
opaque freeWord : Nat → BitVec 64

/-- SHA-256, by which firmware, certificates and measurements are hashed (R418 to R421). The spec names the function
and does not define it. -/
opaque sha256 : List Byte → BitVec 256

/-- Verification of an ECDSA P-256 signature: public key bytes, digest, signature bytes (R419, R421). -/
opaque ecdsaVerify : List Byte → BitVec 256 → List Byte → Bool

/-- Signing with the attestation key of the module (R421). -/
opaque attestSign : List Byte → List Byte

/-- The certificate chain of the module (R421). -/
opaque certChain : List Byte

/-- The contents of the boot ROM and of the straps as measured (R418). -/
opaque romImage : List Byte
opaque straps : List Byte

/-- The public key hash that the boot ROM holds (R419). -/
opaque rootKeyHash : BitVec 256

/-- The random nonces of SPDM responses, by the number of the draw (R421). -/
opaque nonceOf : Nat → BitVec 256

/-- Whether saves of so many MiB in all would run past the save area of a context (R392). The descriptor gives the area's address and
not its size. -/
opaque saveShort (ctxn mib : Nat) : Bool

/-- The bytes that the save of a number of the draw stores in its save area (R391): the spec gives the items and no layout. -/
opaque saveBytes : Nat → List Byte

/-- Whether an access uses a translation that a TLB or a walk cache holds rather than a new walk, by the core cycle, the unit, the
address and the direction: the choice is made anew for each access (R399). -/
opaque useHeld : List Nat → Bool

/-- The core cycle from which the accesses of a stream's engine commands on a path see a write that no rule guarantees to them, by tile,
stream, path and write: R185 leaves open which write such a read returns. -/
opaque reaches : List Nat → Nat

/-- Whether entry i of the TLBs or walk caches is found with bad parity, by the number of the scrub pass up to which it is found
(R403). -/
opaque parityBad : Nat → Nat → Bool

/-- The bits that a 64-byte line sets in the signatures of an ORDERED-UPDATE section, and the bank whose signatures those are (R188). -/
opaque lineSig : Nat → BitVec 256
opaque lineBank : Nat → Nat

/-- Whether another package of a number is in the domain (R214, R415): the system decides it. -/
opaque inDomain : Nat → Bool

/-- Tiles, clusters, dies, streams of a tile (R11, R13). -/
def tiles : Nat := 192
def clusters : Nat := 24
def dies : Nat := 4

/-- The size of local HBM4 in bytes: 768 GiB (R394). -/
def hbmBytes : Nat := 768 * 2 ^ 30

/-- The size of a tile's scratchpad (R17). -/
def scratchBytes : Nat := 0x80000

/-- Reuse entries of the package (R18, R294). -/
def reuseEntries : Nat := 4096

end Sys2Proof.Config
end

