-- ==== Sys2Proof/Syntax.lean ====
section
/-! DEFINITION. The instructions of the KT4800: one constructor for each row of the opcode table.
The 135 rows that the table gives a 32-bit word carry the operand fields of their form (R45 to R60).
The other 125 rows are the steps that the device's units take; they carry the numbers of the unit they concern. -/

namespace Sys2Proof

/-- The four engine streams of a tile (R27). -/
inductive Strm where | k | l | c | w
  deriving DecidableEq, Repr

/-- Scope codes 0 to 5 (R175). -/
inductive Scope where | tile | cluster | die | package | domain | system
  deriving DecidableEq, Repr

/-- Access paths, codes 0 to 6 (R174). -/
inductive Path where | core | stream | matrix | copy | gather | mesh | front
  deriving DecidableEq, Repr

/-- Condition codes of WAITW and of COND nodes (R163, R351). -/
inductive Cc where | eq | ne | geu | ltu
  deriving DecidableEq, Repr

/-- Formats of the scalar floating-point instructions (R56). -/
inductive FpFmt where | fp32 | bf16
  deriving DecidableEq, Repr

/-- Destination types of FCVT (R56). -/
inductive CvtDst where | fp32 | bf16 | s64
  deriving DecidableEq, Repr

/-- Source types of FCVT, codes 0 to 4 (R56). -/
inductive CvtSrc where | fp32 | bf16 | s32 | s64 | z32
  deriving DecidableEq, Repr

/-- The kinds of port operation (R170, R171). -/
inductive AtomicOp where | add | min | max | minz | maxz | and | or | xor | xch | cas
  deriving DecidableEq, Repr

/-- Counters that RCNT reads (R61). -/
inductive RCounter where | hit | miss | forced | rows | bytes
  deriving DecidableEq, Repr

/-- Kinds of TLBI (R384). -/
inductive TlbiKind where | l2page | vpage | all
  deriving DecidableEq, Repr

/-- Form A, two sources (R47). -/
structure FormA2 where
  d : BitVec 5
  a : BitVec 5
  b : BitVec 5
  ta : Bool
  tb : Bool
  tk : BitVec 4
  deriving DecidableEq, Repr

/-- Form A, one source: b and tb are zero (R55). -/
structure FormA1 where
  d : BitVec 5
  a : BitVec 5
  ta : Bool
  tk : BitVec 4
  deriving DecidableEq, Repr

/-- LEA and LEAS: sc is log2 of the scale (R55). -/
structure FormALea where
  d : BitVec 5
  a : BitVec 5
  b : BitVec 5
  ta : Bool
  tb : Bool
  sc : BitVec 2
  tk : BitVec 4
  deriving DecidableEq, Repr

/-- JI (R55). -/
structure FormAJ where
  a : BitVec 5
  ta : Bool
  tk : BitVec 4
  deriving DecidableEq, Repr

/-- Scalar FP, two sources (R56). -/
structure FormF2 where
  d : BitVec 5
  a : BitVec 5
  b : BitVec 5
  ta : Bool
  tb : Bool
  fmt : FpFmt
  tk : BitVec 4
  deriving DecidableEq, Repr

/-- Scalar FP, one source (R56). -/
structure FormF1 where
  d : BitVec 5
  a : BitVec 5
  ta : Bool
  fmt : FpFmt
  tk : BitVec 4
  deriving DecidableEq, Repr

/-- FCVT (R56). -/
structure FormFCvt where
  d : BitVec 5
  a : BitVec 5
  ta : Bool
  dst : CvtDst
  src : CvtSrc
  tk : BitVec 4
  deriving DecidableEq, Repr

/-- Form I (R48). -/
structure FormI where
  d : BitVec 5
  a : BitVec 5
  ta : Bool
  imm : BitVec 10
  tk : BitVec 4
  deriving DecidableEq, Repr

/-- Form I of the shifts: imm10 lies in 0 to 63 (R57). -/
structure FormISh where
  d : BitVec 5
  a : BitVec 5
  ta : Bool
  sh : BitVec 6
  tk : BitVec 4
  deriving DecidableEq, Repr

/-- Form M: r is the destination of a load and the source of a store (R49). -/
structure FormM where
  r : BitVec 5
  base : BitVec 5
  off : BitVec 10
  tk : BitVec 4
  deriving DecidableEq, Repr

/-- The U sub-form of LIH (R49). -/
structure FormLih where
  d : BitVec 5
  imm : BitVec 15
  tk : BitVec 4
  deriving DecidableEq, Repr

/-- Form B (R50). -/
structure FormB where
  a : BitVec 5
  b : BitVec 5
  ta : Bool
  tb : Bool
  off : BitVec 9
  tk : BitVec 4
  deriving DecidableEq, Repr

/-- Form J of J and JL (R51). -/
structure FormJ where
  off : BitVec 22
  tk : BitVec 4
  deriving DecidableEq, Repr

/-- Form J of LOOP: lcb selects the loop (R51). -/
structure FormLoop where
  lcb : Bool
  a : BitVec 5
  off : BitVec 16
  tk : BitVec 4
  deriving DecidableEq, Repr

/-- Form J of BRLOOP (R51). -/
structure FormBrLoop where
  lcb : Bool
  off : BitVec 21
  tk : BitVec 4
  deriving DecidableEq, Repr

/-- QPOP and QPEEK (R59). -/
structure FormQPop where
  d : BitVec 5
  q : BitVec 3
  t : Bool
  tk : BitVec 4
  deriving DecidableEq, Repr

/-- QPUSH (R59). -/
structure FormQPush where
  q : BitVec 3
  b : BitVec 5
  tk : BitVec 4
  deriving DecidableEq, Repr

/-- QCNT (R59). -/
structure FormQCnt where
  d : BitVec 5
  q : BitVec 3
  tk : BitVec 4
  deriving DecidableEq, Repr

/-- TKW and TKS: n1 is n minus 1 (R59, R157). -/
structure FormTk where
  n1 : BitVec 3
  right : Bool
  tk : BitVec 4
  deriving DecidableEq, Repr

/-- RDVZ (R59, R162). -/
structure FormRdvz where
  block : Bool
  tk : BitVec 4
  deriving DecidableEq, Repr

/-- PHASE (R59). -/
structure FormPhase where
  scope : Scope
  tk : BitVec 4
  deriving DecidableEq, Repr

/-- FENCX (R59). -/
structure FormFencx where
  p1 : Path
  p2 : Path
  scope : Scope
  tk : BitVec 4
  deriving DecidableEq, Repr

/-- WAITW (R59, R163). -/
structure FormWaitw where
  d : BitVec 5
  a : BitVec 5
  b : BitVec 5
  cc : Cc
  tk : BitVec 4
  deriving DecidableEq, Repr

/-- Atomics with return: narrow is the width bit, 1 for 32 bits (R59, R169). -/
structure FormAtomic where
  d : BitVec 5
  a : BitVec 5
  b : BitVec 5
  scope : Scope
  narrow : Bool
  tk : BitVec 4
  deriving DecidableEq, Repr

/-- ARED (R59, R171). -/
structure FormAred where
  a : BitVec 5
  b : BitVec 5
  scope : Scope
  tk : BitVec 4
  deriving DecidableEq, Repr

/-- S-form words with a 16-bit code: TRAP, BRK, SLEEP (R60). -/
structure FormS16 where
  code : BitVec 16
  tk : BitVec 4
  deriving DecidableEq, Repr

/-- S-form words without an operand: ERET, HALT, YLD (R60). -/
structure FormS0 where
  tk : BitVec 4
  deriving DecidableEq, Repr

/-- SSRD and SSWR: r is the g register, num the state register (R60). -/
structure FormSReg where
  r : BitVec 5
  num : BitVec 11
  tk : BitVec 4
  deriving DecidableEq, Repr

/-- TLBI (R60, R384). -/
structure FormTlbi where
  a : BitVec 5
  kind : TlbiKind
  tk : BitVec 4
  deriving DecidableEq, Repr

/-- IREG (R60, R385). -/
structure FormIreg where
  a : BitVec 5
  vec : BitVec 11
  tk : BitVec 4
  deriving DecidableEq, Repr

/-- RRBS (R60, R153). -/
structure FormRrbs where
  n : BitVec 4
  tk : BitVec 4
  deriving DecidableEq, Repr

/-- A destination and one source (R52). -/
structure FormDA where
  d : BitVec 5
  a : BitVec 5
  tk : BitVec 4
  deriving DecidableEq, Repr

/-- Two sources, no destination (R52). -/
structure FormAB where
  a : BitVec 5
  b : BitVec 5
  tk : BitVec 4
  deriving DecidableEq, Repr

/-- One source, no destination (R52). -/
structure FormA where
  a : BitVec 5
  tk : BitVec 4
  deriving DecidableEq, Repr

/-- RBIND (R61). -/
structure FormDAB where
  d : BitVec 5
  a : BitVec 5
  b : BitVec 5
  tk : BitVec 4
  deriving DecidableEq, Repr

/-- RCNT (R61). -/
structure FormRcnt where
  d : BitVec 5
  a : BitVec 5
  ctr : RCounter
  tk : BitVec 4
  deriving DecidableEq, Repr

/-- Patch words PHD and PIS (R54). -/
structure FormPatch where
  idx : BitVec 6
  sel : BitVec 6
  value : BitVec 16
  deriving DecidableEq, Repr

/-- The places that hold translations (R398): a control core's TLB of L2 pages, a slot's stream TLB, the TLB of a copy or a
gather engine, a cluster's second-level TLB. The front end holds none. -/
inductive TlbUnit where
  | core (tile : Nat)
  | slot (tile n : Nat)
  | copy (die e : Nat)
  | gather (die e : Nat)
  | second (cluster : Nat)
  | front
  deriving DecidableEq, Repr

/-- A translation that a unit asks a walker for (R395, R397): the context, the virtual address or the
L2 page, whether the access is a store, and the TLB of the requester. -/
structure WalkReq where
  ctxn : Nat
  l2 : Bool
  addr : Nat
  write : Bool
  unit : TlbUnit
  deriving DecidableEq, Repr

/-- Where an uncorrectable error strikes (R404, R405). -/
inductive ErrorSite where
  | granule (addr : Nat)
  | stream (tile : Nat) (strm : Strm)
  | region (tile region : Nat)
  | ring (cluster engine entry : Nat)
  | reuse (entry : Nat)
  | queue (pasid qnum : Nat)
  deriving DecidableEq, Repr

/-- What a UALink write from another package carries (R176, R216, R416): bytes for memory, a pip for a mesh port, or an FP32 or BF16
reduction with its rounding mode and its stochastic word. -/
inductive LinkWrite where
  | mem (bytes : List (BitVec 8))
  | pip (port ctxn : Nat) (payload : Option (BitVec 512))
  | reduce (bf16 : Bool) (v : BitVec 32) (rm : BitVec 3) (u : BitVec 32)
  deriving DecidableEq, Repr

/-- The steps of the machine: one constructor for each row of spec/opcode_table.json. -/
inductive Instr where
  /-- ADD (R131): Writes the 64-bit wrap-around sum of g[a] and g[b] to g[d]. -/
  | add (o : FormA2)
  /-- SUB (R131): Writes g[a] minus g[b], modulo 2^64, to g[d]. -/
  | sub (o : FormA2)
  /-- AND (R131): Writes the bitwise AND of g[a] and g[b] to g[d]. -/
  | and (o : FormA2)
  /-- OR (R131): Writes the bitwise OR of g[a] and g[b] to g[d]. -/
  | or (o : FormA2)
  /-- XOR (R131): Writes the bitwise XOR of g[a] and g[b] to g[d]. -/
  | xor (o : FormA2)
  /-- ANDN (R131): Writes g[a] AND NOT g[b] to g[d]. -/
  | andn (o : FormA2)
  /-- SHL (R131): Shifts g[a] left by bits [5:0] of g[b] and writes the result to g[d]. -/
  | shl (o : FormA2)
  /-- SHR (R131): Shifts g[a] right logically by bits [5:0] of g[b] and writes the result to g[d]. -/
  | shr (o : FormA2)
  /-- SAR (R131): Shifts g[a] right arithmetically by bits [5:0] of g[b] and writes the result to g[d]. -/
  | sar (o : FormA2)
  /-- ROT (R131): Rotates g[a] right by bits [5:0] of g[b] and writes the result to g[d]. -/
  | rot (o : FormA2)
  /-- MUL (R131): Writes the low 64 bits of the product of g[a] and g[b] to g[d]. -/
  | mul (o : FormA2)
  /-- MULH (R131): Writes the high 64 bits of the signed 128-bit product to g[d]. -/
  | mulh (o : FormA2)
  /-- MULHZ (R131): Writes the high 64 bits of the unsigned 128-bit product to g[d]. -/
  | mulhz (o : FormA2)
  /-- DIV (R132): Starts a signed division whose truncated quotient lands in g[d] later. -/
  | div (o : FormA2)
  /-- DIVZ (R132): Starts an unsigned division whose quotient lands in g[d] later. -/
  | divz (o : FormA2)
  /-- REM (R132): Starts a signed division whose remainder lands in g[d] later. -/
  | rem (o : FormA2)
  /-- REMZ (R132): Starts an unsigned division whose remainder lands in g[d] later. -/
  | remz (o : FormA2)
  /-- MIN (R131): Writes the signed minimum of g[a] and g[b] to g[d]. -/
  | min (o : FormA2)
  /-- MAX (R131): Writes the signed maximum of g[a] and g[b] to g[d]. -/
  | max (o : FormA2)
  /-- MINZ (R131): Writes the unsigned minimum of g[a] and g[b] to g[d]. -/
  | minz (o : FormA2)
  /-- MAXZ (R131): Writes the unsigned maximum of g[a] and g[b] to g[d]. -/
  | maxz (o : FormA2)
  /-- SLT (R131): Writes 1 to g[d] when g[a] < g[b] signed, and 0 otherwise. -/
  | slt (o : FormA2)
  /-- SLTZ (R131): Writes 1 to g[d] when g[a] < g[b] unsigned, and 0 otherwise. -/
  | sltz (o : FormA2)
  /-- SEQ (R131): Writes 1 to g[d] when g[a] equals g[b], and 0 otherwise. -/
  | seq (o : FormA2)
  /-- SEL (R131): Writes g[a] to g[d] when the old g[d] is non-zero, and g[b] otherwise. -/
  | sel (o : FormA2)
  /-- CLZ (R131): Writes the count of leading zero bits of g[a] to g[d]. -/
  | clz (o : FormA1)
  /-- POPC (R131): Writes the count of one bits of g[a] to g[d]. -/
  | popc (o : FormA1)
  /-- BEXT (R133): Extracts from g[a] the bit field whose position and length g[b] gives, and writes it to g[d]. -/
  | bext (o : FormA2)
  /-- BINS (R133): Inserts g[a] into g[d] in the bit field whose position and length g[b] gives. -/
  | bins (o : FormA2)
  /-- ADDW (R131): Writes the sign-extended 32-bit sum of g[a] and g[b] to g[d]. -/
  | addw (o : FormA2)
  /-- LEA (R136): Writes g[a] plus g[b] times the scale to g[d]. -/
  | lea (o : FormALea)
  /-- LEAS (R136): Writes g[a] plus g[b] times the scale to g[d], keeping g[a]'s selector and wrapping the offset within 56 bits. -/
  | leas (o : FormALea)
  /-- JI (R147): Jumps to the code offset held in g[a]. -/
  | ji (o : FormAJ)
  /-- JLI (R147): Jumps to the code offset held in g[a] and writes the return offset to g[d]. -/
  | jli (o : FormA1)
  /-- FADD (R137): Writes the rounded floating-point sum of g[a] and g[b] to g[d] and sets ss.fe flags. -/
  | fadd (o : FormF2)
  /-- FSUB (R137): Writes the rounded floating-point difference of g[a] and g[b] to g[d]. -/
  | fsub (o : FormF2)
  /-- FMUL (R137): Writes the rounded floating-point product of g[a] and g[b] to g[d]. -/
  | fmul (o : FormF2)
  /-- FFMA (R137): Writes g[a] times g[b] plus the old g[d], rounded once, to g[d]. -/
  | ffma (o : FormF2)
  /-- FMIN (R137): Writes the smaller of g[a] and g[b], as floating-point values, to g[d]. -/
  | fmin (o : FormF2)
  /-- FMAX (R137): Writes the larger of g[a] and g[b], as floating-point values, to g[d]. -/
  | fmax (o : FormF2)
  /-- FABS (R137): Writes g[a] with its sign cleared to g[d]. -/
  | fabs (o : FormF1)
  /-- FNEG (R137): Writes g[a] with its sign inverted to g[d]. -/
  | fneg (o : FormF1)
  /-- FCMP (R137): Writes the less, equal, greater and unordered bits of comparing g[a] with g[b] to g[d]. -/
  | fcmp (o : FormF2)
  /-- FCVT (R138): Converts g[a], read as the source type, to FP32, BF16 or s64 and writes the result to g[d]. -/
  | fcvt (o : FormFCvt)
  /-- FRCP (R137): Writes the correctly rounded reciprocal of g[a] to g[d]. -/
  | frcp (o : FormF1)
  /-- FRSQ (R137): Writes the correctly rounded reciprocal square root of g[a] to g[d]. -/
  | frsq (o : FormF1)
  /-- ADDI (R134): Writes g[a] plus the signed immediate to g[d]. -/
  | addi (o : FormI)
  /-- ANDI (R134): Writes g[a] AND the signed immediate to g[d]. -/
  | andi (o : FormI)
  /-- ORI (R134): Writes g[a] OR the signed immediate to g[d]. -/
  | ori (o : FormI)
  /-- XORI (R134): Writes g[a] XOR the signed immediate to g[d]. -/
  | xori (o : FormI)
  /-- SHLI (R134): Shifts g[a] left by the immediate and writes the result to g[d]. -/
  | shli (o : FormISh)
  /-- SHRI (R134): Shifts g[a] right logically by the immediate and writes the result to g[d]. -/
  | shri (o : FormISh)
  /-- SARI (R134): Shifts g[a] right arithmetically by the immediate and writes the result to g[d]. -/
  | sari (o : FormISh)
  /-- SLTI (R134): Writes 1 to g[d] when g[a] is below the signed immediate, and 0 otherwise. -/
  | slti (o : FormI)
  /-- LDB (R143): Loads a sign-extended byte from near space into g[d]. -/
  | ldb (o : FormM)
  /-- LDBZ (R143): Loads a zero-extended byte from near space into g[d]. -/
  | ldbz (o : FormM)
  /-- LDH (R143): Loads a sign-extended halfword from near space into g[d]. -/
  | ldh (o : FormM)
  /-- LDHZ (R143): Loads a zero-extended halfword from near space into g[d]. -/
  | ldhz (o : FormM)
  /-- LDW (R143): Loads a sign-extended word from near space into g[d]. -/
  | ldw (o : FormM)
  /-- LDWZ (R143): Loads a zero-extended word from near space into g[d]. -/
  | ldwz (o : FormM)
  /-- LDD (R143): Loads a doubleword from near space, including the state window, into g[d]. -/
  | ldd (o : FormM)
  /-- STB (R143): Stores the low byte of g[s] to near space. -/
  | stb (o : FormM)
  /-- STH (R143): Stores the low halfword of g[s] to near space. -/
  | sth (o : FormM)
  /-- STW (R143): Stores the low word of g[s] to near space. -/
  | stw (o : FormM)
  /-- STD (R143): Stores g[s] as a doubleword to near space, including format-table entries of the state window. -/
  | std (o : FormM)
  /-- LIH (R135): Writes the 15-bit immediate shifted left by 49 to g[d]. -/
  | lih (o : FormLih)
  /-- BEQ (R146): Branches when g[a] equals g[b]. -/
  | beq (o : FormB)
  /-- BNE (R146): Branches when g[a] differs from g[b]. -/
  | bne (o : FormB)
  /-- BLT (R146): Branches when g[a] < g[b], signed. -/
  | blt (o : FormB)
  /-- BGE (R146): Branches when g[a] >= g[b], signed. -/
  | bge (o : FormB)
  /-- BLO (R146): Branches when g[a] < g[b], unsigned. -/
  | blo (o : FormB)
  /-- BHS (R146): Branches when g[a] >= g[b], unsigned. -/
  | bhs (o : FormB)
  /-- J (R147): Jumps by a signed 22-bit word offset. -/
  | j (o : FormJ)
  /-- JL (R147): Jumps by a signed 22-bit word offset and writes the return offset to g15. -/
  | jl (o : FormJ)
  /-- LOOP (R149): Sets up hardware loop lca or lcb with a body and an iteration count from g[a]. -/
  | loop (o : FormLoop)
  /-- BRLOOP (R152): Decrements the loop count, advances the index, rotates RRB and branches back while iterations remain. -/
  | brloop (o : FormBrLoop)
  /-- QPOP (R159): Pops the head word of a queue register into g[d], or claims the next reply, or raises QUNDER. -/
  | qpop (o : FormQPop)
  /-- QPEEK (R160): Copies the head word of a queue register into g[d] without removing it. -/
  | qpeek (o : FormQPop)
  /-- QPUSH (R161): Pushes g[b] into a queue register, or into the register of its oldest claim. -/
  | qpush (o : FormQPush)
  /-- QCNT (R161): Writes the held, free-owed and claimed counts of a queue register to g[d]. -/
  | qcnt (o : FormQCnt)
  /-- TKW (R157): Pops n tokens at once from the left or right token FIFO. -/
  | tkw (o : FormTk)
  /-- TKS (R157): Pushes n tokens at once to the left or right token FIFO, or raises TOKEN_OVER. -/
  | tks (o : FormTk)
  /-- RDVZ (R162): Arrives at a rendezvous of the tile's streams or of every stream of the block. -/
  | rdvz (o : FormRdvz)
  /-- RENDEZVOUS_COMPLETE (R162): After the last arrival is known, every waiting RDVZ retires and pushes its tokens. -/
  | rendezvousComplete (block : Bool) (tile : Nat)
  /-- PHASE (R179): Waits for the stream's loads and stores, publishes its CORE writes at a scope and refreshes its snapshot. -/
  | phase (o : FormPhase)
  /-- FENCX (R186): Orders the writes of one access path before later accesses of another path at a scope. -/
  | fencx (o : FormFencx)
  /-- WAITW (R163): Waits at the port until a word satisfies a condition against g[b], then writes the word to g[d]. -/
  | waitw (o : FormWaitw)
  /-- HGIVE (R166): Offers a held buffer to another stream or returns it to the front end, after its commands and stores complete. -/
  | hgive (o : FormAB)
  /-- HTAKE (R167): Takes a buffer offered to the issuing stream and returns a status in g[d]. -/
  | htake (o : FormDA)
  /-- HQRY (R168): Writes the handle-table entry of a valid handle, or 0, to g[d]. -/
  | hqry (o : FormDA)
  /-- AADD (R170): Atomically adds g[b] to the word at g[a] at its port and returns the old value. -/
  | aadd (o : FormAtomic)
  /-- AMIN (R170): Atomically stores the signed minimum of the word and g[b] and returns the old value. -/
  | amin (o : FormAtomic)
  /-- AMAX (R170): Atomically stores the signed maximum of the word and g[b] and returns the old value. -/
  | amax (o : FormAtomic)
  /-- AMINZ (R170): Atomically stores the unsigned minimum of the word and g[b] and returns the old value. -/
  | aminz (o : FormAtomic)
  /-- AMAXZ (R170): Atomically stores the unsigned maximum of the word and g[b] and returns the old value. -/
  | amaxz (o : FormAtomic)
  /-- AAND (R170): Atomically ANDs g[b] into the word and returns the old value. -/
  | aand (o : FormAtomic)
  /-- AOR (R170): Atomically ORs g[b] into the word and returns the old value. -/
  | aor (o : FormAtomic)
  /-- AXOR (R170): Atomically XORs g[b] into the word and returns the old value. -/
  | axor (o : FormAtomic)
  /-- AXCH (R170): Atomically exchanges the word with g[b] and returns the old value. -/
  | axch (o : FormAtomic)
  /-- ACAS (R170): Atomically stores g[b] when the word equals the compare value in g[d], and returns the old value. -/
  | acas (o : FormAtomic)
  /-- ARED (R171): Adds the FP32 value of g[b] into the FP32 word at g[a] at its port, rounding once. -/
  | ared (o : FormAred)
  /-- ATOMIC_PORT_APPLY (R172): The port applies an arriving atomic, ARED or reduction to its word, and fails all merged reductions on a poisoned line. -/
  | atomicPortApply (n : Nat)
  /-- NEAR_LOAD_LANDING (R119): The data of a non-local near load or an atomic's old value lands in its register and sets the full bit. -/
  | nearLoadLanding (tile : Nat) (strm : Strm) (n : Nat)
  /-- DIVISION_LANDS (R130): A division finishes and its result lands in its destination register. -/
  | divisionLands (tile : Nat) (strm : Strm) (n : Nat)
  /-- TRAP (R382): Raises cause TRAP with a 16-bit code, resuming at the next word. -/
  | trap (o : FormS16)
  /-- ERET (R379): Returns from the trap context to ss.epc. -/
  | eret (o : FormS0)
  /-- SSRD (R383): Writes a stream state register to g[d]. -/
  | ssrd (o : FormSReg)
  /-- SSWR (R383): Writes g[a] to a stream state register under its access code. -/
  | sswr (o : FormSReg)
  /-- SLEEP (R386): Makes the stream not ready for 64 × n fabric cycles, or until an interrupt when n is 0. -/
  | sleep (o : FormS16)
  /-- SLEEP_EXPIRY (R386): The sleep count runs out and SLEEP retires. -/
  | sleepExpiry (tile : Nat) (strm : Strm)
  /-- HALT (R387): Ends the stream as a release point of scope SYSTEM. -/
  | halt (o : FormS0)
  /-- YLD (R386): Makes the stream not ready until the other ready streams have issued or 4 core cycles have passed. -/
  | yld (o : FormS0)
  /-- TLBI (R384): Removes the context's translations of an L2 page, a virtual page or everything from every TLB of the package. -/
  | tlbi (o : FormTlbi)
  /-- IREG (R385): Sets an interrupt line of a stream of the block. -/
  | ireg (o : FormIreg)
  /-- BRK (R382): Raises cause BRK with a 16-bit code, resuming at the BRK itself. -/
  | brk (o : FormS16)
  /-- RRBS (R153): Writes n to the rotating register base. -/
  | rrbs (o : FormRrbs)
  /-- TIMER_COMPARE (R381): ss.cycle reaches a non-zero ss.tcmp and interrupt line 63 becomes pending. -/
  | timerCompare (tile : Nat) (strm : Strm)
  /-- INTR (R381): At an instruction boundary an enabled pending interrupt line is taken, abandoning any waiting instruction. -/
  | intr (tile : Nat) (strm : Strm)
  /-- OCLM (R265): Claims a run of operand slots for the issuing tile and returns the result in g[d]. -/
  | oclm (o : FormDA)
  /-- OREL (R266): Releases operand slots claimed by the tile. -/
  | orel (o : FormAB)
  /-- EPIL (R287): Attaches an epilogue record to a chain. -/
  | epil (o : FormAB)
  /-- ACCD (R288): Discards a chain so that its entry is freed without a drain. -/
  | accd (o : FormA)
  /-- TASKW (R289): Waits for the stream's tasks of a tag, and optionally their drains, then returns a count and status. -/
  | taskw (o : FormDA)
  /-- RBIND (R297): Binds a free reuse entry to the context from a descriptor and sets the watch bits of its pages. -/
  | rbind (o : FormDAB)
  /-- RFREE (R298): Scrubs a reuse entry after its pending operations and clears the watch bits. -/
  | rfree (o : FormA)
  /-- RINV (R299): Raises a reuse entry's version. -/
  | rinv (o : FormA)
  /-- RQRY (R300): Writes a summary word of a reuse entry to g[d]. -/
  | rqry (o : FormDA)
  /-- RCNT (R301): Writes a counter of a reuse entry, or of the tenant totals, to g[d]. -/
  | rcnt (o : FormRcnt)
  /-- CFGLD (R254): Checks a configuration image and loads the masked regions, racking them first. -/
  | cfgld (o : FormAB)
  /-- CFGQ (R257): Writes the state word of a region to g[d]. -/
  | cfgq (o : FormDA)
  /-- RACK (R255): Racks each masked region and leaves it unconfigured. -/
  | rack (o : FormA)
  /-- KILN (R258): Starts a kiln wave that freezes the masked regions and writes their images to the kiln area. -/
  | kiln (o : FormA)
  /-- THAW (R261): Restores the masked regions from a kiln image. -/
  | thaw (o : FormAB)
  /-- RGO (R256): Places a start token at every source of each masked region. -/
  | rgo (o : FormA)
  /-- GARM (R370): Sends a signal-a-node command to the front end's launch queue. -/
  | garm (o : FormA)
  /-- GSET (R370): Sends a write-a-word command to the front end's launch queue. -/
  | gset (o : FormAB)
  /-- EMIT (R370): Reads a 64-byte record and sends it to a host output ring through the launch queue. -/
  | emit (o : FormAB)
  /-- SIGH (R370): Sends a host-signal command for the job's queue to the launch queue. -/
  | sigh (o : FormA)
  /-- TBLD (R74): Loads n consecutive templates and their staging copies from near space. -/
  | tbld (o : FormAB)
  /-- TBSV (R75): Stores n consecutive templates to near space. -/
  | tbsv (o : FormAB)
  /-- PHD (R76): Amends one field of a staging copy without issuing. -/
  | phd (o : FormPatch)
  /-- PIS (R77): Amends a staging copy, issues it as a command captured at issue, and reloads the copy from its template. -/
  | pis (o : FormPatch)
  /-- COMMAND_COMPLETION (R72): An engine command completes, pushes its TKON 1 tokens and sends its reply, or raises TOKEN_OVER on a full FIFO. -/
  | commandCompletion (n : Nat)
  /-- REPLY_ARRIVAL (R158): An engine reply reaches a queue register and lands in the oldest claim or is appended to the held words. -/
  | replyArrival (n : Nat)
  /-- SLOT_COMMAND_START (R190): A stream slot starts its next pending command after the previous one has completed. -/
  | slotCommandStart (tile slot : Nat)
  /-- SLD (R204): Reads an affine or layout-record pattern and delivers its words to an input port or fills an operand slot. -/
  | sld (tile slot : Nat)
  /-- SST (R204): Takes words from an output port and writes the elements of its pattern. -/
  | sst (tile slot : Nat)
  /-- SIDX (R205): Loads rows selected by a list of indices into an input port. -/
  | sidx (tile slot : Nat)
  /-- SSCT (R205): Writes rows from an output port to positions selected by a list of indices. -/
  | ssct (tile slot : Nat)
  /-- SREC (R206): Passes words from an output port to an input port of the same tile. -/
  | srec (tile slot : Nat)
  /-- SCON (R206): Delivers constant or ramp words to an input port. -/
  | scon (tile slot : Nat)
  /-- SMCL (R204): Reads a pattern once and delivers every word to an input port of each named tile of the cluster. -/
  | smcl (tile slot : Nat)
  /-- SCMP (R207): Writes the rows whose predicate is non-zero, and optionally their indices, and replies with the survivor count. -/
  | scmp (tile slot : Nat)
  /-- SBAR (R208): Holds later commands of the named slots until every earlier command of them has completed. -/
  | sbar (tile n : Nat)
  /-- SCLS (R210): Appends the slot's written virtual range to the context's dirty-range log. -/
  | scls (tile slot : Nat)
  /-- SWT (R209): Writes a completion word after every earlier command of the named slots has completed. -/
  | swt (tile n : Nat)
  /-- SPIP (R215): Sends pips, bare or carrying port words, to a mesh port of a destination tile under credit flow control. -/
  | spip (tile mport : Nat)
  /-- SPRV (R216): Takes pips from a mesh port's receive buffer and counts them or delivers their payloads. -/
  | sprv (tile mport : Nat)
  /-- PIP_ARRIVAL (R218): A pip reaches a mesh port, which grants credit, defers it for a saved job, or refuses it. -/
  | pipArrival (n : Nat)
  /-- SECTION_SQUASH (R188): A conflict between sections of an ORDERED-UPDATE node squashes and replays the younger sections. -/
  | sectionSquash (tile region sec : Nat)
  /-- SECTION_COMMIT (R188): The oldest section of an ORDERED-UPDATE node commits. -/
  | sectionCommit (tile region : Nat)
  /-- GROUP_FIRE (R238): An operator group whose inputs hold data words and whose outputs have room fires once. -/
  | groupFire (tile region group : Nat)
  /-- FORMAT_MARKER_TAKE (R240): A group takes a format marker from its first input and forwards it, or drops one from another input. -/
  | formatMarkerTake (tile region group input : Nat)
  /-- END_OF_STREAM (R241): A group takes end-of-stream tokens on all its inputs, discards held words and sends a token to each output. -/
  | endOfStream (tile region group : Nat)
  /-- CONVERTER_CONVERT (R115): A converter stage converts input elements and packs them into output words. -/
  | converterConvert (tile region cell : Nat)
  /-- SETTLE_REPORT (R255): The settle tree reports a racked region quiescent, ending its racking. -/
  | settleReport (tile region : Nat)
  /-- KILN_WAVE_COMPLETE (R259): Every group and converter is aligned and every slot halted, so the region is read out and becomes FROZEN. -/
  | kilnWaveComplete (tile region : Nat)
  /-- KILN_TIMEOUT (R260): A kiln wave does not complete within the kiln timeout and is abandoned, discarded or deferred. -/
  | kilnTimeout (tile region : Nat)
  /-- MMD (R275): A dense matrix task multiplies the A and B operand slots and accumulates into its chain's ring entry. -/
  | mmd (cluster engine : Nat)
  /-- MMS (R276): A 4:8 sparse matrix task checks its metadata and accumulates the kept products. -/
  | mms (cluster engine : Nat)
  /-- MMG (R277): A gathered matrix task reads A's rows by index from scratchpad and multiplies them by B. -/
  | mmg (cluster engine : Nat)
  /-- MMDL (R307): A delta task refreshes or multiplies only the quantised change of its operand against a DELTA reuse entry. -/
  | mmdl (cluster engine : Nat)
  /-- TASK_DISPATCH (R273): The cluster task scheduler dispatches one ready task record to an engine inbox, or fails or cancels it. -/
  | taskDispatch (cluster : Nat)
  /-- TASK_START (R274): An engine starts a task whose record has arrived and whose spacing from the previous start has passed. -/
  | taskStart (cluster engine : Nat)
  /-- TASK_COMPLETE (R274): A task writes its ring entry and completes. -/
  | taskComplete (cluster engine : Nat)
  /-- EPILOGUE_DRAIN (R284): The epilogue engine drains a FULL entry with a record attached, applying scale, bias, activation and conversion. -/
  | epilogueDrain (cluster engine : Nat)
  /-- DRAIN_COMPLETE (R285): After every row is performed the completion word is written and the entry becomes FREE. -/
  | drainComplete (cluster engine : Nat)
  /-- MMDL_WRITEBACK (R309): The reuse unit's write-back of X_prev and Y_prev is performed and the entry is updated in one step. -/
  | mmdlWriteback (cluster n : Nat)
  /-- CPY (R330): A copy engine moves a source window element by element into a destination window. -/
  | cpy (die engine : Nat)
  /-- CPYW (R330): A copy followed by a completion word written to own scratchpad. -/
  | cpyw (die engine : Nat)
  /-- CFIL (R332): A copy engine fills every element of a destination window with a pattern. -/
  | cfil (die engine : Nat)
  /-- LRCHK (R333): A copy engine checks layout records and replies with the first failure. -/
  | lrchk (die engine : Nat)
  /-- GTHR (R338): A gather engine collects table rows by index into a dense block. -/
  | gthr (die engine : Nat)
  /-- SCTR (R339): A gather engine adds rows of a dense block into table rows by index. -/
  | sctr (die engine : Nat)
  /-- CASKQ (R314): Compares a block's input with the stored bin and returns a HIT, MISS or FORCED verdict and distance. -/
  | caskq (cluster : Nat)
  /-- CASKRP (R316): Replays the stored output of a bin to memory or an input port after a HIT. -/
  | caskrp (cluster : Nat)
  /-- CASKCP (R317): Captures a block's input and output into a bin after a MISS or FORCED verdict. -/
  | caskcp (cluster : Nat)
  /-- GLNC (R369): The front end launches a graph on a queue when the command is applied. -/
  | glnc (n : Nat)
  /-- GNXT (R369): The front end records a graph launch to be made after the issuing job completes. -/
  | gnxt (n : Nat)
  /-- GARM_APPLY (R370): The front end delivers one signal to the named node. -/
  | garmApply (n : Nat)
  /-- GSET_APPLY (R370): The front end writes the value to the word on the FRONT path. -/
  | gsetApply (n : Nat)
  /-- EMIT_APPLY (R371): The front end writes the record and the PIDX mirror to the host output ring and raises coalesced interrupts. -/
  | emitApply (n : Nat)
  /-- SIGH_APPLY (R370): The front end writes the queue's HSIG word and optionally signals its MSI-X vector. -/
  | sighApply (n : Nat)
  /-- RING_COALESCE_TIMEOUT (R371): CTIME expires with a record pending and the ring's interrupt is raised. -/
  | ringCoalesceTimeout (ring : Nat)
  /-- RING_FULL_REREAD (R371): A ring that looks full has its consumer index re-read, at most once per microsecond. -/
  | ringFullReread (ring : Nat)
  /-- LAUNCH_GRAPH (R355): A packet launches a graph on a queue, making its ready nodes READY. -/
  | launchGraph (chan : Nat)
  /-- BIND (R345): A packet runs a BIND node record as a one-node graph. -/
  | bind (chan : Nat)
  /-- CONFIG_REGION (R362): A packet configures or releases regions of a standing tile for a context. -/
  | configRegion (chan : Nat)
  /-- COPY (R345): A packet runs a copy or gather template as a one-node graph. -/
  | copy (chan : Nat)
  /-- SIGNAL (R345): A packet sets, maxes or adds a value into a word at its port. -/
  | signal (chan : Nat)
  /-- WAIT (R345): A packet holds later packets of its channel until a word satisfies a condition. -/
  | wait (chan : Nat)
  /-- QUEUE_CREATE (R348): A packet creates a queue control block, or modifies one. -/
  | queueCreate (chan : Nat)
  /-- QUEUE_DESTROY (R348): A packet destroys a queue once it has no active graph, optionally aborting its graphs. -/
  | queueDestroy (chan : Nat)
  /-- CHANNEL_RESYNC (R414): A packet re-reads the host consumer index and unpauses the channel when it is consistent. -/
  | channelResync (chan : Nat)
  /-- SELECTION_PASS (R372): Every 16 fabric cycles the distributor selects and binds one ready node by effective priority. -/
  | selectionPass
  /-- JOB_START (R361): A bound job's sections are copied, handles created, and its four streams started on every tile. -/
  | jobStart (job : Nat)
  /-- JOB_COMPLETE (R25): A job completes after every stream halted and every landing and command completed, and its node signals its successors. -/
  | jobComplete (job : Nat)
  /-- BIND_NODE (R364): A BIND node issues its commands on a standing tile, under a cask guard when set. -/
  | bindNode (n : Nat)
  /-- COPY_NODE (R365): A COPY node places its command in a die's copy queue and completes when its completion word is written. -/
  | copyNode (n : Nat)
  /-- GATHER_NODE (R365): A GATHER node places its command in a die's gather queue and completes when its completion word is written. -/
  | gatherNode (n : Nat)
  /-- COND (R366): A COND node reads a word at its port and signals its true or false successors. -/
  | cond (n : Nat)
  /-- HOST (R367): A HOST node writes a record to a ring and the queue's signal word. -/
  | host (n : Nat)
  /-- REARM (R368): A REARM node resets a range of nodes, advances EPOCH and signals its successors. -/
  | rearm (n : Nat)
  /-- GRAPH_COMPLETE (R358): A quiescent graph completes, writes its completion word and launches NEXT. -/
  | graphComplete (n : Nat)
  /-- WATCHDOG (R35): A stream issues nothing for the watchdog interval and a WATCHDOG event is posted. -/
  | watchdog (tile : Nat) (strm : Strm)
  /-- EVENT_RECORD_WRITE (R389): The event arbiter accepts a record and writes it to the context's event queue when there is room. -/
  | eventRecordWrite (n : Nat)
  /-- RESUME (R390): A response word with ACT 1 resumes a waiting trap or engine at its progress. -/
  | resume (fn : Nat) (fid : Nat)
  /-- TERMINATE (R390): A response word with ACT 2 ends the waiting job or command with its fault. -/
  | terminate (fn : Nat) (fid : Nat)
  /-- PAGE_WALK (R395): A TLB miss walks the page table or L2 page table and returns a translation or a PAGE fault. -/
  | pageWalk (req : WalkReq)
  /-- COLLAPSE (R402): The first write through a read-duplicated leaf collapses the page to one copy and then performs the write. -/
  | collapse (n : Nat)
  /-- SCRUB_PASS (R403): The scrubber reads and corrects memory lines on its fixed period. -/
  | scrubPass (die : Nat)
  /-- UNCORRECTABLE_ERROR (R405): An uncorrectable error poisons memory or faults the job, region, chain, entry or queue that holds the state. -/
  | uncorrectableError (at_ : ErrorSite)
  /-- RECONCILE (R413): The device reads HCIADDR and adopts the index or pauses the channel with a CHANNEL event. -/
  | reconcile (chan : Nat)
  /-- CHMAP (R408): GO maps a package channel to a function's channel block. -/
  | chmap (fn : Nat) (value : BitVec 64)
  /-- QTCTL_PAUSE (R347): PAUSE pauses every channel and writes back the QCB cache, then DONE is set. -/
  | qtctlPause (fn : Nat) (pause : Bool)
  /-- CLKREQ (R422): A write requests a new core clock. -/
  | clkreq (fn : Nat) (mhz : BitVec 12)
  /-- CLOCK_SWITCH (R422): The requested core clock takes effect, stopping the core clock briefly. -/
  | clockSwitch
  /-- POWER_LIMIT (R422): The module controller sets a power limit through I3C. -/
  | powerLimit (limit : Nat)
  /-- CLOCK_CAP_STEP (R422): Each millisecond over the power limit the clock drops 100 MHz, or rises again below it. -/
  | clockCapStep
  /-- REGISTER_WRITE (R408): A write to a BAR0 register with no behaviour of its own sets its fields. -/
  | registerWrite (fn off : Nat) (value : BitVec 64)
  /-- REMOTE_TIMEOUT (R416): A remote request gets no response within 2 ms and returns poison or posts a POISON fault. -/
  | remoteTimeout (n : Nat)
  /-- MODULE_RESET (R418): The device boots: measures ROM, authenticates a firmware slot, configures the strips and sets READY. -/
  | moduleReset
  /-- ILLEGAL_INSTRUCTION (R43): A fetched word of class 0000, 1000 or 1101, with an unassigned function code, or with a must-be-zero field set, raises ILLEGAL precisely. -/
  | illegalInstruction (word : BitVec 32)
  /-- FETCH_FAULT (R41): The fetch at ss.pc raises ALIGN, NEAR_BOUNDS or POISON before any word is decoded. -/
  | fetchFault
  /-- RESULT_LANDS (R129): A fixed-latency result lands in its destination register the stated number of core cycles after issue, for example MUL, FP operations, local loads, and OCLM or CFGQ results. -/
  | resultLands (tile : Nat) (strm : Strm) (n : Nat)
  /-- POSTED_STORE_PERFORMED (R179): A posted near store that retired earlier reaches its port and becomes performed at a scope. -/
  | postedStorePerformed (tile : Nat) (strm : Strm) (n : Nat) (scope : Scope)
  /-- WRITE_ENTERS_VIEW (R180): A write by another agent that has been published enters a stream's view at a moment before that stream's next acquire point. -/
  | writeEntersView (tile : Nat) (strm : Strm) (id : Nat)
  /-- YLD_EXPIRY (R386): Four core cycles pass after a YLD issued, and the stream becomes ready again. -/
  | yldExpiry (tile : Nat) (strm : Strm)
  /-- TASK_SLOT_READ_END (R264): A task finishes reading its operand slots 64 core cycles after it starts, which lets the next fill begin and a DRAINING slot become FREE. -/
  | taskSlotReadEnd (cluster engine : Nat)
  /-- LIVE_START_DEADLINE (R374): A ready LIVE node not started within 40 µs adds 1 to LMISS and posts KILN_TIMEOUT. -/
  | liveStartDeadline (n : Nat)
  /-- EVENT_QUEUE_REREAD (R388): A source that waits on a full event queue finds room after the device reads the host's consumer index at EQCI again. -/
  | eventQueueReread (ctxn : Nat)
  /-- APPEND (R420): Adds the staging mailbox's first bytes to the staged image. -/
  | append (len : BitVec 16)
  /-- COMMIT (R420): Checks the staged image, writes slot A and resets the module. -/
  | commit
  /-- ABORT (R420): Abandons the staged recovery image. -/
  | abort
  /-- GET_VERSION (R421): An SPDM request for the supported versions. -/
  | getVersion
  /-- GET_CAPABILITIES (R421): An SPDM request for the device's capabilities. -/
  | getCapabilities
  /-- NEGOTIATE_ALGORITHMS (R421): An SPDM request that settles ECDSA P-256 and SHA-256. -/
  | negotiateAlgorithms (ecdsaP256 sha256 : Bool)
  /-- GET_DIGESTS (R421): An SPDM request for certificate chain digests. -/
  | getDigests
  /-- GET_CERTIFICATE (R421): An SPDM request for the identity certificate chain. -/
  | getCertificate (slot off len : Nat)
  /-- CHALLENGE (R421): An SPDM challenge signed with the identity key. -/
  | challenge (nonce : BitVec 256)
  /-- GET_MEASUREMENTS (R421): An SPDM request for the signed measurement blocks. -/
  | getMeasurements (block : Nat) (nonce : BitVec 256)
  /-- INCOMING_READ (R176): A read from another package is performed at its port on the MESH path. -/
  | incomingRead (src off len : Nat)
  /-- INCOMING_WRITE (R176): A write from another package is performed at its port and published at DOMAIN. off is an offset in HBM, or
  the tile of a pip (R216, R416). -/
  | incomingWrite (src off : Nat) (w : LinkWrite)
  /-- INCOMING_ATOMIC (R176): An atomic from another package is applied at its port with scope DOMAIN. -/
  | incomingAtomic (src off : Nat) (op : AtomicOp) (wide : Bool) (v c : BitVec 64)
  /-- BAR2_READ (R417): A host read through BAR2 reads local HBM4, marking poisoned granules. -/
  | bar2Read (fn off len : Nat)
  /-- BAR2_WRITE (R417): A host write through BAR2 writes local HBM4 and clears poison of whole granules. -/
  | bar2Write (fn off : Nat) (bytes : List (BitVec 8))
  /-- NOTIFY (R411): The host's index word announces packets written, and the device takes packets while DCI differs from PIDX. -/
  | notify (chan : Nat) (word : BitVec 64)
  /-- CRET (R413): The host's free-slot return triggers a reconciliation of the completion consumer index. -/
  | cret (chan : Nat) (word : BitVec 64)
  /-- CTXREQ (R409): GO makes the device check and re-read a context descriptor. -/
  | ctxreq (fn : Nat) (ctxn : BitVec 12)
  /-- INVREQ (R408): GO removes translations of a context as TLBI does. -/
  | invreq (fn : Nat) (ctxn : BitVec 12) (kind : BitVec 3)
  deriving DecidableEq, Repr

end Sys2Proof
end

