-- ==== Sys2Proof/Machine/State.lean ====
section
/-! DEFINITION. The state of the KT4800 as plain data: everything the spec gives the machine, unit by unit,
and the state after module reset. A field marked (model's own) is no state of the spec: it says which agent
moves next, or supplies free values. -/

namespace Sys2Proof.Machine

/-- Why the machine stops. -/
inductive Fault where
  /-- Raised by host and link accesses that name an HBM4 offset at or above 768 GiB, which R394 says does not
  exist. Safe: the run stops where the spec gives no effect. -/
  | noSuchMemory (offset : Nat)
  deriving DecidableEq, Repr

/-- Why an instruction has no meaning here. -/
inductive Refusal where
  /-- Raised by an arm of exec whose instruction has no meaning yet. Safe: nothing is said about it. -/
  | notModelled (mnemonic : String)
  deriving DecidableEq, Repr

/-- A finite map from numbers, as a list of pairs. The first pair of a key holds its value. -/
abbrev FMap (α : Type) := List (Nat × α)

/-- Memory in canonical form: addresses strictly rising, no byte equal to what an unlisted address reads as. -/
abbrev Mem := List Host.Cell

/-- A 64-byte port word or line (R201). -/
abbrev Line := BitVec 512

/-- Cause codes (R377). -/
inductive Cause where
  | illegal | priv | align | accessPath | nearBounds | owner | emptyReg | qunder | qover | tokenOver | template
  | layout | page | poison | config | spmeta | slot | ring | reuse | copyOverlap | graph | channel | kilnTimeout
  | watchdog | trap | brk | intr | collapse
  deriving DecidableEq, Repr

/-- A physical g register: its value, full bit, and poison mark with the near address of the load (R119, R122). -/
structure Reg where
  val : Word := 0
  full : Bool := true
  poison : Option Word := none
  deriving DecidableEq, Repr

/-- Which step lets a pending result land (R119, R129, R130): own is a near load of own scratchpad, whose latency is fixed and which
a release point waits for (R178). -/
inductive LandKind where | fixed | own | load | division
  deriving DecidableEq, Repr

/-- A result on its way to a physical register; register 0 discards it (R121). -/
structure Landing where
  phys : Nat
  val : Word
  poison : Option Word := none
  kind : LandKind
  deriving DecidableEq, Repr

/-- The registers of one hardware loop (R124); act is its bit of ss.status. -/
structure LoopRegs where
  cnt : BitVec 32 := 0
  start : BitVec 20 := 0
  last : BitVec 20 := 0
  idx : BitVec 32 := 0
  act : Bool := false
  deriving DecidableEq, Repr

/-- What happens before a point (R181): release points by number, and commands all of whose accesses do, by the keys that
their writes carry. -/
structure Know where
  rels : List Nat := []
  cmds : List Nat := []
  deriving DecidableEq, Repr

/-- A release sequence that a write belongs to (R182): the release point that heads it, and the narrower RMWs by which it has
come, each with its scope and tile: past one of those it goes on only for acquirers within that instance. -/
structure SeqHead where
  rel : Nat
  limits : List (Scope × Nat) := []
  deriving DecidableEq, Repr

/-- A release point (R178): its stream and scope, the number of the first write that it does not cover, what happens before
it, the span that an HGIVE publishes, and the path to which a FENCX does (R185, R186). -/
structure RelPt where
  tile : Nat
  strm : Strm
  scope : Scope
  upto : Nat
  know : Know
  span : Option (Nat × Nat) := none
  toPath : Option Path := none
  deriving DecidableEq, Repr

/-- A queue register: held words with what happens before each, owed replies, and claims as physical register numbers (R158,
R181). -/
structure QReg where
  held : List Word := []
  know : List Know := []
  owed : Nat := 0
  claims : List Nat := []
  deriving DecidableEq, Repr

/-- A posted near store that has not been published (R143, R178): physical address, bytes, the widest scope at which it is
performed (R179), and whether its publication may still raise versions (R302). -/
structure Posted where
  addr : Nat
  bytes : List Byte
  performed : Option Scope := none
  watch : Bool := false
  /-- The stream's release points before the store: the heads of its release sequences (R182). -/
  heads : List Nat := []
  /-- The near address of its first byte, by which a TLBI knows what it waits for (R384). -/
  near : Nat := 0
  /-- The number of the first write that follows it in coherence order, once a TLBI has removed its translation (R384). -/
  placed : Option Nat := none
  deriving DecidableEq, Repr

/-- Why a stream that has not halted does not issue (R162, R380, R386). -/
inductive Wait where
  | none
  | rdvz (block : Bool) (tk : BitVec 4)
  | sleepUntil (fab : Nat) (tk : BitVec 4)
  | sleepIntr (tk : BitVec 4)
  | yld (since : Nat) (others : List (Strm × Nat))
  | response
  deriving DecidableEq, Repr

/-- An engine command of a stream that has not completed: its number, path, and the physical byte spans that it
may touch (R166, R186). -/
structure CmdRef where
  id : Nat
  path : Path
  spans : List (Nat × Nat) := []
  deriving DecidableEq, Repr

/-- A matrix task as TASKW observes it (R289): command number, tag, the chain it closes, and, once it has ended,
its fault code (0 for none). -/
structure TaskObs where
  id : Nat
  tag : BitVec 16
  closes : Bool
  chn : Nat
  gen : Nat
  ended : Option (BitVec 8) := none
  drained : Option (BitVec 8) := none
  know : Know := {}
  deriving DecidableEq, Repr

/-- One engine stream (R118 to R127, R376, R391). -/
structure Stream where
  running : Bool := false
  halted : Bool := false
  pc : Word := 0
  regs : FMap Reg := []
  rrb : BitVec 4 := 0
  lca : LoopRegs := {}
  lcb : LoopRegs := {}
  ftb : BitVec 4 := 0
  fe : Word := 1
  srctr : Word := 0
  cycle0 : Nat := 0
  q : FMap QReg := []
  templates : FMap (BitVec 256) := []
  staging : FMap (BitVec 256) := []
  tctx : Bool := false
  epc : Word := 0
  cause : Word := 0
  tval : Word := 0
  tvec : Word := 0
  tena : Word := 0
  imask : Word := 0
  ipend : Word := 0
  tcmp : Word := 0
  /-- The value of ss.cycle up to which no equality with ss.tcmp counts any more (R381). -/
  tcmpFrom : Nat := 0
  tsv0 : Word := 0
  tsv1 : Word := 0
  tsv2 : Word := 0
  tsv3 : Word := 0
  wait : Wait := .none
  landings : List Landing := []
  posted : List Posted := []
  /-- Tokens in the FIFOs from the left and from the right neighbour (R154). -/
  fromLeft : Nat := 0
  fromRight : Nat := 0
  /-- What happens before the push of each of those tokens (R181). -/
  leftKnow : List Know := []
  rightKnow : List Know := []
  /-- What happens before the stream's next instruction, and before its arrival at the rendezvous that it waits at (R181). -/
  know : Know := {}
  rdvzKnow : Know := {}
  /-- The stream's release points, the release sequences of which it has read a member, and the commands of each path that have
  completed (R182, R186). -/
  rels : List Nat := []
  seen : List SeqHead := []
  ended : List (Path × Nat) := []
  /-- Every published write whose number lies below viewBase, or in entered, is in the stream's view (R180). -/
  viewBase : Nat := 0
  entered : List Nat := []
  /-- The published writes that FENCX and HTAKE have guaranteed to the accesses of the stream's later commands, by path and number (R185,
  R187). -/
  reach : List (Path × Nat) := []
  /-- Rendezvous joined, of each kind (R162), and what happened before the RDVZ that waits, to which an abandoned one goes back (R381). -/
  rdvzTile : Nat := 0
  rdvzBlock : Nat := 0
  rdvzPrior : Know := {}
  /-- What the stream's last PHASE made certain for its fetch (R41): writes numbered below fetchBase, of those that entered the view
  the first fetchCount. -/
  fetchBase : Nat := 0
  fetchCount : Nat := 0
  /-- Instructions that the stream has retired, by which YLD sees that others have issued (R386). -/
  issued : Nat := 0
  cmds : List CmdRef := []
  tasks : List TaskObs := []
  /-- TOKEN_OVER reports of completion pushes not yet taken (R72). -/
  overDue : List Word := []
  /-- No-return atomics applied for the stream, by 64-byte line (R173). -/
  noReturn : FMap Nat := []
  /-- Fabric cycle of the last issue, or of the last end of a command if that was later (R35). -/
  lastIssue : Nat := 0
  watchdogPosted : Bool := false
  deriving DecidableEq, Repr

/-- A command as captured at issue (R73): template bits, rounding mode, format-table entry, SR base, and the
issuer with its context, job, stage and idempotent span. A command of a front-end node has fromFe set. -/
structure Cmd where
  id : Nat
  tmpl : BitVec 256
  rm : BitVec 3
  fte : Word
  srBase : Word := 0
  tile : Nat
  strm : Strm
  ctxn : Nat
  job : Nat := 0
  stage : Nat := 0
  idem : Bool := false
  span : Nat := 0
  lcaIdx : BitVec 32 := 0
  /-- The number of an operand-slot fill, 0 where the slot was not claimed (R264). -/
  fill : Nat := 0
  fromFe : Bool := false
  /-- The graph of the job or node (R389). -/
  gaddr : Nat := 0
  /-- What happens before the command's issue (R181). -/
  know : Know := {}
  /-- The published writes that are guaranteed to the command's reads: those numbered below base, and those in reach (R185, R187). -/
  base : Nat := 0
  reach : List Nat := []
  deriving DecidableEq, Repr

/-- A format marker (R112), with the number of the command that sent it, 0 for none (R113, R222). -/
structure Marker where
  fte : Word
  rm : BitVec 3
  srBase : Word
  tile : Nat
  strm : Strm
  cmd : Nat := 0
  deriving DecidableEq, Repr

/-- An item of a port or channel FIFO (R226). A snapshot marker takes no place. -/
inductive Item where
  | word (w : Line)
  | marker (m : Marker)
  | eos
  | snap
  deriving DecidableEq, Repr

/-- A port or channel FIFO, with the commands that feed it and that consume it, in acceptance order (R202). -/
structure Fifo where
  items : List Item := []
  feeders : List Nat := []
  takers : List Nat := []
  deriving DecidableEq, Repr

/-- The command that a stream slot runs (R190, R220): elements done, bytes gathered for or taken from the current
word, the layout record once read, survivors, whether its marker has been sent, and where a token that it has taken ends it
(R203). preds are predicate words that a replay takes before those of its port (R188). -/
structure ActiveCmd where
  cmd : Cmd
  k : Nat := 0
  buf : List Byte := []
  idx : List (BitVec 32) := []
  pred : Option Line := none
  preds : List Line := []
  limit : Option Nat := none
  record : Option (List Word) := none
  survivors : Nat := 0
  markerSent : Bool := false
  awaitEos : Bool := false
  finished : Bool := false
  deriving DecidableEq, Repr

/-- A halted unit's fault: cause, address, sub-reason (R220, R221). -/
structure Halt where
  cause : Cause
  addr : Nat
  sub : Nat := 0
  offered : Bool := false
  deriving DecidableEq, Repr

/-- A stream slot (R190, R210). A pending barrier names the SBAR that holds a place in the queue. -/
structure Slot where
  active : Option ActiveCmd := none
  pending : List Cmd := []
  halt : Option Halt := none
  range : Option (Nat × Nat) := none
  deriving DecidableEq, Repr

/-- A waiting SWT: its command and the numbers of the commands it waits for (R209). -/
structure SwtWait where
  cmd : Cmd
  awaits : List Nat
  deriving DecidableEq, Repr

/-- A pip: context, sender, and the payload that it may carry (R214, R218). -/
structure Pip where
  ctxn : Nat
  payload : Option Line := none
  know : Know := {}
  deriving DecidableEq, Repr

/-- A mesh port: the SPIP and SPRV commands it holds, the first of each active, with the commands that each SPIP waits for;
the pips sent, whether one is in flight, the pips received, and the receive buffer (R215, R216). -/
structure MeshPort where
  spip : List (Cmd × List Nat) := []
  spipSent : Nat := 0
  spipInFlight : Bool := false
  sprv : List Cmd := []
  sprvGot : Nat := 0
  recv : List Pip := []
  deriving DecidableEq, Repr

/-- Region types and states (R228, R251). -/
inductive RegionType where | ag | compute | reducer
  deriving DecidableEq, Repr

inductive RegionState where | unconfigured | stopped | running | racking | freezing | frozen | faulted
  deriving DecidableEq, Repr

/-- The running state of an operator group (R235, R239, R246, R249): held sticky words with the firings they
still serve (none for ever), q values by stage, firings, the last marker, and the words of a reducer's run. -/
structure GroupSt where
  held : FMap (Line × Option Nat) := []
  q : FMap Line := []
  fires : Nat := 0
  marker : Option Marker := none
  run : List Line := []
  deriving DecidableEq, Repr

/-- The running state of a converter stage (R112, R115, R116): marker, elements and words converted since it, bytes of the
unfinished words of the primary and secondary outputs, input scale bytes still to use, source bytes of an unfinished BPI
group, and the FIFO into stage 0 (R234). -/
structure ConvSt where
  marker : Option Marker := none
  n : Nat := 0
  words : Nat := 0
  out : List Byte := []
  sout : List Byte := []
  scales : List Byte := []
  elems : List Byte := []
  pipe : List Item := []
  deriving DecidableEq, Repr

/-- A write that a section keeps until it commits (R188): its physical address, whether its page is watched, the 64-bit address that
the access names, and its bytes. -/
structure SecWrite where
  phys : Nat
  watch : Bool := false
  at_ : Nat := 0
  bytes : List Byte
  deriving DecidableEq, Repr

/-- A section of an ORDERED-UPDATE node in flight (R188, R193): its command and slot, its first element, the lines that it has read
with the read signatures by bank, the writes buffered until it commits with the write signatures by bank, whether all its elements have
been handled, and the older sections with which it has conflicted. What a replay starts from: the element and the survivors there, and
the bytes, indices and predicate words used up since. -/
structure Section where
  owner : Cmd
  slot : Nat
  firstK : Nat
  reads : List Nat := []
  readSig : FMap (BitVec 256) := []
  writes : List SecWrite := []
  writeSig : FMap (BitVec 256) := []
  sealed : Bool := false
  hits : List (Nat × Nat) := []
  fromK : Nat
  data : List Byte := []
  idx : List (BitVec 32) := []
  preds : List Line := []
  survivors : Nat := 0
  deriving DecidableEq, Repr

/-- A region of a tile's array (R228 to R232, R251, R257): the configuration, the state, and what runs in it. -/
structure Region where
  state : RegionState := .unconfigured
  typ : RegionType := .ag
  cells : BitVec 8 := 0
  slots : BitVec 16 := 0
  mode : BitVec 2 := 0
  secLen : Nat := 0
  ngrp : Nat := 0
  iports : BitVec 16 := 0
  oports : BitVec 16 := 0
  chans : BitVec 16 := 0
  ipnar : BitVec 16 := 0
  opnar : BitVec 16 := 0
  cellRecs : FMap (List Word) := []
  idem : Bool := false
  span : Nat := 0
  spanStrm : Strm := .k
  kto : Bool := false
  isize : Nat := 0
  fcell : Nat := 15
  groups : FMap GroupSt := []
  convs : FMap ConvSt := []
  secNext : Nat := 0
  sections : List Section := []
  commits : Nat := 0
  squashes : Nat := 0
  /-- Whether the region ran before it was racked or frozen (R253, R260, R261). -/
  wasRunning : Bool := false
  /-- Cells whose group or converter is aligned in a kiln wave (R259): groups by number, converters by 16 + v. -/
  aligned : List Nat := []
  waveStart : Nat := 0
  waveByFe : Bool := false
  /-- The number of the image of a FROZEN region (R258). -/
  image : Nat := 0
  deriving DecidableEq, Repr

/-- What a kiln image holds of a region (R259): the region, the items of its ports and channels, and its slots. Programs
see it only as the number in the image's state section. -/
structure KilnImage where
  region : Region
  ips : FMap (List Item) := []
  ops : FMap (List Item) := []
  chs : FMap (List Item) := []
  slots : FMap Slot := []
  deriving DecidableEq, Repr

/-- The configuration unit's instruction in service (R253): the stream, the regions it waits for and those that have
settled, the regions that CFGLD will put in place, those that RACK releases at its end, whether a kiln wave is waited for, and where
KILN's images go, as translated before anything froze: L2 page, physical address and watch bit (R258); and the members of release
sequences that the read of CFGLD's image obtained (R182, R254). -/
structure CfgUnit where
  strm : Strm
  settle : List Nat
  settled : List Nat := []
  image : FMap Region := []
  release : List Nat := []
  kiln : Bool := false
  pages : FMap (Nat × Nat × Bool) := []
  seen : List SeqHead := []
  deriving DecidableEq, Repr

/-- The chain numbers of a tile (R271, R278): whether bound, the number of bindings made. -/
structure ChnSt where
  bound : Bool := false
  bindings : Nat := 0
  deriving DecidableEq, Repr

/-- A tile (R15): its four streams, format table, array and mesh ports, and what runs on it. -/
structure Tile where
  k : Stream := {}
  l : Stream := {}
  c : Stream := {}
  w : Stream := {}
  ft : FMap Word := []
  ips : FMap Fifo := []
  ops : FMap Fifo := []
  chs : FMap Fifo := []
  regions : FMap Region := []
  slots : FMap Slot := []
  barriers : List Cmd := []
  swts : List SwtWait := []
  mports : FMap MeshPort := []
  chns : FMap ChnSt := []
  cfg : Option CfgUnit := none
  job : Option Nat := none
  standing : Option Nat := none
  savedJobs : List Nat := []
  /-- The stream that issued last (R29). -/
  served : Strm := .w
  deriving DecidableEq, Repr

/-- An operand slot (R262, R263): the claiming tile and job, fills accepted and completed, fills that ended in a
fault, and whether it is draining. -/
structure OpSlot where
  claim : Option Nat := none
  job : Nat := 0
  facc : Nat := 0
  fdone : Nat := 0
  badFills : List Nat := []
  /-- Fills that ended before an earlier one did. -/
  early : List Nat := []
  draining : Bool := false
  deriving DecidableEq, Repr

/-- A chain instance's state (R279). -/
inductive ChainSt where | pending | opened | closing | full | draining | faulted
  deriving DecidableEq, Repr

/-- An epilogue record as EPIL copied it, with the stream that issued the EPIL (R282, R287). -/
structure EpiRec where
  words : List Word
  tile : Nat
  strm : Strm
  deriving DecidableEq, Repr

/-- A chain instance (R271, R278, R279). -/
structure Chain where
  tile : Nat
  chn : Nat
  gen : Nat
  job : Nat
  st : ChainSt
  acc : Bool
  eng : Nat := 0
  ent : Nat := 0
  placed : Bool := false
  closed : Bool := false
  discard : Bool := false
  epi : Option EpiRec := none
  closer : Option Cmd := none
  fault : BitVec 8 := 0
  /-- The command from which on the tasks of a FAULTED chain are cancelled (R281). -/
  faultId : Nat := 0
  idem : Bool := false
  span : Nat := 0
  strm : Strm := .k
  deriving DecidableEq, Repr

/-- A task record (R272): the captured command, the acceptance number, its chain, and the counts captured for the
slots that it reads (R264); once dispatched, the engine and the entry that its token reports (R278). -/
structure Task where
  cmd : Cmd
  seq : Nat
  tile : Nat
  chn : Nat
  gen : Nat
  caps : List (Nat × Nat)
  eng : Nat := 0
  ent : Nat := 0
  deriving DecidableEq, Repr

/-- What MMDL holds from its dispatch (R305 to R309): version seen, whether it refreshes, whether for the limit
alone, the rows changed, and the new X_prev and Y_prev. -/
structure MmdlSt where
  vd : BitVec 16
  refresh : Bool := false
  forced : Bool := false
  rows : List Nat := []
  xprev : List (BitVec 32) := []
  yprev : List (BitVec 48) := []
  deriving DecidableEq, Repr

/-- The task that an engine runs (R274), with the rows that its feeder has gathered (R277). -/
structure Running where
  task : Task
  rows : List (List Byte) := []
  result : Option (List (BitVec 48) × Bool) := none
  readDone : Bool := false
  mmdl : Option MmdlSt := none
  deriving DecidableEq, Repr

/-- A ring entry (R280): 4,096 accumulators and the saturation flag. -/
structure RingEntry where
  vals : List (BitVec 48) := []
  sat : Bool := false
  deriving DecidableEq, Repr

/-- A drain in progress (R284): the chain and the next row. -/
structure Drain where
  tile : Nat
  chn : Nat
  gen : Nat
  row : Nat := 0
  deriving DecidableEq, Repr

/-- A matrix engine (R14, R273, R280): inbox, running task, ring, and the drain of its epilogue engine. -/
structure Engine where
  inbox : List Task := []
  inboxMmdl : FMap MmdlSt := []
  run : Option Running := none
  ring : FMap RingEntry := []
  /-- Entries allocated, oldest first: the entry at the tail is the first (R280). -/
  alloc : List Nat := []
  next : Nat := 0
  drain : Option Drain := none
  deriving DecidableEq, Repr

/-- An MMDL whose write-back the reuse unit still performs (R309). -/
structure WriteBack where
  task : Task
  st : MmdlSt
  deriving DecidableEq, Repr

/-- A cluster (R14). -/
structure Cluster where
  handles : FMap Word := []
  /-- What happens before the HGIVE of a buffer, by the index of its entry (R181). -/
  handleKnow : FMap Know := []
  slots : FMap OpSlot := []
  taskq : List Task := []
  accSeq : Nat := 0
  chains : List Chain := []
  engines : FMap Engine := []
  writebacks : List WriteBack := []
  /-- The cask unit's commands (R313); whether the first has reached its entry and is still in progress there (R293, R319); the items
  that it has fed to a port and the words that it has yet to feed (R316); its halt. -/
  cask : List Cmd := []
  caskBegun : Bool := false
  caskSent : Nat := 0
  caskWords : List (BitVec 512) := []
  caskHalt : Option Halt := none
  /-- The reuse entries that the cluster caches, the last used first (R14, R293). -/
  rcache : List Nat := []
  deriving DecidableEq, Repr

/-- A reuse entry's kind (R294). -/
inductive RKind where | free | delta | step
  deriving DecidableEq, Repr

/-- A reuse entry (R294), with the distance that the last query recorded (R314). -/
structure REntry where
  pasid : BitVec 20 := 0
  ctxn : BitVec 12 := 0
  lid : BitVec 16 := 0
  ver : BitVec 16 := 0
  wseen : BitVec 16 := 0
  kind : RKind := .free
  valid : Bool := false
  busy : Bool := false
  stag : BitVec 16 := 0
  fte : BitVec 23 := 0
  wpages : BitVec 24 := 0
  wbase : BitVec 40 := 0
  ibin : BitVec 24 := 0
  obin : BitVec 24 := 0
  crows : BitVec 16 := 0
  xaddr : Word := 0
  yaddr : Word := 0
  e : BitVec 8 := 0
  t0 : BitVec 3 := 0
  p : BitVec 4 := 0
  nmax : BitVec 8 := 0
  use : BitVec 8 := 0
  theta : BitVec 32 := 0
  metric : Bool := false
  km1 : BitVec 2 := 0
  mmax : BitVec 4 := 0
  hrun : BitVec 4 := 0
  bval : BitVec 4 := 0
  lqv : BitVec 2 := 0
  qseen : Bool := false
  dist : BitVec 32 := 0
  verAtQuery : BitVec 16 := 0
  hit : BitVec 24 := 0
  miss : BitVec 24 := 0
  forced : BitVec 16 := 0
  rowsSkipped : BitVec 32 := 0
  bytesReplayed : BitVec 32 := 0
  /-- The keys of the commands for which the reuse unit has written the entry's regions (R298). -/
  writers : List Nat := []
  /-- Whether the entry, its watch bits already cleared, is scrubbed once the operation being applied at it is over (R298, R428). -/
  dropping : Bool := false
  deriving DecidableEq, Repr

/-- The command that a copy engine runs (R330, R331): its layout records once read, memory as it was when the elements began to
move, the whole source of a memmove once read, and elements done. -/
structure CopyRun where
  cmd : Cmd
  checked : Bool := false
  src : List Word := []
  dst : List Word := []
  before : Mem := []
  moved : Option (List Byte) := none
  k : Nat := 0
  halt : Option Halt := none
  deriving DecidableEq, Repr

/-- The command that a gather engine runs (R338 to R340): its descriptor once read, the rows complete, those of which the index entry has
been read ahead and those whose reads are on their way, each with the table row that its entry names, the rows of a GTHR whose data the
engine holds, the rows whose reductions are on their way, and those of which a reduction failed. -/
structure GatherRun where
  cmd : Cmd
  desc : Option (List Word) := none
  done : List Nat := []
  entries : List (Nat × Option Nat) := []
  reads : List (Nat × Option Nat) := []
  rows : List (Nat × List Byte) := []
  issued : List Nat := []
  bad : List Nat := []
  halt : Option Halt := none
  deriving DecidableEq, Repr

/-- A die's engines and their queues (R11, R320). descs holds, by command number, the table descriptor address of a
front-end gather. -/
structure Die where
  copyq : List Cmd := []
  gatherq : List Cmd := []
  copyEng : FMap CopyRun := []
  gatherEng : FMap GatherRun := []
  descs : FMap Nat := []
  cecnt : Word := 0
  uecnt : Word := 0
  deriving DecidableEq, Repr

/-- An access waiting at a memory port's write queue (R172): the operation, its word, the issuing stream, and the
register that awaits the old value (none for a no-return atomic). -/
inductive PortKind where
  | atomic (op : AtomicOp) (narrow : Bool) (v c : Word)
  | fadd32 (v : BitVec 32) (rm : BitVec 3) (u : BitVec 32)
  | fadd16 (v : BitVec 16) (rm : BitVec 3) (u : BitVec 32)
  | iadd (bytes : Nat) (v : Word)
  deriving DecidableEq, Repr

/-- One entry of a write queue (R172): physical address, near address, scope, and the reply's destination. cmd names
the gather command and row of a reduction. -/
structure PortOp where
  kind : PortKind
  addr : Nat
  near : Word
  tile : Nat
  strm : Strm
  scope : Scope
  path : Path
  dest : Option Nat := none
  gather : Option (Nat × Nat × Nat) := none
  watch : Bool := false
  heads : List Nat := []
  key : Nat := 0
  ctxn : Nat := 0
  deriving DecidableEq, Repr

/-- A WAITW that waits at its port (R163): the word, the condition, the bytes of it that the stream has stored and not
published (R145), and the value that satisfied a test, with the number of the first write after it; the address by which it was
reached, and its context (R384). -/
structure Watch where
  tile : Nat
  strm : Strm
  addr : Nat
  cc : Cc
  cmp : Word
  own : List (Nat × Byte) := []
  got : Option Word := none
  gotAt : Nat := 0
  near : Word := 0
  ctxn : Nat := 0
  deriving DecidableEq, Repr

/-- One published write of a byte, in coherence order (R177, R178): the widest scope at which it has been published, the key of
the command that made it, what a WAITW that returns it observes, and the release sequences that it belongs to (R181, R182). -/
structure WriteRec where
  id : Nat
  addr : Nat
  old : Byte
  new : Byte
  tile : Nat
  strm : Strm
  path : Path
  scope : Scope
  key : Nat := 0
  know : Know := {}
  seq : List SeqHead := []
  deriving DecidableEq, Repr

/-- A command that has ended and whose completion step is due (R72, R211). -/
structure Done where
  cmd : Cmd
  status : BitVec 8
  result : BitVec 40
  deriving DecidableEq, Repr

/-- A reply on its way to a queue register (R70, R158). -/
structure Reply where
  tile : Nat
  strm : Strm
  q : Nat
  word : Word
  job : Nat := 0
  know : Know := {}
  deriving DecidableEq, Repr

/-- A front-end command in the launch queue (R342). -/
inductive FeKind where
  | glnc (cmd : Cmd)
  | gnxt (cmd : Cmd)
  | garm (addr : Word)
  | gset (addr value : Word)
  | emit (ring : Nat) (record : List Byte)
  | sigh (value : Word)
  deriving DecidableEq, Repr

structure FeCmd where
  kind : FeKind
  tile : Nat
  strm : Strm
  job : Nat
  ctxn : Nat
  deriving DecidableEq, Repr

/-- A job bound to its block (R25, R361): its graph and node, its block, what its record names, and its idempotent spans as
tile, stream, first and last offset. ending is set once the job ends by TERMINATE (R390). -/
structure Job where
  ctxn : Nat
  qkey : Nat
  gid : Nat
  gaddr : Nat
  node : Nat
  prio : Nat := 0
  stage : Nat := 0
  tiles : List Nat
  wholeClusters : Bool := false
  args : List Word := []
  jimg : Nat := 0
  hreq : Nat := 0
  nhreq : Nat := 0
  hdst : Nat := 0
  started : Bool := false
  saved : Bool := false
  ending : Bool := false
  readySince : Nat := 0
  startedAt : Nat := 0
  spans : List (Nat × Strm × Nat × Nat) := []
  handles : List (Nat × Nat) := []
  gnxts : List FeCmd := []
  fault : BitVec 8 := 0
  deriving DecidableEq, Repr

/-- Scheduling classes (R37). -/
inductive QClass where | live | prompt | bulk | idle
  deriving DecidableEq, Repr

/-- A ready node (R355): its graph, its index, and the fabric cycle at which it became ready. -/
structure NodeRef where
  gid : Nat
  node : Nat
  since : Nat := 0
  deriving DecidableEq, Repr

/-- A queue control block (R348) with the queue's ready list. -/
structure Qcb where
  ctxn : Nat
  base : Nat
  eff : Nat := 0
  cls : QClass
  since : Nat := 0
  hsig : Word := 0
  sigint : Bool := false
  vec : Nat := 0
  fn : Nat := 0
  lmiss : Nat := 0
  sels : Nat := 0
  /-- The header of the graph launched last (R348). -/
  tailg : Nat := 0
  ready : List NodeRef := []
  deriving DecidableEq, Repr

/-- What a packet left behind that still owes its completion record (R345, R346): the channel, the packet's index, kind, tag
and CMPL bit, and for BIND and COPY the node or template image, the die and the table descriptor. -/
structure PktNode where
  chan : Nat
  idx : Nat
  pkind : Nat
  ptag : Nat
  cmpl : Bool
  addr : Nat := 0
  die : Nat := 0
  td : Nat := 0
  deriving DecidableEq, Repr

/-- An ACTIVE graph (R349, R355): its number, header address, context and queue, its header as the launch read it, its fault
with the sub-reason of a failed check, whether a record write of it has failed (R433), and the packet of a one-node graph. -/
structure Graph where
  gid : Nat
  gaddr : Nat
  ctxn : Nat
  qkey : Nat
  head : List Nat := []
  faulted : Bool := false
  fcode : BitVec 8 := 0
  fnode : Nat := 0
  fsub : Nat := 0
  lost : Bool := false
  pkt : Option PktNode := none
  /-- What happens before its completion word: the accesses of its nodes (R358). -/
  know : Know := {}
  deriving DecidableEq, Repr

/-- A launch with ORD = 1 that waits for earlier graphs of its queue (R355), with the packet or command that made it. -/
structure PendLaunch where
  gaddr : Nat
  ctxn : Nat
  qkey : Nat
  awaits : List Nat
  pkt : Option PktNode := none
  cmd : Option Cmd := none
  /-- The graph of the job whose GNXT it is (R359). -/
  from_ : Option Nat := none
  deriving DecidableEq, Repr

/-- The cask guard of a BIND node (R364), with the step that it was started for. -/
structure Guard where
  rent : Nat
  lid : Nat
  step : Nat
  etype : Nat
  iaddr : Nat
  oaddr : Nat
  deriving DecidableEq, Repr

/-- A BIND, COPY or GATHER node that has been bound (R363 to R365): its templates as read and checked at binding, the
commands that have not ended, its guard, how far it has come (0 bound, 1 query, 2 commands, 3 replay or capture), the verdict,
the fault that ends it, and whether its pre-emption has been deferred to its end (R38). -/
structure BoundNode where
  ref : NodeRef
  ctxn : Nat
  qkey : Nat
  kind : Nat
  tile : Nat := 0
  die : Nat := 0
  td : Nat := 0
  tmpls : List (BitVec 256) := []
  cmds : List Nat := []
  guard : Option Guard := none
  phase : Nat := 0
  sent : Nat := 0
  verdict : Nat := 0
  fault : BitVec 8 := 0
  prio : Nat := 0
  deferred : Bool := false
  /-- The place of the node's sink among its templates, the sink's command once issued, and whether it has taken its end-of-stream
  token (R25, R364). -/
  sink : Nat := 0
  sinkCmd : Nat := 0
  sunk : Bool := false
  /-- What happens before its completion (R181). -/
  know : Know := {}
  deriving DecidableEq, Repr

/-- A pre-emption in progress (R37, R38, R374): the victim, a job or else a bound BIND node, its tiles, and the node that it
is for with its queue. -/
structure Preempt where
  job : Option Nat := none
  node : NodeRef
  tiles : List Nat
  target : NodeRef
  qkey : Nat
  deriving DecidableEq, Repr

/-- A host output ring (R371). -/
structure HostRing where
  cidx : BitVec 32 := 0
  pidx : BitVec 32 := 0
  sinceIntr : Nat := 0
  firstAt : Option Nat := none
  lastReread : Nat := 0
  deriving DecidableEq, Repr

/-- A context's descriptor in force (R388): words c0 to c20, with the indices that the device keeps. -/
structure Ctx where
  words : List Word := []
  eqPidx : BitVec 32 := 0
  eqCi : BitVec 32 := 0
  dlPidx : BitVec 32 := 0
  /-- Dirty-range records deposited (R210). -/
  dlSeq : Word := 0
  dlOvf : BitVec 16 := 0
  totals : List Word := [0, 0, 0, 0, 0]
  deriving DecidableEq, Repr

/-- What waits for the response to a record (R390). -/
inductive Waiter where
  | none
  | trap (job tile : Nat) (strm : Strm)
  | slot (tile slot : Nat)
  | copy (die engine : Nat)
  | gather (die engine : Nat)
  | cask (cluster : Nat)
  | pip (job tile port : Nat)
  deriving DecidableEq, Repr

/-- An event record offered to the arbiter and not yet accepted (R36, R389): the fields of words v0 to v6. -/
structure Offer where
  ctxn : Nat
  code : BitVec 8
  src : Nat
  sub : Nat := 0
  resp : Bool := false
  inctx : Bool := false
  tag : BitVec 16 := 0
  tile : Nat := 0xFF
  stage : Nat := 0
  strm : Strm := .k
  die : Nat := 0
  unit : Nat := 0
  addr : Word := 0
  prog : Word := 0
  detail : Word := 0
  gaddr : Word := 0
  waiter : Waiter := .none
  deriving DecidableEq, Repr

/-- An accepted record whose source waits (R390). -/
structure WaitRec where
  ctxn : Nat
  fid : BitVec 32
  code : BitVec 8
  resume : Word
  waiter : Waiter
  deriving DecidableEq, Repr

/-- A translation held in a TLB (R398): the TLB, its context, whether it is of an L2 page, the first address it
covers, its size, and the leaf as walked. A write through a read-duplicated page always walks (R402). -/
structure TlbEntry where
  unit : TlbUnit
  ctxn : Nat
  l2 : Bool
  base : Nat
  size : Nat
  phys : Nat
  write : Bool
  watch : Bool
  dup : Bool := false
  deriving DecidableEq, Repr

/-- An upper-level table entry in the walk cache of a die (R398): its context, the virtual addresses that it serves, where it
lies, and its value. -/
structure WalkEntry where
  die : Nat
  ctxn : Nat
  base : Nat
  size : Nat
  addr : Nat
  val : Nat
  deriving DecidableEq, Repr

/-- A write to a read-duplicated page that waits for the collapse (R402), with the tile, stream, path and key of its unit. After the
collapse: the copy that was kept, the first address of the page, and where the write goes; the event follows it. -/
structure HeldWrite where
  ctxn : Nat
  va : Nat
  die : Nat
  tile : Nat
  strm : Strm
  path : Path
  key : Nat
  kept : Option (Nat × Nat × Nat) := none
  deriving DecidableEq, Repr

/-- A packet that has been taken and not finished (R343, R412): its words and its index. -/
structure Packet where
  words : List Word
  idx : Nat
  deriving DecidableEq, Repr

/-- A channel block and the indices that the device keeps (R410 to R414): the packet in progress, completion records not
written yet, and since when the first of them has waited for space. -/
structure Channel where
  rbase : Word := 0
  pasid : BitVec 20 := 0
  ectxn : BitVec 12 := 0
  en : Bool := false
  paused : Bool := false
  clog2 : BitVec 5 := 0
  rlog2 : BitVec 5 := 0
  cbase : Word := 0
  dciaddr : Word := 0
  cpiaddr : Word := 0
  hciaddr : Word := 0
  badcrc : BitVec 32 := 0
  mismatch : BitVec 16 := 0
  cien : Bool := false
  cvec : BitVec 11 := 0
  fn : Nat := 0
  block : Nat := 0
  chid : Nat := 0
  mapped : Bool := false
  pidx : BitVec 32 := 0
  dci : BitVec 32 := 0
  cpidx : BitVec 32 := 0
  hci : BitVec 32 := 0
  sinceRecon : Nat := 0
  packet : Option Packet := none
  outbox : List (List Byte) := []
  blockedAt : Option Nat := none
  deriving DecidableEq, Repr

/-- The BAR0 registers that belong to one function (R408). invreqWait holds, while GO of INVREQ reads 1, the value of INVADDR with which
the request was made. -/
structure FnRegs where
  ctxreqCtxn : BitVec 12 := 0
  ctxreqErr : Bool := false
  invreqCtxn : BitVec 12 := 0
  invreqKind : BitVec 3 := 0
  invreqErr : Bool := false
  invreqWait : Option Word := none
  invaddr : Word := 0
  err : Bool := false
  win : Word := 0
  deriving DecidableEq, Repr

/-- The package registers (R408), the clock and power state (R422). -/
structure PkgRegs where
  ctxbase : Word := 0
  qtbase : Word := 0
  qtS : BitVec 5 := 0
  qtHseed : BitVec 28 := 0
  pause : Bool := false
  pauseDone : Bool := false
  rtbase : Word := 0
  /-- The package number that the straps give (R408, assumption 3). -/
  pkgid : BitVec 10 := 0
  chmap : Word := 0
  clkreq : BitVec 12 := 3300
  clkcur : BitVec 12 := 3300
  capped : Bool := false
  limit : Option Nat := none
  fns : FMap FnRegs := []
  /-- The request to another package that gets no response (R416): the fabric cycle of the unit's access, and its line. -/
  linkLost : Option (Nat × Nat) := none
  deriving DecidableEq, Repr

/-- Boot, recovery and identity state (R418 to R421). -/
structure Boot where
  ready : Bool := false
  recovery : Bool := false
  bootB : Bool := false
  afail : Bool := false
  reason : BitVec 8 := 0
  cmdStatus : BitVec 8 := 0
  busy : Bool := false
  staged : List Byte := []
  mailbox : List Byte := []
  slotA : List Byte := []
  slotB : List Byte := []
  counter : BitVec 32 := 0
  sealOk : Bool := true
  measRom : BitVec 256 := 0
  measFw : BitVec 256 := 0
  measStrip : BitVec 256 := 0
  spdmVersion : Bool := false
  spdmCaps : Bool := false
  spdmAlgs : Bool := false
  deriving DecidableEq, Repr

/-- What leaves the device towards the host or a link: a completion of a read with its poison mark, an interrupt,
or an SPDM response. -/
inductive OutMsg where
  | readData (src : Nat) (bytes : List Byte) (poisoned : Bool)
  | msix (fn vec : Nat)
  | spdm (code : Nat) (payload : List Byte)
  | pip (pkg tile port : Nat) (p : Pip)
  deriving DecidableEq, Repr

/-- A pip in the Camnum mesh (R215). -/
structure PipMsg where
  job : Nat
  srcTile : Nat
  srcPort : Nat
  dstTile : Nat
  dstPort : Nat
  pip : Pip
  /-- Whether it came from another package (R216, R416). -/
  remote : Bool := false
  /-- The package that it goes to, where that is another one, and whether it waits there for the response to its record (R416). -/
  pkg : Option Nat := none
  halted : Bool := false
  deriving DecidableEq, Repr

/-- What a job-grain save holds of a cluster (R291, R319): queued tasks and cask commands, chain instances with their ring
entries, and claimed slots. -/
structure SavedCluster where
  cluster : Nat
  tasks : List Task := []
  chains : List (Chain × RingEntry) := []
  slots : FMap OpSlot := []
  cask : List Cmd := []
  deriving DecidableEq, Repr

/-- The front end (R341): the launch queue, jobs, queues with their table slots, graphs, the distributor, host output rings,
contexts, channels and the event arbiter. -/
structure FrontEnd where
  launchq : List FeCmd := []
  jobs : FMap Job := []
  nextJob : Nat := 1
  nextGraph : Nat := 1
  queues : FMap Qcb := []
  /-- Slots of the queue table that are not EMPTY: the key of a LIVE one, none for a TOMBSTONE (R347). -/
  qslots : FMap (Option Nat) := []
  /-- Queues whose QUEUE_DESTROY waits, with its packet (R348). -/
  destroying : List (Nat × PktNode) := []
  graphs : List Graph := []
  pending : List PendLaunch := []
  feReady : List NodeRef := []
  bound : List BoundNode := []
  /-- The queue served last at each level, plus 1 (R372). -/
  rr : FMap Nat := []
  rings : FMap HostRing := []
  ctxs : FMap Ctx := []
  channels : FMap Channel := []
  offers : List Offer := []
  waits : List WaitRec := []
  blockedEq : List Nat := []
  /-- LIVE nodes whose missed deadline has been counted (R374). -/
  liveMissed : List NodeRef := []
  /-- Units that a pre-emption has freed for a node (R374). -/
  reserved : List (Nat × NodeRef) := []
  /-- The pre-emption in progress, and the jobs whose pre-emption has been deferred to their end (R34, R374). -/
  preempt : Option Preempt := none
  deferred : List Nat := []
  /-- Save areas, by job: tiles, matrix state, and the bytes and poison of scratchpads and claimed slots (R291, R392). -/
  saves : FMap (List (Nat × Tile)) := []
  savedMx : FMap (List SavedCluster) := []
  savedMem : FMap Mem := []
  savedHandles : FMap (List (Nat × Nat × Word)) := []
  savedPoison : FMap (List Nat) := []
  /-- Copies and gathers of saved jobs, in acceptance order, with their progress, and pips not yet sent (R334, R340). -/
  savedCopies : FMap (List CopyRun) := []
  savedGathers : FMap (List GatherRun) := []
  /-- BIND nodes that a pre-emption has put back, each with its frozen tile and its queued cask commands (R319, R374). -/
  savedBinds : List (BoundNode × Tile × List Cmd) := []
  deriving DecidableEq, Repr

/-- Which agent moves next (model's own): a stream issues, a unit takes a step, a function's INVREQ that waits goes on, or cycles pass. -/
inductive Mover where
  | stream (tile : Nat) (strm : Strm)
  | event (i : Instr)
  | inval (fn : Nat)
  | tick (n : Nat)
  deriving DecidableEq, Repr

/-- The state of the machine. -/
structure State where
  /-- Core and fabric cycles since module reset (R142); fabRem carries the fraction. -/
  core : Nat := 0
  fab : Nat := 0
  fabRem : Nat := 0
  /-- The stream that exec acts for (model's own). -/
  curTile : Nat := 0
  curStrm : Strm := .k
  /-- The movers of the next steps (model's own). -/
  agenda : List Mover := []
  tiles : FMap Tile := []
  clusters : FMap Cluster := []
  dies : FMap Die := []
  mem : Mem := []
  /-- Poisoned 8-byte granules, by physical address divided by 8 (R404). -/
  poison : List Nat := []
  wlog : List WriteRec := []
  wnext : Nat := 0
  /-- Every release point, by number (R178). -/
  rels : FMap RelPt := []
  nextRel : Nat := 1
  ports : List PortOp := []
  watches : List Watch := []
  reuse : FMap REntry := []
  fe : FrontEnd := {}
  /-- Every TLB of the package, oldest entry first, and the walk caches (R398). -/
  tlb : List TlbEntry := []
  walks : List WalkEntry := []
  held : List HeldWrite := []
  done : List Done := []
  replies : List Reply := []
  mesh : List PipMsg := []
  images : FMap KilnImage := []
  nextCmd : Nat := 1
  nextImage : Nat := 1
  pkg : PkgRegs := {}
  boot : Boot := {}
  out : List OutMsg := []
  /-- Free values drawn so far (model's own). -/
  free : Nat := 0
  deriving DecidableEq, Repr

/-- The machine right after module reset (R4, R64, R105, R118, R226, R376, R408): no job runs, nothing is configured,
memory lists nothing, and every register holds its reset value. -/
def State.reset : State := {}

end Sys2Proof.Machine
end

