-- ==== Sys2Proof/Machine/Bits.lean ====
section
/-! DEFINITION. Bit fields, sign extension, byte order, and finite maps: the helpers that every unit uses. -/

namespace Sys2Proof.Machine

/-- Bits [hi:lo] of a number (R3). -/
def bitsN (x hi lo : Nat) : Nat := x / 2 ^ lo % 2 ^ (hi + 1 - lo)

/-- Bit i of a number. -/
def bitN (x i : Nat) : Bool := x / 2 ^ i % 2 == 1

/-- The two's-complement value of the low n bits of x. -/
def sextN (n x : Nat) : Int :=
  let y := x % 2 ^ n
  if 2 * y < 2 ^ n then (y : Int) else (y : Int) - 2 ^ n

/-- The low n bits of an integer. -/
def wrapI (n : Nat) (x : Int) : Nat := (x % 2 ^ n).toNat

/-- The value of a map at a key, or a default. -/
def mget {α : Type} (m : FMap α) (k : Nat) (d : α) : α :=
  match m with
  | [] => d
  | (j, v) :: rest => if j = k then v else mget rest k d

/-- The value of a map at a key, if it has one. -/
def mget? {α : Type} (m : FMap α) (k : Nat) : Option α :=
  match m with
  | [] => none
  | (j, v) :: rest => if j = k then some v else mget? rest k

/-- The map with a key's value replaced; a new key goes before the first larger one. -/
def mset {α : Type} (m : FMap α) (k : Nat) (v : α) : FMap α :=
  match m with
  | [] => [(k, v)]
  | (j, u) :: rest =>
    if j = k then (k, v) :: rest
    else if k < j then (k, v) :: (j, u) :: rest
    else (j, u) :: mset rest k v

/-- The map without a key. -/
def mdel {α : Type} (m : FMap α) (k : Nat) : FMap α := m.filter (fun p => p.1 != k)

/-- The little-endian number of a list of bytes (R3). -/
def leNat : List Byte → Nat
  | [] => 0
  | b :: bs => b.toNat + 256 * leNat bs

/-- The first n bytes of a number, little-endian (R3). -/
def leBytes : Nat → Nat → List Byte
  | 0, _ => []
  | n + 1, x => BitVec.ofNat 8 x :: leBytes n (x / 256)

/-- The n numbers from a on. -/
def span (a : Nat) : Nat → List Nat
  | 0 => []
  | n + 1 => a :: span (a + 1) n

/-- A number rounded up to a multiple of m. -/
def ceilDiv (a b : Nat) : Nat := (a + b - 1) / b

/-- The bits set in the low n bits of a mask, in ascending order. -/
def maskBits (n mask : Nat) : List Nat := (List.range n).filter (fun i => bitN mask i)

/-- Field [hi:lo] of a 256-bit template (R62). -/
def tf (t : BitVec 256) (hi lo : Nat) : Nat := bitsN t.toNat hi lo

/-- Field [hi:lo] of a 64-bit word. -/
def wf64 (w : Word) (hi lo : Nat) : Nat := bitsN w.toNat hi lo

/-- Lane i of a port word (R16). -/
def lane (w : Line) (i : Nat) : BitVec 32 := BitVec.ofNat 32 (w.toNat / 2 ^ (32 * i))

/-- A number from its pieces of n bits, lowest first. -/
def packN (n : Nat) : List Nat → Nat
  | [] => 0
  | x :: xs => x % 2 ^ n + 2 ^ n * packN n xs

/-- A port word from its sixteen lanes. -/
def ofLanes (ls : List (BitVec 32)) : Line := BitVec.ofNat 512 (packN 32 (ls.map (·.toNat)))

/-- The sixteen lanes of a port word. -/
def lanes (w : Line) : List (BitVec 32) := (List.range 16).map (lane w)

/-- A port word from its bytes, lowest first (R201). -/
def lineOfBytes (bs : List Byte) : Line := BitVec.ofNat 512 (leNat bs)

/-- The 64 bytes of a port word. -/
def lineBytes (w : Line) : List Byte := leBytes 64 w.toNat

/-- The list with element i replaced. -/
def lset {α : Type} : List α → Nat → α → List α
  | [], _, _ => []
  | _ :: xs, 0, v => v :: xs
  | x :: xs, n + 1, v => x :: lset xs n v

/-- The list without element i. -/
def ldrop {α : Type} : List α → Nat → List α
  | [], _ => []
  | _ :: xs, 0 => xs
  | x :: xs, n + 1 => x :: ldrop xs n

/-- The stream index of R100 and the stream codes of R126. -/
def sidx : Strm → Nat
  | .k => 0
  | .l => 1
  | .c => 2
  | .w => 3

/-- The stream of an index. -/
def strmOf (n : Nat) : Strm :=
  match n % 4 with
  | 0 => .k
  | 1 => .l
  | 2 => .c
  | _ => .w

/-- The left neighbour in the ring K, L, C, W (R27). -/
def leftOf : Strm → Strm
  | .k => .w
  | .l => .k
  | .c => .l
  | .w => .c

/-- The right neighbour in the ring (R27). -/
def rightOf : Strm → Strm
  | .k => .l
  | .l => .c
  | .c => .w
  | .w => .k

/-- Cause codes (R377). -/
def causeCode : Cause → Nat
  | .illegal => 0x01
  | .priv => 0x02
  | .align => 0x03
  | .accessPath => 0x04
  | .nearBounds => 0x05
  | .owner => 0x06
  | .emptyReg => 0x07
  | .qunder => 0x08
  | .qover => 0x09
  | .tokenOver => 0x0A
  | .template => 0x0B
  | .layout => 0x0C
  | .page => 0x0D
  | .poison => 0x0E
  | .config => 0x0F
  | .spmeta => 0x10
  | .slot => 0x11
  | .ring => 0x12
  | .reuse => 0x13
  | .copyOverlap => 0x14
  | .graph => 0x15
  | .channel => 0x16
  | .kilnTimeout => 0x17
  | .watchdog => 0x18
  | .trap => 0x20
  | .brk => 0x21
  | .intr => 0x22
  | .collapse => 0x23

/-- A cause's code as the 8-bit status of a reply (R70). -/
def causeByte (c : Cause) : BitVec 8 := BitVec.ofNat 8 (causeCode c)

/-- The die, cluster and place in its cluster of a global tile (R9). -/
def tileCluster (t : Nat) : Nat := t / 8
def tileIn (t : Nat) : Nat := t % 8
def tileDie (t : Nat) : Nat := t / 48
def clusterDie (c : Nat) : Nat := c / 6

/-- Outcomes of this machine. -/
abbrev Out := Host.Outcome State Fault Refusal

/-- An element put into a list that rises by a measure, behind those of the same measure. -/
def insertBy {α : Type} (f : α → Nat) (x : α) : List α → List α
  | [] => [x]
  | y :: ys => if f x < f y then x :: y :: ys else y :: insertBy f x ys

/-- A list in rising order of a measure; those of one measure keep their order. -/
def sortBy {α : Type} (f : α → Nat) (xs : List α) : List α := xs.foldl (fun acc x => insertBy f x acc) []

end Sys2Proof.Machine
end

