-- ==== Sys2Proof/Machine/Mem.lean ====
section
/-! DEFINITION. Memory: bytes by physical address in canonical form, poison by granule (R404), and the log of published
writes from which a stream's view is formed (R177, R178). -/

namespace Sys2Proof.Machine

/-- What a byte that nothing has written reads as. DESIGN CHOICE, unsafe (assumption 2): the spec gives memory no contents
after reset. -/
def memDefault : Byte := 0

/-- The byte at an address. -/
def memGet (m : Mem) (x : Nat) : Byte :=
  match m with
  | [] => memDefault
  | (a, b) :: rest => if a = x then b else if x < a then memDefault else memGet rest x

/-- Memory with one byte written, in canonical form. -/
def memPut (m : Mem) (x : Nat) (v : Byte) : Mem :=
  match m with
  | [] => if v = memDefault then [] else [(x, v)]
  | (a, b) :: rest =>
    if x = a then (if v = memDefault then rest else (a, v) :: rest)
    else if x < a then (if v = memDefault then (a, b) :: rest else (x, v) :: (a, b) :: rest)
    else (a, b) :: memPut rest x v

/-- Every address of a list lies above a bound, and addresses rise; no listed byte is the default. -/
def memSorted (lo : Nat) : Mem → Bool
  | [] => true
  | (a, b) :: rest => decide (lo ≤ a) && decide (b ≠ memDefault) && memSorted (a + 1) rest

/-- The canonical form of memory. -/
def Memory.wf (m : Mem) : Bool := memSorted 0 m

/-- The n bytes at an address. -/
def memRead (m : Mem) (x : Nat) : Nat → List Byte
  | 0 => []
  | n + 1 => memGet m x :: memRead m (x + 1) n

/-- Memory with consecutive bytes written. -/
def memWrite (m : Mem) (x : Nat) : List Byte → Mem
  | [] => m
  | b :: bs => memWrite (memPut m x b) (x + 1) bs

/-- Where each memory lies in the one list of bytes. Spaces 00, 01 and 10 lie at their physical addresses (R394);
space 11, which R394 reserves, holds L2, the tile scratchpads and operand memory, which have no physical address. -/
def l2Base (die : Nat) : Nat := 3 * 2 ^ 54 + die * 2 ^ 27
def scratchBase (tile : Nat) : Nat := 3 * 2 ^ 54 + 2 ^ 40 + tile * 2 ^ 19
def operandBase (cluster : Nat) : Nat := 3 * 2 ^ 54 + 2 ^ 41 + cluster * 2 ^ 21

/-- The die whose memory holds a physical address (R432, R11). Host and remote memory are reached through die 0. -/
def dieOfAddr (p : Nat) : Nat :=
  if p < 2 ^ 54 then p / (192 * 2 ^ 30) % 4
  else if p < 3 * 2 ^ 54 then 0
  else if p < 3 * 2 ^ 54 + 2 ^ 40 then (p - 3 * 2 ^ 54) / 2 ^ 27 % 4
  else if p < 3 * 2 ^ 54 + 2 ^ 41 then tileDie ((p - 3 * 2 ^ 54 - 2 ^ 40) / 2 ^ 19)
  else clusterDie ((p - 3 * 2 ^ 54 - 2 ^ 41) / 2 ^ 21)

/-- Who writes: the tile and stream that an access is located at, its path, and the scope at which it is published
(R174, R178); the key of its command, what a WAITW that returns the written word observes (R181), the release points of the
stream before it, and whether it is an RMW (R182). An agent that lies on no tile has a tile number above 191: 0x200 + d for the
front-end strip on die d, 0xFF for a node's engine command, 0x100 + d for a MESH agent or a host write on die d (R174, R176). -/
structure Agent where
  tile : Nat
  strm : Strm
  path : Path
  scope : Scope
  key : Nat := 0
  know : Know := {}
  heads : List Nat := []
  rmw : Bool := false
  deriving DecidableEq, Repr

/-- The last write of a byte in coherence order (R177). -/
def lastWrite (s : State) (p : Nat) : Option WriteRec := (s.wlog.filter (·.addr == p)).getLast?

/-- The release sequences that a write belongs to (R182): those that its own stream's earlier release points head, and, for an
RMW, those of the write that it follows in coherence order. An RMW heads and continues them within its own scope. -/
def seqOf (s : State) (g : Agent) (p : Nat) : List SeqHead :=
  let own : List (Scope × Nat) := if g.rmw then [(g.scope, g.tile)] else []
  let older : List SeqHead := if g.rmw then ((lastWrite s p).map (·.seq)).getD [] else []
  g.heads.map (fun i => { rel := i, limits := own }) ++ older.map fun h => { h with limits := h.limits ++ own }

/-- Whether the granule of an address is poisoned (R404). -/
def poisonedAt (s : State) (p : Nat) : Bool := s.poison.contains (p / 8)

/-- Whether a span of bytes meets poison. -/
def spanPoisoned (s : State) (p n : Nat) : Bool :=
  s.poison.any (fun g => decide (g * 8 < p + n) && decide (p < g * 8 + 8))

/-- The bytes of a span as the port of its memory holds them (R184). -/
def readAt (s : State) (p n : Nat) : List Byte := memRead s.mem p n

/-- A little-endian number read at the port. -/
def readNat (s : State) (p n : Nat) : Nat := leNat (readAt s p n)

/-- The record of a byte written over an old one by an agent. -/
def recordOf (s : State) (g : Agent) (p : Nat) (old v : Byte) : WriteRec :=
  { id := s.wnext, addr := p, old := old, new := v, tile := g.tile, strm := g.strm, path := g.path, scope := g.scope, key := g.key,
    know := g.know, seq := seqOf s g p }

/-- One byte written at the port and logged in coherence order (R177). -/
def putByte (s : State) (g : Agent) (p : Nat) (v : Byte) : State :=
  { s with
    wlog := s.wlog ++ [recordOf s g p (memGet s.mem p) v]
    wnext := s.wnext + 1
    mem := memPut s.mem p v }

/-- Whether a byte has been written since write number n. -/
def writtenSince (s : State) (n p : Nat) : Bool := s.wlog.any fun w => w.addr == p && decide (n ≤ w.id)

/-- A byte written before the writes of it from number n on in coherence order (R177): memory keeps what those have left. -/
def putBelow (s : State) (g : Agent) (n p : Nat) (v : Byte) : State :=
  let below (w : WriteRec) : Bool := !(w.addr == p && decide (n ≤ w.id))
  match s.wlog.dropWhile below with
  | [] => s
  | w :: rest =>
    { s with wlog := s.wlog.takeWhile below ++ recordOf s g p w.old v :: { w with old := v } :: rest
             wnext := s.wnext + 1 }

/-- Consecutive bytes written at the port. -/
def putBytes (s : State) (g : Agent) (p : Nat) : List Byte → State
  | [] => s
  | b :: bs => putBytes (putByte s g p b) g (p + 1) bs

/-- A die's correctable-error counter raised by n (R403, R404). -/
def countScrub (s : State) (die n : Nat) : State :=
  let d := mget s.dies die {}
  { s with dies := mset s.dies die { d with cecnt := d.cecnt + BitVec.ofNat 64 n } }

/-- The poison of one granule before a write of the span [p, p + n): a whole granule is cleared; of one that the span covers in part,
the other bytes are zeroed, and it is cleared and counted as a scrub (R404). -/
def scrubGranule (s : State) (g : Agent) (p n gr : Nat) : State :=
  if decide (p ≤ gr * 8) && decide (gr * 8 + 8 ≤ p + n) then
    { s with poison := s.poison.filter (· != gr) }
  else
    let rest := (span (gr * 8) 8).filter fun a => !(decide (p ≤ a) && decide (a < p + n))
    let t := rest.foldl (fun t a => putByte t g a 0) s
    countScrub { t with poison := t.poison.filter (· != gr) } (dieOfAddr p) 1

/-- The poisoned granules that a span touches. -/
def poisonIn (s : State) (p n : Nat) : List Nat :=
  s.poison.filter (fun g => decide (g * 8 < p + n) && decide (p < g * 8 + 8))

/-- WAITW's condition on a word (R163). -/
def ccHolds (cc : Cc) (w b : Word) : Bool :=
  match cc with
  | .eq => w == b
  | .ne => w != b
  | .geu => decide (b.toNat ≤ w.toNat)
  | .ltu => decide (w.toNat < b.toNat)

/-- The word that a WAITW tests (R145, R163, R184): the bytes that the port holds, but for those that the stream itself has
stored and not published, which are its latest writes to them. -/
def watchWord (m : Mem) (own : List (Nat × Byte)) (p : Nat) : Word :=
  BitVec.ofNat 64 (leNat ((span p 8).map fun x => (mget? own x).getD (memGet m x)))

/-- A waiting WAITW tested after a write of [p, p + n) to its word (R163): the first value that satisfies it is kept. The write has
cleared the poison of the word's granule (R404), so this test meets none. -/
def retest (m : Mem) (next p n : Nat) (x : Watch) : Watch :=
  if x.got.isSome || !(decide (x.addr < p + n) && decide (p < x.addr + 8)) then x
  else
    let w := watchWord m x.own x.addr
    if ccHolds x.cc w x.cmp then { x with got := some w, gotAt := next } else x

/-- A write at the port (R404, R163): poison that the span meets is cleared, the bytes are written, and the WAITWs that
wait on them are tested. -/
def writeAt (s : State) (g : Agent) (p : Nat) (bs : List Byte) : State :=
  let t := putBytes ((poisonIn s p bs.length).foldl (fun t gr => scrubGranule t g p bs.length gr) s) g p bs
  { t with watches := t.watches.map (retest t.mem t.wnext p bs.length) }

/-- A number of n bytes written at the port. -/
def writeNat (s : State) (g : Agent) (p n x : Nat) : State := writeAt s g p (leBytes n x)

/-- The strips of the front end by their function, each on the die of its number (R11, R341): channels and the queue table, graphs,
the distributor, and events with host output rings. -/
def channelStrip : Nat := 0
def graphStrip : Nat := 1
def bindStrip : Nat := 2
def eventStrip : Nat := 3

/-- The agent of the front end's strip on a die (R174). -/
def feAgent (d : Nat) : Agent := { tile := 0x200 + d, strm := .k, path := .front, scope := .system }

end Sys2Proof.Machine
end

