-- ==== Sys2Proof/Machine/Translate.lean ====
section
/-! DEFINITION. Translation of L2 pages and of virtual addresses (R394 to R401), and the versions that a write through a
watched translation raises (R302). -/

namespace Sys2Proof.Machine

/-- A word of a context's descriptor in force (R388). -/
def ctxWord (s : State) (ctxn i : Nat) : Word := (mget s.fe.ctxs ctxn {}).words.getD i 0

/-- A context's PASID (R388). -/
def ctxPasid (s : State) (ctxn : Nat) : Nat := wf64 (ctxWord s ctxn 0) 63 44

/-- The outcome of a translation: a physical address with its watch bit, a PAGE fault with its sub-reason, or, for a
write, a read-duplicated page with the addresses of its leaf and of its duplicate record (R395, R402). -/
inductive Xl where
  | ok (phys : Nat) (watch : Bool)
  | fault (sub : Nat)
  | dup (leaf rec : Nat)
  deriving DecidableEq, Repr

/-- Whether a physical address fits the layout of R394: the package of space 10 is one of the domain. -/
def physOk (p : Nat) : Bool :=
  match p / 2 ^ 54 with
  | 0 => decide (p % 2 ^ 54 < Config.hbmBytes)
  | 1 => true
  | 2 => Config.inDomain (bitsN p 53 44) && decide (p % 2 ^ 44 < Config.hbmBytes)
  | _ => false

/-- Whether an address lies in local HBM4, as every table must (R394). -/
def localOk (p : Nat) : Bool := decide (p < Config.hbmBytes)

/-- Reserved bits of a page-table entry; a table entry holds no watch, duplicate or write bit (R396). -/
def pteReserved (e : Nat) : Bool :=
  bitsN e 61 56 != 0 || bitsN e 7 4 != 0 || bitN e 2 || (!bitN e 1 && (bitN e 63 || bitN e 62 || bitN e 3))

/-- The copy of a read-duplicated page that a die reads (R401): COPYd when HOLD names it, else the copy of HOME. -/
def dupCopy (s : State) (rec die : Nat) : Nat :=
  let u4 := readNat s (rec + 32) 8
  readNat s (rec + 8 * (if bitN u4 die then die else bitsN u4 5 4)) 8

/-- A leaf found by a walk: a page of the given size (R395, R401). A page whose record has COLL set is written as an
ordinary page (R402). -/
def leafOf (s : State) (die va e eaddr size : Nat) (write : Bool) : Xl :=
  let p := bitsN e 55 8 * 2 ^ 8
  if write && !bitN e 3 then .fault 2
  else if bitN e 62 then
    if !localOk p then .fault 3
    else if write && !bitN (readNat s (p + 32) 8) 8 then .dup eaddr p
    else
      let c := dupCopy s p die
      if physOk c && c % size == 0 then .ok (c + va % size) (bitN e 63) else .fault 3
  else if !physOk p || p % size != 0 then .fault 3
  else .ok (p + va % size) (bitN e 63)

/-- The table entry of a context that the walk on a die for an access of a key reads at an address: one that the die's walk cache
holds for it, or the one in memory (R398, R399). -/
def pteAt (s : State) (ctxn die : Nat) (key : List Nat) (a : Nat) : Nat :=
  match s.walks.find? fun w => w.die == die && w.ctxn == ctxn && w.addr == a with
  | some w => if Config.useHeld (a :: key) then w.val else readNat s a 8
  | none => readNat s a 8

/-- The levels of a walk that remain: index of the entry and page size of a leaf, 0 where no leaf may stand (R395). -/
def walkFrom (s : State) (ctxn die : Nat) (key : List Nat) (va t : Nat) (write : Bool) : List (Nat × Nat) → Xl
  | [] => .fault 3
  | (i, size) :: rest =>
    if !localOk t then .fault 3
    else
      let e := pteAt s ctxn die key (t + 8 * i)
      if !bitN e 0 then .fault 1
      else if pteReserved e || (bitN e 1 && size == 0) || (!bitN e 1 && rest.isEmpty) then .fault 3
      else if bitN e 1 then leafOf s die va e (t + 8 * i) size write
      else walkFrom s ctxn die key va (bitsN e 55 8 * 2 ^ 8) write rest

/-- The indices of a virtual address at the four levels, each with the size of a leaf there (R395). -/
def vaLevels (va : Nat) : List (Nat × Nat) :=
  [(bitsN va 55 39, 0), (bitsN va 38 30, 2 ^ 30), (bitsN va 29 21, 2 ^ 21), (bitsN va 20 16, 2 ^ 16)]

/-- The walk of R395, for an access of a key. -/
def walkVa (s : State) (ctxn die : Nat) (key : List Nat) (va : Nat) (write : Bool) : Xl :=
  walkFrom s ctxn die key va (ctxWord s ctxn 2).toNat write (vaLevels va)

/-- The die that an agent lies on (R174, R176): that of its tile, of the front-end strip, or of the MESH agent. An engine command of a
front-end node, which no stream has issued, lies with the strip that binds it. DESIGN CHOICE, unsafe (assumption 148). -/
def placeDie (t : Nat) : Nat := if t < 192 then tileDie t else if 0x200 ≤ t then t - 0x200 else if 0x100 ≤ t then t - 0x100 else bindStrip

/-- The die whose walkers serve a unit, and the cluster whose second-level TLB does, if any (R398). A die engine's is the first
cluster of its die; the front end's walks are taken to run on die 0 (assumption 148). -/
def unitDie : TlbUnit → Nat
  | .core t => tileDie t
  | .slot t _ => tileDie t
  | .copy d _ => d
  | .gather d _ => d
  | .second c => clusterDie c
  | .front => channelStrip

def unitCluster : TlbUnit → Option Nat
  | .core t => some (tileCluster t)
  | .slot t _ => some (tileCluster t)
  | .copy d _ => some (6 * d)
  | .gather d _ => some (6 * d)
  | .second c => some c
  | .front => none

/-- How many translations a TLB holds (R398, R219). -/
def unitRoom : TlbUnit → Nat
  | .core _ => 32
  | .slot _ _ => 8
  | .copy _ _ => 64
  | .gather _ _ => 64
  | .second _ => 2048
  | .front => 0

/-- The cache of upper-level entries of a die (R398). -/
def walkRoom : Nat := 1024

/-- The walk of the L2 page table (R397): the physical base of the page. -/
def walkL2 (s : State) (ctxn page : Nat) (write : Bool) : Xl :=
  if wf64 (ctxWord s ctxn 4) 15 0 ≤ page then .fault 4
  else if !localOk (ctxWord s ctxn 3).toNat then .fault 3
  else
    let e := readNat s ((ctxWord s ctxn 3).toNat + 8 * page) 8
    if !bitN e 0 then .fault 1
    else if bitsN e 62 29 != 0 || bitsN e 15 3 != 0 || bitN e 1 || bitsN e 26 16 == 2047 then .fault 3
    else if write && !bitN e 2 then .fault 2
    else .ok (l2Base (bitsN e 28 27) + bitsN e 26 16 * 2 ^ 16) (bitN e 63)

/-- A translation that a TLB holds for an address of a context. -/
def heldIn (s : State) (u : TlbUnit) (ctxn : Nat) (l2 : Bool) (a : Nat) : Option TlbEntry :=
  s.tlb.find? fun e => e.unit == u && e.ctxn == ctxn && e.l2 == l2 && decide (e.base ≤ a) && decide (a < e.base + e.size)

/-- The translation that serves an access of a unit (R398): that of its own TLB, or, on a miss, of the second-level TLB. -/
def tlbFind (s : State) (u : TlbUnit) (ctxn : Nat) (l2 : Bool) (a : Nat) : Option TlbEntry :=
  (heldIn s u ctxn l2 a).or ((unitCluster u).bind fun c => heldIn s (.second c) ctxn l2 a)

/-- A unit, an address and a direction as numbers: with the core cycle, what one access is told from another by (R399). -/
def accessKey (s : State) (u : TlbUnit) (a : Nat) (write : Bool) : List Nat :=
  let w := if write then 1 else 0
  match u with
  | .core t => [s.core, a, w, 0, t]
  | .slot t n => [s.core, a, w, 1, t, n]
  | .copy d e => [s.core, a, w, 2, d, e]
  | .gather d e => [s.core, a, w, 3, d, e]
  | .second c => [s.core, a, w, 4, c]
  | .front => [s.core, a, w, 5]

/-- An access of a key: by the held translation, or by a walk. While the entry in memory has changed, either may be used, and the
choice is made anew for each access (R399). A write through a read-duplicated page walks (R402). -/
def xlWith (key : List Nat) (e : Option TlbEntry) (a : Nat) (write : Bool) (walk : Xl) : Xl :=
  match e with
  | some x =>
    if (x.dup && write) || !Config.useHeld key then walk
    else if write && !x.write then .fault 2
    else .ok (x.phys + (a - x.base)) x.watch
  | none => walk

/-- Translation of the page of an L2 address (R397 to R399): the physical address of the page. -/
def xlL2 (s : State) (u : TlbUnit) (ctxn a : Nat) (write : Bool) : Xl :=
  let page := a / 2 ^ 16
  xlWith (accessKey s u (3 * 2 ^ 56 + a) write) (tlbFind s u ctxn true page) page write (walkL2 s ctxn page write)

/-- Translation of a virtual address (R395, R398, R399). An address with bits above 55 set has none. -/
def xlVa (s : State) (u : TlbUnit) (ctxn va : Nat) (write : Bool) : Xl :=
  let key := accessKey s u va write
  xlWith key (tlbFind s u ctxn false va) va write (walkVa s ctxn (unitDie u) key va write)

/-- The regions of a reuse entry as addresses and lengths (R294, R295, R302). -/
def entryRegions (e : REntry) : List (Nat × Nat) :=
  match e.kind with
  | .free => []
  | .delta => [(e.wbase.toNat * 2 ^ 16, e.wpages.toNat * 2 ^ 16), (e.xaddr.toNat, 32768), (e.yaddr.toNat, 24576)]
  | .step =>
    [(e.xaddr.toNat, 64 * e.ibin.toNat * (e.km1.toNat + 1)), (e.yaddr.toNat, 64 * e.obin.toNat * (e.km1.toNat + 1))]

/-- The physical address of a byte of virtual space or of L2, as a walk of the tables in memory gives it, with the entry's WATCH. -/
def physOf (s : State) (ctxn die a : Nat) : Option (Nat × Bool) :=
  let x := if a / 2 ^ 56 = 3 then walkL2 s ctxn (bitsN a 31 16) false else walkVa { s with walks := [] } ctxn die [] a false
  match x with
  | .ok p w => some (if a / 2 ^ 56 = 3 then p + a % 2 ^ 16 else p, w)
  | _ => none

/-- The physical spans of the region of n bytes at address a, page by page; watched asks for the pages alone whose entry has WATCH. -/
def regionSpans (s : State) (ctxn a n : Nat) (watched : Bool := false) : List (Nat × Nat) :=
  (List.range (ceilDiv (a % 2 ^ 16 + n) (2 ^ 16))).filterMap fun i =>
    let pg := a / 2 ^ 16 * 2 ^ 16 + i * 2 ^ 16
    let lo := max a pg
    let hi := min (a + n) (pg + 2 ^ 16)
    (physOf s ctxn 0 lo).bind fun q => if watched && !q.2 then none else some (q.1, hi - lo)

/-- A version raise (R302): VER rises, and a DELTA entry's VAL is cleared. -/
def raiseEntry (e : REntry) : REntry :=
  { e with ver := e.ver + 1, valid := if e.kind = .delta then false else e.valid }

/-- The bytes of memory that a write of bs at p changes: those that it gives another value, and those of a poisoned granule that it
covers in part, which are zeroed (R404). -/
def changedBy (s : State) (p : Nat) (bs : List Byte) : List Nat :=
  let zeroed := (poisonIn s p bs.length).flatMap fun g =>
    (span (8 * g) 8).filter fun a => !(decide (p ≤ a) && decide (a < p + bs.length)) && memGet s.mem a != 0
  ((bs.zipIdx.filter fun (b, i) => memGet s.mem (p + i) != b).map fun (_, i) => p + i) ++ zeroed

/-- Whether one of some bytes lies in a region of an entry. -/
def entryHit (s : State) (e : REntry) (changed : List Nat) (watched : Bool := false) : Bool :=
  (entryRegions e).any fun r => (regionSpans s e.ctxn.toNat r.1 r.2 watched).any fun (q, n) =>
    changed.any fun b => decide (q ≤ b) && decide (b < q + n)

/-- The raises of one write through a watched translation that changes some bytes (R302): each entry one of whose regions
holds such a byte is raised once. but names the entry whose own write-back this is. A write that enters from outside carries a
physical address: watched asks, for each region's page, whether its entry has WATCH. -/
def raiseSpan (s : State) (changed : List Nat) (but : Option Nat := none) (watched : Bool := false) : State :=
  if changed.isEmpty then s
  else { s with reuse := s.reuse.map fun (i, e) => if some i != but && entryHit s e changed watched then (i, raiseEntry e) else (i, e) }

end Sys2Proof.Machine
end

