-- ==== Sys2Proof/Machine/Ops.lean ====
section
/-! DEFINITION. The named operations on streams: who acts, tokens, taking a trap and delivering it, issue, retirement and
loop-back, results that land later, and the publication and acquisition of writes. -/

namespace Sys2Proof.Machine

/-! Tiles and streams. -/

def tileOf (s : State) (t : Nat) : Tile := mget s.tiles t {}

def setTile (s : State) (t : Nat) (x : Tile) : State := { s with tiles := mset s.tiles t x }

/-- A stream of a tile (R27). -/
def streamIn (t : Tile) (sk : Strm) : Stream :=
  match sk with
  | .k => t.k
  | .l => t.l
  | .c => t.c
  | .w => t.w

def withStream (t : Tile) (sk : Strm) (x : Stream) : Tile :=
  match sk with
  | .k => { t with k := x }
  | .l => { t with l := x }
  | .c => { t with c := x }
  | .w => { t with w := x }

def strmAt (s : State) (t : Nat) (sk : Strm) : Stream := streamIn (tileOf s t) sk

def setStrm (s : State) (t : Nat) (sk : Strm) (x : Stream) : State := setTile s t (withStream (tileOf s t) sk x)

/-- The stream that exec acts for. -/
def cur (s : State) : Stream := strmAt s s.curTile s.curStrm

def setCur (s : State) (x : Stream) : State := setStrm s s.curTile s.curStrm x

/-- The job of a tile, and its context, stage and graph (R25, R361). -/
def jobOf (s : State) (t : Nat) : Option Job := (tileOf s t).job.bind (mget? s.fe.jobs)

/-- The context of a tile: that of its job, or the one that it stands for (R361, R362). -/
def ctxnOf (s : State) (t : Nat) : Nat :=
  match jobOf s t with
  | some j => j.ctxn
  | none => (tileOf s t).standing.getD 0

def stageOf (s : State) (t : Nat) : Nat := ((jobOf s t).map (·.stage)).getD 0

def gaddrOf (s : State) (t : Nat) : Nat := ((jobOf s t).map (·.gaddr)).getD 0

/-- The stochastic-rounding key of a tile's context (R99, R388). -/
def srKey (s : State) (t : Nat) : Word := ctxWord s (ctxnOf s t) 1

def clusterOf (s : State) (c : Nat) : Cluster := mget s.clusters c {}

def setCluster (s : State) (c : Nat) (x : Cluster) : State := { s with clusters := mset s.clusters c x }

/-- Draws a free value (R4): the state with the counter advanced, and the value. -/
def drawFree (s : State) : State × Word := ({ s with free := s.free + 1 }, Config.freeWord s.free)

/-! Event records. -/

/-- Offers a record to the event arbiter (R36, R389). -/
def offer (s : State) (o : Offer) : State := { s with fe := { s.fe with offers := s.fe.offers ++ [o] } }

/-- The fields of a record that a stream's tile and job give (R389). -/
def offerFor (s : State) (t : Nat) (sk : Strm) (c : Cause) (src : Nat) : Offer :=
  { ctxn := ctxnOf s t, code := causeByte c, src := src, tile := t, stage := stageOf s t, strm := sk, die := tileDie t,
    gaddr := BitVec.ofNat 64 (gaddrOf s t) }

/-! Taking a trap (R378 to R380). -/

/-- The stream in its trap context (R378): ss.epc, ss.cause and ss.tval are written and the handler's first word is next.
Nothing else changes. -/
def enterTrap (st : Stream) (c : Cause) (tval resume : Word) : Stream :=
  { st with epc := resume, cause := BitVec.ofNat 64 (causeCode c), tval := tval, tctx := true, pc := st.tvec,
            wait := .none }

/-- Whether a cause is taken in the trap context (R378). -/
def takenInContext (st : Stream) (c : Cause) : Bool := !st.tctx && st.tena.getLsbD (causeCode c)

/-- The sub-reason of a trap (R389): CONFIG and REUSE hold it in their tval (R250, R296); PAGE's is its own (R395, R397). -/
def trapSub (c : Cause) (tval : Word) (sub : Nat) : Nat := if c = .config ∨ c = .reuse then wf64 tval 7 0 else sub

/-- A trap delivered to the system (R380): the stream stops at the boundary and a record with RESP = 1 is offered. -/
def deliverTrap (s : State) (t : Nat) (sk : Strm) (c : Cause) (tval resume : Word) (sub : Nat := 0) : State :=
  let st := strmAt s t sk
  offer (setStrm s t sk { st with pc := resume, wait := .response })
    { offerFor s t sk c 0 with
        resp := true, sub := trapSub c tval sub, inctx := st.tctx, addr := resume, detail := tval
        waiter := .trap ((tileOf s t).job.getD 0) t sk }

/-- A WAITW that waits is abandoned (R163, R381). -/
def dropWatch (s : State) (t : Nat) (sk : Strm) : State :=
  { s with watches := s.watches.filter (fun x => !(x.tile == t && x.strm == sk)) }

/-- A region that is no longer racked or frozen returns to the state it had (R253, R260). -/
def unhold (r : Region) : Region :=
  if r.state = .racking ∨ r.state = .freezing then
    { r with state := if r.wasRunning then .running else .stopped, aligned := [] }
  else r

/-- The items of a FIFO without snapshot markers (R260). -/
def noSnap (xs : List Item) : List Item := xs.filter (· != .snap)

/-- The snapshot markers of a region's ports, channels and converters vanish (R260). -/
def clearSnaps (t : Tile) (n : Nat) : Tile :=
  let r := mget t.regions n {}
  let fix (mask : BitVec 16) (m : FMap Fifo) : FMap Fifo :=
    m.map fun (i, f) => if mask.getLsbD i then (i, { f with items := noSnap f.items }) else (i, f)
  let convs := r.convs.map fun (v, c) => (v, { c with pipe := noSnap c.pipe })
  { t with ips := fix r.iports t.ips, chs := fix r.chans t.chs, regions := mset t.regions n { r with convs := convs } }

/-- A racking or a kiln wave on a region of a tile is abandoned (R253, R260). -/
def abandonRegion (t : Tile) (n : Nat) : Tile :=
  let r := mget t.regions n {}
  if r.state = .racking then { t with regions := mset t.regions n (unhold r) }
  else if r.state = .freezing && !r.waveByFe then
    let t1 := clearSnaps t n
    { t1 with regions := mset t1.regions n (unhold (mget t1.regions n {})) }
  else t

/-- The configuration unit drops the instruction of a stream that leaves it (R253). -/
def abandonCfg (s : State) (t : Nat) (sk : Strm) : State :=
  let x := tileOf s t
  match x.cfg with
  | some u => if u.strm = sk then setTile s t { u.settle.foldl abandonRegion x with cfg := none } else s
  | none => s

/-- Whether a stream waits at a KILN of which a region has been read out: the instruction then completes before anything
else is taken (R253). -/
def cfgCommitted (s : State) (t : Nat) (sk : Strm) : Bool :=
  match (tileOf s t).cfg with
  | some u => u.strm == sk && u.kiln && !u.settled.isEmpty
  | none => false

/-- take(cause, tval, resume) of R378 for a stream of a tile, of a sub-reason. -/
def takeTrapAt (s : State) (t : Nat) (sk : Strm) (c : Cause) (tval resume : Word) (sub : Nat := 0) : State :=
  let s1 := abandonCfg (dropWatch s t sk) t sk
  let st := strmAt s1 t sk
  if takenInContext st c then setStrm s1 t sk (enterTrap st c tval resume) else deliverTrap s1 t sk c tval resume sub

/-- take(cause, tval, resume) for the current stream. -/
def takeTrap (s : State) (c : Cause) (tval resume : Word) (sub : Nat := 0) : State :=
  takeTrapAt s s.curTile s.curStrm c tval resume sub

/-- The return from the trap context (R379): ss.pc <- ss.epc, then TCTX <- 0. -/
def leaveTrap (st : Stream) : Stream := { st with pc := st.epc, tctx := false }

/-- The bits of a token field (R45). -/
def tkWL (tk : BitVec 4) : Bool := tk.getLsbD 3
def tkWR (tk : BitVec 4) : Bool := tk.getLsbD 2
def tkSL (tk : BitVec 4) : Bool := tk.getLsbD 1
def tkSR (tk : BitVec 4) : Bool := tk.getLsbD 0

/-- A stream without its arrival at a rendezvous of a kind: the tokens that the RDVZ popped are back in their FIFOs, and it has not
joined. DEDUCED, unsafe (assumption 12): what the arrival has published stays published, and a token whose place a later push has taken
is not put back, since a FIFO is 8 deep (R154). -/
def unjoin (st : Stream) (block : Bool) (tk : BitVec 4) : Stream :=
  let l := if tkWL tk && decide (st.fromLeft < 8) then [st.know] else []
  let r := if tkWR tk && decide (st.fromRight < 8) then [st.know] else []
  { st with wait := .none, know := st.rdvzPrior
            fromLeft := st.fromLeft + l.length, leftKnow := l ++ st.leftKnow
            fromRight := st.fromRight + r.length, rightKnow := r ++ st.rightKnow
            rdvzTile := if block then st.rdvzTile else st.rdvzTile - 1
            rdvzBlock := if block then st.rdvzBlock - 1 else st.rdvzBlock }

/-- A waiting instruction is abandoned at a boundary (R381): nothing of it has taken effect. -/
def abandon (st : Stream) : Stream :=
  match st.wait with
  | .rdvz b tk => unjoin st b tk
  | _ => st

/-- Whether a stream sleeps, so that its next boundary lies after the sleep (R386). -/
def asleep (st : Stream) : Bool :=
  match st.wait with
  | .sleepUntil _ _ => true
  | .sleepIntr _ => true
  | _ => false

/-- A TOKEN_OVER of a completion push that is due is taken at the stream's instruction boundary, which abandons a waiting
instruction (R72). While the stream waits for a response, or sleeps, there is no boundary. -/
def takeOverDue (s : State) (t : Nat) (sk : Strm) : State :=
  let st := strmAt s t sk
  match st.overDue with
  | [] => s
  | v :: rest =>
    if st.halted || !st.running || st.wait == .response || asleep st || cfgCommitted s t sk then s
    else takeTrapAt (setStrm s t sk { abandon st with overDue := rest }) t sk .tokenOver v st.pc

/-! What happens before what (R181). -/

/-- What happens before either of two points. -/
def kmerge (a b : Know) : Know :=
  { rels := a.rels ++ b.rels.filter (fun i => !a.rels.contains i), cmds := a.cmds ++ b.cmds.filter (fun i => !a.cmds.contains i) }

/-- A stream after an event that what k names happens before. -/
def learn (st : Stream) (x : Know) : Stream := { st with know := kmerge st.know x }

/-- The key of a command's own accesses, and of those that its drain or its write-back makes after the task has completed
(R288, R309). -/
def ownKey (id : Nat) : Nat := 2 * id
def lateKey (id : Nat) : Nat := 2 * id + 1

/-- What happens before an event that observes the completion of a command (R181). -/
def doneKnow (c : Cmd) : Know := kmerge c.know { cmds := [ownKey c.id] }

/-! Tokens (R154 to R157). -/

/-- Tokens that a stream may pop from a side; right selects the right neighbour. -/
def tokens (st : Stream) (right : Bool) : Nat := if right then st.fromRight else st.fromLeft

/-- Tokens popped: their pushes happen before the pop (R181). -/
def popTokens (st : Stream) (right : Bool) (n : Nat) : Stream :=
  if right then
    learn { st with fromRight := st.fromRight - n, rightKnow := st.rightKnow.drop n } ((st.rightKnow.take n).foldl kmerge {})
  else learn { st with fromLeft := st.fromLeft - n, leftKnow := st.leftKnow.drop n } ((st.leftKnow.take n).foldl kmerge {})

/-- Tokens added to a stream's FIFO from the left or from the right neighbour. -/
def addTokens (st : Stream) (right : Bool) (n : Nat) (x : Know) : Stream :=
  if right then { st with fromRight := st.fromRight + n, rightKnow := st.rightKnow ++ List.replicate n x }
  else { st with fromLeft := st.fromLeft + n, leftKnow := st.leftKnow ++ List.replicate n x }

/-- The neighbour on a side (R27). -/
def neighbour (sk : Strm) (right : Bool) : Strm := if right then rightOf sk else leftOf sk

/-- Tokens already in the FIFO that a stream pushes on a side: they wait at the neighbour's opposite side. -/
def pushedTokens (s : State) (t : Nat) (sk : Strm) (right : Bool) : Nat :=
  tokens (strmAt s t (neighbour sk right)) (!right)

/-- Pushes n tokens to a side without a test of room. -/
def pushN (s : State) (t : Nat) (sk : Strm) (right : Bool) (n : Nat) : State :=
  let o := neighbour sk right
  setStrm s t o (addTokens (strmAt s t o) (!right) n (strmAt s t sk).know)

/-- One push (R155): the state and whether the FIFO was full, in which case nothing is pushed. -/
def pushOne (s : State) (t : Nat) (sk : Strm) (right : Bool) : State × Bool :=
  if pushedTokens s t sk right < 8 then (pushN s t sk right 1, false) else (s, true)

/-- The SL and SR pushes of a retiring instruction, and which of them failed (R156). -/
def pushBits (s : State) (t : Nat) (sk : Strm) (sl sr : Bool) : State × Bool × Bool :=
  let (s1, fl) := if sl then pushOne s t sk false else (s, false)
  let (s2, fr) := if sr then pushOne s1 t sk true else (s1, false)
  (s2, fl, fr)

/-- ss.tval of a failed instruction push (R156). -/
def overTval (fl fr : Bool) : Word := BitVec.ofNat 64 ((if fl then 2 else 0) + (if fr then 1 else 0))

/-! Issue. -/

/-- Why an instruction does not issue: it waits, or it traps with a cause, a value and a sub-reason (R44, R389). -/
inductive Stop where
  | stall
  | trap (c : Cause) (tval : Word) (sub : Nat := 0)
  deriving DecidableEq, Repr

abbrev Chk := Except Stop

/-- A check that traps when its condition fails. -/
def need (ok : Bool) (c : Cause) (tval : Word) : Chk Unit := if ok then .ok () else .error (.trap c tval)

/-- A condition that the instruction waits for (R29). -/
def waitFor (ok : Bool) : Chk Unit := if ok then .ok () else .error .stall

/-- Whether a stream may issue at all: it runs, has not halted, and no wait holds it (R29, R162, R380, R386). -/
def canIssue (st : Stream) : Bool := st.running && !st.halted && st.wait == .none

/-- An instruction of the current stream: it completes, waits with nothing changed, or traps at its own offset. -/
def issue (s : State) (m : Chk State) : Out :=
  if canIssue (cur s) then
    match m with
    | .ok t => .next t
    | .error .stall => .next s
    | .error (.trap c v sub) => .next (takeTrap s c v (cur s).pc sub)
  else .next s

/-- The tokens that WL and WR need are present (R45). -/
def tokensReady (st : Stream) (tk : BitVec 4) : Chk Unit :=
  waitFor ((!tkWL tk || decide (0 < st.fromLeft)) && (!tkWR tk || decide (0 < st.fromRight)))

/-- The WL and WR pops of an issuing instruction (R45, R155). -/
def popBits (st : Stream) (tk : BitVec 4) : Stream :=
  let a := if tkWL tk then popTokens st false 1 else st
  if tkWR tk then popTokens a true 1 else a

/-! Retirement and hardware loops (R150). -/

/-- One pass of a loop at its last word: the loop after it, and whether it goes back. -/
def loopPass (l : LoopRegs) : LoopRegs × Bool :=
  if 1 < l.cnt.toNat then ({ l with idx := l.idx + 1, cnt := l.cnt - 1 }, true)
  else ({ l with idx := l.idx + 1, cnt := 0, act := false }, false)

/-- Whether the word at ss.pc is the END of an active loop. -/
def loopHit (l : LoopRegs) (pc : Word) : Bool := l.act && l.last.zeroExtend 64 == pc

/-- lca or lcb with its pass counted; ss.pc moves to START when the loop goes back. -/
def passA (st : Stream) : Stream × Bool :=
  let (l, back) := loopPass st.lca
  (if back then { st with lca := l, pc := l.start.zeroExtend 64 } else { st with lca := l }, back)

def passB (st : Stream) : Stream × Bool :=
  let (l, back) := loopPass st.lcb
  (if back then { st with lcb := l, pc := l.start.zeroExtend 64 } else { st with lcb := l }, back)

/-- The next word after one that sets no ss.pc of its own: the loop-back of R150, or the following word. In the trap
context no loop goes back (R378). -/
def nextSeq (st : Stream) : Stream :=
  let fall (x : Stream) : Stream := { x with pc := st.pc + 4 }
  if st.tctx then fall st
  else
    match loopHit st.lca st.pc, loopHit st.lcb st.pc with
    | false, false => fall st
    | true, false => let (x, b) := passA st; if b then x else fall x
    | false, true => let (x, b) := passB st; if b then x else fall x
    | true, true =>
      if st.lcb.start.toNat ≤ st.lca.start.toNat then
        let (x, b) := passA st
        if b then x else let (y, c) := passB x; if c then y else fall y
      else
        let (x, b) := passB st
        if b then x else let (y, c) := passA x; if c then y else fall y

/-- Where an instruction goes on: at the next word, subject to R150, or at a target of its own. -/
inductive Flow where
  | seq
  | jump (target : Word)
  deriving DecidableEq, Repr

/-- The pushes of a retired instruction; a failed push raises TOKEN_OVER at the boundary that follows (R156). -/
def pushRetired (s : State) (t : Nat) (sk : Strm) (sl sr : Bool) : State :=
  let (s1, fl, fr) := pushBits s t sk sl sr
  if fl || fr then takeTrapAt s1 t sk .tokenOver (overTval fl fr) (strmAt s1 t sk).pc else s1

/-- Retirement of an instruction of a stream: the next ss.pc, then its SL and SR pushes (R28, R41, R150). -/
def retireAt (s : State) (t : Nat) (sk : Strm) (tk : BitVec 4) (f : Flow) : State :=
  let st := strmAt s t sk
  let st1 := match f with
    | .seq => nextSeq st
    | .jump p => { st with pc := p }
  pushRetired (setStrm s t sk
    { st1 with lastIssue := s.fab, watchdogPosted := false, issued := st1.issued + 1 }) t sk (tkSL tk) (tkSR tk)

/-- Retirement of an instruction of the current stream. -/
def retire (s : State) (tk : BitVec 4) (f : Flow) : State := retireAt s s.curTile s.curStrm tk f

/-! Results that land later (R119, R129, R130). -/

/-- Whether a result is still to land in a physical register. -/
def landPending (st : Stream) (p : Nat) : Bool := st.landings.any (fun l => l.phys == p) && p != 0

/-- The physical register that a field names (R123). -/
def physReg (st : Stream) (r : BitVec 5) : Nat :=
  if r.toNat < 16 then r.toNat else 16 + (r.toNat - 16 + st.rrb.toNat) % 16

def regAt (st : Stream) (p : Nat) : Reg := mget st.regs p {}

def setReg (st : Stream) (p : Nat) (r : Reg) : Stream := { st with regs := mset st.regs p r }

/-- A result written to a physical register: it becomes full and loses its poison mark; g0 discards it (R46, R118, R122). -/
def putPhys (st : Stream) (p : Nat) (v : Word) : Stream := if p = 0 then st else setReg st p { val := v }

/-- A result written to g[r]. -/
def putReg (st : Stream) (r : BitVec 5) (v : Word) : Stream := putPhys st (physReg st r) v

/-- The full bit of a physical register cleared (R119). -/
def clearFull (st : Stream) (p : Nat) : Stream :=
  if p = 0 then st else setReg st p { regAt st p with full := false, poison := none }

/-- Whether no division of a stream waits to land (R130). -/
def divisionsLanded (st : Stream) : Bool := st.landings.all fun l => l.kind != .division

/-- A result of g[r] that lands later. A load or a division leaves the register empty until then; a fixed latency does not
(R119). -/
def landLater (st : Stream) (r : BitVec 5) (v : Word) (kind : LandKind) (poison : Option Word := none) : Stream :=
  let p := physReg st r
  let st1 := if kind = .fixed ∨ kind = .own then st else clearFull st p
  { st1 with landings := st1.landings ++ [{ phys := p, val := v, poison := poison, kind := kind }] }

/-- Landing n of a stream arrives in its register (R119, R121, R122). -/
def landNow (st : Stream) (n : Nat) : Stream :=
  match st.landings[n]? with
  | none => st
  | some l =>
    let st1 := { st with landings := ldrop st.landings n }
    if l.phys = 0 then st1 else setReg st1 l.phys { val := l.val, full := true, poison := l.poison }

/-! Scopes and the consistency model (R174 to R186). -/

def scopeNum : Scope → Nat
  | .tile => 0
  | .cluster => 1
  | .die => 2
  | .package => 3
  | .domain => 4
  | .system => 5

/-- Whether one scope contains another (R175). -/
def scopeGe (a b : Scope) : Bool := decide (scopeNum b ≤ scopeNum a)

/-- Whether two agents lie in one instance of a scope, by their tile numbers (R174 to R176). -/
def sameInst (sc : Scope) (t u : Nat) : Bool :=
  match sc with
  | .tile => t == u
  | .cluster => tileCluster t == tileCluster u
  | .die => placeDie t == placeDie u
  | _ => true

/-- The narrower of two scopes. -/
def scopeMin (a b : Scope) : Scope := if scopeGe a b then b else a

/-- Whether a logged write is the stream's own. -/
def ownWrite (t : Nat) (sk : Strm) (w : WriteRec) : Bool := w.tile == t && w.strm == sk && w.path == .core

/-- Whether a logged write stands in a stream's view (R180). -/
def inView (t : Nat) (sk : Strm) (st : Stream) (w : WriteRec) : Bool :=
  decide (w.id < st.viewBase) || st.entered.contains w.id || ownWrite t sk w

/-- A byte by the writes logged for it: as the latest of those that a test passes leaves it, or the value that the earliest one
replaced. -/
def viewBy (p : WriteRec → Bool) (ws : List WriteRec) (now : Byte) : Byte :=
  match (ws.filter p).getLast? with
  | some w => w.new
  | none =>
    match ws with
    | [] => now
    | w :: _ => w.old

/-- The byte of a stream's view by the writes logged for it (R180). -/
def viewOf (t : Nat) (sk : Strm) (st : Stream) (ws : List WriteRec) (now : Byte) : Byte := viewBy (inView t sk st) ws now

/-- The bytes that a stream's own unpublished stores give a span: for a byte, the latest store over it. -/
def postedByte (ps : List Posted) (p : Nat) : Option Byte :=
  match (ps.filter (fun x => decide (x.addr ≤ p) && decide (p < x.addr + x.bytes.length))).getLast? with
  | some x => x.bytes[p - x.addr]?
  | none => none

/-- The release sequences that a near load of a span obtains members of (R182): those of the writes that it returns. -/
def seqRead (s : State) (t : Nat) (sk : Strm) (p n : Nat) : List SeqHead :=
  let st := strmAt s t sk
  (span p n).flatMap fun x =>
    if (postedByte st.posted x).isSome then []
    else (((s.wlog.filter (fun w => w.addr == x)).filter (inView t sk st)).getLast?.map (·.seq)).getD []

/-- A stream after a read that obtained members of release sequences. -/
def noteSeen (st : Stream) (hs : List SeqHead) : Stream := { st with seen := st.seen ++ hs.filter (fun h => !st.seen.contains h) }

/-- A byte as a near load of the stream sees it (R180): own stores, then the view, then memory. -/
def loadByte (s : State) (t : Nat) (sk : Strm) (own : Bool) (p : Nat) : Byte :=
  let st := strmAt s t sk
  let ps := if own then st.posted else []
  match postedByte ps p with
  | some b => b
  | none => viewOf t sk st (s.wlog.filter (fun w => w.addr == p)) (memGet s.mem p)

/-- The bytes of a span as a stream's near load sees them. -/
def loadBytes (s : State) (t : Nat) (sk : Strm) (own : Bool) (p n : Nat) : List Byte :=
  (span p n).map (loadByte s t sk own)

/-- Whether a near load of the stream meets poison: a byte of a poisoned granule that no unpublished store of its own covers. -/
def loadPoison (s : State) (t : Nat) (sk : Strm) (p n : Nat) : Bool :=
  (span p n).any fun x => poisonedAt s x && (postedByte (strmAt s t sk).posted x).isNone

/-- The scope recorded for the performance of a posted store is at least s. -/
def performedAt (x : Posted) (sc : Scope) : Bool :=
  match x.performed with
  | none => false
  | some p => scopeGe p sc

/-- A store written at its port that a TLBI has placed before the writes from number n on (R384): a byte that has been written since is
co-earlier (R177). -/
def writePlaced (n : Nat) (g : Agent) (s : State) (x : Nat × Byte) : State :=
  if writtenSince s n x.1 then putBelow s g n x.1 x.2 else writeAt s g x.1 [x.2]

/-- Where a store has its place before other writes of some of its bytes, the number of the first of those (R384). -/
def placeOf (s : State) (x : Posted) : Option Nat := x.placed.filter fun n => (span x.addr x.bytes.length).any (writtenSince s n)

/-- One unpublished store written at its port, with the versions that it still has to raise (R302). -/
def publishOne (t : Nat) (sk : Strm) (sc : Scope) (s : State) (x : Posted) : State :=
  let g : Agent := { tile := t, strm := sk, path := .core, scope := sc, heads := x.heads }
  let raised (hit : Nat → Bool) : State := if x.watch then raiseSpan s ((changedBy s x.addr x.bytes).filter hit) else s
  match placeOf s x with
  | none => writeAt (raised fun _ => true) g x.addr x.bytes
  | some n => ((span x.addr x.bytes.length).zip x.bytes).foldl (writePlaced n g) (raised fun p => !writtenSince s n p)

/-- A stream's own writes of a span of addresses that were published at a narrower scope are published at this one too
(R169, R178, R179). -/
def widen (s : State) (t : Nat) (sk : Strm) (sc : Scope) (p : Nat → Bool) : State :=
  { s with wlog := s.wlog.map fun w => if ownWrite t sk w && p w.addr && !scopeGe w.scope sc then { w with scope := sc } else w }

/-- Publication at a scope of a stream's earlier writes to the addresses of a test, in program order (R178): those that it still
holds, and those that a narrower publication has made. A store counts when one of its bytes passes. -/
def publishIf (s : State) (t : Nat) (sk : Strm) (sc : Scope) (p : Nat → Bool) : State :=
  let st := strmAt s t sk
  let hit (x : Posted) : Bool := x.bytes.isEmpty || (span x.addr x.bytes.length).any p
  let s1 := widen ((st.posted.filter hit).foldl (publishOne t sk sc) s) t sk sc p
  let st1 := strmAt s1 t sk
  setStrm s1 t sk { st1 with posted := st1.posted.filter (fun x => !hit x) }

/-- A release point of a stream at a scope (R178): its earlier writes, or those of a span, are published, and the point is noted, with the
path to which a FENCX publishes them (R186). -/
def releaseIn (s : State) (t : Nat) (sk : Strm) (sc : Scope) (sp : Option (Nat × Nat)) (q : Option Path := none) : State :=
  let p (a : Nat) : Bool := match sp with
    | some (b, n) => decide (b ≤ a) && decide (a < b + n)
    | none => true
  let s1 := publishIf s t sk sc p
  let st := strmAt s1 t sk
  let x : Know := { st.know with rels := st.know.rels ++ [s1.nextRel] }
  let r : RelPt := { tile := t, strm := sk, scope := sc, upto := s1.wnext, know := x, span := sp, toPath := q }
  setStrm { s1 with rels := mset s1.rels s1.nextRel r, nextRel := s1.nextRel + 1 } t sk
    { st with know := x, rels := st.rels ++ [s1.nextRel] }

/-- A release point that publishes every earlier write of a stream (R178). -/
def publish (s : State) (t : Nat) (sk : Strm) (sc : Scope) (q : Option Path := none) : State := releaseIn s t sk sc none q

/-- Whether the release sequence that a stream of tile t has read a member of is valid for it, so that its head synchronises with an
acquire point of scope sc (R182). -/
def seqValid (s : State) (t : Nat) (sc : Scope) (h : SeqHead) : Option RelPt :=
  (mget? s.rels h.rel).filter fun r =>
    sameInst (scopeMin r.scope sc) r.tile t && h.limits.all fun (z, u) => scopeGe z r.scope || sameInst z u t

/-- What happens before an acquire point of scope sc (R181, R182). -/
def knowAt (s : State) (t : Nat) (sk : Strm) (sc : Scope) : Know :=
  let st := strmAt s t sk
  (st.seen.filterMap (seqValid s t sc)).foldl (fun x r => kmerge x r.know) st.know

/-- Whether a release point covers a CORE write and is valid for an acquire point of scope sc on tile t (R183). -/
def covers (t : Nat) (sc : Scope) (r : RelPt) (w : WriteRec) : Bool :=
  r.tile == w.tile && r.strm == w.strm && decide (w.id < r.upto) && sameInst r.scope r.tile t && sameInst sc r.tile t
    && (match r.span with
      | some (b, n) => decide (b ≤ w.addr) && decide (w.addr < b + n)
      | none => true)

/-- Whether an acquire point of scope sc on tile t, before which x happens, makes a logged write certain (R183, R185): a CORE write
by a release point, an engine's write when its command's accesses happen before. Writes of the front end and from outside the
package, whose order no event of a program tells, count as happening before it. -/
def certain (s : State) (t : Nat) (sc : Scope) (x : Know) (w : WriteRec) : Bool :=
  if w.path = .core then x.rels.any fun i => (mget? s.rels i).any fun r => covers t sc r w
  else sameInst sc w.tile t && (w.key == 0 || x.cmds.contains w.key)

/-- Whether a logged write is one that an acquire point of scope sc by the stream of tile t makes certain for a path, or, with none,
for every path. -/
def acquirable (s : State) (t : Nat) (sc : Scope) (x : Know) (path : Option Path) (w : WriteRec) : Bool :=
  (path.isNone || path == some w.path) && certain s t sc x w

/-- Writes enter a stream's view. -/
def enter (st : Stream) (ids : List Nat) : Stream := { st with entered := st.entered ++ ids.filter (fun i => !st.entered.contains i) }

/-- The writes of a path, or of every path, and of a span where one is given, that an acquire point before which x happens makes
certain. -/
def certainIds (s : State) (t : Nat) (sc : Scope) (x : Know) (path : Option Path) (sp : Option (Nat × Nat)) : List Nat :=
  let inSp (w : WriteRec) : Bool := match sp with
    | some (b, n) => decide (b ≤ w.addr) && decide (w.addr < b + n)
    | none => true
  (s.wlog.filter fun w => inSp w && acquirable s t sc x path w).map (·.id)

/-- An acquire point (R183, R185): the writes of a path, and of a span where one is given, that it makes certain enter the stream's
view. -/
def acquireIn (s : State) (t : Nat) (sk : Strm) (sc : Scope) (path : Option Path) (sp : Option (Nat × Nat)) : State :=
  let x := knowAt s t sk sc
  setStrm s t sk (enter { strmAt s t sk with know := x } (certainIds s t sc x path sp))

/-- Writes guaranteed from now on to the accesses of a stream's later commands on some paths (R185, R187). -/
def guarantee (st : Stream) (qs : List Path) (ids : List Nat) : Stream :=
  { st with reach := st.reach ++ (qs.flatMap fun q => ids.map (q, ·)).filter fun p => !st.reach.contains p }

/-- Whether a CORE write has been published to a path by a FENCX of its own stream, in the instance of whose scope tile t lies, that is
among some release points (R185). -/
def fenced (s : State) (t : Nat) (rels : List Nat) (q : Path) (w : WriteRec) : Bool :=
  w.path == .core && rels.any fun i => (mget? s.rels i).any fun r => r.toPath == some q && covers t .system r w

/-- The writes guaranteed to the reads of a command that a stream of tile t, before which x happens, issues on a path (R185). -/
def reachOf (s : State) (t : Nat) (st : Stream) (x : Know) (q : Path) : List Nat :=
  (st.reach.filter (·.1 == q)).map (·.2) ++ (s.wlog.filter (fenced s t x.rels q)).map (·.id)

/-- An acquire point for the writes of one path (R183, R185). -/
def acquire (s : State) (t : Nat) (sk : Strm) (sc : Scope) (path : Path) : State := acquireIn s t sk sc (some path) none

/-- A stream that has read a span at its port, when writes before number upto had been made, reads no earlier write there
afterwards (R177, R184), and has obtained members of the release sequences of what it read (R182). -/
def seenAt (s : State) (t : Nat) (sk : Strm) (p n upto : Nat) : State :=
  let ws := s.wlog.filter fun w => decide (p ≤ w.addr) && decide (w.addr < p + n) && decide (w.id < upto)
  let hs := (span p n).flatMap fun x => ((ws.filter (·.addr == x)).getLast?.map (·.seq)).getD []
  setStrm s t sk (noteSeen (enter (strmAt s t sk) (ws.map (·.id))) hs)

/-- Every earlier near load of a stream has landed (R178). -/
def loadsLanded (st : Stream) : Bool := st.landings.all (fun l => l.kind != .load && l.kind != .own)

/-- The atomics of a stream that a port has not applied. -/
def atomicsOf (s : State) (t : Nat) (sk : Strm) : List PortOp :=
  s.ports.filter (fun x => x.tile == t && x.strm == sk && x.path == .core)

/-- The bytes of a port operation's word. -/
def portBytes : PortKind → Nat
  | .atomic _ narrow _ _ => if narrow then 4 else 8
  | .fadd32 _ _ _ => 4
  | .fadd16 _ _ _ => 2
  | .iadd bytes _ => bytes

/-- Whether a port still has to apply an atomic of the stream to a byte of a span that no later store of the stream covers. A near
access to it waits, since the value that it would return is the atomic's (R145, R180). -/
def atomicAhead (s : State) (t : Nat) (sk : Strm) (p n : Nat) : Bool :=
  (span p n).any fun x => (postedByte (strmAt s t sk).posted x).isNone &&
    (atomicsOf s t sk).any fun y => decide (y.addr ≤ x) && decide (x < y.addr + portBytes y.kind)

/-- Every earlier store and atomic of a stream is performed at a scope (R179). -/
def performed (s : State) (t : Nat) (sk : Strm) (sc : Scope) : Bool :=
  (strmAt s t sk).posted.all (fun x => performedAt x sc) && (atomicsOf s t sk).isEmpty

/-! Command accounting. -/

/-- The state of a tile for a job: the live tile, or the copy in the job's save area (R158, R391). -/
def jobTile (s : State) (job t : Nat) : Tile :=
  if (tileOf s t).job = some job then tileOf s t
  else
    match (mget s.fe.saves job []).find? (fun p => p.1 == t) with
    | some p => p.2
    | none => tileOf s t

/-- A change of a tile for a job, live or saved. -/
def updTile (s : State) (job t : Nat) (f : Tile → Tile) : State :=
  let saved := mget s.fe.saves job []
  if (tileOf s t).job = some job || !saved.any (fun p => p.1 == t) then setTile s t (f (tileOf s t))
  else
    let copies := saved.map fun p => if p.1 = t then (t, f p.2) else p
    { s with fe := { s.fe with saves := mset s.fe.saves job copies } }

/-- A change of a stream for a job, live or saved. -/
def updStrm (s : State) (job t : Nat) (sk : Strm) (f : Stream → Stream) : State :=
  updTile s job t fun x => withStream x sk (f (streamIn x sk))

/-- The queue register qN of a stream. -/
def qreg (st : Stream) (n : Nat) : QReg := mget st.q n {}

def setQreg (st : Stream) (n : Nat) (x : QReg) : Stream := { st with q := mset st.q n x }

/-- Whether a code offset lies in an idempotent span of the job that applies to the stream (R86, R126). -/
def inIdem (s : State) (t : Nat) (sk : Strm) (pc : Nat) : Option Nat :=
  match jobOf s t with
  | none => none
  | some j => (j.spans.find? fun (u, k', a, b) => u == t && k' == sk && decide (a ≤ pc) && decide (pc ≤ b)).map (·.2.2.1)

/-- A command handed to the completion step (R72, R211). -/
def finish (s : State) (c : Cmd) (status : BitVec 8) (result : BitVec 40) : State :=
  { s with done := s.done ++ [{ cmd := c, status := status, result := result }] }

/-- Template header fields of a command (R62). -/
def cmdTag (c : Cmd) : BitVec 16 := BitVec.ofNat 16 (tf c.tmpl 47 32)
def cmdKind (c : Cmd) : Nat := tf c.tmpl 3 0
def cmdSub (c : Cmd) : Nat := tf c.tmpl 7 4

/-- An engine fault record of a command (R389). -/
def cmdOffer (s : State) (c : Cmd) (cause : Cause) (src unit : Nat) : Offer :=
  { offerFor s c.tile c.strm cause src with
      ctxn := c.ctxn, tag := cmdTag c, unit := unit, stage := c.stage, gaddr := BitVec.ofNat 64 c.gaddr }

end Sys2Proof.Machine
end

