-- ==== Sys2Proof/Machine/Operands.lean ====
section
/-! DEFINITION. Operands: source and destination registers (R118 to R123), buffer handles (R164, R165), and near
addresses with the checks and the translation of R140 to R142. -/

namespace Sys2Proof.Machine

/-- A source register (R119 to R122): an empty one raises EMPTY_REG under its trap bit and stalls otherwise; one whose
result is still to land stalls; one marked with poison raises POISON with the load's near address. DESIGN CHOICE (assumption
147): of several sources of one instruction the first that fails, in the order that its meaning reads them, decides. -/
def readSrc (st : Stream) (r : BitVec 5) (trap : Bool) : Chk Word :=
  let p := physReg st r
  if p = 0 then .ok 0
  else
    let x := regAt st p
    if !x.full then
      if trap then .error (.trap .emptyReg (BitVec.ofNat 64 (r.toNat + 2 ^ 8 * p))) else .error .stall
    else if landPending st p then .error .stall
    else
      match x.poison with
      | some a => .error (.trap .poison a)
      | none => .ok x.val

/-- A destination register: the instruction waits while an earlier result is still to land in it (R121). -/
def destReady (st : Stream) (r : BitVec 5) : Chk Unit :=
  let p := physReg st r
  waitFor (p == 0 || ((regAt st p).full && !landPending st p))

/-! Buffer handles (R164, R165). -/

def hGen (e : Word) : Nat := wf64 e 63 56
def hState (e : Word) : Nat := wf64 e 55 52
def hHolder (e : Word) : Nat := wf64 e 51 47
def hOffer (e : Word) : Nat := wf64 e 46 42
def hHome (e : Word) : Nat := wf64 e 41 39
def hBase (e : Word) : Nat := wf64 e 38 26
def hSize (e : Word) : Nat := wf64 e 25 12
def hCtxn (e : Word) : Nat := wf64 e 11 0

/-- A handle-table entry from its fields (R165). -/
def hMake (gen st holder off home base size ctxn : Nat) : Word :=
  BitVec.ofNat 64 (gen % 256 * 2 ^ 56 + st * 2 ^ 52 + holder * 2 ^ 47 + off * 2 ^ 42 + home * 2 ^ 39 + base * 2 ^ 26
    + size * 2 ^ 12 + ctxn)

/-- An entry with a new state, holder and receiver. -/
def hWith (e : Word) (st holder off : Nat) : Word :=
  hMake (hGen e) st holder off (hHome e) (hBase e) (hSize e) (hCtxn e)

/-- An entry that becomes FREE: its generation rises by 1 modulo 256 (R165, R166). -/
def hFree (e : Word) : Word := hMake (hGen e + 1) 0 0 0 (hHome e) (hBase e) (hSize e) (hCtxn e)

def handleAt (s : State) (t h : Nat) : Word := mget (clusterOf s (tileCluster t)).handles (h % 256) 0

def setHandle (s : State) (t h : Nat) (e : Word) : State :=
  let c := clusterOf s (tileCluster t)
  setCluster s (tileCluster t) { c with handles := mset c.handles (h % 256) e }

/-- Whether a 16-bit handle is valid for a stream of a tile (R164). -/
def handleValid (s : State) (t h : Nat) : Bool :=
  let e := handleAt s t h
  hState e != 0 && hGen e == h / 256 % 256 && hCtxn e == ctxnOf s t

/-- The code of a stream as a holder (R165). -/
def holderCode (t : Nat) (sk : Strm) : Nat := tileIn t * 4 + sidx sk

/-- Whether an entry is HELD by a stream. -/
def heldBy (e : Word) (t : Nat) (sk : Strm) : Bool := hState e == 1 && hHolder e == holderCode t sk

/-- Whether a span of a tile's scratchpad meets a buffer that the stream does not hold (R141, R164). -/
def foreignBuffer (s : State) (t : Nat) (sk : Strm) (off n : Nat) : Bool :=
  (clusterOf s (tileCluster t)).handles.any fun (_, e) =>
    hState e != 0 && hSize e != 0 && hHome e == tileIn t && decide (off < hBase e * 64 + hSize e * 64) && decide (hBase e * 64 < off + n)
      && !heldBy e t sk

/-! Near addresses (R140 to R142). -/

/-- One piece of an access: a physical span, and whether its translation carries the watch bit. -/
structure Seg where
  phys : Nat
  len : Nat
  watch : Bool := false
  /-- The 64-bit address of its first byte, as the access names it. -/
  at_ : Nat := 0
  deriving DecidableEq, Repr

/-- A near access that has passed its checks: its pieces, or the offset of a state-window word; whether it is local. -/
structure NearAcc where
  segs : List Seg := []
  win : Option Nat := none
  loc : Bool := true
  deriving DecidableEq, Repr

def nearSel (a : Word) : Nat := wf64 a 63 56

/-- The L2 pages of a span, each translated (R140, R141, R397). A failure gives the sub-reason and the offset reached. -/
def l2Segs (s : State) (u : TlbUnit) (ctxn : Nat) (write : Bool) : Nat → Nat → Nat → Except (Nat × Nat) (List Seg)
  | 0, _, _ => .ok []
  | f + 1, a, n =>
    if n = 0 then .ok []
    else
      let len := min n (2 ^ 16 - a % 2 ^ 16)
      match xlL2 s u ctxn a write with
      | .ok p w =>
        match l2Segs s u ctxn write f (a + len) (n - len) with
        | .ok rest => .ok ({ phys := p + a % 2 ^ 16, len := len, watch := w, at_ := 3 * 2 ^ 56 + a } :: rest)
        | .error e => .error e
      | .fault sub => .error (sub, a)
      | .dup _ _ => .error (3, a)

/-- Pages that a span of n bytes at a touches. -/
def pagesOf (a n : Nat) : Nat := ceilDiv (a % 2 ^ 16 + n) (2 ^ 16)

/-- Whether an offset names a word of the state window (R142). -/
def winOk (off : Nat) : Bool :=
  off == 0 || off == 8 || off == 0x10 || off == 0x18 || (decide (0x100 ≤ off) && decide (off < 0x180) && off % 8 == 0)

/-- A span of own scratchpad: NEAR_BOUNDS, then OWNER (R140, R141). -/
def nearOwn (s : State) (t : Nat) (sk : Strm) (a : Word) (n : Nat) : Chk NearAcc :=
  let off := wf64 a 55 0
  if Config.scratchBytes < off + n then .error (.trap .nearBounds a)
  else if foreignBuffer s t sk off n then .error (.trap .owner a)
  else .ok { segs := [{ phys := scratchBase t + off, len := n, at_ := a.toNat }] }

/-- A span of a peer's scratchpad by handle: OWNER, then NEAR_BOUNDS (R140, R141). -/
def nearPeer (s : State) (t : Nat) (sk : Strm) (a : Word) (n : Nat) : Chk NearAcc :=
  let h := wf64 a 55 40
  let off := wf64 a 39 0
  let e := handleAt s t h
  if !(handleValid s t h && heldBy e t sk) then .error (.trap .owner a)
  else if hSize e * 64 < off + n then .error (.trap .nearBounds a)
  else .ok { segs := [{ phys := scratchBase (tileCluster t * 8 + hHome e) + hBase e * 64 + off, len := n, at_ := a.toNat }], loc := false }

/-- A span of L2: NEAR_BOUNDS, then translation (R140, R141, R400). -/
def nearL2 (s : State) (t : Nat) (a : Word) (n : Nat) (write : Bool) : Chk NearAcc :=
  let off := wf64 a 55 0
  if 2 ^ 32 < off + n then .error (.trap .nearBounds a)
  else
    match l2Segs s (.core t) (ctxnOf s t) write (pagesOf off n) off n with
    | .ok segs => .ok { segs := segs, loc := false }
    | .error (sub, _) => .error (.trap .page a sub)

/-- A word of the state window (R142). -/
def nearWin (a : Word) (n : Nat) (atomic : Bool) : Chk NearAcc :=
  if n ≠ 8 then .error (.trap .align a)
  else if atomic then .error (.trap .accessPath a)
  else if winOk (wf64 a 55 0) then .ok { win := some (wf64 a 55 0) }
  else .error (.trap .nearBounds a)

/-- check_near of R141 for a stream of a tile. -/
def checkNear (s : State) (t : Nat) (sk : Strm) (a : Word) (n : Nat) (write atomic : Bool) : Chk NearAcc :=
  if n ≤ 8 ∧ wf64 a 55 0 % n ≠ 0 then .error (.trap .align a)
  else
    match nearSel a with
    | 1 => nearOwn s t sk a n
    | 2 => nearPeer s t sk a n
    | 3 => nearL2 s t a n write
    | 4 => nearWin a n atomic
    | _ => .error (.trap .accessPath a)

/-- The bytes of a checked access as the stream sees them. -/
def segBytes (s : State) (t : Nat) (sk : Strm) (segs : List Seg) : List Byte :=
  segs.flatMap fun g => loadBytes s t sk true g.phys g.len

/-- Whether an access waits for an atomic of the stream to one of its bytes (R145, R180). -/
def segAtomic (s : State) (t : Nat) (sk : Strm) (segs : List Seg) : Bool :=
  segs.any fun g => atomicAhead s t sk g.phys g.len

/-- The stream after a near load of a checked access: it has read members of release sequences (R182). -/
def segSeen (s : State) (t : Nat) (sk : Strm) (st : Stream) (segs : List Seg) : Stream :=
  noteSeen st (segs.flatMap fun g => seqRead s t sk g.phys g.len)

/-- Whether a checked access meets poison. -/
def segPoison (s : State) (t : Nat) (sk : Strm) (segs : List Seg) : Bool :=
  segs.any fun g => loadPoison s t sk g.phys g.len

/-- The bytes of a stream's view that a store of bs at p changes. -/
def viewChanged (s : State) (t : Nat) (sk : Strm) (p : Nat) (bs : List Byte) : List Nat :=
  (bs.zipIdx.filter fun (b, i) => loadByte s t sk true (p + i) != b).map fun (_, i) => p + i

/-- A piece cut at the lines of 64 bytes, with fuel for their number. -/
def lineSegs : Nat → Seg → List Seg
  | 0, g => [g]
  | f + 1, g =>
    let n := 64 - g.phys % 64
    if g.len ≤ n then [g]
    else { g with len := n } :: lineSegs f { g with phys := g.phys + n, len := g.len - n, at_ := g.at_ + n }

/-- The stores of a list of pieces of bytes, each posted on its own. -/
def posts (heads : List Nat) (watch : Bool) : List Seg → List Byte → List Posted
  | [], _ => []
  | g :: gs, bs =>
    { addr := g.phys, bytes := bs.take g.len, watch := watch, heads := heads, near := g.at_ } :: posts heads watch gs (bs.drop g.len)

/-- Posts the bytes of a store to its pieces (R143), line by line, since an atomic publishes the stores to its own line alone (R178). A
watched piece that changes the stream's view raises versions at once; one that does not raises them when it is published, if it then
changes memory (R302). -/
def postSegs (s : State) (t : Nat) (sk : Strm) : List Seg → List Byte → State
  | [], _ => s
  | g :: gs, bs =>
    let st := strmAt s t sk
    let changed := if g.watch then viewChanged s t sk g.phys (bs.take g.len) else []
    let xs := posts st.rels (g.watch && changed.isEmpty) (lineSegs (g.len / 64) g) (bs.take g.len)
    let s2 := raiseSpan (setStrm s t sk { st with posted := st.posted ++ xs }) changed
    postSegs s2 t sk gs (bs.drop g.len)

/-- The offset of the first poisoned byte of a checked access, counted over its pieces. -/
def firstPoison (s : State) (t : Nat) (sk : Strm) : List Seg → Nat → Option Nat
  | [], _ => none
  | g :: gs, k =>
    match (List.range g.len).find? fun i => loadPoison s t sk (g.phys + i) 1 with
    | some i => some (k + i)
    | none => firstPoison s t sk gs (k + g.len)

/-- A span read as near loads of the current stream, with their traps; POISON gives the address of the poisoned byte
(R74, R254). -/
def nearSpan (s : State) (a : Word) (n : Nat) : Chk (List Byte) := do
  let acc ← checkNear s s.curTile s.curStrm a n false false
  waitFor (!segAtomic s s.curTile s.curStrm acc.segs)
  match firstPoison s s.curTile s.curStrm acc.segs 0 with
  | some k => .error (.trap .poison (a + BitVec.ofNat 64 k))
  | none => .ok (segBytes s s.curTile s.curStrm acc.segs)

/-- The current stream after it has obtained members of release sequences (R182). -/
def noteCur (s : State) (hs : List SeqHead) : State := setCur s (noteSeen (cur s) hs)

/-- The members of release sequences that the near loads of a span by the current stream obtain (R74, R182). -/
def spanSeen (s : State) (a : Word) (n : Nat) : List SeqHead :=
  match checkNear s s.curTile s.curStrm a n false false with
  | .ok acc => acc.segs.flatMap fun g => seqRead s s.curTile s.curStrm g.phys g.len
  | .error _ => []

/-- The state once the current stream has read a span. -/
def seeSpan (s : State) (a : Word) (n : Nat) : State := noteCur s (spanSeen s a n)

/-- The entry FT[i] of a tile (R105). -/
def ftAt (s : State) (t i : Nat) : Word := mget (tileOf s t).ft (i % 16) 0x200111

/-- A word of the state window (R142). -/
def winRead (s : State) (t off : Nat) : Word :=
  if off = 0 then
    BitVec.ofNat 64 (t + tileCluster t * 2 ^ 8 + tileIn t * 2 ^ 16 + stageOf s t * 2 ^ 20 + tileDie t * 2 ^ 32)
  else if off = 8 then BitVec.ofNat 64 s.core
  else if off = 0x10 then BitVec.ofNat 64 s.fab
  else if off = 0x18 then s.pkg.clkcur.zeroExtend 64
  else ftAt s t ((off - 0x100) / 8)

/-- A store to a word of the state window: only the format table takes it (R106, R107, R142). -/
def winWrite (s : State) (t off : Nat) (v : Word) : State :=
  if off < 0x100 then s
  else
    let x := tileOf s t
    setTile s t { x with ft := mset x.ft ((off - 0x100) / 8 % 16) v }

/-- ss.cycle: core cycles since the job started (R125). -/
def cycleOf (s : State) (st : Stream) : Word := BitVec.ofNat 64 (s.core - st.cycle0)

/-- The lowest enabled pending interrupt line that the stream would take at a boundary (R381). -/
def takeableLine (st : Stream) : Option Nat :=
  if st.tctx || !st.tena.getLsbD 0x22 then none
  else (List.range 64).find? fun l => (st.ipend &&& st.imask).getLsbD l

end Sys2Proof.Machine
end

