-- ==== Sys2Proof/Machine/Alu.lean ====
section
/-! DEFINITION. The integer, immediate and address instructions (R131 to R136). -/

namespace Sys2Proof.Machine

/-- An instruction of two sources whose result lands after one cycle (R131). -/
def alu2 (f : Word → Word → Word) (o : FormA2) (s : State) : Out :=
  issue s do
    let st := cur s
    let a ← readSrc st o.a o.ta
    let b ← readSrc st o.b o.tb
    tokensReady st o.tk
    destReady st o.d
    .ok (retire (setCur s (putReg (popBits st o.tk) o.d (f a b))) o.tk .seq)

/-- An instruction of two sources that also reads the old destination (R55). -/
def alu3 (f : Word → Word → Word → Word) (o : FormA2) (s : State) : Out :=
  issue s do
    let st := cur s
    let a ← readSrc st o.a o.ta
    let b ← readSrc st o.b o.tb
    let d ← readSrc st o.d false
    tokensReady st o.tk
    destReady st o.d
    .ok (retire (setCur s (putReg (popBits st o.tk) o.d (f a b d))) o.tk .seq)

/-- An instruction of two sources whose result lands after a longer fixed latency (R129). -/
def alu2Later (f : Word → Word → Word) (o : FormA2) (s : State) : Out :=
  issue s do
    let st := cur s
    let a ← readSrc st o.a o.ta
    let b ← readSrc st o.b o.tb
    tokensReady st o.tk
    destReady st o.d
    .ok (retire (setCur s (landLater (popBits st o.tk) o.d (f a b) .fixed)) o.tk .seq)

/-- A division: it issues only after the stream's previous division has landed, and leaves its destination empty until it
lands (R119, R130). -/
def aluDiv (f : Word → Word → Word) (o : FormA2) (s : State) : Out :=
  issue s do
    let st := cur s
    let a ← readSrc st o.a o.ta
    let b ← readSrc st o.b o.tb
    tokensReady st o.tk
    destReady st o.d
    waitFor (divisionsLanded st)
    .ok (retire (setCur s (landLater (popBits st o.tk) o.d (f a b) .division)) o.tk .seq)

/-- An instruction of one source (R131). -/
def alu1 (f : Word → Word) (o : FormA1) (s : State) : Out :=
  issue s do
    let st := cur s
    let a ← readSrc st o.a o.ta
    tokensReady st o.tk
    destReady st o.d
    .ok (retire (setCur s (putReg (popBits st o.tk) o.d (f a))) o.tk .seq)

/-- An instruction of a source and a signed immediate (R134). -/
def aluImm (f : Word → Word → Word) (o : FormI) (s : State) : Out :=
  issue s do
    let st := cur s
    let a ← readSrc st o.a o.ta
    tokensReady st o.tk
    destReady st o.d
    .ok (retire (setCur s (putReg (popBits st o.tk) o.d (f a (o.imm.signExtend 64)))) o.tk .seq)

/-- A shift by an immediate from 0 to 63 (R134). -/
def aluShift (f : Word → Nat → Word) (o : FormISh) (s : State) : Out :=
  issue s do
    let st := cur s
    let a ← readSrc st o.a o.ta
    tokensReady st o.tk
    destReady st o.d
    .ok (retire (setCur s (putReg (popBits st o.tk) o.d (f a o.sh.toNat))) o.tk .seq)

/-- Address arithmetic on a base and a scaled index (R136). -/
def aluLea (f : Word → Word → Word) (o : FormALea) (s : State) : Out :=
  issue s do
    let st := cur s
    let a ← readSrc st o.a o.ta
    let b ← readSrc st o.b o.tb
    tokensReady st o.tk
    destReady st o.d
    .ok (retire (setCur s (putReg (popBits st o.tk) o.d (f a (b <<< o.sc.toNat)))) o.tk .seq)

/-- A shift or rotate amount: bits [5:0] (R131). -/
def amount (b : Word) : Nat := b.toNat % 64

def boolWord (b : Bool) : Word := if b then 1 else 0

/-- MULH (R131): the high half of the signed product. -/
def mulHigh (a b : Word) : Word := BitVec.ofInt 64 (a.toInt * b.toInt / 2 ^ 64)

/-- MULHZ (R131): the high half of the unsigned product. -/
def mulHighZ (a b : Word) : Word := BitVec.ofNat 64 (a.toNat * b.toNat / 2 ^ 64)

/-- DIV (R132): the quotient truncated towards zero; all ones for a zero divisor. −2^63 by −1 wraps to −2^63. -/
def divQ (a b : Word) : Word := if b = 0 then BitVec.allOnes 64 else BitVec.ofInt 64 (a.toInt.tdiv b.toInt)

/-- DIVZ (R132). -/
def divQZ (a b : Word) : Word := if b = 0 then BitVec.allOnes 64 else BitVec.ofNat 64 (a.toNat / b.toNat)

/-- REM (R132): the remainder with the sign of the dividend; the dividend for a zero divisor. -/
def divR (a b : Word) : Word := if b = 0 then a else BitVec.ofInt 64 (a.toInt.tmod b.toInt)

/-- REMZ (R132). -/
def divRZ (a b : Word) : Word := if b = 0 then a else BitVec.ofNat 64 (a.toNat % b.toNat)

def minS (a b : Word) : Word := if a.toInt ≤ b.toInt then a else b
def maxS (a b : Word) : Word := if a.toInt ≤ b.toInt then b else a
def minZ (a b : Word) : Word := if a.toNat ≤ b.toNat then a else b
def maxZ (a b : Word) : Word := if a.toNat ≤ b.toNat then b else a

/-- CLZ (R131): 64 for zero. -/
def clzOf (a : Word) : Word := if a = 0 then 64 else BitVec.ofNat 64 (63 - Nat.log2 a.toNat)

/-- POPC (R131). -/
def popcOf (a : Word) : Word := BitVec.ofNat 64 ((List.range 64).filter (fun n => a.getLsbD n)).length

/-- The length of a bit field (R133): 65 to 127 act as 64. -/
def fieldLen (b : Word) : Nat := min (wf64 b 12 6) 64

/-- The mask of a bit field (R133): positions beyond bit 63 do not exist. -/
def fieldMask (b : Word) : Word := BitVec.ofNat 64 ((2 ^ fieldLen b - 1) * 2 ^ amount b)

/-- BEXT (R133). -/
def bextOf (a b : Word) : Word := (a &&& fieldMask b) >>> amount b

/-- BINS (R133): d is the old destination. -/
def binsOf (a b d : Word) : Word := (d &&& ~~~ fieldMask b) ||| ((a <<< amount b) &&& fieldMask b)

/-- ADDW (R131). -/
def addwOf (a b : Word) : Word := ((a + b).truncate 32).signExtend 64

/-- LEAS (R136): the selector of a with the offset wrapped within 56 bits. -/
def leasOf (a x : Word) : Word := BitVec.ofNat 64 (wf64 a 63 56 * 2 ^ 56 + wf64 (a + x) 55 0)

/-- ADD (R131): 64-bit wrap-around sum. -/
def execAdd (o : FormA2) (s : State) : Out := alu2 (fun a b => a + b) o s

/-- SUB (R131). -/
def execSub (o : FormA2) (s : State) : Out := alu2 (fun a b => a - b) o s

/-- AND (R131). -/
def execAnd (o : FormA2) (s : State) : Out := alu2 (fun a b => a &&& b) o s

/-- OR (R131). -/
def execOr (o : FormA2) (s : State) : Out := alu2 (fun a b => a ||| b) o s

/-- XOR (R131). -/
def execXor (o : FormA2) (s : State) : Out := alu2 (fun a b => a ^^^ b) o s

/-- ANDN (R131). -/
def execAndn (o : FormA2) (s : State) : Out := alu2 (fun a b => a &&& ~~~ b) o s

/-- SHL (R131). -/
def execShl (o : FormA2) (s : State) : Out := alu2 (fun a b => a <<< amount b) o s

/-- SHR (R131). -/
def execShr (o : FormA2) (s : State) : Out := alu2 (fun a b => a >>> amount b) o s

/-- SAR (R131). -/
def execSar (o : FormA2) (s : State) : Out := alu2 (fun a b => a.sshiftRight (amount b)) o s

/-- ROT (R131): right. -/
def execRot (o : FormA2) (s : State) : Out := alu2 (fun a b => a.rotateRight (amount b)) o s

/-- MUL (R131): lands after 3 cycles. -/
def execMul (o : FormA2) (s : State) : Out := alu2Later (fun a b => a * b) o s

/-- MULH (R131). -/
def execMulh (o : FormA2) (s : State) : Out := alu2Later mulHigh o s

/-- MULHZ (R131). -/
def execMulhz (o : FormA2) (s : State) : Out := alu2Later mulHighZ o s

/-- DIV (R132). -/
def execDiv (o : FormA2) (s : State) : Out := aluDiv divQ o s

/-- DIVZ (R132). -/
def execDivz (o : FormA2) (s : State) : Out := aluDiv divQZ o s

/-- REM (R132). -/
def execRem (o : FormA2) (s : State) : Out := aluDiv divR o s

/-- REMZ (R132). -/
def execRemz (o : FormA2) (s : State) : Out := aluDiv divRZ o s

/-- MIN (R131): signed. -/
def execMin (o : FormA2) (s : State) : Out := alu2 minS o s

/-- MAX (R131): signed. -/
def execMax (o : FormA2) (s : State) : Out := alu2 maxS o s

/-- MINZ (R131): unsigned. -/
def execMinz (o : FormA2) (s : State) : Out := alu2 minZ o s

/-- MAXZ (R131): unsigned. -/
def execMaxz (o : FormA2) (s : State) : Out := alu2 maxZ o s

/-- SLT (R131). -/
def execSlt (o : FormA2) (s : State) : Out := alu2 (fun a b => boolWord (decide (a.toInt < b.toInt))) o s

/-- SLTZ (R131). -/
def execSltz (o : FormA2) (s : State) : Out := alu2 (fun a b => boolWord (decide (a.toNat < b.toNat))) o s

/-- SEQ (R131). -/
def execSeq (o : FormA2) (s : State) : Out := alu2 (fun a b => boolWord (a == b)) o s

/-- SEL (R131): a when the old destination is not zero. -/
def execSel (o : FormA2) (s : State) : Out := alu3 (fun a b d => if d = 0 then b else a) o s

/-- CLZ (R131). -/
def execClz (o : FormA1) (s : State) : Out := alu1 clzOf o s

/-- POPC (R131). -/
def execPopc (o : FormA1) (s : State) : Out := alu1 popcOf o s

/-- BEXT (R133). -/
def execBext (o : FormA2) (s : State) : Out := alu2 bextOf o s

/-- BINS (R133). -/
def execBins (o : FormA2) (s : State) : Out := alu3 binsOf o s

/-- ADDW (R131). -/
def execAddw (o : FormA2) (s : State) : Out := alu2 addwOf o s

/-- LEA (R136). -/
def execLea (o : FormALea) (s : State) : Out := aluLea (fun a x => a + x) o s

/-- LEAS (R136). -/
def execLeas (o : FormALea) (s : State) : Out := aluLea leasOf o s

/-- ADDI (R134). -/
def execAddi (o : FormI) (s : State) : Out := aluImm (fun a x => a + x) o s

/-- ANDI (R134). -/
def execAndi (o : FormI) (s : State) : Out := aluImm (fun a x => a &&& x) o s

/-- ORI (R134). -/
def execOri (o : FormI) (s : State) : Out := aluImm (fun a x => a ||| x) o s

/-- XORI (R134). -/
def execXori (o : FormI) (s : State) : Out := aluImm (fun a x => a ^^^ x) o s

/-- SHLI (R134). -/
def execShli (o : FormISh) (s : State) : Out := aluShift (fun a n => a <<< n) o s

/-- SHRI (R134). -/
def execShri (o : FormISh) (s : State) : Out := aluShift (fun a n => a >>> n) o s

/-- SARI (R134). -/
def execSari (o : FormISh) (s : State) : Out := aluShift (fun a n => a.sshiftRight n) o s

/-- SLTI (R134). -/
def execSlti (o : FormI) (s : State) : Out := aluImm (fun a x => boolWord (decide (a.toInt < x.toInt))) o s

/-- LIH (R135): the 15-bit immediate at bits [63:49], zero below. -/
def execLih (o : FormLih) (s : State) : Out :=
  issue s do
    let st := cur s
    tokensReady st o.tk
    destReady st o.d
    .ok (retire (setCur s (putReg (popBits st o.tk) o.d (o.imm.zeroExtend 64 <<< 49))) o.tk .seq)

end Sys2Proof.Machine
end

