-- ==== Sys2Proof/WellFormed.lean ====
section
/-! DEFINITION. Which terms of Instr stand for an instruction word or a step of the device: the limits that the
operand types do not already enforce. -/

namespace Sys2Proof

/-- The numbers of the stream state registers that R125 and R376 assign. -/
def ssAssigned (num : BitVec 11) : Bool :=
  num.toNat < 0x010 || (0x040 ≤ num.toNat && num.toNat ≤ 0x04C)

/-- The checks of an instruction beyond its operand types: state-register numbers (R125), interrupt lines (R385), and
the numbers of the units of R13 to R15. -/
def Instr.wf : Instr → Bool
  | .add _ => true
  | .sub _ => true
  | .and _ => true
  | .or _ => true
  | .xor _ => true
  | .andn _ => true
  | .shl _ => true
  | .shr _ => true
  | .sar _ => true
  | .rot _ => true
  | .mul _ => true
  | .mulh _ => true
  | .mulhz _ => true
  | .div _ => true
  | .divz _ => true
  | .rem _ => true
  | .remz _ => true
  | .min _ => true
  | .max _ => true
  | .minz _ => true
  | .maxz _ => true
  | .slt _ => true
  | .sltz _ => true
  | .seq _ => true
  | .sel _ => true
  | .clz _ => true
  | .popc _ => true
  | .bext _ => true
  | .bins _ => true
  | .addw _ => true
  | .lea _ => true
  | .leas _ => true
  | .ji _ => true
  | .jli _ => true
  | .fadd _ => true
  | .fsub _ => true
  | .fmul _ => true
  | .ffma _ => true
  | .fmin _ => true
  | .fmax _ => true
  | .fabs _ => true
  | .fneg _ => true
  | .fcmp _ => true
  | .fcvt _ => true
  | .frcp _ => true
  | .frsq _ => true
  | .addi _ => true
  | .andi _ => true
  | .ori _ => true
  | .xori _ => true
  | .shli _ => true
  | .shri _ => true
  | .sari _ => true
  | .slti _ => true
  | .ldb _ => true
  | .ldbz _ => true
  | .ldh _ => true
  | .ldhz _ => true
  | .ldw _ => true
  | .ldwz _ => true
  | .ldd _ => true
  | .stb _ => true
  | .sth _ => true
  | .stw _ => true
  | .std _ => true
  | .lih _ => true
  | .beq _ => true
  | .bne _ => true
  | .blt _ => true
  | .bge _ => true
  | .blo _ => true
  | .bhs _ => true
  | .j _ => true
  | .jl _ => true
  | .loop _ => true
  | .brloop _ => true
  | .qpop _ => true
  | .qpeek _ => true
  | .qpush _ => true
  | .qcnt _ => true
  | .tkw _ => true
  | .tks _ => true
  | .rdvz _ => true
  | .rendezvousComplete _ tile => tile < 192
  | .phase _ => true
  | .fencx _ => true
  | .waitw _ => true
  | .hgive _ => true
  | .htake _ => true
  | .hqry _ => true
  | .aadd _ => true
  | .amin _ => true
  | .amax _ => true
  | .aminz _ => true
  | .amaxz _ => true
  | .aand _ => true
  | .aor _ => true
  | .axor _ => true
  | .axch _ => true
  | .acas _ => true
  | .ared _ => true
  | .atomicPortApply _ => true
  | .nearLoadLanding tile _ _ => tile < 192
  | .divisionLands tile _ _ => tile < 192
  | .trap _ => true
  | .eret _ => true
  | .ssrd o => ssAssigned o.num
  | .sswr o => ssAssigned o.num
  | .sleep _ => true
  | .sleepExpiry tile _ => tile < 192
  | .halt _ => true
  | .yld _ => true
  | .tlbi _ => true
  | .ireg o => o.vec.toNat < 63
  | .brk _ => true
  | .rrbs _ => true
  | .timerCompare tile _ => tile < 192
  | .intr tile _ => tile < 192
  | .oclm _ => true
  | .orel _ => true
  | .epil _ => true
  | .accd _ => true
  | .taskw _ => true
  | .rbind _ => true
  | .rfree _ => true
  | .rinv _ => true
  | .rqry _ => true
  | .rcnt _ => true
  | .cfgld _ => true
  | .cfgq _ => true
  | .rack _ => true
  | .kiln _ => true
  | .thaw _ => true
  | .rgo _ => true
  | .garm _ => true
  | .gset _ => true
  | .emit _ => true
  | .sigh _ => true
  | .tbld _ => true
  | .tbsv _ => true
  | .phd _ => true
  | .pis _ => true
  | .commandCompletion _ => true
  | .replyArrival _ => true
  | .slotCommandStart tile slot => tile < 192 && slot < 16
  | .sld tile slot => tile < 192 && slot < 16
  | .sst tile slot => tile < 192 && slot < 16
  | .sidx tile slot => tile < 192 && slot < 16
  | .ssct tile slot => tile < 192 && slot < 16
  | .srec tile slot => tile < 192 && slot < 16
  | .scon tile slot => tile < 192 && slot < 16
  | .smcl tile slot => tile < 192 && slot < 16
  | .scmp tile slot => tile < 192 && slot < 16
  | .sbar tile _ => tile < 192
  | .scls tile slot => tile < 192 && slot < 16
  | .swt tile _ => tile < 192
  | .spip tile mport => tile < 192 && mport < 4
  | .sprv tile mport => tile < 192 && mport < 4
  | .pipArrival _ => true
  | .sectionSquash tile region _ => tile < 192 && region < 8
  | .sectionCommit tile region => tile < 192 && region < 8
  | .groupFire tile region group => tile < 192 && region < 8 && group < 16
  | .formatMarkerTake tile region group _ => tile < 192 && region < 8 && group < 16
  | .endOfStream tile region group => tile < 192 && region < 8 && group < 16
  | .converterConvert tile region cell => tile < 192 && region < 8 && (cell == 0 || cell == 5)
  | .settleReport tile region => tile < 192 && region < 8
  | .kilnWaveComplete tile region => tile < 192 && region < 8
  | .kilnTimeout tile region => tile < 192 && region < 8
  | .mmd cluster engine => cluster < 24 && engine < 16
  | .mms cluster engine => cluster < 24 && engine < 16
  | .mmg cluster engine => cluster < 24 && engine < 16
  | .mmdl cluster engine => cluster < 24 && engine < 16
  | .taskDispatch cluster => cluster < 24
  | .taskStart cluster engine => cluster < 24 && engine < 16
  | .taskComplete cluster engine => cluster < 24 && engine < 16
  | .epilogueDrain cluster engine => cluster < 24 && engine < 16
  | .drainComplete cluster engine => cluster < 24 && engine < 16
  | .mmdlWriteback cluster _ => cluster < 24
  | .cpy die engine => die < 4 && engine < 8
  | .cpyw die engine => die < 4 && engine < 8
  | .cfil die engine => die < 4 && engine < 8
  | .lrchk die engine => die < 4 && engine < 8
  | .gthr die engine => die < 4 && engine < 4
  | .sctr die engine => die < 4 && engine < 4
  | .caskq cluster => cluster < 24
  | .caskrp cluster => cluster < 24
  | .caskcp cluster => cluster < 24
  | .glnc _ => true
  | .gnxt _ => true
  | .garmApply _ => true
  | .gsetApply _ => true
  | .emitApply _ => true
  | .sighApply _ => true
  | .ringCoalesceTimeout ring => ring < 4096
  | .ringFullReread ring => ring < 4096
  | .launchGraph chan => chan < 4096
  | .bind chan => chan < 4096
  | .configRegion chan => chan < 4096
  | .copy chan => chan < 4096
  | .signal chan => chan < 4096
  | .wait chan => chan < 4096
  | .queueCreate chan => chan < 4096
  | .queueDestroy chan => chan < 4096
  | .channelResync chan => chan < 4096
  | .selectionPass => true
  | .jobStart _ => true
  | .jobComplete _ => true
  | .bindNode _ => true
  | .copyNode _ => true
  | .gatherNode _ => true
  | .cond _ => true
  | .host _ => true
  | .rearm _ => true
  | .graphComplete _ => true
  | .watchdog tile _ => tile < 192
  | .eventRecordWrite _ => true
  | .resume fn _ => fn < 32
  | .terminate fn _ => fn < 32
  | .pageWalk _ => true
  | .collapse _ => true
  | .scrubPass die => die < 4
  | .uncorrectableError _ => true
  | .notify chan _ => chan < 4096
  | .cret chan _ => chan < 4096
  | .reconcile chan => chan < 4096
  | .ctxreq fn _ => fn < 32
  | .invreq fn _ _ => fn < 32
  | .chmap fn _ => fn < 32
  | .qtctlPause fn _ => fn < 32
  | .clkreq fn _ => fn < 32
  | .clockSwitch => true
  | .powerLimit _ => true
  | .clockCapStep => true
  | .registerWrite fn _ _ => fn < 32
  | .bar2Read fn _ _ => fn < 32
  | .bar2Write fn _ _ => fn < 32
  | .incomingRead _ _ _ => true
  | .incomingWrite _ _ _ => true
  | .incomingAtomic _ _ _ _ _ _ => true
  | .remoteTimeout _ => true
  | .moduleReset => true
  | .append _ => true
  | .commit => true
  | .abort => true
  | .getVersion => true
  | .getCapabilities => true
  | .negotiateAlgorithms _ _ => true
  | .getDigests => true
  | .getCertificate slot _ _ => slot < 16
  | .challenge _ => true
  | .getMeasurements _ _ => true
  | .illegalInstruction _ => true
  | .fetchFault => true
  | .resultLands tile _ _ => tile < 192
  | .postedStorePerformed tile _ _ _ => tile < 192
  | .writeEntersView tile _ _ => tile < 192
  | .yldExpiry tile _ => tile < 192
  | .taskSlotReadEnd cluster engine => cluster < 24 && engine < 16
  | .liveStartDeadline _ => true
  | .eventQueueReread ctxn => ctxn < 4096

end Sys2Proof
end

