-- ==== Sys2Proof/Decode.lean ====
section
/-! DEFINITION. Decoding of 32-bit instruction words (R41 to R61) and, after it, the encoder.
A word is a number below 2^32, bit 0 least significant. A word that is no instruction is rejected (R43). -/

namespace Sys2Proof

/-- Bits [lo + n - 1 : lo] of a word. -/
def fld (w lo n : Nat) : BitVec n := BitVec.ofNat n (w / 2 ^ lo)

/-- Bits [lo + n - 1 : lo] of a word, as a number. -/
def fldN (w lo n : Nat) : Nat := w / 2 ^ lo % 2 ^ n

/-- Bit i of a word. -/
def fldB (w i : Nat) : Bool := w / 2 ^ i % 2 == 1

/-- Scope codes (R59, R175). -/
def scopeOf : Nat → Option Scope
  | 0 => some .tile
  | 1 => some .cluster
  | 2 => some .die
  | 3 => some .package
  | 4 => some .domain
  | 5 => some .system
  | _ => none

/-- Access-path codes (R59, R174). -/
def pathOf : Nat → Option Path
  | 0 => some .core
  | 1 => some .stream
  | 2 => some .matrix
  | 3 => some .copy
  | 4 => some .gather
  | 5 => some .mesh
  | 6 => some .front
  | _ => none

/-- Condition codes of WAITW (R59, R163). -/
def ccOf : Nat → Option Cc
  | 0 => some .eq
  | 1 => some .ne
  | 2 => some .geu
  | 3 => some .ltu
  | _ => none

/-- Format codes of the scalar FP instructions other than FCVT (R56). -/
def fpFmtOf : Nat → Option FpFmt
  | 0 => some .fp32
  | 1 => some .bf16
  | _ => none

/-- Destination codes of FCVT (R56). -/
def cvtDstOf : Nat → Option CvtDst
  | 0 => some .fp32
  | 1 => some .bf16
  | 2 => some .s64
  | _ => none

/-- Source-type codes of FCVT (R56). -/
def cvtSrcOf : Nat → Option CvtSrc
  | 0 => some .fp32
  | 1 => some .bf16
  | 2 => some .s32
  | 3 => some .s64
  | 4 => some .z32
  | _ => none

/-- Counter codes of RCNT (R61). -/
def rCounterOf : Nat → Option RCounter
  | 0 => some .hit
  | 1 => some .miss
  | 2 => some .forced
  | 3 => some .rows
  | 4 => some .bytes
  | _ => none

/-- Kinds of TLBI (R384). -/
def tlbiKindOf : Nat → Option TlbiKind
  | 0 => some .l2page
  | 1 => some .vpage
  | 2 => some .all
  | _ => none

/-- The form-A instructions of two sources, by fn7 (R55). -/
def a2Of (fn : Nat) (o : FormA2) : Option Instr :=
  match fn with
  | 0 => some (.add o)
  | 1 => some (.sub o)
  | 2 => some (.and o)
  | 3 => some (.or o)
  | 4 => some (.xor o)
  | 5 => some (.andn o)
  | 6 => some (.shl o)
  | 7 => some (.shr o)
  | 8 => some (.sar o)
  | 9 => some (.rot o)
  | 10 => some (.mul o)
  | 11 => some (.mulh o)
  | 12 => some (.mulhz o)
  | 13 => some (.div o)
  | 14 => some (.divz o)
  | 15 => some (.rem o)
  | 16 => some (.remz o)
  | 17 => some (.min o)
  | 18 => some (.max o)
  | 19 => some (.minz o)
  | 20 => some (.maxz o)
  | 21 => some (.slt o)
  | 22 => some (.sltz o)
  | 23 => some (.seq o)
  | 24 => some (.sel o)
  | 27 => some (.bext o)
  | 28 => some (.bins o)
  | 29 => some (.addw o)
  | _ => none

/-- Class 0001 (R47, R55). -/
def decodeA (w : Nat) : Option Instr :=
  let d := fld w 23 5
  let a := fld w 18 5
  let b := fld w 13 5
  let ta := fldB w 12
  let tb := fldB w 11
  let tk := fld w 0 4
  let fn := fldN w 4 7
  match a2Of fn ⟨d, a, b, ta, tb, tk⟩ with
  | some i => some i
  | none =>
    if fn / 4 = 8 then some (.lea ⟨d, a, b, ta, tb, fld w 4 2, tk⟩)
    else if fn / 4 = 9 then some (.leas ⟨d, a, b, ta, tb, fld w 4 2, tk⟩)
    else if b = 0 ∧ tb = false then
      match fn with
      | 0x19 => some (.clz ⟨d, a, ta, tk⟩)
      | 0x1A => some (.popc ⟨d, a, ta, tk⟩)
      | 0x30 => if d = 0 then some (.ji ⟨a, ta, tk⟩) else none
      | 0x31 => some (.jli ⟨d, a, ta, tk⟩)
      | _ => none
    else none

/-- Class 1001 (R47, R56). -/
def decodeF (w : Nat) : Option Instr :=
  let d := fld w 23 5
  let a := fld w 18 5
  let b := fld w 13 5
  let ta := fldB w 12
  let tb := fldB w 11
  let tk := fld w 0 4
  let op := fldN w 4 5
  let fm := fldN w 9 2
  if op = 9 then
    if tb then none
    else
      match cvtDstOf fm, cvtSrcOf (fldN w 13 5) with
      | some dst, some src => some (.fcvt ⟨d, a, ta, dst, src, tk⟩)
      | _, _ => none
  else
    match fpFmtOf fm with
    | none => none
    | some f =>
      match op with
      | 0 => some (.fadd ⟨d, a, b, ta, tb, f, tk⟩)
      | 1 => some (.fsub ⟨d, a, b, ta, tb, f, tk⟩)
      | 2 => some (.fmul ⟨d, a, b, ta, tb, f, tk⟩)
      | 3 => some (.ffma ⟨d, a, b, ta, tb, f, tk⟩)
      | 4 => some (.fmin ⟨d, a, b, ta, tb, f, tk⟩)
      | 5 => some (.fmax ⟨d, a, b, ta, tb, f, tk⟩)
      | 8 => some (.fcmp ⟨d, a, b, ta, tb, f, tk⟩)
      | 6 => if b = 0 ∧ tb = false then some (.fabs ⟨d, a, ta, f, tk⟩) else none
      | 7 => if b = 0 ∧ tb = false then some (.fneg ⟨d, a, ta, f, tk⟩) else none
      | 10 => if b = 0 ∧ tb = false then some (.frcp ⟨d, a, ta, f, tk⟩) else none
      | 11 => if b = 0 ∧ tb = false then some (.frsq ⟨d, a, ta, f, tk⟩) else none
      | _ => none

/-- Class 0010 (R48, R57). -/
def decodeI (w : Nat) : Option Instr :=
  let d := fld w 23 5
  let a := fld w 18 5
  let ta := fldB w 17
  let imm := fld w 4 10
  let sh := fld w 4 6
  let short := fldN w 10 4 == 0
  let tk := fld w 0 4
  match fldN w 14 3 with
  | 0 => some (.addi ⟨d, a, ta, imm, tk⟩)
  | 1 => some (.andi ⟨d, a, ta, imm, tk⟩)
  | 2 => some (.ori ⟨d, a, ta, imm, tk⟩)
  | 3 => some (.xori ⟨d, a, ta, imm, tk⟩)
  | 4 => if short then some (.shli ⟨d, a, ta, sh, tk⟩) else none
  | 5 => if short then some (.shri ⟨d, a, ta, sh, tk⟩) else none
  | 6 => if short then some (.sari ⟨d, a, ta, sh, tk⟩) else none
  | 7 => some (.slti ⟨d, a, ta, imm, tk⟩)
  | _ => none

/-- Class 0011 (R49, R57). -/
def decodeM (w : Nat) : Option Instr :=
  let o : FormM := ⟨fld w 23 5, fld w 18 5, fld w 4 10, fld w 0 4⟩
  match fldN w 14 4 with
  | 0 => some (.ldb o)
  | 1 => some (.ldbz o)
  | 2 => some (.ldh o)
  | 3 => some (.ldhz o)
  | 4 => some (.ldw o)
  | 5 => some (.ldwz o)
  | 6 => some (.ldd o)
  | 8 => some (.stb o)
  | 9 => some (.sth o)
  | 10 => some (.stw o)
  | 11 => some (.std o)
  | 15 => some (.lih ⟨fld w 23 5, BitVec.ofNat 15 (fldN w 18 5 * 1024 + fldN w 4 10), fld w 0 4⟩)
  | _ => none

/-- Class 0100 (R50, R58). -/
def decodeB (w : Nat) : Option Instr :=
  let o : FormB := ⟨fld w 23 5, fld w 18 5, fldB w 17, fldB w 16, fld w 4 9, fld w 0 4⟩
  match fldN w 13 3 with
  | 0 => some (.beq o)
  | 1 => some (.bne o)
  | 2 => some (.blt o)
  | 3 => some (.bge o)
  | 4 => some (.blo o)
  | 5 => some (.bhs o)
  | _ => none

/-- Class 0101 (R51). -/
def decodeJ (w : Nat) : Option Instr :=
  let tk := fld w 0 4
  match fldN w 26 2 with
  | 0 => some (.j ⟨fld w 4 22, tk⟩)
  | 1 => some (.jl ⟨fld w 4 22, tk⟩)
  | 2 => some (.loop ⟨fldB w 25, fld w 20 5, fld w 4 16, tk⟩)
  | _ => some (.brloop ⟨fldB w 25, fld w 4 21, tk⟩)

/-- The atomics with return, by op5 (R59). -/
def atomicOf (op : Nat) (o : FormAtomic) : Option Instr :=
  match op with
  | 16 => some (.aadd o)
  | 17 => some (.amin o)
  | 18 => some (.amax o)
  | 19 => some (.aminz o)
  | 20 => some (.amaxz o)
  | 21 => some (.aand o)
  | 22 => some (.aor o)
  | 23 => some (.axor o)
  | 24 => some (.axch o)
  | 25 => some (.acas o)
  | _ => none

/-- Class 0110 (R52, R59). -/
def decodeQ (w : Nat) : Option Instr :=
  let d := fld w 23 5
  let a := fld w 18 5
  let b := fld w 13 5
  let m0 := fldB w 4
  let m3 := fldN w 5 3
  let tk := fld w 0 4
  let q := fld w 18 3
  let qz := fldN w 21 2 == 0
  let op := fldN w 8 5
  match op with
  | 0 => if qz && b == 0 && m3 == 0 then some (.qpop ⟨d, q, m0, tk⟩) else none
  | 1 => if qz && b == 0 && m3 == 0 then some (.qpeek ⟨d, q, m0, tk⟩) else none
  | 2 => if d == 0 && qz && m3 == 0 && !m0 then some (.qpush ⟨q, b, tk⟩) else none
  | 3 => if qz && b == 0 && m3 == 0 && !m0 then some (.qcnt ⟨d, q, tk⟩) else none
  | 4 => if d == 0 && qz && b == 0 && !m0 && m3 < 2 then some (.tkw ⟨q, m3 == 1, tk⟩) else none
  | 5 => if d == 0 && qz && b == 0 && !m0 && m3 < 2 then some (.tks ⟨q, m3 == 1, tk⟩) else none
  | 6 => if d == 0 && a == 0 && b == 0 && !m0 && m3 < 2 then some (.rdvz ⟨m3 == 1, tk⟩) else none
  | 7 => if d == 0 && a == 0 && b == 0 && !m0 then (scopeOf m3).map (fun s => .phase ⟨s, tk⟩) else none
  | 8 =>
    if d == 0 && !m0 then
      match pathOf (fldN w 18 5), pathOf (fldN w 13 5), scopeOf m3 with
      | some p1, some p2, some s => some (.fencx ⟨p1, p2, s, tk⟩)
      | _, _, _ => none
    else none
  | 9 => if !m0 then (ccOf m3).map (fun cc => .waitw ⟨d, a, b, cc, tk⟩) else none
  | 10 => if d == 0 && m3 == 0 && !m0 then some (.hgive ⟨a, b, tk⟩) else none
  | 11 => if b == 0 && m3 == 0 && !m0 then some (.htake ⟨d, a, tk⟩) else none
  | 12 => if b == 0 && m3 == 0 && !m0 then some (.hqry ⟨d, a, tk⟩) else none
  | 26 =>
    if d == 0 && m0 then (scopeOf m3).map (fun s => .ared ⟨a, b, s, tk⟩) else none
  | _ =>
    match scopeOf m3 with
    | some s => atomicOf op ⟨d, a, b, s, m0, tk⟩
    | none => none

/-- Class 0111 (R53, R60). -/
def decodeS (w : Nat) : Option Instr :=
  let tk := fld w 0 4
  let imm := fldN w 4 16
  let r := fld w 15 5
  let num := fld w 4 11
  match fldN w 20 8 with
  | 1 => some (.trap ⟨fld w 4 16, tk⟩)
  | 2 => if imm = 0 then some (.eret ⟨tk⟩) else none
  | 3 => if ssAssigned num then some (.ssrd ⟨r, num, tk⟩) else none
  | 4 => if ssAssigned num then some (.sswr ⟨r, num, tk⟩) else none
  | 5 => some (.sleep ⟨fld w 4 16, tk⟩)
  | 6 => if imm = 0 then some (.halt ⟨tk⟩) else none
  | 7 => if imm = 0 then some (.yld ⟨tk⟩) else none
  | 8 => if imm % 256 = 0 then (tlbiKindOf (fldN w 12 3)).map (fun k => .tlbi ⟨r, k, tk⟩) else none
  | 9 => if num.toNat < 63 then some (.ireg ⟨r, num, tk⟩) else none
  | 10 => some (.brk ⟨fld w 4 16, tk⟩)
  | 11 => if imm < 16 then some (.rrbs ⟨fld w 4 4, tk⟩) else none
  | _ => none

/-- Class 1010 (R52, R61). -/
def decodeT (w : Nat) : Option Instr :=
  let d := fld w 23 5
  let a := fld w 18 5
  let b := fld w 13 5
  let tk := fld w 0 4
  if fldN w 4 4 = 0 then
    match fldN w 8 5 with
    | 0 => if b = 0 then some (.oclm ⟨d, a, tk⟩) else none
    | 1 => if d = 0 then some (.orel ⟨a, b, tk⟩) else none
    | 2 => if d = 0 then some (.epil ⟨a, b, tk⟩) else none
    | 3 => if d = 0 ∧ b = 0 then some (.accd ⟨a, tk⟩) else none
    | 4 => if b = 0 then some (.taskw ⟨d, a, tk⟩) else none
    | _ => none
  else none

/-- Class 1011 (R52, R61). -/
def decodeR (w : Nat) : Option Instr :=
  let d := fld w 23 5
  let a := fld w 18 5
  let b := fld w 13 5
  let tk := fld w 0 4
  let md := fldN w 4 4
  match fldN w 8 5 with
  | 0 => if md = 0 then some (.rbind ⟨d, a, b, tk⟩) else none
  | 1 => if md = 0 ∧ d = 0 ∧ b = 0 then some (.rfree ⟨a, tk⟩) else none
  | 2 => if md = 0 ∧ d = 0 ∧ b = 0 then some (.rinv ⟨a, tk⟩) else none
  | 3 => if md = 0 ∧ b = 0 then some (.rqry ⟨d, a, tk⟩) else none
  | 4 => if b = 0 then (rCounterOf md).map (fun ctr => .rcnt ⟨d, a, ctr, tk⟩) else none
  | _ => none

/-- Class 1100 (R52, R61). -/
def decodeG (w : Nat) : Option Instr :=
  let d := fld w 23 5
  let a := fld w 18 5
  let b := fld w 13 5
  let tk := fld w 0 4
  if fldN w 4 4 = 0 then
    match fldN w 8 5 with
    | 0 => if d = 0 then some (.cfgld ⟨a, b, tk⟩) else none
    | 1 => if b = 0 then some (.cfgq ⟨d, a, tk⟩) else none
    | 2 => if d = 0 ∧ b = 0 then some (.rack ⟨a, tk⟩) else none
    | 3 => if d = 0 ∧ b = 0 then some (.kiln ⟨a, tk⟩) else none
    | 4 => if d = 0 then some (.thaw ⟨a, b, tk⟩) else none
    | 5 => if d = 0 ∧ b = 0 then some (.rgo ⟨a, tk⟩) else none
    | 8 => if d = 0 ∧ b = 0 then some (.garm ⟨a, tk⟩) else none
    | 9 => if d = 0 then some (.gset ⟨a, b, tk⟩) else none
    | 10 => if d = 0 then some (.emit ⟨a, b, tk⟩) else none
    | 11 => if d = 0 ∧ b = 0 then some (.sigh ⟨a, tk⟩) else none
    | 16 => if d = 0 then some (.tbld ⟨a, b, tk⟩) else none
    | 17 => if d = 0 then some (.tbsv ⟨a, b, tk⟩) else none
    | _ => none
  else none

/-- The instruction of a 32-bit word, by its class (R42); none for a word that raises ILLEGAL (R43). -/
def decodeWord (w : Nat) : Option Instr :=
  match fldN w 28 4 with
  | 1 => decodeA w
  | 2 => decodeI w
  | 3 => decodeM w
  | 4 => decodeB w
  | 5 => decodeJ w
  | 6 => decodeQ w
  | 7 => decodeS w
  | 9 => decodeF w
  | 10 => decodeT w
  | 11 => decodeR w
  | 12 => decodeG w
  | 14 => some (.phd ⟨fld w 22 6, fld w 16 6, fld w 0 16⟩)
  | 15 => some (.pis ⟨fld w 22 6, fld w 16 6, fld w 0 16⟩)
  | _ => none

/-- The word that four bytes hold, lowest address first (R41). -/
def wordOfBytes : List Byte → Option Nat
  | b0 :: b1 :: b2 :: b3 :: _ => some (b0.toNat + b1.toNat * 2 ^ 8 + b2.toNat * 2 ^ 16 + b3.toNat * 2 ^ 24)
  | _ => none

/-- Decoding of the bytes at the program counter, the first at the lowest address: the instruction and the bytes
that follow its word. -/
def decodeBytes (bs : List Byte) : Option (Instr × List Byte) :=
  match wordOfBytes bs with
  | none => none
  | some w =>
    match decodeWord w with
    | none => none
    | some i => some (i, bs.drop 4)

/-- The four bytes of a word, as R41 stores them. -/
def bytesOfWord (w : Nat) : List Byte :=
  [BitVec.ofNat 8 w, BitVec.ofNat 8 (w / 2 ^ 8), BitVec.ofNat 8 (w / 2 ^ 16), BitVec.ofNat 8 (w / 2 ^ 24)]

/-- What the decoder reads from an instruction whose bits are w (the opcode table's numbering). -/
def decodeTableWord (nbits w : Nat) : Option Instr :=
  if nbits ≤ 32 then (decodeBytes (bytesOfWord (w % 2 ^ nbits))).map Prod.fst else none

/-! The encoder, from the same tables. -/

/-- Scope codes. -/
def Scope.code : Scope → Nat
  | .tile => 0
  | .cluster => 1
  | .die => 2
  | .package => 3
  | .domain => 4
  | .system => 5

/-- Access-path codes. -/
def Path.code : Path → Nat
  | .core => 0
  | .stream => 1
  | .matrix => 2
  | .copy => 3
  | .gather => 4
  | .mesh => 5
  | .front => 6

/-- Condition codes. -/
def Cc.code : Cc → Nat
  | .eq => 0
  | .ne => 1
  | .geu => 2
  | .ltu => 3

/-- Format codes of the scalar FP instructions. -/
def FpFmt.code : FpFmt → Nat
  | .fp32 => 0
  | .bf16 => 1

/-- FCVT destination codes. -/
def CvtDst.code : CvtDst → Nat
  | .fp32 => 0
  | .bf16 => 1
  | .s64 => 2

/-- FCVT source codes. -/
def CvtSrc.code : CvtSrc → Nat
  | .fp32 => 0
  | .bf16 => 1
  | .s32 => 2
  | .s64 => 3
  | .z32 => 4

/-- RCNT counter codes. -/
def RCounter.code : RCounter → Nat
  | .hit => 0
  | .miss => 1
  | .forced => 2
  | .rows => 3
  | .bytes => 4

/-- TLBI kind codes. -/
def TlbiKind.code : TlbiKind → Nat
  | .l2page => 0
  | .vpage => 1
  | .all => 2

/-- Form A of class cls (R47). -/
def encA (cls : Nat) (d a b : BitVec 5) (ta tb : Bool) (fn : Nat) (tk : BitVec 4) : Nat :=
  cls * 2 ^ 28 + d.toNat * 2 ^ 23 + a.toNat * 2 ^ 18 + b.toNat * 2 ^ 13 + ta.toNat * 2 ^ 12 + tb.toNat * 2 ^ 11
    + fn * 2 ^ 4 + tk.toNat

/-- Form A, two sources, class 0001. -/
def encA2 (fn : Nat) (o : FormA2) : Nat := encA 1 o.d o.a o.b o.ta o.tb fn o.tk

/-- Scalar FP, two sources (R56). -/
def encF2 (op : Nat) (o : FormF2) : Nat := encA 9 o.d o.a o.b o.ta o.tb (o.fmt.code * 32 + op) o.tk

/-- Scalar FP, one source (R56). -/
def encF1 (op : Nat) (o : FormF1) : Nat := encA 9 o.d o.a 0 o.ta false (o.fmt.code * 32 + op) o.tk

/-- Form I (R48). -/
def encI (fn : Nat) (d a : BitVec 5) (ta : Bool) (imm : Nat) (tk : BitVec 4) : Nat :=
  2 * 2 ^ 28 + d.toNat * 2 ^ 23 + a.toNat * 2 ^ 18 + ta.toNat * 2 ^ 17 + fn * 2 ^ 14 + imm * 2 ^ 4 + tk.toNat

/-- Form M (R49). -/
def encM (op : Nat) (o : FormM) : Nat :=
  3 * 2 ^ 28 + o.r.toNat * 2 ^ 23 + o.base.toNat * 2 ^ 18 + op * 2 ^ 14 + o.off.toNat * 2 ^ 4 + o.tk.toNat

/-- Form B (R50). -/
def encB (cond : Nat) (o : FormB) : Nat :=
  4 * 2 ^ 28 + o.a.toNat * 2 ^ 23 + o.b.toNat * 2 ^ 18 + o.ta.toNat * 2 ^ 17 + o.tb.toNat * 2 ^ 16 + cond * 2 ^ 13
    + o.off.toNat * 2 ^ 4 + o.tk.toNat

/-- Form J (R51): rest holds bits [25:4]. -/
def encJ (fn2 rest : Nat) (tk : BitVec 4) : Nat := 5 * 2 ^ 28 + fn2 * 2 ^ 26 + rest * 2 ^ 4 + tk.toNat

/-- Forms Q, T and G (R52). -/
def encQ (cls d a b op md : Nat) (tk : BitVec 4) : Nat :=
  cls * 2 ^ 28 + d * 2 ^ 23 + a * 2 ^ 18 + b * 2 ^ 13 + op * 2 ^ 8 + md * 2 ^ 4 + tk.toNat

/-- Form S (R53). -/
def encS (fn imm : Nat) (tk : BitVec 4) : Nat := 7 * 2 ^ 28 + fn * 2 ^ 20 + imm * 2 ^ 4 + tk.toNat

/-- Patch words (R54). -/
def encPatch (cls : Nat) (o : FormPatch) : Nat :=
  cls * 2 ^ 28 + o.idx.toNat * 2 ^ 22 + o.sel.toNat * 2 ^ 16 + o.value.toNat

/-- The word of an instruction that has one; none for the steps that are no instruction words. -/
def encode : Instr → Option Nat
  | .add o => some (encA2 0 o)
  | .sub o => some (encA2 1 o)
  | .and o => some (encA2 2 o)
  | .or o => some (encA2 3 o)
  | .xor o => some (encA2 4 o)
  | .andn o => some (encA2 5 o)
  | .shl o => some (encA2 6 o)
  | .shr o => some (encA2 7 o)
  | .sar o => some (encA2 8 o)
  | .rot o => some (encA2 9 o)
  | .mul o => some (encA2 10 o)
  | .mulh o => some (encA2 11 o)
  | .mulhz o => some (encA2 12 o)
  | .div o => some (encA2 13 o)
  | .divz o => some (encA2 14 o)
  | .rem o => some (encA2 15 o)
  | .remz o => some (encA2 16 o)
  | .min o => some (encA2 17 o)
  | .max o => some (encA2 18 o)
  | .minz o => some (encA2 19 o)
  | .maxz o => some (encA2 20 o)
  | .slt o => some (encA2 21 o)
  | .sltz o => some (encA2 22 o)
  | .seq o => some (encA2 23 o)
  | .sel o => some (encA2 24 o)
  | .clz o => some (encA 1 o.d o.a 0 o.ta false 25 o.tk)
  | .popc o => some (encA 1 o.d o.a 0 o.ta false 26 o.tk)
  | .bext o => some (encA2 27 o)
  | .bins o => some (encA2 28 o)
  | .addw o => some (encA2 29 o)
  | .lea o => some (encA 1 o.d o.a o.b o.ta o.tb (32 + o.sc.toNat) o.tk)
  | .leas o => some (encA 1 o.d o.a o.b o.ta o.tb (36 + o.sc.toNat) o.tk)
  | .ji o => some (encA 1 0 o.a 0 o.ta false 48 o.tk)
  | .jli o => some (encA 1 o.d o.a 0 o.ta false 49 o.tk)
  | .fadd o => some (encF2 0 o)
  | .fsub o => some (encF2 1 o)
  | .fmul o => some (encF2 2 o)
  | .ffma o => some (encF2 3 o)
  | .fmin o => some (encF2 4 o)
  | .fmax o => some (encF2 5 o)
  | .fabs o => some (encF1 6 o)
  | .fneg o => some (encF1 7 o)
  | .fcmp o => some (encF2 8 o)
  | .fcvt o => some (encA 9 o.d o.a (BitVec.ofNat 5 o.src.code) o.ta false (o.dst.code * 32 + 9) o.tk)
  | .frcp o => some (encF1 10 o)
  | .frsq o => some (encF1 11 o)
  | .addi o => some (encI 0 o.d o.a o.ta o.imm.toNat o.tk)
  | .andi o => some (encI 1 o.d o.a o.ta o.imm.toNat o.tk)
  | .ori o => some (encI 2 o.d o.a o.ta o.imm.toNat o.tk)
  | .xori o => some (encI 3 o.d o.a o.ta o.imm.toNat o.tk)
  | .shli o => some (encI 4 o.d o.a o.ta o.sh.toNat o.tk)
  | .shri o => some (encI 5 o.d o.a o.ta o.sh.toNat o.tk)
  | .sari o => some (encI 6 o.d o.a o.ta o.sh.toNat o.tk)
  | .slti o => some (encI 7 o.d o.a o.ta o.imm.toNat o.tk)
  | .ldb o => some (encM 0 o)
  | .ldbz o => some (encM 1 o)
  | .ldh o => some (encM 2 o)
  | .ldhz o => some (encM 3 o)
  | .ldw o => some (encM 4 o)
  | .ldwz o => some (encM 5 o)
  | .ldd o => some (encM 6 o)
  | .stb o => some (encM 8 o)
  | .sth o => some (encM 9 o)
  | .stw o => some (encM 10 o)
  | .std o => some (encM 11 o)
  | .lih o => some (3 * 2 ^ 28 + o.d.toNat * 2 ^ 23 + o.imm.toNat / 1024 * 2 ^ 18 + 15 * 2 ^ 14 + o.imm.toNat % 1024 * 2 ^ 4 + o.tk.toNat)
  | .beq o => some (encB 0 o)
  | .bne o => some (encB 1 o)
  | .blt o => some (encB 2 o)
  | .bge o => some (encB 3 o)
  | .blo o => some (encB 4 o)
  | .bhs o => some (encB 5 o)
  | .j o => some (encJ 0 o.off.toNat o.tk)
  | .jl o => some (encJ 1 o.off.toNat o.tk)
  | .loop o => some (encJ 2 (o.lcb.toNat * 2 ^ 21 + o.a.toNat * 2 ^ 16 + o.off.toNat) o.tk)
  | .brloop o => some (encJ 3 (o.lcb.toNat * 2 ^ 21 + o.off.toNat) o.tk)
  | .qpop o => some (encQ 6 o.d.toNat o.q.toNat 0 0 o.t.toNat o.tk)
  | .qpeek o => some (encQ 6 o.d.toNat o.q.toNat 0 1 o.t.toNat o.tk)
  | .qpush o => some (encQ 6 0 o.q.toNat o.b.toNat 2 0 o.tk)
  | .qcnt o => some (encQ 6 o.d.toNat o.q.toNat 0 3 0 o.tk)
  | .tkw o => some (encQ 6 0 o.n1.toNat 0 4 (o.right.toNat * 2) o.tk)
  | .tks o => some (encQ 6 0 o.n1.toNat 0 5 (o.right.toNat * 2) o.tk)
  | .rdvz o => some (encQ 6 0 0 0 6 (o.block.toNat * 2) o.tk)
  | .rendezvousComplete _ _ => none
  | .phase o => some (encQ 6 0 0 0 7 (o.scope.code * 2) o.tk)
  | .fencx o => some (encQ 6 0 o.p1.code o.p2.code 8 (o.scope.code * 2) o.tk)
  | .waitw o => some (encQ 6 o.d.toNat o.a.toNat o.b.toNat 9 (o.cc.code * 2) o.tk)
  | .hgive o => some (encQ 6 0 o.a.toNat o.b.toNat 10 0 o.tk)
  | .htake o => some (encQ 6 o.d.toNat o.a.toNat 0 11 0 o.tk)
  | .hqry o => some (encQ 6 o.d.toNat o.a.toNat 0 12 0 o.tk)
  | .aadd o => some (encQ 6 o.d.toNat o.a.toNat o.b.toNat 16 (o.scope.code * 2 + o.narrow.toNat) o.tk)
  | .amin o => some (encQ 6 o.d.toNat o.a.toNat o.b.toNat 17 (o.scope.code * 2 + o.narrow.toNat) o.tk)
  | .amax o => some (encQ 6 o.d.toNat o.a.toNat o.b.toNat 18 (o.scope.code * 2 + o.narrow.toNat) o.tk)
  | .aminz o => some (encQ 6 o.d.toNat o.a.toNat o.b.toNat 19 (o.scope.code * 2 + o.narrow.toNat) o.tk)
  | .amaxz o => some (encQ 6 o.d.toNat o.a.toNat o.b.toNat 20 (o.scope.code * 2 + o.narrow.toNat) o.tk)
  | .aand o => some (encQ 6 o.d.toNat o.a.toNat o.b.toNat 21 (o.scope.code * 2 + o.narrow.toNat) o.tk)
  | .aor o => some (encQ 6 o.d.toNat o.a.toNat o.b.toNat 22 (o.scope.code * 2 + o.narrow.toNat) o.tk)
  | .axor o => some (encQ 6 o.d.toNat o.a.toNat o.b.toNat 23 (o.scope.code * 2 + o.narrow.toNat) o.tk)
  | .axch o => some (encQ 6 o.d.toNat o.a.toNat o.b.toNat 24 (o.scope.code * 2 + o.narrow.toNat) o.tk)
  | .acas o => some (encQ 6 o.d.toNat o.a.toNat o.b.toNat 25 (o.scope.code * 2 + o.narrow.toNat) o.tk)
  | .ared o => some (encQ 6 0 o.a.toNat o.b.toNat 26 (o.scope.code * 2 + 1) o.tk)
  | .atomicPortApply _ => none
  | .nearLoadLanding _ _ _ => none
  | .divisionLands _ _ _ => none
  | .trap o => some (encS 1 o.code.toNat o.tk)
  | .eret o => some (encS 2 0 o.tk)
  | .ssrd o => some (encS 3 (o.r.toNat * 2 ^ 11 + o.num.toNat) o.tk)
  | .sswr o => some (encS 4 (o.r.toNat * 2 ^ 11 + o.num.toNat) o.tk)
  | .sleep o => some (encS 5 o.code.toNat o.tk)
  | .sleepExpiry _ _ => none
  | .halt o => some (encS 6 0 o.tk)
  | .yld o => some (encS 7 0 o.tk)
  | .tlbi o => some (encS 8 (o.a.toNat * 2 ^ 11 + o.kind.code * 2 ^ 8) o.tk)
  | .ireg o => some (encS 9 (o.a.toNat * 2 ^ 11 + o.vec.toNat) o.tk)
  | .brk o => some (encS 10 o.code.toNat o.tk)
  | .rrbs o => some (encS 11 o.n.toNat o.tk)
  | .timerCompare _ _ => none
  | .intr _ _ => none
  | .oclm o => some (encQ 10 o.d.toNat o.a.toNat 0 0 0 o.tk)
  | .orel o => some (encQ 10 0 o.a.toNat o.b.toNat 1 0 o.tk)
  | .epil o => some (encQ 10 0 o.a.toNat o.b.toNat 2 0 o.tk)
  | .accd o => some (encQ 10 0 o.a.toNat 0 3 0 o.tk)
  | .taskw o => some (encQ 10 o.d.toNat o.a.toNat 0 4 0 o.tk)
  | .rbind o => some (encQ 11 o.d.toNat o.a.toNat o.b.toNat 0 0 o.tk)
  | .rfree o => some (encQ 11 0 o.a.toNat 0 1 0 o.tk)
  | .rinv o => some (encQ 11 0 o.a.toNat 0 2 0 o.tk)
  | .rqry o => some (encQ 11 o.d.toNat o.a.toNat 0 3 0 o.tk)
  | .rcnt o => some (encQ 11 o.d.toNat o.a.toNat 0 4 o.ctr.code o.tk)
  | .cfgld o => some (encQ 12 0 o.a.toNat o.b.toNat 0 0 o.tk)
  | .cfgq o => some (encQ 12 o.d.toNat o.a.toNat 0 1 0 o.tk)
  | .rack o => some (encQ 12 0 o.a.toNat 0 2 0 o.tk)
  | .kiln o => some (encQ 12 0 o.a.toNat 0 3 0 o.tk)
  | .thaw o => some (encQ 12 0 o.a.toNat o.b.toNat 4 0 o.tk)
  | .rgo o => some (encQ 12 0 o.a.toNat 0 5 0 o.tk)
  | .garm o => some (encQ 12 0 o.a.toNat 0 8 0 o.tk)
  | .gset o => some (encQ 12 0 o.a.toNat o.b.toNat 9 0 o.tk)
  | .emit o => some (encQ 12 0 o.a.toNat o.b.toNat 10 0 o.tk)
  | .sigh o => some (encQ 12 0 o.a.toNat 0 11 0 o.tk)
  | .tbld o => some (encQ 12 0 o.a.toNat o.b.toNat 16 0 o.tk)
  | .tbsv o => some (encQ 12 0 o.a.toNat o.b.toNat 17 0 o.tk)
  | .phd o => some (encPatch 14 o)
  | .pis o => some (encPatch 15 o)
  | .commandCompletion _ => none
  | .replyArrival _ => none
  | .slotCommandStart _ _ => none
  | .sld _ _ => none
  | .sst _ _ => none
  | .sidx _ _ => none
  | .ssct _ _ => none
  | .srec _ _ => none
  | .scon _ _ => none
  | .smcl _ _ => none
  | .scmp _ _ => none
  | .sbar _ _ => none
  | .scls _ _ => none
  | .swt _ _ => none
  | .spip _ _ => none
  | .sprv _ _ => none
  | .pipArrival _ => none
  | .sectionSquash _ _ _ => none
  | .sectionCommit _ _ => none
  | .groupFire _ _ _ => none
  | .formatMarkerTake _ _ _ _ => none
  | .endOfStream _ _ _ => none
  | .converterConvert _ _ _ => none
  | .settleReport _ _ => none
  | .kilnWaveComplete _ _ => none
  | .kilnTimeout _ _ => none
  | .mmd _ _ => none
  | .mms _ _ => none
  | .mmg _ _ => none
  | .mmdl _ _ => none
  | .taskDispatch _ => none
  | .taskStart _ _ => none
  | .taskComplete _ _ => none
  | .epilogueDrain _ _ => none
  | .drainComplete _ _ => none
  | .mmdlWriteback _ _ => none
  | .cpy _ _ => none
  | .cpyw _ _ => none
  | .cfil _ _ => none
  | .lrchk _ _ => none
  | .gthr _ _ => none
  | .sctr _ _ => none
  | .caskq _ => none
  | .caskrp _ => none
  | .caskcp _ => none
  | .glnc _ => none
  | .gnxt _ => none
  | .garmApply _ => none
  | .gsetApply _ => none
  | .emitApply _ => none
  | .sighApply _ => none
  | .ringCoalesceTimeout _ => none
  | .ringFullReread _ => none
  | .launchGraph _ => none
  | .bind _ => none
  | .configRegion _ => none
  | .copy _ => none
  | .signal _ => none
  | .wait _ => none
  | .queueCreate _ => none
  | .queueDestroy _ => none
  | .channelResync _ => none
  | .selectionPass => none
  | .jobStart _ => none
  | .jobComplete _ => none
  | .bindNode _ => none
  | .copyNode _ => none
  | .gatherNode _ => none
  | .cond _ => none
  | .host _ => none
  | .rearm _ => none
  | .graphComplete _ => none
  | .watchdog _ _ => none
  | .eventRecordWrite _ => none
  | .resume _ _ => none
  | .terminate _ _ => none
  | .pageWalk _ => none
  | .collapse _ => none
  | .scrubPass _ => none
  | .uncorrectableError _ => none
  | .notify _ _ => none
  | .cret _ _ => none
  | .reconcile _ => none
  | .ctxreq _ _ => none
  | .invreq _ _ _ => none
  | .chmap _ _ => none
  | .qtctlPause _ _ => none
  | .clkreq _ _ => none
  | .clockSwitch => none
  | .powerLimit _ => none
  | .clockCapStep => none
  | .registerWrite _ _ _ => none
  | .bar2Read _ _ _ => none
  | .bar2Write _ _ _ => none
  | .incomingRead _ _ _ => none
  | .incomingWrite _ _ _ => none
  | .incomingAtomic _ _ _ _ _ _ => none
  | .remoteTimeout _ => none
  | .moduleReset => none
  | .append _ => none
  | .commit => none
  | .abort => none
  | .getVersion => none
  | .getCapabilities => none
  | .negotiateAlgorithms _ _ => none
  | .getDigests => none
  | .getCertificate _ _ _ => none
  | .challenge _ => none
  | .getMeasurements _ _ => none
  | .illegalInstruction _ => none
  | .fetchFault => none
  | .resultLands _ _ _ => none
  | .postedStorePerformed _ _ _ _ => none
  | .writeEntersView _ _ _ => none
  | .yldExpiry _ _ => none
  | .taskSlotReadEnd _ _ => none
  | .liveStartDeadline _ => none
  | .eventQueueReread _ => none

end Sys2Proof
end

