-- ==== Sys2Proof/Machine/Numeric.lean ====
section
/-! DEFINITION. Number formats, exact values and rounding (R88 to R104): every value is read as an exact dyadic number,
an infinity or a NaN, and every rounding is the one of R98. -/

namespace Sys2Proof.Machine

/-- An exact value: m · 2 ^ e with a sign, an infinity, or a NaN (R102). A zero keeps its sign (R90). -/
inductive Val where
  | nan
  | inf (neg : Bool)
  | fin (neg : Bool) (m : Nat) (e : Int)
  deriving DecidableEq, Repr

/-- A floating-point format: the widths of its exponent and fraction, whether it is E4M3, and how many leading fraction bits its
canonical NaN sets (R89). -/
structure FloatFmt where
  eb : Nat
  fb : Nat
  e4m3 : Bool := false
  nanBits : Nat := 1
  deriving DecidableEq, Repr

def fp32 : FloatFmt := { eb := 8, fb := 23 }
def bf16 : FloatFmt := { eb := 8, fb := 7 }
def fp16 : FloatFmt := { eb := 5, fb := 10 }
def e5m2 : FloatFmt := { eb := 5, fb := 2 }
def e4m3 : FloatFmt := { eb := 4, fb := 3, e4m3 := true }
def a48 : FloatFmt := { eb := 9, fb := 38, nanBits := 3 }

/-- The bias of a format (R89). -/
def fbias (f : FloatFmt) : Nat := 2 ^ (f.eb - 1) - 1

/-- The code of the largest finite magnitude (R89). -/
def fmaxCode (f : FloatFmt) : Nat :=
  if f.e4m3 then 2 ^ (f.eb + f.fb) - 2 else (2 ^ f.eb - 1) * 2 ^ f.fb - 1

/-- The code of infinity. -/
def finfCode (f : FloatFmt) : Nat := (2 ^ f.eb - 1) * 2 ^ f.fb

/-- The canonical NaN (R89, R90). -/
def fnanCode (f : FloatFmt) : Nat :=
  if f.e4m3 then 2 ^ (f.eb + f.fb) - 1 else 2 ^ (f.eb + f.fb) - 2 ^ (f.fb - f.nanBits)

/-- A sign placed above a magnitude code. -/
def fsign (f : FloatFmt) (neg : Bool) (code : Nat) : Nat := if neg then code + 2 ^ (f.eb + f.fb) else code

/-- The exact value of a code (R89). -/
def fdecode (f : FloatFmt) (x : Nat) : Val :=
  let neg := bitN x (f.eb + f.fb)
  let e := x / 2 ^ f.fb % 2 ^ f.eb
  let m := x % 2 ^ f.fb
  if e = 2 ^ f.eb - 1 && !f.e4m3 then (if m = 0 then .inf neg else .nan)
  else if e = 2 ^ f.eb - 1 && m = 2 ^ f.fb - 1 then .nan
  else if e = 0 then .fin neg m (1 - (fbias f : Int) - f.fb)
  else .fin neg (m + 2 ^ f.fb) ((e : Int) - fbias f - f.fb)

/-- The sticky flags that a scalar floating-point instruction may set (R101). -/
structure FFlags where
  nv : Bool := false
  dz : Bool := false
  ovf : Bool := false
  uf : Bool := false
  nx : Bool := false
  sat : Bool := false
  deriving DecidableEq, Repr

/-- Rounding mode codes (R97): 1 RNE, 2 RTZ, 3 RUP, 4 RDN, 5 SR. -/
def rmRne : Nat := 1

/-- Whether a magnitude t + (r + sticky) / 2 ^ sh is rounded up (R98). -/
def roundUp (rm u : Nat) (neg : Bool) (t r sh : Nat) (sticky : Bool) : Bool :=
  match rm with
  | 1 => decide (2 * r > 2 ^ sh) || (decide (2 * r = 2 ^ sh) && (sticky || t % 2 == 1))
  | 3 => !neg && (decide (r > 0) || sticky)
  | 4 => neg && (decide (r > 0) || sticky)
  | 5 => decide (u < r * 2 ^ 32 / 2 ^ sh)
  | _ => false

/-- The magnitude m · 2 ^ e in units of 2 ^ ue: the floor, the remainder over 2 ^ sh, and sh. -/
def inUnits (m : Nat) (e ue : Int) : Nat × Nat × Nat :=
  if ue ≤ e then (m * 2 ^ (e - ue).toNat, 0, 0)
  else
    let sh := (ue - e).toNat
    (m / 2 ^ sh, m % 2 ^ sh, sh)

/-- Whether the rounding direction points away from zero, for overflow (R98). -/
def roundAway (rm : Nat) (neg : Bool) : Bool :=
  match rm with
  | 1 => true
  | 5 => true
  | 3 => !neg
  | 4 => neg
  | _ => false

/-- The code and flags of a non-zero magnitude m · 2 ^ e, or slightly more when sticky is set, rounded (R98). -/
def roundFin (f : FloatFmt) (sat8 : Bool) (rm u : Nat) (neg : Bool) (m : Nat) (e : Int) (sticky : Bool := false) :
    Nat × FFlags :=
  let emin : Int := 1 - (fbias f : Int)
  let ue : Int := max ((Nat.log2 m : Int) + e) emin - f.fb
  let (t, r, sh) := inUnits m e ue
  let q := if roundUp rm u neg t r sh sticky then t + 1 else t
  let code := (ue + f.fb + fbias f - 1).toNat * 2 ^ f.fb + q
  let inexact := decide (r > 0) || sticky
  if code > fmaxCode f then
    let res :=
      if roundAway rm neg then
        (if f.e4m3 then (if sat8 then fsign f neg (fmaxCode f) else fnanCode f) else fsign f neg (finfCode f))
      else fsign f neg (fmaxCode f)
    (res, { ovf := true, nx := true })
  else
    (fsign f neg code, { nx := inexact, uf := inexact && decide (code < 2 ^ f.fb) })

/-- A value as a code of a floating-point format, with flags (R102). -/
def toFloat (f : FloatFmt) (sat8 : Bool) (rm u : Nat) : Val → Nat × FFlags
  | .nan => (fnanCode f, {})
  | .inf neg =>
    if f.e4m3 then ((if sat8 then fsign f neg (fmaxCode f) else fnanCode f), {}) else (fsign f neg (finfCode f), {})
  | .fin neg m e => if m = 0 then (fsign f neg 0, {}) else roundFin f sat8 rm u neg m e

/-- A value rounded and saturated to the integers from lo to hi, with flags (R98, R102, R138). -/
def toInt (lo hi : Int) (rm u : Nat) : Val → Int × FFlags
  | .nan => (0, { nv := true, sat := true })
  | .inf neg => (if neg then lo else hi, { nv := true, sat := true })
  | .fin neg m e =>
    let (t, r, sh) := inUnits m e 0
    let q : Nat := if roundUp rm u neg t r sh false then t + 1 else t
    let x : Int := if neg then -(q : Int) else q
    let nx := decide (r > 0)
    if x < lo then (lo, { nv := true, sat := true, nx })
    else if x > hi then (hi, { nv := true, sat := true, nx })
    else (x, { nx })

/-- The exact value of an integer. -/
def ofInt (x : Int) : Val := .fin (decide (x < 0)) x.natAbs 0

/-- A finite value as a multiple of 2 ^ e0, for e0 at most its exponent. -/
def scaled (neg : Bool) (m : Nat) (e e0 : Int) : Int :=
  let x : Int := (m * 2 ^ (e - e0).toNat : Nat)
  if neg then -x else x

/-- The exact product (R90): 0 × ∞ is NaN. -/
def vmul : Val → Val → Val
  | .nan, _ => .nan
  | _, .nan => .nan
  | .inf n, .inf n' => .inf (n != n')
  | .inf n, .fin n' m _ => if m = 0 then .nan else .inf (n != n')
  | .fin n m _, .inf n' => if m = 0 then .nan else .inf (n != n')
  | .fin n m e, .fin n' m' e' => .fin (n != n') (m * m') (e + e')

/-- The exact sum (R90): ∞ − ∞ is NaN; an exact zero sum is +0 unless both are −0. -/
def vadd : Val → Val → Val
  | .nan, _ => .nan
  | _, .nan => .nan
  | .inf n, .inf n' => if n = n' then .inf n else .nan
  | .inf n, .fin _ _ _ => .inf n
  | .fin _ _ _, .inf n => .inf n
  | .fin n m e, .fin n' m' e' =>
    let e0 := min e e'
    let x := scaled n m e e0 + scaled n' m' e' e0
    if x = 0 then .fin (n && n' && m == 0 && m' == 0) 0 e0
    else .fin (decide (x < 0)) x.natAbs e0

def vneg : Val → Val
  | .nan => .nan
  | .inf n => .inf (!n)
  | .fin n m e => .fin (!n) m e

def visNan : Val → Bool
  | .nan => true
  | _ => false

def visInf : Val → Bool
  | .inf _ => true
  | _ => false

def visZero : Val → Bool
  | .fin _ m _ => m == 0
  | _ => false

def vneg? : Val → Bool
  | .nan => false
  | .inf n => n
  | .fin n _ _ => n

/-- Comparison of two values that are not NaN: zeros of either sign are equal. -/
def vlt : Val → Val → Bool
  | .nan, _ => false
  | _, .nan => false
  | .inf n, .inf n' => n && !n'
  | .inf n, .fin _ _ _ => n
  | .fin _ _ _, .inf n => !n
  | .fin n m e, .fin n' m' e' =>
    let e0 := min e e'
    decide (scaled n m e e0 < scaled n' m' e' e0)

def veq (x y : Val) : Bool := !visNan x && !visNan y && !vlt x y && !vlt y x

/-- The integer square root, one bit a step: the largest r below 2 ^ n with r · r at most x, built from acc. -/
def isqrtAux (x : Nat) : Nat → Nat → Nat
  | 0, acc => acc
  | n + 1, acc => isqrtAux x n (if (acc + 2 ^ n) * (acc + 2 ^ n) ≤ x then acc + 2 ^ n else acc)

/-- The integer square root of a number below 2 ^ 800. -/
def isqrt (x : Nat) : Nat := isqrtAux x (Nat.log2 x / 2 + 1) 0

/-- The correctly rounded reciprocal (R137): ±0 gives ±∞ with DZ, ±∞ gives ±0. -/
def frcpOf (f : FloatFmt) (rm u : Nat) : Val → Nat × FFlags
  | .nan => (fnanCode f, {})
  | .inf n => (fsign f n 0, {})
  | .fin n m e =>
    if m = 0 then (fsign f n (finfCode f), { dz := true })
    else roundFin f false rm u n (2 ^ 160 / m) (-e - 160) (2 ^ 160 % m != 0)

/-- The correctly rounded reciprocal square root (R137). -/
def frsqOf (f : FloatFmt) (rm u : Nat) : Val → Nat × FFlags
  | .nan => (fnanCode f, {})
  | .inf n => if n then (fnanCode f, { nv := true }) else (0, {})
  | .fin n m e =>
    if m = 0 then (fsign f n (finfCode f), { dz := true })
    else if n then (fnanCode f, { nv := true })
    else
      let (m', e') := if e % 2 = 0 then (m, e) else (2 * m, e - 1)
      let r := isqrt (2 ^ 240 / m')
      roundFin f false rm u false r (-120 - e' / 2) (r * r * m' != 2 ^ 240)

/-- One round of Philox-4×32 (R99). -/
def philoxRound (c : Nat × Nat × Nat × Nat) (k0 k1 : Nat) : Nat × Nat × Nat × Nat :=
  let (c0, c1, c2, c3) := c
  let p0 := 0xD2511F53 * c0
  let p1 := 0xCD9E8D57 * c2
  ((p1 / 2 ^ 32).xor (c1.xor k0), p1 % 2 ^ 32, (p0 / 2 ^ 32).xor (c3.xor k1), p0 % 2 ^ 32)

/-- n rounds of Philox with the key raised after each (R99). -/
def philoxRounds : Nat → Nat × Nat × Nat × Nat → Nat → Nat → Nat × Nat × Nat × Nat
  | 0, c, _, _ => c
  | n + 1, c, k0, k1 =>
    philoxRounds n (philoxRound c k0 k1) ((k0 + 0x9E3779B9) % 2 ^ 32) ((k1 + 0xBB67AE85) % 2 ^ 32)

/-- The generator behind stochastic rounding (R99): its output words under a context's 64-bit key. -/
def philox (c0 c1 c2 c3 : Nat) (key : Word) : Nat × Nat × Nat × Nat :=
  philoxRounds 10 (c0 % 2 ^ 32, c1 % 2 ^ 32, c2 % 2 ^ 32, c3 % 2 ^ 32) (key.toNat % 2 ^ 32) (key.toNat / 2 ^ 32)

/-- The random word of one rounding: c0 of the output (R100). -/
def srWord (c0 c1 c2 c3 : Nat) (key : Word) : Nat := (philox c0 c1 c2 c3 key).1

/-- Storage formats by code (R88). -/
inductive Sf where | flt (f : FloatFmt) | int (bits : Nat) (signed : Bool) | bpi
  deriving DecidableEq, Repr

def sfOf : Nat → Option Sf
  | 0 => some (.flt fp32)
  | 1 => some (.flt bf16)
  | 2 => some (.flt fp16)
  | 3 => some (.flt e4m3)
  | 4 => some (.flt e5m2)
  | 5 => some .bpi
  | 6 => some (.int 8 true)
  | 7 => some (.int 8 false)
  | 8 => some (.int 16 true)
  | 9 => some (.int 16 false)
  | 10 => some (.int 32 true)
  | 11 => some (.int 32 false)
  | 12 => some (.int 64 true)
  | _ => none

/-- Bytes of an element of a format; a BPI element counts as one byte of planes (R88). -/
def sfBytes : Sf → Nat
  | .flt f => (f.eb + f.fb + 1) / 8
  | .int b _ => b / 8
  | .bpi => 1

/-- The exact value of an element of a format other than BPI (R89, R91). -/
def sfRead (sf : Sf) (x : Nat) : Val :=
  match sf with
  | .flt f => fdecode f x
  | .int b sg => ofInt (if sg then sextN b x else (x % 2 ^ b : Nat))
  | .bpi => .nan

/-- A value converted to a format other than BPI (R102). -/
def sfWrite (sf : Sf) (sat8 : Bool) (rm u : Nat) (v : Val) : Nat :=
  match sf with
  | .flt f => (toFloat f sat8 rm u v).1
  | .int b sg =>
    if sg then wrapI b (toInt (-(2 ^ (b - 1) : Nat)) ((2 ^ (b - 1) : Nat) - 1) rm u v).1
    else wrapI b (toInt 0 ((2 ^ b : Nat) - 1) rm u v).1
  | .bpi => 0

/-- The stored value of element i of a BPI group of 64 plane bytes (R92): bit k comes from plane k. -/
def bpiStored (planes : List Byte) (i : Nat) : Nat :=
  packN 1 ((List.range 8).map fun k => (planes.getD ((7 - k) * 8 + i / 8) 0).toNat / 2 ^ (i % 8))

/-- The integer w + h that p planes of a stored value give (R93). -/
def bpiInt (p : Nat) (hlsb : Bool) (v : Nat) : Int :=
  let w : Int := (sextN 8 v) / 2 ^ (8 - p) * 2 ^ (8 - p)
  if hlsb && decide (p < 8) then w + (2 ^ (7 - p) : Nat) else w

/-- The real value of a BPI element (R93, R94). -/
def bpiVal (p : Nat) (hlsb : Bool) (v scale : Nat) : Val :=
  if scale = 255 then .nan
  else
    let x := bpiInt p hlsb v
    .fin (decide (x < 0)) x.natAbs ((scale : Int) - 127)

/-- The plane bytes of a group of 64 stored values (R92). -/
def bpiPlanes (vs : List Nat) : List Byte :=
  (List.range 64).map fun m =>
    BitVec.ofNat 8 (packN 1 ((List.range 8).map fun b => vs.getD (8 * (m % 8) + b) 0 / 2 ^ (7 - m / 8)))

/-- The exponent of a non-zero finite value. -/
def vexp : Val → Int
  | .fin _ m e => (Nat.log2 m : Int) + e
  | _ => 0

/-- One half of a BPI group: the scale and stored values of 32 elements (R116). u gives the random words. -/
def bpiHalf (rm : Nat) (u : Nat → Nat) (xs : List Val) : Nat × List Nat :=
  if xs.any (fun x => visNan x || visInf x) then (255, xs.map fun _ => 0)
  else
    let mags := (xs.filter (fun x => !visZero x)).map vexp
    match mags with
    | [] => (0, xs.map fun _ => 0)
    | g :: gs =>
      let top := gs.foldl max g
      let sc := min (max (top - 6 + 127) 0) 254
      (sc.toNat, xs.zipIdx.map fun (x, i) =>
        match x with
        | .fin n m e => wrapI 8 (toInt (-128) 127 rm (u i) (.fin n m (e - sc + 127))).1
        | _ => 0)

/-- An A48 value as a code, rounded to nearest (R95, R103). -/
def rneA48 (v : Val) : BitVec 48 := BitVec.ofNat 48 (toFloat a48 false 1 0 v).1

/-- One group of products summed exactly and rounded once (R103). -/
def groupSum (prods : List Val) : Val :=
  if prods.any visNan then .nan
  else if prods.any (fun p => decide (p = .inf true)) && prods.any (fun p => decide (p = .inf false)) then .nan
  else
    match prods.find? visInf with
    | some x => x
    | none =>
      match prods with
      | [] => .fin false 0 0
      | p :: ps => fdecode a48 (toFloat a48 false 1 0 (ps.foldl vadd p)).1

/-- An I48 addition with its saturation flag (R96). -/
def sat48 (x : Int) : BitVec 48 × Bool :=
  if x > 2 ^ 47 - 1 then (BitVec.ofInt 48 (2 ^ 47 - 1), true)
  else if x < -(2 ^ 47) then (BitVec.ofInt 48 (-(2 ^ 47)), true)
  else (BitVec.ofInt 48 x, false)

end Sys2Proof.Machine
end

