-- ==== Sys2Proof/Machine/Flags.lean ====
section
/-! DEFINITION. The floating-point environment of a stream (R101): the rounding mode, the sticky flags, and the random
word of a scalar rounding (R100, R139). -/

namespace Sys2Proof.Machine

/-- ss.fe.RM (R101). -/
def feRm (st : Stream) : Nat := wf64 st.fe 2 0

/-- The sticky flags as bits of ss.fe (R101). -/
def flagBits (f : FFlags) : Word :=
  BitVec.ofNat 64 ((if f.nv then 2 ^ 8 else 0) + (if f.dz then 2 ^ 9 else 0) + (if f.ovf then 2 ^ 10 else 0)
    + (if f.uf then 2 ^ 11 else 0) + (if f.nx then 2 ^ 12 else 0) + (if f.sat then 2 ^ 13 else 0))

/-- Flags are sticky: an instruction only adds to them (R101, R137). -/
def setFlags (st : Stream) (f : FFlags) : Stream := { st with fe := st.fe ||| flagBits f }

/-- ss.fe after an SSWR: reserved fields read as zero, and a mode of 0, 6 or 7 leaves RM unchanged (R101, R5). -/
def feWrite (old v : Word) : Word :=
  let rm := wf64 v 2 0
  let keep := if rm = 0 || decide (6 ≤ rm) then wf64 old 2 0 else rm
  BitVec.ofNat 64 (wf64 v 13 8 * 2 ^ 8 + keep)

/-- The random word that a scalar instruction draws under SR (R100, R139); any number serves the other modes. -/
def scalarSr (s : State) (st : Stream) : Nat :=
  if feRm st = 5 then
    srWord (wf64 st.srctr 31 0) (wf64 st.srctr 63 32) 0xFFFFFFFF (0x01000000 + 4 * s.curTile + sidx s.curStrm)
      (srKey s s.curTile)
  else 0

/-- A scalar rounding under SR adds 1 to ss.srctr, exact or not (R139). -/
def stepSr (st : Stream) : Stream := if feRm st = 5 then { st with srctr := st.srctr + 1 } else st

/-- NaN-aware flags of an addition and of a multiplication (R137): NV for ∞ − ∞ and for 0 × ∞. -/
def addInvalid (x y : Val) : Bool := visInf x && visInf y && vneg? x != vneg? y
def mulInvalid (x y : Val) : Bool := (visInf x && visZero y) || (visZero x && visInf y)

/-- A result rounded to a scalar format with the flags of the rounding, and NV when the operation was invalid. -/
def roundScalar (f : FloatFmt) (rm u : Nat) (v : Val) (nv : Bool) : Nat × FFlags :=
  let (x, fl) := toFloat f true rm u v
  (x, { fl with nv := nv })

/-- FADD of two values (R137). -/
def faddOf (f : FloatFmt) (rm u : Nat) (x y : Val) : Nat × FFlags :=
  roundScalar f rm u (vadd x y) (addInvalid x y)

/-- FMUL of two values (R137). -/
def fmulOf (f : FloatFmt) (rm u : Nat) (x y : Val) : Nat × FFlags :=
  roundScalar f rm u (vmul x y) (mulInvalid x y)

/-- FFMA (R137): x × y + z rounded once; NV for 0 × ∞ whatever z is, and for ∞ − ∞. -/
def ffmaOf (f : FloatFmt) (rm u : Nat) (x y z : Val) : Nat × FFlags :=
  roundScalar f rm u (vadd (vmul x y) z) (mulInvalid x y || addInvalid (vmul x y) z)

/-- Whether x is the smaller of two values with −0 below +0 (R137). -/
def fless (x y : Val) : Bool := vlt x y || (veq x y && vneg? x && !vneg? y)

/-- FMIN and FMAX on codes: one NaN gives the other operand, two give NaN (R137). -/
def fpick (f : FloatFmt) (takeX : Val → Val → Bool) (a b : Nat) : Nat :=
  let x := fdecode f a
  let y := fdecode f b
  if visNan x && visNan y then fnanCode f
  else if visNan x then b
  else if visNan y then a
  else if takeX x y then a
  else b

/-- FABS and FNEG on codes (R137): a NaN gives the canonical NaN. -/
def fabsCode (f : FloatFmt) (a : Nat) : Nat :=
  if visNan (fdecode f a) then fnanCode f else a % 2 ^ (f.eb + f.fb)

def fnegCode (f : FloatFmt) (a : Nat) : Nat :=
  if visNan (fdecode f a) then fnanCode f
  else fsign f (!bitN a (f.eb + f.fb)) (a % 2 ^ (f.eb + f.fb))

/-- FCMP (R137): bit 0 less, 1 equal, 2 greater, 3 unordered. -/
def fcmpCode (x y : Val) : Nat :=
  if visNan x || visNan y then 8
  else if vlt x y then 1
  else if vlt y x then 4
  else 2

/-- FCVT's source read as a value (R138). -/
def cvtRead (src : CvtSrc) (x : Word) : Val :=
  match src with
  | .fp32 => fdecode fp32 (wf64 x 31 0)
  | .bf16 => fdecode bf16 (wf64 x 15 0)
  | .s32 => ofInt (sextN 32 x.toNat)
  | .s64 => ofInt x.toInt
  | .z32 => ofInt (wf64 x 31 0 : Nat)

/-- FCVT's conversion (R102, R138). -/
def cvtWrite (dst : CvtDst) (rm u : Nat) (v : Val) : Word × FFlags :=
  match dst with
  | .fp32 => let (x, f) := toFloat fp32 true rm u v; (BitVec.ofNat 64 x, f)
  | .bf16 => let (x, f) := toFloat bf16 true rm u v; (BitVec.ofNat 64 x, f)
  | .s64 => let (x, f) := toInt (-(2 ^ 63)) (2 ^ 63 - 1) rm u v; (BitVec.ofInt 64 x, f)

/-- The format of a scalar floating-point instruction. -/
def fmtOf : FpFmt → FloatFmt
  | .fp32 => fp32
  | .bf16 => bf16

/-- An operand's code in a g register (R137). -/
def fmtBits (f : FpFmt) (x : Word) : Nat :=
  match f with
  | .fp32 => wf64 x 31 0
  | .bf16 => wf64 x 15 0

end Sys2Proof.Machine
end

