-- ==== Sys2Proof/Machine/ArrayLanes.lean ====
section
/-! DEFINITION. The lane operators of the array (R243 to R249, R430) and the fields of stage and converter words
(R111, R232, R233). -/

namespace Sys2Proof.Machine

/-! Stage words (R233). -/

def swAstk (w : Word) : Nat := wf64 w 63 60
def swA (w : Word) : Nat := wf64 w 59 54
def swBstk (w : Word) : Nat := wf64 w 53 50
def swB (w : Word) : Nat := wf64 w 49 44
def swC (w : Word) : Nat := wf64 w 43 38
def swOut (w : Word) : Nat := wf64 w 37 32
def swImm (w : Word) : Nat := wf64 w 31 16
def swImmx (w : Word) : Bool := wf64 w 15 15 == 1
def swRm (w : Word) : Nat := wf64 w 14 12
def swMod (w : Word) : Nat := wf64 w 11 8
def swOp (w : Word) : Nat := wf64 w 5 0

/-- The immediate as a lane value (R233). -/
def swImmVal (w : Word) : Nat := if swImmx w then swImm w * 2 ^ 16 else wrapI 32 (sextN 16 (swImm w))

/-! Correctly rounded 2^a and log2 a (R245). -/

/-- Fraction bits of the fixed-point evaluations. -/
def fixBits : Nat := 320

/-- ln 2 in fixed point: the sum of 1 / (n · 2 ^ n). -/
def ln2Fix : Nat := (List.range fixBits).foldl (fun t n => t + 2 ^ fixBits / ((n + 1) * 2 ^ (n + 1))) 0

/-- e ^ x for fixed-point x below 1: n terms of the series from term t on. -/
def expSum (x : Nat) : Nat → Nat → Nat → Nat
  | 0, _, _ => 0
  | n + 1, k, t => t + expSum x n (k + 1) (t * x / 2 ^ fixBits / (k + 1))

/-- 2 ^ f for a fixed-point fraction f. -/
def exp2Frac (f : Nat) : Nat := expSum (f * ln2Fix / 2 ^ fixBits) 120 0 (2 ^ fixBits)

/-- e ^ v for a finite value, as a multiple of 2 ^ -fixBits times a power of two: the fixed-point fraction part and the
exponent. -/
def exp2Fix (x : Int) : Nat × Int := (exp2Frac (x % 2 ^ fixBits).toNat, x / 2 ^ fixBits)

/-- A finite value in fixed point, truncated. -/
def toFix (n : Bool) (m : Nat) (e : Int) : Int :=
  let k := e + fixBits
  let t : Nat := if 0 ≤ k then m * 2 ^ k.toNat else m / 2 ^ (-k).toNat
  if n then -(t : Int) else t

/-- VEXP2 on an FP32 code (R245). -/
def vexp2Code (a : Nat) : Nat :=
  match fdecode fp32 a with
  | .nan => fnanCode fp32
  | .inf n => if n then 0 else finfCode fp32
  | .fin n m e =>
    let x := toFix n m e
    if 128 * 2 ^ fixBits ≤ x then finfCode fp32
    else if x < -(150 * 2 ^ fixBits) then 0
    else
      let (f, i) := exp2Fix x
      (roundFin fp32 false 1 0 false f (i - fixBits) (x % 2 ^ fixBits != 0)).1

/-- ln (1 + z) by the series of atanh: twice the sum of y ^ (2 n + 1) / (2 n + 1), from term n on. -/
def atanhSum (y2 : Nat) : Nat → Nat → Nat → Nat
  | 0, _, _ => 0
  | f + 1, n, t => t / (2 * n + 1) + atanhSum y2 f (n + 1) (t * y2 / 2 ^ fixBits)

/-- log2 of a fixed-point number from 1 up to 2. -/
def log2Frac (x : Nat) : Nat :=
  let y := (x - 2 ^ fixBits) * 2 ^ fixBits / (x + 2 ^ fixBits)
  2 * atanhSum (y * y / 2 ^ fixBits) 130 0 y * 2 ^ fixBits / ln2Fix

/-- VLOG2 on an FP32 code (R245). -/
def vlog2Code (a : Nat) : Nat :=
  match fdecode fp32 a with
  | .nan => fnanCode fp32
  | .inf n => if n then fnanCode fp32 else finfCode fp32
  | .fin n m e =>
    if m = 0 then fsign fp32 true (finfCode fp32)
    else if n then fnanCode fp32
    else
      let top := Nat.log2 m
      let g := m * 2 ^ (fixBits - top)
      let x : Int := ((top : Int) + e) * 2 ^ fixBits + (if g = 2 ^ fixBits then 0 else log2Frac g)
      if x = 0 then 0
      else (roundFin fp32 false 1 0 (decide (x < 0)) x.natAbs (-(fixBits : Int)) (g != 2 ^ fixBits)).1

/-! One lane (R243, R244, R246). -/

def sx32 (x : Nat) : Int := sextN 32 x
def wr32 (x : Int) : Nat := wrapI 32 x
def ones32 (b : Bool) : Nat := if b then 2 ^ 32 - 1 else 0

/-- Signed and unsigned saturation (R243). -/
def satS (x : Int) : Nat := wr32 (max (-(2 ^ 31)) (min (2 ^ 31 - 1) x))
def satU (x : Int) : Nat := (max 0 (min (2 ^ 32 - 1) x)).toNat

/-- Addition and subtraction by MOD (R243). -/
def addMod (mod : Nat) (f : Int → Int → Int) (a b : Nat) : Nat :=
  match mod with
  | 1 => satS (f (sx32 a) (sx32 b))
  | 2 => satU (f (a : Int) (b : Int))
  | _ => wr32 (f (a : Int) (b : Int))

/-- VCMP's conditions (R243). -/
def cmpMod (mod a b : Nat) : Bool :=
  match mod with
  | 0 => a == b
  | 1 => a != b
  | 2 => decide (sx32 a < sx32 b)
  | 3 => decide (sx32 b ≤ sx32 a)
  | 4 => decide (a < b)
  | _ => decide (b ≤ a)

/-- VFCMP's conditions (R244). -/
def fcmpMod (mod a b : Nat) : Bool :=
  let x := fdecode fp32 a
  let y := fdecode fp32 b
  let un := visNan x || visNan y
  match mod with
  | 0 => veq x y
  | 1 => un || !veq x y
  | 2 => vlt x y
  | 3 => vlt x y || veq x y
  | _ => un

/-- VHASH (R246). -/
def vhash (a b : Nat) : Nat :=
  let h := a.xor (b * 0x85EBCA6B % 2 ^ 32)
  let h := h.xor (h / 2 ^ 16)
  let h := h * 0x7FEB352D % 2 ^ 32
  let h := h.xor (h / 2 ^ 15)
  let h := h * 0x846CA68B % 2 ^ 32
  h.xor (h / 2 ^ 16)

/-- One lane of an operator that works lane by lane. rm and u are the rounding mode and the lane's random word. -/
def laneOp (op mod rm u a b c : Nat) : Nat :=
  let d := fdecode fp32
  match op with
  | 0x00 => a
  | 0x01 => addMod mod (· + ·) a b
  | 0x02 => addMod mod (· - ·) a b
  | 0x03 => match mod with
    | 0 => a * b % 2 ^ 32
    | 1 => wr32 (sx32 a * sx32 b / 2 ^ 32)
    | _ => a * b / 2 ^ 32
  | 0x04 =>
    let x := sx32 a * sx32 b + sx32 c
    if mod = 1 then satS x else wr32 x
  | 0x05 => if mod = 0 then (if sx32 a ≤ sx32 b then a else b) else min a b
  | 0x06 => if mod = 0 then (if sx32 a ≤ sx32 b then b else a) else max a b
  | 0x07 => a.land b
  | 0x08 => a.lor b
  | 0x09 => a.xor b
  | 0x0A => a * 2 ^ (b % 32) % 2 ^ 32
  | 0x0B => a / 2 ^ (b % 32)
  | 0x0C => wr32 (sx32 a / 2 ^ (b % 32))
  | 0x0D => ones32 (cmpMod mod a b)
  | 0x0E => if c ≠ 0 then a else b
  | 0x0F => if mod = 1 then satS (sx32 a).natAbs else wr32 (sx32 a).natAbs
  | 0x10 => (faddOf fp32 rm u (d a) (d b)).1
  | 0x11 => (faddOf fp32 rm u (d a) (vneg (d b))).1
  | 0x12 => (fmulOf fp32 rm u (d a) (d b)).1
  | 0x13 => (ffmaOf fp32 rm u (d a) (d b) (d c)).1
  | 0x14 => fpick fp32 fless a b
  | 0x15 => fpick fp32 (fun x y => fless y x) a b
  | 0x16 => fabsCode fp32 a
  | 0x17 => fnegCode fp32 a
  | 0x18 => ones32 (fcmpMod mod a b)
  | 0x19 => if !visNan (d c) && !bitN c 31 then a else b
  | 0x1A => vexp2Code a
  | 0x1B => vlog2Code a
  | 0x1C => (frcpOf fp32 1 0 (d a)).1
  | 0x1D => (frsqOf fp32 1 0 (d a)).1
  | 0x1F => vhash a b
  | 0x20 => (List.range 32).foldl (fun n i => n + a / 2 ^ i % 2) 0
  | _ => (a * 2 ^ (b % 32) % 2 ^ 32) + a / 2 ^ (32 - b % 32)

/-! Whole words (R246 to R249). A word is its sixteen lane values. -/

/-- The random words of a stage: c0 and c3 of the counter, and the key (R100). -/
structure SrCtx where
  c0 : Nat
  c3 : Nat
  key : Word
  deriving DecidableEq, Repr

/-- The rounding word of a lane; c2 names the addition within a tree (R100, R430). -/
def laneSr (x : SrCtx) (rm lane c2 : Nat) : Nat := if rm = 5 then srWord x.c0 lane c2 x.c3 x.key else 0

/-- One combination of a reduction by lane type (R248). -/
def redOp (op mod rm u a b : Nat) : Nat :=
  if mod % 4 = 0 then
    match op with
    | 0x28 => (faddOf fp32 rm u (fdecode fp32 a) (fdecode fp32 b)).1
    | 0x29 => fpick fp32 (fun x y => fless y x) a b
    | _ => fpick fp32 fless a b
  else if op = 0x28 then (a + b) % 2 ^ 32
  else laneOp (if op = 0x29 then 0x06 else 0x05) (mod % 4 - 1) 0 0 a b 0

/-- One level of the cross-lane tree: lanes l and l + w for l a multiple of 2 w (R248, R430). -/
def crossLevel (op mod rm : Nat) (x : SrCtx) (t : Nat) (v : List Nat) : List Nat :=
  let w := 2 ^ t
  (List.range 16).map fun l =>
    if l % (2 * w) = 0 then redOp op mod rm (laneSr x rm l (0x10000 + t)) (v.getD l 0) (v.getD (l + w) 0) else v.getD l 0

/-- The cross-lane reduction: every lane receives lane 0 of the tree (R248). -/
def crossLanes (op mod rm : Nat) (x : SrCtx) (v : List Nat) : List Nat :=
  let r := (List.range 4).foldl (fun v t => crossLevel op mod rm x t v) v
  List.replicate 16 (r.getD 0 0)

/-- Two nodes of a reducer's tree: an absent child passes the other on (R249). -/
def joinNodes (op mod rm : Nat) (x : SrCtx) (c2 : Nat) : Option (List Nat) → Option (List Nat) → Option (List Nat)
  | some a, some b =>
    some ((List.range 16).map fun l => redOp op mod rm (laneSr x rm l c2) (a.getD l 0) (b.getD l 0))
  | some a, none => some a
  | none, b => b

/-- One level of a reducer's tree: nodes of n words from pairs of n / 2, node i covering words i n to i n + n − 1. -/
def treeLevel (op mod rm : Nat) (x : SrCtx) (rlen n : Nat) : Nat → List (Option (List Nat)) → List (Option (List Nat))
  | i, a :: b :: rest => joinNodes op mod rm x (rlen / n + i) a b :: treeLevel op mod rm x rlen n (i + 1) rest
  | _, rest => rest

/-- The lane-wise tree of a run of 2 ^ e words, of which those present come first (R249). -/
def runTree (op mod rm : Nat) (x : SrCtx) (e : Nat) (ws : List (List Nat)) : List Nat :=
  let rlen := 2 ^ e
  let leaves := (List.range rlen).map fun i => ws[i]?
  let top := (List.range e).foldl (fun v t => treeLevel op mod rm x rlen (2 ^ (t + 1)) 0 v) leaves
  (top.headD none).getD []

/-- Halfword h of a word's lanes. -/
def halfOf (a : List Nat) (h : Nat) : Nat := a.getD (h / 2) 0 / 2 ^ (16 * (h % 2)) % 2 ^ 16

/-- The result of a stage on whole words (R243 to R248). -/
def wordOp (w : Word) (rm : Nat) (x : SrCtx) (a b c : List Nat) : List Nat :=
  let op := swOp w
  let mod := swMod w
  let imm := swImm w
  let A (l : Nat) := a.getD l 0
  let B (l : Nat) := b.getD l 0
  let each (f : Nat → Nat) := (List.range 16).map f
  match op with
  | 0x1E => each fun l =>
      let (w0, w1, w2, w3) := philox x.c0 l 0 x.c3 x.key
      match mod with
      | 0 => w0
      | 1 => w1
      | 2 => w2
      | _ => w3
  | 0x22 => each fun _ => A (imm % 16)
  | 0x23 => each fun l => if bitN (B l) 4 then 0 else A (B l % 16)
  | 0x24 => each fun l => match mod with
      | 0 => if l % 2 = 0 then A (l / 2) else B (l / 2)
      | 1 => if l % 2 = 0 then A (8 + l / 2) else B (8 + l / 2)
      | _ => if bitN imm l then B l else A l
  | 0x25 => each fun l => if l < 8 then A (2 * l + mod) else B (2 * (l - 8) + mod)
  | 0x26 => each fun l =>
      let el (i : Nat) := (if i < 16 then A i else B (i - 16)) % 2 ^ 16
      el (2 * l) + 2 ^ 16 * el (2 * l + 1)
  | 0x27 => each fun l => halfOf a (if mod = 0 then l else l + 16)
  | 0x28 => crossLanes op mod rm x a
  | 0x29 => crossLanes op mod rm x a
  | 0x2A => crossLanes op mod rm x a
  | _ => each fun l => laneOp op mod rm (laneSr x rm l 0) (A l) (B l) (c.getD l 0)

/-- Which of a, b, c an operator reads, as bits 0, 1 and 2; none for a code that no stage may hold (R243 to R248). -/
def opReads (op : Nat) : Option Nat :=
  if op ∈ [0x00, 0x0F, 0x16, 0x17, 0x1A, 0x1B, 0x1C, 0x1D, 0x20, 0x22, 0x27, 0x28, 0x29, 0x2A] then some 1
  else if op ∈ [0x04, 0x0E, 0x13, 0x19] then some 7
  else if op = 0x1E then some 0
  else if op ≤ 0x26 then some 3
  else none

/-- The MOD values of an operator (R243 to R249); reducer allows the .x bit of a reduction. -/
def opMod (op mod : Nat) (reducer : Bool) : Bool :=
  if op = 0x01 ∨ op = 0x02 ∨ op = 0x03 then decide (mod ≤ 2)
  else if op = 0x04 ∨ op = 0x05 ∨ op = 0x06 ∨ op = 0x0F ∨ op = 0x25 ∨ op = 0x27 then decide (mod ≤ 1)
  else if op = 0x0D then decide (mod ≤ 5)
  else if op = 0x18 then decide (mod ≤ 4)
  else if op = 0x1E then decide (mod ≤ 3)
  else if op = 0x24 then decide (mod ≤ 2)
  else if op = 0x28 then decide (mod % 4 ≤ 1) && decide (mod / 4 ≤ (if reducer then 1 else 0))
  else if op = 0x29 ∨ op = 0x2A then decide (mod % 4 ≤ 2) && decide (mod / 4 ≤ (if reducer then 1 else 0))
  else mod == 0

/-- Whether an operator rounds, so that its RM may be non-zero (R235, R244, R248). -/
def opRounds (op mod : Nat) : Bool :=
  op == 0x10 || op == 0x11 || op == 0x12 || op == 0x13 || (op == 0x28 && mod % 4 == 0)

/-! Converter words (R111). -/

def cwHlsb (w : Word) : Nat := wf64 w 28 27
def cwSp (w : Word) : Nat := wf64 w 26 23
def cwSatm (w : Word) : Nat := wf64 w 22 21
def cwRm (w : Word) : Nat := wf64 w 20 18
def cwDsel (w : Word) : Nat := wf64 w 17 16
def cwSsel (w : Word) : Nat := wf64 w 15 14
def cwDfmt (w : Word) : Nat := wf64 w 13 10
def cwSfmt (w : Word) : Nat := wf64 w 9 6

/-- The destination formats of a converter operator (R114). -/
def convFamily (op : Nat) : List Nat :=
  match op with
  | 0x30 => [1]
  | 0x31 => [2]
  | 0x32 => [3, 4]
  | 0x33 => [5]
  | 0x34 => [6, 7, 8, 9, 10, 11, 12]
  | 0x35 => [0]
  | _ => []

/-- The checks of R111 on a converter word. -/
def convWordOk (w : Word) : Bool :=
  let op := swOp w
  let sf := cwSfmt w
  let df := cwDfmt w
  let sp := cwSp w
  let bpi := sf == 5 || sf == 15
  let common := wf64 w 31 29 == 0
  let pass := op == 0 && sf == 0 && df == 0 && sp == 0 && cwHlsb w == 0 && cwRm w == 0 && cwSatm w == 0 && cwSsel w == 0
    && cwDsel w == 0
  let conv := !(convFamily op).isEmpty && sf != 13 && sf != 14 && df != 13 && df != 14
    && (df == 15 || (convFamily op).contains df)
    && (if bpi then (decide (2 ≤ sp) && decide (sp ≤ 8)) || sp == 15 else sp == 0)
    && cwHlsb w != 3 && (bpi || cwHlsb w == 0)
    && decide (cwRm w ≤ 5) && cwSatm w != 3
    && cwSsel w != 3 && (sf == 15 || cwSsel w == 0)
    && cwDsel w != 3 && (df == 15 || cwDsel w == 0)
  common && (pass || conv)

/-! Cell control words (R232) and cell places (R225). -/

/-- The group of stage j; 31 is idle. -/
def ccGroup (w7 : Word) (j : Nat) : Nat := wf64 w7 (5 * j + 4) (5 * j)
def ccV (w7 : Word) : Nat := wf64 w7 34 32

/-- The coordinates (x, y) of compute cell v (R225). -/
def cellXy (v : Nat) : Nat × Nat :=
  let y := v / 2
  (2 * (v % 2) + y % 2, y)

/-- c3 of the array row of R100 for stage j of compute cell v of a tile. -/
def stageC3 (tile v j : Nat) : Nat :=
  let (x, y) := cellXy v
  0x03000000 + 256 * tile + 8 * (4 * y + x) + j

end Sys2Proof.Machine
end

