-- ==== Sys2Proof/Machine/Access.lean ====
section
/-! DEFINITION. Memory accesses of engines: stream addresses (R199), their checks, translation and poison, and writes
through the port, held where a read-duplicated page must collapse first (R402). -/

namespace Sys2Proof.Machine

/-- The agent of an engine access: the tile and stream that issued its command, its context, path and die (R174), the TLB that
translates for it (R398), the key of its command, what a WAITW that returns a word it writes observes (R181), and the writes guaranteed
to its reads, as the command has them; none for an agent that reads what the port holds (R185). -/
structure Who where
  tile : Nat
  strm : Strm
  ctxn : Nat
  path : Path
  die : Nat
  unit : TlbUnit
  key : Nat := 0
  know : Know := {}
  sees : Option (Nat × List Nat) := none
  deriving DecidableEq, Repr

/-- Why an engine access does not complete (R222, R329): where a page or a granule is at fault, with the address of its first byte
within the access. A write whose request to another package gets no response is lost (R416). A held write waits for the collapse of the
page of an address (R402). -/
inductive AccFault where
  | page (sub at_ : Nat)
  | bounds
  | owner
  | path
  | poison (at_ : Nat)
  | lost (at_ : Nat)
  | hold (va : Nat)
  deriving DecidableEq, Repr

/-- The pages of a virtual span, each translated (R199, R395). -/
def vaSegs (s : State) (w : Who) (write : Bool) : Nat → Nat → Nat → Except AccFault (List Seg)
  | 0, _, _ => .ok []
  | f + 1, a, n =>
    if n = 0 then .ok []
    else
      let len := min n (2 ^ 16 - a % 2 ^ 16)
      match xlVa s w.unit w.ctxn (a % 2 ^ 56) write with
      | .ok p wt =>
        match vaSegs s w write f (a + len) (n - len) with
        | .ok rest => .ok ({ phys := p, len := len, watch := wt, at_ := a } :: rest)
        | .error e => .error e
      | .fault sub => .error (.page sub a)
      | .dup _ _ => .error (.hold a)

/-- The pieces of an engine access at a 64-bit address (R140, R199). own asks for the ownership rule of R141. -/
def engSegs (s : State) (w : Who) (a n : Nat) (write own : Bool) : Except AccFault (List Seg) :=
  let off := a % 2 ^ 56
  match a / 2 ^ 56 with
  | 0 => vaSegs s w write (pagesOf off n) off n
  | 1 =>
    if Config.scratchBytes < off + n then .error .bounds
    else if own && foreignBuffer s w.tile w.strm off n then .error .owner
    else .ok [{ phys := scratchBase w.tile + off, len := n, at_ := a }]
  | 2 =>
    let h := bitsN a 55 40
    let o := a % 2 ^ 40
    let e := handleAt s w.tile h
    if !handleValid s w.tile h || (own && !heldBy e w.tile w.strm) then .error .owner
    else if hSize e * 64 < o + n then .error .bounds
    else .ok [{ phys := scratchBase (tileCluster w.tile * 8 + hHome e) + hBase e * 64 + o, len := n, at_ := a }]
  | 3 =>
    if 2 ^ 32 < off + n then .error .bounds
    else
      match l2Segs s w.unit w.ctxn write (pagesOf off n) off n with
      | .ok segs => .ok segs
      | .error (sub, x) => .error (.page sub (3 * 2 ^ 56 + x))
  | _ => .error .path

/-- The address of the first poisoned byte of a list of pieces. -/
def segsPoison (s : State) : List Seg → Option Nat
  | [] => none
  | g :: gs =>
    match (List.range g.len).find? fun i => poisonedAt s (g.phys + i) with
    | some i => some (g.at_ + i)
    | none => segsPoison s gs

/-- The address of the request among some pieces that gets no response from another package in this cycle (R416). -/
def linkLost (s : State) (segs : List Seg) : Option Nat :=
  match s.pkg.linkLost with
  | none => none
  | some (f, l) =>
    if f = s.fab then (segs.find? fun g => g.phys / 2 ^ 54 == 2 && decide (g.phys < 64 * l + 64) && decide (64 * l < g.phys + g.len)).map (·.at_)
    else none

/-- A path as the free value of R185 is told it, in the numbers of R174. -/
def pathNum : Path → Nat
  | .core => 0
  | .stream => 1
  | .matrix => 2
  | .copy => 3
  | .gather => 4
  | .mesh => 5
  | .front => 6

/-- Whether a read by an agent returns a logged write or a later one: every write of its own path, and those guaranteed to it (R185). -/
def surelySeen (w : Who) (x : WriteRec) : Bool :=
  match w.sees with
  | none => true
  | some (base, ids) => x.path == w.path || decide (x.id < base) || ids.contains x.id

/-- Whether a write that is not guaranteed to an agent has reached it: from when on it does is open (R185). Once it has, no read of the
stream on that path returns an older one (R177, R180). -/
def hasReached (s : State) (w : Who) (x : WriteRec) : Bool :=
  decide (Config.reaches [w.tile, sidx w.strm, pathNum w.path, x.id] ≤ s.core)

/-- The bytes of a piece as an agent reads them (R177, R184, R185): those of the port, but for writes that have not reached it. -/
def segRead (s : State) (w : Who) (g : Seg) : List Byte :=
  let ws := s.wlog.filter fun x => decide (g.phys ≤ x.addr) && decide (x.addr < g.phys + g.len)
  if ws.all (surelySeen w) then readAt s g.phys g.len
  else (span g.phys g.len).map fun p =>
    viewBy (fun x => surelySeen w x || hasReached s w x) (ws.filter (·.addr == p)) (memGet s.mem p)

/-- The bytes of a list of pieces as an agent reads them. -/
def segsRead (s : State) (w : Who) (segs : List Seg) : List Byte := segs.flatMap (segRead s w)

/-- A read by an engine (R199, R221). One whose request gets no response returns poisoned data (R416). -/
def engRead (s : State) (w : Who) (a n : Nat) (own : Bool) : Except AccFault (List Byte) :=
  match engSegs s w a n false own with
  | .error e => .error e
  | .ok segs =>
    match (linkLost s segs).or (segsPoison s segs) with
    | some p => .error (.poison p)
    | none => .ok (segsRead s w segs)

/-- A number read by an engine. -/
def engNat (s : State) (w : Who) (a n : Nat) (own : Bool) : Except AccFault Nat :=
  match engRead s w a n own with
  | .ok bs => .ok (leNat bs)
  | .error e => .error e

/-- The event of a collapse that keeps a copy of the page at an address (R402). -/
def collapseEvent (s : State) (ctxn die keep base : Nat) : State :=
  offer s { ctxn := ctxn, code := causeByte .collapse, src := 8, die := die, addr := BitVec.ofNat 64 base
            detail := BitVec.ofNat 64 keep }

/-- Whether a write by an agent of [p, p + n) performs a write that has waited for its page to collapse (R402). -/
def performsHeld (g : Agent) (p n : Nat) (h : HeldWrite) : Bool :=
  h.tile == g.tile && h.strm == g.strm && h.path == g.path && h.key == g.key
    && h.kept.any fun x => decide (p ≤ x.2.2) && decide (x.2.2 < p + n)

/-- COLLAPSE is posted when the held write has been performed (R402). -/
def noteCollapse (s : State) (g : Agent) (p n : Nat) : State :=
  match s.held.find? (performsHeld g p n) with
  | none => s
  | some h =>
    let (keep, base, _) := h.kept.getD (0, 0, 0)
    collapseEvent { s with held := s.held.erase h } h.ctxn h.die keep base

/-- Bytes written to a list of pieces at their ports, with the versions that watched pieces raise (R302). DESIGN CHOICE (assumption 165):
each piece is one write. but names a reuse entry whose own write-back this is. -/
def segsWrite (s : State) (g : Agent) (but : Option Nat) : List Seg → List Byte → State
  | [], _ => s
  | x :: xs, bs =>
    let s1 := if x.watch then raiseSpan s (changedBy s x.phys (bs.take x.len)) but else s
    segsWrite (noteCollapse (writeAt s1 g x.phys (bs.take x.len)) g x.phys x.len) g but xs (bs.drop x.len)

/-- The agent of a write that an engine performs: published where it is performed (R184). -/
def agentOf (w : Who) : Agent :=
  { tile := w.tile, strm := w.strm, path := w.path, scope := .system, key := w.key, know := w.know }

/-- A write by an engine. -/
def engWrite (s : State) (w : Who) (a : Nat) (bs : List Byte) (own : Bool) (but : Option Nat := none) :
    Except AccFault State :=
  match engSegs s w a bs.length true own with
  | .error e => .error e
  | .ok segs =>
    match linkLost s segs with
    | some p => .error (.lost p)
    | none => .ok (segsWrite s (agentOf w) but segs bs)

/-- A write that waits for the collapse of its page is held at its unit, which performs it after COLLAPSE (R402). -/
def holdWrite (s : State) (w : Who) (a : Nat) : State :=
  let h : HeldWrite :=
    { ctxn := w.ctxn, va := a % 2 ^ 56, die := w.die, tile := w.tile, strm := w.strm, path := w.path, key := w.key }
  if s.held.contains h then s else { s with held := s.held ++ [h] }

/-- The cause and sub-reason of an access fault. -/
def accCause : AccFault → Cause × Nat
  | .page sub _ => (.page, sub)
  | .bounds => (.nearBounds, 0)
  | .owner => (.owner, 0)
  | .path => (.accessPath, 0)
  | .poison _ => (.poison, 0)
  | .lost _ => (.poison, 0)
  | .hold _ => (.page, 0)

/-- The address within an access that a fault names, or the access's own. -/
def accAt (f : AccFault) (a : Nat) : Nat :=
  match f with
  | .page _ x => x
  | .poison x => x
  | .lost x => x
  | _ => a

/-- Whether the record of a fault asks for a response although no unit waits for it: that of a lost write (R416, assumption 144). -/
def isLost : AccFault → Bool
  | .lost _ => true
  | _ => false

/-- The issuing agent of a command on a path: a stream command translates through its slot's TLB, the matrix and reuse units through the
cluster's (R219, R398). -/
def whoOf (c : Cmd) (p : Path) : Who :=
  { tile := c.tile, strm := c.strm, ctxn := c.ctxn, path := p, die := tileDie c.tile, key := ownKey c.id, sees := some (c.base, c.reach)
    unit := if cmdKind c = 1 then .slot c.tile (tf c.tmpl 79 76) else .second (tileCluster c.tile) }

/-- An own-scratchpad address as a 64-bit near address (R140). -/
def ownAddr (off : Nat) : Nat := 2 ^ 56 + off

/-- A word of the issuing tile's own scratchpad lies in no buffer that another holds, and within the scratchpad (R69). -/
def ownSpanOk (s : State) (t : Nat) (sk : Strm) (off n : Nat) : Bool :=
  decide (off + n ≤ Config.scratchBytes) && !foreignBuffer s t sk off n

end Sys2Proof.Machine
end

