-- ==== Sys2Proof/Machine/Layout.lean ====
section
/-! DEFINITION. Layout records (R322 to R326): fields, element addresses, the ragged edge, and the checks of R325. A record
is its twelve words. -/

namespace Sys2Proof.Machine

def recWord (r : List Word) (n : Nat) : Nat := (r.getD n 0).toNat
def recBase (r : List Word) : Nat := recWord r 0
def recEtype (r : List Word) : Nat := bitsN (recWord r 1) 63 56
def recNdim (r : List Word) : Nat := bitsN (recWord r 1) 55 52
def recFm (r : List Word) : Nat := bitsN (recWord r 1) 51 48
def recIg (r : List Word) : Nat := bitsN (recWord r 1) 47 44
def recIb (r : List Word) : Nat := bitsN (recWord r 1) 43 40
def recIk (r : List Word) : Nat := bitsN (recWord r 1) 39 32
def recIc (r : List Word) : Nat := bitsN (recWord r 1) 47 32
def recFill (r : List Word) : Nat := bitsN (recWord r 1) 31 0

/-- Extent, bound and stride of dimension d (R322). -/
def recN (r : List Word) (d : Nat) : Nat := bitsN (recWord r (2 + d / 4)) (16 * (d % 4) + 15) (16 * (d % 4))
def recB (r : List Word) (d : Nat) : Nat := bitsN (recWord r (5 + d / 4)) (16 * (d % 4) + 15) (16 * (d % 4))
def recS (r : List Word) (d : Nat) : Int :=
  let all := recWord r 8 + 2 ^ 64 * recWord r 9 + 2 ^ 128 * recWord r 10 + 2 ^ 192 * recWord r 11
  sextN 28 (all / 2 ^ (28 * d))

/-- Element sizes by ETYPE (R322). -/
def etypeBytes : Nat → Option Nat
  | 0x01 => some 1
  | 0x02 => some 1
  | 0x03 => some 2
  | 0x04 => some 2
  | 0x05 => some 4
  | 0x06 => some 4
  | 0x07 => some 8
  | 0x10 => some 4
  | 0x11 => some 2
  | 0x12 => some 2
  | 0x13 => some 1
  | 0x14 => some 1
  | 0x18 => some 1
  | _ => none

def recElem (r : List Word) : Nat := (etypeBytes (recEtype r)).getD 1

/-- The used dimensions, ascending. -/
def recDims (r : List Word) : List Nat := List.range (recNdim r)

/-- Elements of the window (R323). -/
def recCount (r : List Word) : Nat := (recDims r).foldl (fun n d => n * recN r d) 1

/-- The indices of element k, dimension 0 fastest (R323). -/
def recIdxFrom (r : List Word) : List Nat → Nat → List Nat
  | [], _ => []
  | d :: ds, k => k % recN r d :: recIdxFrom r ds (k / recN r d)

def recIdx (r : List Word) (k : Nat) : List Nat := recIdxFrom r (recDims r) k

/-- The byte offset of the element at given indices (R323). -/
def recOff (r : List Word) (idx : List Nat) : Int :=
  (recElem r : Int) * (idx.zipIdx.foldl (fun o p => o + (p.1 : Int) * recS r p.2) 0)

/-- The address of the element at given indices (R323): interleaved where the code is not zero, modulo 2^56 within the
selector of BASE. -/
def recAddr (r : List Word) (idx : List Nat) : Nat :=
  let o := recOff r idx
  let base := recBase r
  let lin : Int :=
    if recIc r = 0 then o
    else
      let gi := o / 2 ^ recIg r
      let lo := o % 2 ^ recIg r
      let bg := (gi % 2 ^ recIb r).toNat
      let hi := gi / 2 ^ recIb r
      let bg2 := ((bg.xor ((hi % 2 ^ 64).toNat)).xor (recIk r)) % 2 ^ recIb r
      (hi * 2 ^ recIb r + bg2) * 2 ^ recIg r + lo
  base / 2 ^ 56 * 2 ^ 56 + (((base % 2 ^ 56 : Nat) + lin) % 2 ^ 56).toNat

/-- Whether indices lie past the ragged edge; under FM 0 bounds are not read (R324). -/
def recPast (r : List Word) (idx : List Nat) : Bool :=
  recFm r != 0 && idx.zipIdx.any fun p => decide (recB r p.2 ≤ p.1)

/-- Indices pulled back to the edge (R324, FM 2). -/
def recClamp (r : List Word) (idx : List Nat) : List Nat := idx.zipIdx.map fun p => min p.1 (recB r p.2 - 1)

/-- The bytes of the fill pattern (R324, FM 1). -/
def recFillBytes (r : List Word) : List Byte :=
  if recElem r = 8 then leBytes 8 (wrapI 64 (sextN 32 (recFill r))) else leBytes (recElem r) (recFill r)

/-- What a source element is: a read at an address, constant bytes, or the fault of FM 3 (R324). -/
inductive SrcElem where
  | read (a : Nat)
  | const (bs : List Byte)
  | edge
  deriving DecidableEq, Repr

def recSource (r : List Word) (k : Nat) : SrcElem :=
  let idx := recIdx r k
  if recPast r idx then
    match recFm r with
    | 1 => .const (recFillBytes r)
    | 2 => .read (recAddr r (recClamp r idx))
    | _ => .edge
  else .read (recAddr r idx)

/-- What a destination element is: a write at an address, a drop, or the fault of FM 3 (R324). -/
inductive DstElem where
  | write (a : Nat)
  | drop
  | edge
  deriving DecidableEq, Repr

def recDest (r : List Word) (k : Nat) : DstElem :=
  let idx := recIdx r k
  if recPast r idx then (if recFm r = 3 then .edge else .drop) else .write (recAddr r idx)

/-- A failure of a record check: sub-reason, dimension and word of the failing field (R325, R333). -/
structure LayFail where
  sub : Nat
  dim : Nat := 15
  word : Nat := 15
  deriving DecidableEq, Repr

/-- The first used dimension that satisfies a test. -/
def dimWhere (r : List Word) (p : Nat → Bool) : Option Nat := (recDims r).find? p

/-- Sub-reason 1: an extent of 0. -/
def layChk1 (r : List Word) : Option LayFail :=
  (dimWhere r fun d => recN r d == 0).map fun d => { sub := 1, dim := d, word := 2 + d / 4 }

/-- Sub-reason 3: a reserved field. DESIGN CHOICE (assumption 167): of several, extents come before bounds, strides and w11, each in
ascending order of dimensions. -/
def layChk3 (r : List Word) : Option LayFail :=
  let unused := (List.range 9).filter fun d => decide (recNdim r ≤ d)
  let ext := ((unused ++ [9, 10, 11]).find? fun d => recN r d != 0).map fun d =>
    ({ sub := 3, dim := d, word := 2 + d / 4 } : LayFail)
  let bnd := (((if recFm r = 0 then [] else unused) ++ [9, 10, 11]).find? fun d => recB r d != 0).map fun d =>
    ({ sub := 3, dim := d, word := 5 + d / 4 } : LayFail)
  let str := (unused.find? fun d => recS r d != 0).map fun d =>
    ({ sub := 3, dim := d, word := 8 + 28 * d / 64 } : LayFail)
  let top : Option LayFail := if bitsN (recWord r 11) 63 60 ≠ 0 then some { sub := 3, dim := 15, word := 11 } else none
  ext.or (bnd.or (str.or top))

/-- Sub-reason 4: an invalid code, an FM 2 bound of 0, or a window of 2^40 elements or more. -/
def layChk4 (r : List Word) : Option LayFail :=
  if (etypeBytes (recEtype r)).isNone || decide (3 < recFm r) ||
      (recIc r != 0 && (decide (recIg r < 6) || decide (12 < recIg r) || decide (8 < recIb r)
        || decide (2 ^ recIb r ≤ recIk r))) then some { sub := 4, word := 1 }
  else
    match (if recFm r = 2 then dimWhere r (fun d => recB r d == 0) else none) with
    | some d => some { sub := 4, dim := d, word := 5 + d / 4 }
    | none => if 2 ^ 40 ≤ recCount r then some { sub := 4 } else none

/-- Sub-reason 5: an alignment of BASE. -/
def layChk5 (r : List Word) : Option LayFail :=
  if recBase r % recElem r ≠ 0 ∨ (recIc r ≠ 0 ∧ recBase r % 64 ≠ 0) then some { sub := 5, word := 0 } else none

/-- Sub-reason 6 over the dimensions whose extent exceeds 1, with the reach of the one before (R326). -/
def layChk6From (r : List Word) : List Nat → Nat → Option LayFail
  | [], _ => none
  | d :: ds, reach =>
    if (recS r d).natAbs < reach then some { sub := 6, dim := d, word := 8 + 28 * d / 64 }
    else layChk6From r ds (recN r d * (recS r d).natAbs)

def layChk6 (r : List Word) : Option LayFail := layChk6From r ((recDims r).filter fun d => decide (1 < recN r d)) 1

/-- The least and the greatest element offset of a window (R329). -/
def recSpan (r : List Word) : Int × Int :=
  (recDims r).foldl (fun (lo, hi) d =>
    let x := (recElem r : Int) * recS r d * ((recN r d : Int) - 1)
    if x < 0 then (lo + x, hi) else (lo, hi + x)) (0, 0)

/-- Sub-reason 7: a negative offset under an interleave. DESIGN CHOICE (assumption 167): the field is the stride of the lowest dimension
that goes back. -/
def layChk7 (r : List Word) : Option LayFail :=
  if recIc r ≠ 0 ∧ (recSpan r).1 < 0 then
    match dimWhere r (fun d => decide (1 < recN r d) && decide (recS r d < 0)) with
    | some d => some { sub := 7, dim := d, word := 8 + 28 * d / 64 }
    | none => some { sub := 7 }
  else none

/-- The checks of one record, lowest sub-reason first (R325). -/
def layCheck (r : List Word) (dest : Bool) : Option LayFail :=
  if recNdim r = 0 ∨ 9 < recNdim r then some { sub := 2, word := 1 }
  else
    (layChk1 r).or ((layChk3 r).or ((layChk4 r).or ((layChk5 r).or
      ((if dest then layChk6 r else none).or (layChk7 r)))))

/-- The checks of a pair: source, destination, then sub-reason 8 (R325). The Bool tells the record that fails. -/
def layPair (a b : List Word) : Option (LayFail × Bool) :=
  match layCheck a false with
  | some f => some (f, false)
  | none =>
    match layCheck b true with
    | some f => some (f, true)
    | none =>
      if recElem a ≠ recElem b then some ({ sub := 8, word := 1 }, true)
      else if recCount a ≠ recCount b then some ({ sub := 8 }, true)
      else none

/-- The word of R333, which a LAYOUT fault carries in DETAIL (R334). -/
def layWord (f : LayFail) (dest ovl : Bool) : Nat :=
  f.sub + f.word * 2 ^ 8 + f.dim * 2 ^ 12 + (if dest then 2 ^ 16 else 0) + (if ovl then 2 ^ 24 else 0)

/-- The words of a record's bytes. -/
def wordsOf : Nat → List Byte → List Word
  | 0, _ => []
  | n + 1, bs => BitVec.ofNat 64 (leNat (bs.take 8)) :: wordsOf n (bs.drop 8)

/-- The hull of a window: its first byte relative to the start of BASE's selector, and its length; widened to whole blocks
under an interleave (R329). -/
def recHull (r : List Word) : Int × Nat :=
  let (lo, hi) := recSpan r
  let b : Int := (recBase r % 2 ^ 56 : Nat)
  if recIc r = 0 then (b + lo, (hi - lo + recElem r).toNat)
  else
    let blk : Int := 2 ^ (recIg r + recIb r)
    let lo' := lo / blk * blk
    let hi' := (hi / blk + 1) * blk
    (b + lo', (hi' - lo').toNat)

end Sys2Proof.Machine
end

