-- ==== Sys2Proof/Machine/Ports.lean ====
section
/-! DEFINITION. Port FIFOs (R202, R226), the fields of a stream command (R194), its pattern (R200), and the hosting of slots
by AG regions (R191, R228). -/

namespace Sys2Proof.Machine

/-! FIFOs. -/

/-- Places that a FIFO's items take; a snapshot marker takes none (R226). -/
def places (xs : List Item) : Nat := (xs.filter (fun x => x != .snap)).length

/-- Items behind the last snapshot marker, or none when there is no marker. -/
def behindSnap : List Item → Option Nat
  | [] => none
  | x :: xs =>
    match behindSnap xs with
    | some n => some n
    | none => if x = .snap then some (places xs) else none

/-- Whether a FIFO of a capacity takes one more item: behind a snapshot marker up to 32 further items are held (R259). -/
def hasRoom (cap : Nat) (f : Fifo) : Bool :=
  match behindSnap f.items with
  | some n => decide (n < 32)
  | none => decide (places f.items < cap)

def pushItem (f : Fifo) (x : Item) : Fifo := { f with items := f.items ++ [x] }

def ipOf (t : Tile) (n : Nat) : Fifo := mget t.ips n {}
def opOf (t : Tile) (n : Nat) : Fifo := mget t.ops n {}
def chOf (t : Tile) (n : Nat) : Fifo := mget t.chs n {}
def setIp (t : Tile) (n : Nat) (f : Fifo) : Tile := { t with ips := mset t.ips n f }
def setOp (t : Tile) (n : Nat) (f : Fifo) : Tile := { t with ops := mset t.ops n f }
def setCh (t : Tile) (n : Nat) (f : Fifo) : Tile := { t with chs := mset t.chs n f }

/-- Capacities of the FIFOs (R226). -/
def ipCap : Nat := 8
def opCap : Nat := 4
def chCap : Nat := 4

/-- Whether a region holds an input port in the FROZEN state, so that its feeders are held back (R251). -/
def portFrozen (t : Tile) (n : Nat) : Bool :=
  t.regions.any fun (_, r) => r.state == .frozen && r.iports.getLsbD n

/-- Whether a command may put an item into an input port: it feeds the port now, and there is room (R202). -/
def canFeed (t : Tile) (n id : Nat) : Bool :=
  let f := ipOf t n
  f.feeders.head? == some id && hasRoom ipCap f && !portFrozen t n

/-- The next item of an output port, for the command that consumes it now (R202). -/
def canTake (t : Tile) (n id : Nat) : Option Item :=
  let f := opOf t n
  if f.takers.head? = some id then f.items.head? else none

/-- Whether an input port of a freezing region has still to get its snapshot marker: its feeder, an SMCL of another tile, was halted when
the wave started (R259). -/
def snapDue (t : Tile) (n : Nat) : Bool :=
  (t.regions.any fun (_, r) => r.state == .freezing && r.iports.getLsbD n) && !(ipOf t n).items.contains .snap

/-- An item put into an input port, behind the snapshot marker that is due there (R202, R259). -/
def feed (t : Tile) (n : Nat) (x : Item) : Tile :=
  let f := ipOf t n
  setIp t n (pushItem (if snapDue t n then pushItem f .snap else f) x)

def takeOp (t : Tile) (n : Nat) : Tile := let f := opOf t n; setOp t n { f with items := f.items.drop 1 }

/-- A command enters, or leaves, the order of those that feed or consume a port. -/
def joinIp (t : Tile) (n id : Nat) : Tile := let f := ipOf t n; setIp t n { f with feeders := f.feeders ++ [id] }
def joinOp (t : Tile) (n id : Nat) : Tile := let f := opOf t n; setOp t n { f with takers := f.takers ++ [id] }
def leavePorts (t : Tile) (id : Nat) : Tile :=
  { t with ips := t.ips.map (fun (n, f) => (n, { f with feeders := f.feeders.filter (· != id) }))
           ops := t.ops.map (fun (n, f) => (n, { f with takers := f.takers.filter (· != id) })) }

/-! Fields of a stream command (R194). -/

def scAddr (t : BitVec 256) : Nat := tf t 255 192
def scS (t : BitVec 256) (l : Nat) : Nat := tf t (143 + 16 * l) (128 + 16 * l)
def scN (t : BitVec 256) (l : Nat) : Nat := tf t (91 + 12 * l) (80 + 12 * l)
def scSlot (t : BitVec 256) : Nat := tf t 79 76
def scPort (t : BitVec 256) : Nat := tf t 75 72
def scEsz (t : BitVec 256) : Nat := tf t 71 70
def scLvl (t : BitVec 256) : Nat := tf t 69 68
def scLr (t : BitVec 256) : Bool := tf t 67 67 == 1
def scEos (t : BitVec 256) : Bool := tf t 66 66 == 1
def scTgt (t : BitVec 256) : Bool := tf t 65 65 == 1

/-- The path of a stream command's reads of memory: those of a fill of an operand slot travel on MATRIX (R174). -/
def slotPath (t : BitVec 256) : Path := if tf t 7 4 = 0 ∧ scTgt t then .matrix else .stream

/-- The 24-bit COUNT; 0 means 2^24. -/
def scCount (t : BitVec 256) : Nat := if tf t 103 80 = 0 then 2 ^ 24 else tf t 103 80

/-- An extent; 0 means 4,096 (R194). -/
def extent (n : Nat) : Nat := if n = 0 then 4096 else n

/-- The levels that a pattern uses. -/
def scLevels (t : BitVec 256) : List Nat := List.range (scLvl t + 1)

/-- Elements of an affine pattern (R200). -/
def affCount (t : BitVec 256) : Nat := (scLevels t).foldl (fun n l => n * extent (scN t l)) 1

/-- The sum over levels of index times stride for element k, innermost level first (R200). -/
def affSum (t : BitVec 256) : List Nat → Nat → Int
  | [], _ => 0
  | l :: ls, k => (k % extent (scN t l) : Nat) * sextN 16 (scS t l) + affSum t ls (k / extent (scN t l))

/-- An address moved by an offset, modulo 2^56 within its selector (R200). -/
def moveAddr (a : Nat) (o : Int) : Nat := a / 2 ^ 56 * 2 ^ 56 + (((a % 2 ^ 56 : Nat) + o) % 2 ^ 56).toNat

/-- The address of element k of an affine pattern (R200). -/
def affAddr (t : BitVec 256) (k : Nat) : Nat := moveAddr (scAddr t) ((2 ^ scEsz t : Nat) * affSum t (scLevels t) k)

/-- The least and greatest element offsets of an affine pattern, in bytes (R198). -/
def affSpan (t : BitVec 256) : Int × Int :=
  (scLevels t).foldl (fun (lo, hi) l =>
    let x : Int := (2 ^ scEsz t : Nat) * sextN 16 (scS t l) * ((extent (scN t l) : Int) - 1)
    if x < 0 then (lo + x, hi) else (lo, hi + x)) (0, 0)

/-! Hosting. -/

/-- States in which a region is configured (R197, R228). -/
def configured (r : Region) : Bool :=
  match r.state with
  | .unconfigured => false
  | .frozen => false
  | _ => true

/-- The AG region that hosts a slot (R191). -/
def hostOf (t : Tile) (slot : Nat) : Option (Nat × Region) :=
  t.regions.find? fun (_, r) => configured r && r.typ == .ag && r.slots.getLsbD slot

/-- Whether a slot's commands run: its region has started, or is being racked (R191, R255). -/
def slotRuns (t : Tile) (slot : Nat) : Bool :=
  match hostOf t slot with
  | some (_, r) => r.state == .running || r.state == .racking
  | none => false

def slotOf (t : Tile) (n : Nat) : Slot := mget t.slots n {}
def setSlot (t : Tile) (n : Nat) (x : Slot) : Tile := { t with slots := mset t.slots n x }

/-- Commands that a slot holds (R190). -/
def slotHeld (x : Slot) : Nat := x.pending.length + (if x.active.isSome then 1 else 0)

/-- The commands that a slot holds, oldest first. -/
def slotCmds (x : Slot) : List Cmd := (x.active.map (·.cmd)).toList ++ x.pending

end Sys2Proof.Machine
end

