-- ==== Sys2Proof/Machine/ArrayImage.lean ====
section
/-! DEFINITION. Configuration images (R229 to R237): their records, the structure of operator groups and converters, and the
checks at load (R250). -/

namespace Sys2Proof.Machine

/-! Groups and converters of a set of cell records. -/

/-- Word n of the record of cell v. -/
def cellWord (cells : FMap (List Word)) (v n : Nat) : Word := (mget cells v []).getD n 0

/-- A stage of a cell: the cell, the stage and its word. -/
structure StageRef where
  v : Nat
  j : Nat
  w : Word
  deriving DecidableEq, Repr

/-- The stages of a group, in ascending order (R232, R237). -/
def groupStages (cells : FMap (List Word)) (g : Nat) : List StageRef :=
  cells.flatMap fun (v, ws) =>
    ((List.range 6).filter fun j => ccGroup (ws.getD 7 0) j == g).map fun j => { v := v, j := j, w := ws.getD (j + 1) 0 }

/-- The group numbers in use. -/
def groupsUsed (cells : FMap (List Word)) : List Nat := (List.range 16).filter fun g => !(groupStages cells g).isEmpty

/-- The code of the FIFO from a converter into stage 0 of cell v (R234). -/
def pipeCode (v : Nat) : Nat := 0x40 + v

/-- The source that a field of a stage names: p at stage 0 names the converter's FIFO (R234). -/
def srcCode (x : StageRef) (code : Nat) : Nat := if code = 1 ∧ x.j = 0 then pipeCode x.v else code

/-- The inputs that a stage's A and B fields name, with their sticky counts, in order (R237). DESIGN CHOICE (assumption 162): the
converter's FIFO that p names at stage 0 (R234) counts as one of them. -/
def stageInputs (x : StageRef) : List (Nat × Nat) :=
  [(srcCode x (swA x.w), swAstk x.w), (srcCode x (swB x.w), swBstk x.w), (srcCode x (swC x.w), 0)].filter
    fun p => decide (0x10 ≤ p.1)

/-- The distinct inputs of a group, the first one first (R237). -/
def groupInputs (st : List StageRef) : List (Nat × Nat) :=
  (st.flatMap stageInputs).foldl (fun l p => if l.any (fun q => q.1 == p.1) then l else l ++ [p]) []

/-- The outputs of a group: stage number and OUT code (R237). -/
def groupOutputs (st : List StageRef) : List Nat := (st.map fun x => swOut x.w).filter (· != 0)

/-- The cells whose converter word is in use. -/
def convCells (cells : FMap (List Word)) : List Nat := (cells.filter fun p => p.2.getD 0 0 != 0).map (·.1)

/-- The inputs and outputs that a converter names: A and B, OUT and C (R233). -/
def convInputs (w : Word) : List Nat := [swA w, swB w].filter (· != 0)
def convOutputs (v : Nat) (w : Word) : List Nat := (if swOut w = 0 then pipeCode v else swOut w) :: ([swC w].filter (· != 0))

/-! Images. -/

/-- A region record: its header and cell words, and, in a kiln image, its state section (R229). -/
structure RecImg where
  body : List Word
  state : List Word := []
  deriving DecidableEq, Repr

def rhNum (r : RecImg) : Nat := wf64 (r.body.getD 0 0) 2 0
def rhTyp (r : RecImg) : Nat := wf64 (r.body.getD 0 0) 4 3
def rhCells (r : RecImg) : Nat := wf64 (r.body.getD 0 0) 15 8
def rhNgrp (r : RecImg) : Nat := wf64 (r.body.getD 0 0) 20 16
def rhSlots (r : RecImg) : Nat := wf64 (r.body.getD 0 0) 39 24
def rhMode (r : RecImg) : Nat := wf64 (r.body.getD 0 0) 41 40
def rhSecm1 (r : RecImg) : Nat := wf64 (r.body.getD 0 0) 53 42
def rhIports (r : RecImg) : Nat := wf64 (r.body.getD 1 0) 15 0
def rhOports (r : RecImg) : Nat := wf64 (r.body.getD 1 0) 31 16
def rhChans (r : RecImg) : Nat := wf64 (r.body.getD 1 0) 47 32
def rhIpnar (r : RecImg) : Nat := wf64 (r.body.getD 2 0) 15 0
def rhOpnar (r : RecImg) : Nat := wf64 (r.body.getD 2 0) 31 16

/-- The cell records of a record by cell number. -/
def cellsFrom : List Nat → List Word → FMap (List Word)
  | [], _ => []
  | v :: vs, ws => (v, ws.take 8) :: cellsFrom vs (ws.drop 8)

def recCells (r : RecImg) : FMap (List Word) :=
  if rhTyp r = 1 ∨ rhTyp r = 2 then cellsFrom (maskBits 8 (rhCells r)) (r.body.drop 8) else []

/-- Words of a record without its state section. -/
def recBodyLen (h0 : Word) : Nat :=
  8 + 8 * (if wf64 h0 4 3 = 1 ∨ wf64 h0 4 3 = 2 then (maskBits 8 (wf64 h0 15 8)).length else 0)

/-- The records of an image, or none where they do not fill it exactly (R229, R230). -/
def parseRecs (kiln : Bool) : Nat → List Word → Option (List RecImg)
  | 0, ws => if ws.isEmpty then some [] else none
  | n + 1, ws =>
    let len := recBodyLen (ws.getD 0 0)
    let st := if kiln then 8 * wf64 (ws.getD len 0) 47 32 else 0
    if ws.length < len + st ∨ (kiln ∧ st = 0) then none
    else (parseRecs kiln n (ws.drop (len + st))).map ({ body := ws.take len, state := (ws.drop len).take st } :: ·)

/-- The records of an image that passes the header's checks, sub-reason 1 (R230, R250). -/
def imageRecs (kiln : Bool) (ws : List Word) : Option (List RecImg) :=
  let h := ws.getD 0 0
  let ok := wf64 h 63 32 == 0 && wf64 h 15 9 == 0 && wf64 h 7 4 == 0 && ((ws.drop 1).take 7).all (· == 0)
    && (wf64 h 8 8 == 1) == kiln && decide (1 ≤ wf64 h 3 0) && decide (wf64 h 3 0 ≤ 8) && 8 * wf64 h 31 16 == ws.length
  if ok then parseRecs kiln (wf64 h 3 0) (ws.drop 8) else none

/-- A failed check: sub-reason, region, cell and word (R250). -/
structure CfgFail where
  sub : Nat
  region : Nat := 0
  cell : Nat := 15
  word : Nat := 15
  deriving DecidableEq, Repr

/-- ss.tval of a CONFIG trap (R250). -/
def cfgTval (f : CfgFail) : Word := BitVec.ofNat 64 (f.sub + f.region * 2 ^ 8 + f.cell * 2 ^ 12 + f.word * 2 ^ 16)

/-- Sub-reason 3 (R231, R250). -/
def chkHeader (r : RecImg) : Bool :=
  let h0 := r.body.getD 0 0
  let h1 := r.body.getD 1 0
  let h2 := r.body.getD 2 0
  let rsv := wf64 h0 63 54 == 0 && wf64 h0 23 21 == 0 && wf64 h0 7 5 == 0 && wf64 h1 63 48 == 0 && wf64 h2 63 32 == 0
    && ((r.body.drop 3).take 5).all (· == 0)
  let within := (maskBits 16 (rhSlots r)).all fun n => bitN (rhCells r) (n / 2)
  rsv && rhTyp r != 3 && rhCells r != 0 &&
    (if rhTyp r = 0 then within && rhMode r != 3 && (rhSecm1 r == 0 || rhMode r == 2) && rhNgrp r == 0 && h1 == 0 && h2 == 0
     else rhSlots r == 0 && rhMode r == 0 && rhSecm1 r == 0)

/-- Sub-reason 5 (R110, R111): a converter stands on cells 0 and 5, and its word is legal. -/
def chkConv (v : Nat) (w : Word) : Bool := w == 0 || ((v == 0 || v == 5) && convWordOk w)

/-- A source code of R234. -/
def srcLegal (c : Nat) : Bool := decide (c ≤ 4) || (decide (0x10 ≤ c) && decide (c ≤ 0x2F))

/-- A destination code of R234. -/
def outLegal (c : Nat) : Bool := c == 0 || (decide (0x10 ≤ c) && decide (c ≤ 0x2F))

/-- Sub-reason 6: one stage word that is not idle (R233 to R235, R243 to R249). -/
def chkStage (reducer : Bool) (w : Word) : Bool :=
  match opReads (swOp w) with
  | none => false
  | some reads =>
    let fld (bit code stk : Nat) : Bool :=
      if bitN reads bit then srcLegal code && (stk == 0 || decide (0x10 ≤ code)) else code == 0 && stk == 0
    let immSrc := (bitN reads 0 && swA w == 3) || (bitN reads 1 && swB w == 3) || (bitN reads 2 && swC w == 3)
    let red := reducer && decide (0x28 ≤ swOp w)
    let immOk :=
      if swOp w = 0x22 then decide (swImm w < 16)
      else if red then decide (1 ≤ swImm w) && decide (swImm w ≤ 12)
      else if swOp w = 0x24 ∧ swMod w = 2 then true
      else immSrc || swImm w == 0
    wf64 w 7 6 == 0 && opMod (swOp w) (swMod w) reducer && decide (swRm w ≤ 5)
      && (swRm w == 0 || opRounds (swOp w) (swMod w))
      && fld 0 (swA w) (swAstk w) && fld 1 (swB w) (swBstk w) && fld 2 (swC w) 0 && decide (swC w ≤ 4)
      && outLegal (swOut w) && immOk && ((immSrc && !red) || !swImmx w)

/-- The failures of sub-reason 7 as cells and words (R232, R237, R249). Reserved bits of the control word are ignored (R5). DESIGN CHOICE
(assumption 163): NGRP 0 passes in a region that uses no group. -/
def fails7 (reducer : Bool) (ngrp : Nat) (cells : FMap (List Word)) : List (Nat × Nat) :=
  let ctl := cells.flatMap fun (v, ws) =>
    let w7 := ws.getD 7 0
    (if ccV w7 != v then [(v, 7)] else [])
      ++ ((List.range 6).flatMap fun j =>
        let g := ccGroup w7 j
        if 16 ≤ g ∧ g ≤ 30 then [(v, 7)] else if g = 31 ∧ ws.getD (j + 1) 0 ≠ 0 then [(v, j + 1)] else [])
  let grp := (groupsUsed cells).flatMap fun g =>
    let st := groupStages cells g
    let v := (st.headD { v := 15, j := 0, w := 0 }).v
    let j0 := (st.headD { v := 15, j := 0, w := 0 }).j
    let shape := st.zipIdx.all fun (x, i) => x.v == v && x.j == j0 + i
    let pOk (x : StageRef) : Bool :=
      let usesP := swA x.w == 1 || swB x.w == 1 || swC x.w == 1
      !usesP || (if x.j = 0 then cellWord cells x.v 0 != 0 && swOut (cellWord cells x.v 0) == 0
                 else ccGroup (cellWord cells x.v 7) (x.j - 1) == g)
    let redOk (x : StageRef) : Bool :=
      !reducer || (decide (0x28 ≤ swOp x.w) && decide (0x10 ≤ swA x.w) && swOut x.w != 0 && st.length == 1)
    let loop := (groupOutputs st).any fun c => decide (0x20 ≤ c) && (groupInputs st).any fun p => p.1 == c
    (if shape then [] else [(v, 15)])
      ++ (st.filter fun x => !(pOk x && redOk x)).map (fun x => (x.v, x.j + 1))
      ++ (if loop then [(v, 15)] else [])
  ctl ++ grp ++ (if (groupsUsed cells).length = ngrp then [] else [(15, 15)])

/-- The readers of a region as FIFO codes, one entry for each group and each converter that reads it. -/
def readersOf (cells : FMap (List Word)) : List Nat :=
  ((groupsUsed cells).flatMap fun g => (groupInputs (groupStages cells g)).map (·.1))
    ++ (convCells cells).flatMap fun v => (convInputs (cellWord cells v 0)).eraseDups

/-- The writers of a region as FIFO codes, one entry for each stage and each converter. -/
def writersOf (cells : FMap (List Word)) : List Nat :=
  ((groupsUsed cells).flatMap fun g => groupOutputs (groupStages cells g))
    ++ (convCells cells).flatMap fun v => convOutputs v (cellWord cells v 0)

/-- The places that name a FIFO code as an input, and as an output: the code, the cell and the word. -/
def readPlaces (cells : FMap (List Word)) : List (Nat × Nat × Nat) :=
  ((groupsUsed cells).flatMap fun g => (groupStages cells g).flatMap fun x => (stageInputs x).map fun p => (p.1, x.v, x.j + 1))
    ++ (convCells cells).flatMap fun v => (convInputs (cellWord cells v 0)).map fun c => (c, v, 0)
def writePlaces (cells : FMap (List Word)) : List (Nat × Nat × Nat) :=
  ((groupsUsed cells).flatMap fun g => ((groupStages cells g).filter fun x => swOut x.w != 0).map fun x => (swOut x.w, x.v, x.j + 1))
    ++ (convCells cells).flatMap fun v => (convOutputs v (cellWord cells v 0)).map fun c => (c, v, 0)

/-- Whether a FIFO code stands in one list of readers or writers, in the list of its other side where it is a channel or a converter's
own FIFO, and in the record where it is a port or a channel (R237, R250). -/
def fifoSound (mine other : List Nat) (ports chans c : Nat) : Bool :=
  (mine.filter (· == c)).length == 1 && (decide (c < 0x20) || other.contains c) &&
    (if c < 0x20 then bitN ports (c - 0x10) else decide (0x30 ≤ c) || bitN chans (c - 0x20))

/-- The failures of sub-reason 8 (R237): sticky counts, reader and writer counts, and ports and channels used but not declared, each at
the words that name it; a port or channel declared but unused stands at no word. -/
def fails8 (r : RecImg) (cells : FMap (List Word)) : List (Nat × Nat) :=
  let grp := (groupsUsed cells).flatMap fun g =>
    let st := groupStages cells g
    let ins := groupInputs st
    let uneq := (st.filter fun x => (stageInputs x).any fun p => ins.any fun q => q.1 == p.1 && q.2 != p.2)
    uneq.map (fun x => (x.v, x.j + 1)) ++ (if ins.any (fun p => decide (p.2 < 15)) then [] else
      [((st.headD { v := 15, j := 0, w := 0 }).v, 15)])
  let cnv := (convCells cells).filter fun v =>
    let w := cellWord cells v 0
    !(decide (0x10 ≤ swA w) && srcLegal (swA w) && (swB w == 0 || (decide (0x10 ≤ swB w) && srcLegal (swB w)))
      && outLegal (swOut w) && outLegal (swC w))
  let rs := readersOf cells
  let ws := writersOf cells
  let reads := (readPlaces cells).filter fun p => !fifoSound rs ws (rhIports r) (rhChans r) p.1
  let writes := (writePlaces cells).filter fun p => !fifoSound ws rs (rhOports r) (rhChans r) p.1
  let unused (m base : Nat) (cs : List Nat) : Bool := (maskBits 16 m).any fun n => !cs.contains (base + n)
  let idle := unused (rhIports r) 0x10 rs || unused (rhOports r) 0x10 ws || unused (rhChans r) 0x20 (rs ++ ws)
  grp ++ cnv.map (fun v => (v, 0)) ++ (reads ++ writes).map (·.2) ++ (if idle then [(15, 15)] else [])

/-- The failures of sub-reason 9: the stages that read or write a narrow port (R250). -/
def fails9 (r : RecImg) (cells : FMap (List Word)) : List (Nat × Nat) :=
  let st := (groupsUsed cells).flatMap (groupStages cells)
  (st.filter fun x =>
    (stageInputs x).any (fun p => decide (p.1 < 0x20) && bitN (rhIpnar r) (p.1 - 0x10))
      || (decide (0x10 ≤ swOut x.w) && decide (swOut x.w < 0x20) && bitN (rhOpnar r) (swOut x.w - 0x10))).map fun x => (x.v, x.j + 1)

/-- The first of a list of cells and words: lowest cell, then lowest word. -/
def firstOf (l : List (Nat × Nat)) : Option (Nat × Nat) :=
  l.foldl (fun m p => match m with
    | none => some p
    | some q => if p.1 < q.1 ∨ (p.1 = q.1 ∧ p.2 < q.2) then some p else some q) none

/-- The failures of sub-reasons 5 and 6. -/
def fails5 (cells : FMap (List Word)) : List (Nat × Nat) :=
  (cells.filter fun (v, ws) => !chkConv v (ws.getD 0 0)).map fun p => (p.1, 0)

def fails6 (reducer : Bool) (cells : FMap (List Word)) : List (Nat × Nat) :=
  cells.flatMap fun (v, ws) =>
    ((List.range 6).filter fun j => ccGroup (ws.getD 7 0) j != 31 && !chkStage reducer (ws.getD (j + 1) 0)).map
      fun j => (v, j + 1)

/-- The checks of one record: the lowest of sub-reasons 3 and 5 to 9 (R250). -/
def chkRecord (r : RecImg) : Option CfgFail :=
  let cells := recCells r
  let red := rhTyp r == 2
  let fail (sub : Nat) (l : List (Nat × Nat)) : Option CfgFail :=
    (firstOf l).map fun p => { sub := sub, region := rhNum r, cell := p.1, word := p.2 }
  if !chkHeader r then some { sub := 3, region := rhNum r }
  else
    (fail 5 (fails5 cells)).or ((fail 6 (fails6 red cells)).or ((fail 7 (fails7 red (rhNgrp r) cells)).or
      ((fail 8 (fails8 r cells)).or (fail 9 (fails9 r cells)))))

/-- The checks of the records that a mask selects: the lowest masked region that fails (R250). -/
def chkMasked (recs : List RecImg) : List Nat → Option CfgFail
  | [] => none
  | n :: ns =>
    match recs.filter (fun r => rhNum r == n) with
    | [r] => (chkRecord r).or (chkMasked recs ns)
    | _ => some { sub := 2, region := n }

/-- The region that a record configures (R228, R231, R254). -/
def regionOf (r : RecImg) : Region :=
  { state := .stopped
    typ := if rhTyp r = 0 then .ag else if rhTyp r = 1 then .compute else .reducer
    cells := BitVec.ofNat 8 (rhCells r)
    slots := BitVec.ofNat 16 (rhSlots r)
    mode := BitVec.ofNat 2 (rhMode r)
    secLen := rhSecm1 r + 1
    ngrp := rhNgrp r
    iports := BitVec.ofNat 16 (rhIports r)
    oports := BitVec.ofNat 16 (rhOports r)
    chans := BitVec.ofNat 16 (rhChans r)
    ipnar := BitVec.ofNat 16 (rhIpnar r)
    opnar := BitVec.ofNat 16 (rhOpnar r)
    cellRecs := recCells r }

/-- Whether two regions claim a cell, slot, port or channel in common (R228). -/
def claimsMeet (a b : Region) : Bool :=
  ((a.typ == .ag) == (b.typ == .ag) && a.cells &&& b.cells != 0) || a.slots &&& b.slots != 0
    || a.iports &&& b.iports != 0 || a.oports &&& b.oports != 0 || a.chans &&& b.chans != 0

/-- Sub-reason 4 for one region: claimed also by another of the mask, or held by a region outside it (R250). -/
def claimFails (t : Tile) (new : FMap Region) (n : Nat) (r : Region) : Bool :=
  new.any (fun (m, x) => m != n && claimsMeet r x)
    || t.regions.any fun (m, x) => (mget? new m).isNone && x.state != .unconfigured && claimsMeet r x

/-- The conflict and state checks of CFGLD and THAW, sub-reasons 4 and 10 (R250, R252). -/
def chkStates (t : Tile) (new : FMap Region) (bad : RegionState → Bool) : List Nat → Option CfgFail
  | [] => none
  | n :: ns =>
    if claimFails t new n (mget new n {}) then some { sub := 4, region := n }
    else if bad (mget t.regions n {}).state then some { sub := 10, region := n }
    else chkStates t new bad ns

end Sys2Proof.Machine
end

