-- ==== Sys2Proof/Machine/StreamIssue.lean ====
section
/-! DEFINITION. Stream commands at issue: the checks of R196 to R198 and R209, and acceptance into a slot (R190, R208,
R209). -/

namespace Sys2Proof.Machine

/-! The fields that must be zero (R196, R197). -/

/-- Whether the given 16-bit strides and 12-bit extents are all zero. -/
def zeroS (t : BitVec 256) (ls : List Nat) : Bool := ls.all fun l => scS t l == 0
def zeroN (t : BitVec 256) (ls : List Nat) : Bool := ls.all fun l => scN t l == 0

/-- Whether ESZ, LVL, LR and TGT are zero, and EOS where it is asked for. -/
def zeroCtl (t : BitVec 256) (esz eos : Bool) : Bool :=
  (!esz || scEsz t == 0) && scLvl t == 0 && !scLr t && !scTgt t && (!eos || !scEos t)

/-- The strides and extents of unused levels (R197). exempt names levels whose fields hold something else. -/
def unusedZero (t : BitVec 256) (exS exN : List Nat) : Bool :=
  scLr t || ((List.range 4).filter fun l => decide (scLvl t < l)).all fun l =>
    (exS.contains l || scS t l == 0) && (exN.contains l || scN t l == 0)

/-- The bytes that a TGT = 1 load moves (R197). -/
def fillBytes (t : BitVec 256) : Nat := affCount t * 2 ^ scEsz t

/-- The fields that R196 gives each sub-kind, by SUB. mask tells the tiles of the cluster on which the issuing job runs. -/
def streamFields (t : BitVec 256) (mask : Nat) : Nat → Bool
  | 0 => unusedZero t [] (if scTgt t then [3] else []) &&
      (!scTgt t || (!scLr t && scLvl t != 3 && scN t 3 / 256 == 0 && fillBytes t == 8192))
  | 1 => unusedZero t [] [] && !scTgt t
  | 2 => zeroCtl t false false && zeroN t [3] && bitsN (scS t 3) 14 4 == 0 && (bitN (scS t 3) 15 || scS t 3 == 0)
  | 3 => zeroCtl t false false && zeroN t [3] && bitsN (scS t 3) 14 4 == 0 && (bitN (scS t 3) 15 || scS t 3 == 0)
  | 4 => zeroCtl t true false && scAddr t == 0 && scS t 3 / 16 == 0 && zeroS t [0, 1, 2] && zeroN t [2, 3]
  | 5 => zeroCtl t false false && scAddr t / 2 ^ 32 == 0 && zeroS t [1, 2, 3] && zeroN t [2, 3] && scEsz t != 3
  | 6 => unusedZero t [3] [] && !scTgt t && scLvl t != 3 && scS t 3 / 256 == 0 && scS t 3 != 0 &&
      (scS t 3).land (255 - mask) == 0
  | 7 => zeroCtl t true false && bitsN (scS t 3) 14 4 == 0 && zeroS t [0, 2] && zeroN t [3] && scAddr t % 64 == 0
  | 8 => zeroCtl t true true && scSlot t == 0 && scPort t == 0 && scAddr t == 0 && scS t 0 != 0 && zeroS t [1, 2, 3] &&
      zeroN t [0, 1, 2, 3]
  | 9 => zeroCtl t true true && scPort t == 0 && scAddr t == 0 && zeroS t [0, 1, 2, 3] && zeroN t [0, 1, 2, 3]
  | 10 => zeroCtl t true true && scSlot t == 0 && scPort t == 0 && scS t 0 != 0 && zeroS t [2, 3] && zeroN t [0, 1, 2, 3]
  | _ => false

/-- ADDR of a pattern or of a row base: its selector and its alignment (R197). -/
def streamAddr (t : BitVec 256) (sub : Nat) : Bool :=
  if sub = 0 ∨ sub = 1 ∨ sub = 6 then
    decide (scAddr t / 2 ^ 56 ≤ 3) && (if scLr t then scAddr t % 8 == 0 && scEsz t == 0 else scAddr t % 2 ^ scEsz t == 0)
  else if sub = 2 ∨ sub = 3 then decide (scAddr t / 2 ^ 56 ≤ 3) && scAddr t % 2 ^ scEsz t == 0
  else true

/-- SLOT is hosted by a configured AG region; SBAR and SWT name no slot there (R197). -/
def streamHosted (s : State) (tile : Nat) (t : BitVec 256) (sub : Nat) : Bool :=
  sub == 8 || sub == 10 || (hostOf (tileOf s tile) (scSlot t)).isSome

/-- The tiles of a tile's cluster that a job's block holds, as a mask; with none, the tile alone (R197). -/
def blockMask (tile : Nat) (tiles : List Nat) : Nat :=
  (List.range 8).foldl (fun m i => if tiles.contains (tileCluster tile * 8 + i) then m + 2 ^ i else m) 0

/-- The address hull of a pattern in own or peer scratchpad lies in buffers that the stream holds (R198). -/
def hullOwned (s : State) (tile : Nat) (sk : Strm) (t : BitVec 256) : Bool :=
  let a := scAddr t
  let (lo, hi) := affSpan t
  if a / 2 ^ 56 = 1 then
    let first := ((a % 2 ^ 56 : Nat) + lo).toNat
    let past := ((a % 2 ^ 56 : Nat) + hi + 2 ^ scEsz t).toNat
    !foreignBuffer s tile sk first (past - first)
  else if a / 2 ^ 56 = 2 then
    handleValid s tile (bitsN a 55 40) && heldBy (handleAt s tile (bitsN a 55 40)) tile sk
  else true

/-- The issue checks of a KIND 1 command (R197, R198, R209): TEMPLATE, then OWNER. tiles is the block of the issuer. -/
def streamCheck (s : State) (tile : Nat) (sk : Strm) (tiles : List Nat) (t : BitVec 256) : Chk Unit := do
  let sub := tf t 7 4
  need (tf t 64 64 == 0 && streamFields t (blockMask tile tiles) sub && streamAddr t sub && streamHosted s tile t sub)
    .template 0
  need (!((sub == 0 || sub == 1 || sub == 6) && !scLr t) || hullOwned s tile sk t) .owner 0
  need (sub != 10 || ownSpanOk s tile sk (scS t 1 * 8) 8) .owner 0

/-! Acceptance (R71, R190, R202, R208, R209). -/

/-- Slots that a mask names. -/
def maskSlots (m : Nat) : List Nat := maskBits 16 m

/-- A fault record of a slot's command that the arbiter has not accepted; the slot takes no command until then (R212). DESIGN CHOICE
(assumption 155): a command that ends with CONFIG has no record of its own, and its slot takes commands at once (R222). -/
def slotFaultOffered (s : State) (tile slot : Nat) : Bool :=
  s.fe.offers.any fun o => o.src == 1 && !o.resp && o.tile == tile && o.unit == slot

/-- A slot takes one more command: fewer than four held, its region neither racking nor freezing (R190, R255, R258). -/
def slotRoom (s : State) (tile slot : Nat) : Bool :=
  let t := tileOf s tile
  let held := match hostOf t slot with
    | some (_, r) => r.state == .racking || r.state == .freezing
    | none => false
  decide (slotHeld (slotOf t slot) < 4) && !held && !slotFaultOffered s tile slot

/-- Whether a KIND 1 command is accepted now (R190, R208, R209). -/
def streamRoom (s : State) (tile : Nat) (t : BitVec 256) : Bool :=
  match tf t 7 4 with
  | 8 => (maskSlots (scS t 0)).all (slotRoom s tile)
  | 10 => decide ((tileOf s tile).swts.length < 4)
  | _ => slotRoom s tile (scSlot t)

/-- The input ports that a command feeds, as tile and port (R196). A fill feeds none. -/
def feedTargets (c : Cmd) : List (Nat × Nat) :=
  let t := c.tmpl
  match cmdSub c with
  | 0 => if scTgt t then [] else [(c.tile, scPort t)]
  | 2 => [(c.tile, scPort t)]
  | 4 => [(c.tile, scS t 3 % 16)]
  | 5 => [(c.tile, scPort t)]
  | 6 => (maskBits 8 (scS t 3)).map fun i => (tileCluster c.tile * 8 + i, scPort t)
  | _ => []

/-- The output ports that a command consumes (R196, R202). The first is its data port. -/
def takePorts (c : Cmd) : List Nat :=
  let t := c.tmpl
  let idx := if bitN (scS t 3) 15 then [scS t 3 % 16] else []
  match cmdSub c with
  | 1 => [scPort t]
  | 2 => idx
  | 3 => scPort t :: idx
  | 4 => [scPort t]
  | 7 => [scPort t, scS t 3 % 16]
  | _ => []

/-- A command joins the order of every port it feeds or consumes (R202). -/
def joinPorts (s : State) (c : Cmd) : State :=
  let s1 := (feedTargets c).foldl (fun s p => setTile s p.1 (joinIp (tileOf s p.1) p.2 c.id)) s
  (takePorts c).foldl (fun s p => setTile s c.tile (joinOp (tileOf s c.tile) p c.id)) s1

/-- A command leaves every port order. -/
def leaveAll (s : State) (c : Cmd) : State :=
  let tiles := (c.tile :: (feedTargets c).map (·.1)).eraseDups
  tiles.foldl (fun s t => setTile s t (leavePorts (tileOf s t) c.id)) s

def opSlotOf (s : State) (cl n : Nat) : OpSlot := mget (clusterOf s cl).slots n {}

def setOpSlot (s : State) (cl n : Nat) (x : OpSlot) : State :=
  let c := clusterOf s cl
  setCluster s cl { c with slots := mset c.slots n x }

/-- Registration of a fill (R263, R264): FACC advances where the slot is claimed by the issuing tile and not draining;
otherwise the command fails when it starts. -/
def registerFill (s : State) (c : Cmd) : State × Cmd :=
  if cmdSub c = 0 ∧ scTgt c.tmpl then
    let cl := tileCluster c.tile
    let n := scN c.tmpl 3 % 256
    let x := opSlotOf s cl n
    if x.claim = some c.tile ∧ !x.draining then
      (setOpSlot s cl n { x with facc := x.facc + 1 }, { c with fill := x.facc + 1 })
    else (s, c)
  else (s, c)

/-- The command goes to the end of a slot's queue. -/
def pushSlot (s : State) (tile slot : Nat) (c : Cmd) : State :=
  let t := tileOf s tile
  let x := slotOf t slot
  setTile s tile (setSlot t slot { x with pending := x.pending ++ [c] })

/-- The commands that the named slots hold, and their numbers. -/
def heldCmds (t : Tile) (mask : Nat) : List Cmd := (maskSlots mask).flatMap fun n => slotCmds (slotOf t n)
def heldIds (t : Tile) (mask : Nat) : List Nat := (heldCmds t mask).map (·.id)

/-- A command that waits for others: their accesses happen before what observes its completion (R209, R217). -/
def afterCmds (c : Cmd) (cs : List Cmd) : Cmd := { c with know := cs.foldl (fun x d => kmerge x (doneKnow d)) c.know }

/-- Acceptance of a KIND 1 command (R71, R190, R202, R208, R209). -/
def streamAccept (s : State) (c : Cmd) : State :=
  let t := tileOf s c.tile
  match cmdSub c with
  | 8 =>
    let s1 := (maskSlots (scS c.tmpl 0)).foldl (fun s n => pushSlot s c.tile n c) s
    let t1 := tileOf s1 c.tile
    setTile s1 c.tile { t1 with barriers := t1.barriers ++ [c] }
  | 10 => setTile s c.tile { t with swts := t.swts ++ [{ cmd := afterCmds c (heldCmds t (scS c.tmpl 0)), awaits := heldIds t (scS c.tmpl 0) }] }
  | _ =>
    let (s1, c1) := registerFill s c
    pushSlot (joinPorts s1 c1) c.tile (scSlot c.tmpl) c1

/-- The physical spans that a KIND 1 command may touch, for HGIVE (R166): the hull of a pattern in scratchpad, or the
whole scratchpads of the cluster where the addresses come from memory. -/
def streamSpans (s : State) (tile : Nat) (t : BitVec 256) : List (Nat × Nat) :=
  let sub := tf t 7 4
  let all := [(scratchBase (tileCluster tile * 8), 8 * Config.scratchBytes)]
  if (sub = 0 ∨ sub = 1 ∨ sub = 6) ∧ !scLr t then
    let a := scAddr t
    let (lo, hi) := affSpan t
    let n := (hi - lo + 2 ^ scEsz t).toNat
    if a / 2 ^ 56 = 1 then [(((scratchBase tile + a % 2 ^ 56 : Nat) + lo).toNat, n)]
    else if a / 2 ^ 56 = 2 then
      let e := handleAt s tile (bitsN a 55 40)
      [(scratchBase (tileCluster tile * 8 + hHome e) + hBase e * 64, hSize e * 64)]
    else []
  else if sub = 10 then [(scratchBase tile + scS t 1 * 8, 8)]
  else if sub = 4 ∨ sub = 5 ∨ sub = 8 ∨ sub = 9 then []
  else all

end Sys2Proof.Machine
end

