-- ==== Sys2Proof/Machine/Sections.lean ====
section
/-! DEFINITION. The elements of a running stream command (R194, R200, R205) and the sections of an ORDERED-UPDATE node (R188,
R193). -/

namespace Sys2Proof.Machine

/-- Why a slot does not go on: it waits, or its command meets a fault, with sub-reason, address and DETAIL (R222). -/
inductive SStop where
  | wait
  | fault (c : Cause) (sub addr detail : Nat)
  deriving DecidableEq, Repr

abbrev SChk := Except SStop

def slotAt (s : State) (tile n : Nat) : Slot := slotOf (tileOf s tile) n

def putSlot (s : State) (tile n : Nat) (x : Slot) : State := setTile s tile (setSlot (tileOf s tile) n x)

/-- The active command of a slot replaced. -/
def putActive (s : State) (tile n : Nat) (a : ActiveCmd) : State :=
  putSlot s tile n { slotAt s tile n with active := some a }

/-! Elements (R200, R205). -/

/-- The element size of a running command. -/
def actElem (a : ActiveCmd) : Nat :=
  match a.record with
  | some r => recElem r
  | none => 2 ^ scEsz a.cmd.tmpl

/-- The elements, words or rows that a command has to handle: the count of R194. -/
def cmdCount (a : ActiveCmd) : Nat :=
  let t := a.cmd.tmpl
  match cmdSub a.cmd with
  | 2 => scCount t * extent (scN t 2)
  | 3 => scCount t * extent (scN t 2)
  | 4 => scCount t
  | 5 => scCount t
  | 7 => scCount t
  | _ => match a.record with
    | some r => recCount r
    | none => affCount t

/-- Where a running command ends: at its count, or where a token that it has taken ends it (R203). -/
def actCount (a : ActiveCmd) : Nat :=
  match a.limit with
  | some n => min n (cmdCount a)
  | none => cmdCount a

/-- What an element is: an access at an address, constant bytes (for a store, an element that is dropped), the ragged edge
under FM 3, or one that waits for an index. -/
inductive Elem where
  | acc (a : Nat)
  | const (bs : List Byte)
  | edge
  | index
  deriving DecidableEq, Repr

/-- The row of an indirect command: zeros without access where the index is not valid (R205). -/
def indexElem (a : ActiveCmd) (k : Nat) : Elem :=
  let t := a.cmd.tmpl
  match a.idx with
  | [] => .index
  | i :: _ =>
    let x := i.toInt
    let b := scS t 2
    if 0 ≤ x ∧ (b = 0 ∨ x < b) then
      .acc (moveAddr (scAddr t) ((2 ^ scEsz t : Nat) * (x * sextN 16 (scS t 0) + (k % extent (scN t 2) : Nat))))
    else .const (List.replicate (2 ^ scEsz t) 0)

/-- Element k of a running command. -/
def actElement (a : ActiveCmd) (k : Nat) : Elem :=
  let sub := cmdSub a.cmd
  if sub = 2 ∨ sub = 3 then indexElem a k
  else
    match a.record with
    | none => .acc (affAddr a.cmd.tmpl k)
    | some r =>
      if sub = 1 then
        match recDest r k with
        | .write x => .acc x
        | .drop => .const []
        | .edge => .edge
      else
        match recSource r k with
        | .read x => .acc x
        | .const bs => .const bs
        | .edge => .edge

/-- Whether each access checks ownership: those of indirect, compaction and layout-record commands (R198, R222). -/
def actOwn (a : ActiveCmd) : Bool := a.record.isSome || cmdSub a.cmd == 2 || cmdSub a.cmd == 3 || cmdSub a.cmd == 7

/-- The addresses and bytes that a surviving row of SCMP writes: its words, and its index where the list is on (R207). -/
def survivorWrites (a : ActiveCmd) : List (Nat × List Byte) :=
  let t := a.cmd.tmpl
  let rl := extent (scN t 2)
  let rows := (List.range rl).map fun w =>
    (moveAddr (scAddr t) ((64 * (a.survivors * rl + w) : Nat) : Int), (a.buf.drop (64 * w)).take 64)
  if bitN (scS t 3) 15 then rows ++ [(ownAddr (scS t 1 * 8 + 4 * a.survivors), leBytes 4 a.k)] else rows

/-! Ordered-update sections (R188, R192, R193). A section is known by its command's number, in acceptance order, and its first
element. Every access waits for what an earlier command of the node may still do to its line, so that the accesses appear in
section order; the writes of a section are performed together when it commits. -/

/-- The ORDERED-UPDATE node that hosts a slot. -/
def ouNode (s : State) (tile slot : Nat) : Option (Nat × Region) :=
  match hostOf (tileOf s tile) slot with
  | some (n, r) => if r.mode = 2 then some (n, r) else none
  | none => none

def setRegion (s : State) (tile n : Nat) (r : Region) : State :=
  let t := tileOf s tile
  setTile s tile { t with regions := mset t.regions n r }

/-- Whether a SUB reads memory, and whether it writes memory through sections. -/
def subReads (sub : Nat) : Bool := sub == 0 || sub == 2 || sub == 6
def subWrites (sub : Nat) : Bool := sub == 1 || sub == 3 || sub == 7

/-- The 64-byte lines of a list of pieces, by physical address. -/
def segLines (segs : List Seg) : List Nat := (segs.flatMap fun g => [g.phys / 64, (g.phys + g.len - 1) / 64]).eraseDups

/-- The lines of an access of a command; none where it faults. -/
def accLines (s : State) (a : ActiveCmd) (x n : Nat) (write : Bool) : List Nat :=
  match engSegs s (whoOf a.cmd .stream) x n write false with
  | .ok segs => segLines segs
  | .error _ => []

/-- The lines of element k of a command; none where it has none or is not known. -/
def elemLines (s : State) (a : ActiveCmd) (k : Nat) : List Nat :=
  match actElement a k with
  | .acc x => accLines s a x (actElem a) (subWrites (cmdSub a.cmd))
  | _ => []

/-- The lines of the next element, or row, of a command. -/
def nextLines (s : State) (a : ActiveCmd) : List Nat :=
  if cmdSub a.cmd = 7 then (survivorWrites a).flatMap fun p => accLines s a p.1 p.2.length true else elemLines s a a.k

/-- Whether the elements of a command from k on may touch a line. A command whose addresses are not known yet may. -/
def mayTouch (s : State) (a : ActiveCmd) (line : Nat) : Bool :=
  let sub := cmdSub a.cmd
  if sub = 2 ∨ sub = 3 ∨ sub = 7 ∨ (scLr a.cmd.tmpl && a.record.isNone) then true
  else (List.range (actCount a - a.k)).any fun i => (elemLines s a (a.k + i)).contains line

/-- Whether an access to a line by command id must wait for an earlier command of the node (R188). -/
def lineHeld (s : State) (tile : Nat) (r : Region) (id line : Nat) (write : Bool) : Bool :=
  let t := tileOf s tile
  let hit (a : ActiveCmd) : Bool :=
    decide (a.cmd.id < id) && !a.finished && (subWrites (cmdSub a.cmd) || (write && subReads (cmdSub a.cmd)))
      && mayTouch s a line
  r.sections.any (fun x => decide (x.owner.id < id) && x.writes.any fun y =>
      decide (y.phys / 64 ≤ line) && decide (line ≤ (y.phys + y.bytes.length - 1) / 64))
    || (maskBits 16 r.slots.toNat).any fun n =>
      let x := slotOf t n
      (x.active.toList.any hit) || x.pending.any fun c => hit { cmd := c }

/-- The order of sections (R193): by acceptance of their commands, and within a command by element. -/
def secBefore (x y : Section) : Bool :=
  decide (x.owner.id < y.owner.id) || (x.owner.id == y.owner.id && decide (x.firstK < y.firstK))

/-- A section's number: those that have committed since the node was configured or thawed, and those in flight before it (R193). -/
def secNum (r : Region) (x : Section) : Nat := (r.secNext + (r.sections.filter fun y => secBefore y x).length) % 2 ^ 16

/-- A line added to the signature of its bank (R188). -/
def sigAdd (sigs : FMap (BitVec 256)) (line : Nat) : FMap (BitVec 256) :=
  mset sigs (Config.lineBank line) (mget sigs (Config.lineBank line) 0 ||| Config.lineSig line)

/-- Whether the signature of a line's bank holds the line (R188). -/
def sigHas (sigs : FMap (BitVec 256)) (line : Nat) : Bool :=
  mget sigs (Config.lineBank line) 0 &&& Config.lineSig line == Config.lineSig line

/-- The older sections with which an access of a section to some lines conflicts for the first time (R188). -/
def newHits (r : Region) (x : Section) (lines : List Nat) (write : Bool) : List (Nat × Nat) :=
  (r.sections.filter fun y => secBefore y x && !x.hits.contains (y.owner.id, y.firstK) &&
    lines.any fun n => sigHas y.writeSig n || (write && sigHas y.readSig n)).map fun y => (y.owner.id, y.firstK)

/-- Whether a command's section is open. -/
def isOpen (id : Nat) (x : Section) : Bool := x.owner.id == id && !x.sealed

/-- Whether an access of a command to some lines waits: for the squash that a conflict brings, or for an earlier command of its node
(R188). -/
def heldBack (s : State) (tile slot id : Nat) (lines : List Nat) (write : Bool) : Bool :=
  match ouNode s tile slot with
  | none => false
  | some (_, r) =>
    (r.sections.find? (isOpen id)).any (fun x => !(newHits r x lines write).isEmpty)
      || lines.any fun n => lineHeld s tile r id n write

/-- The commands of a node that have elements left (R193): an SBAR or an SCLS has none. -/
def nodeCmds (t : Tile) (r : Region) : List Cmd :=
  (maskBits 16 r.slots.toNat).flatMap fun n =>
    let x := slotOf t n
    ((x.active.toList.filter fun a => !a.finished).map (·.cmd) ++ x.pending).filter fun c => decide (cmdSub c < 8)

/-- Whether a command accepted before one has elements left: the sections of the later one stay behind its own. -/
def olderWork (t : Tile) (r : Region) (id : Nat) : Bool := (nodeCmds t r).any fun c => decide (c.id < id)

/-- The section of element k of a command is open: a new one is opened, and the one before it sealed, where fewer than 32
are in flight (R188, R193). The last place is kept for the earliest command that has elements left, which all others wait for.
DESIGN CHOICE (assumption 151): an element is a row of SCMP, and a word of SREC and SCON. -/
def openSection (s : State) (tile slot : Nat) (a : ActiveCmd) (k : Nat) : SChk State :=
  match ouNode s tile slot with
  | none => .ok s
  | some (n, r) =>
    let first := k / (max r.secLen 1) * (max r.secLen 1)
    if r.sections.any (fun x => isOpen a.cmd.id x && x.firstK == first) then .ok s
    else
      let sealed := r.sections.map fun x => if x.owner.id = a.cmd.id then { x with sealed := true } else x
      if (if olderWork (tileOf s tile) r a.cmd.id then 31 else 32) ≤ sealed.length then .error .wait
      else
        let x : Section := { owner := a.cmd, slot := slot, firstK := first, fromK := k, survivors := a.survivors }
        .ok (setRegion s tile n { r with sections := sealed ++ [x] })

/-- The open section of a command changed. -/
def onSection (s : State) (tile slot id : Nat) (f : Section → Section) : State :=
  match ouNode s tile slot with
  | none => s
  | some (n, r) => setRegion s tile n { r with sections := r.sections.map fun x => if isOpen id x then f x else x }

/-- A read of some lines, and a write of some lines, noted in a section with its signature (R188). -/
def noteReads (lines : List Nat) (x : Section) : Section :=
  { x with reads := x.reads ++ lines, readSig := lines.foldl sigAdd x.readSig }
def noteWrites (segs : List Seg) (bs : List Byte) (x : Section) : Section :=
  let parts := segs.foldl (fun (acc : List SecWrite × List Byte) g =>
    (acc.1 ++ [{ phys := g.phys, watch := g.watch, at_ := g.at_, bytes := acc.2.take g.len }], acc.2.drop g.len)) ([], bs)
  { x with writes := x.writes ++ parts.1, writeSig := (segLines segs).foldl sigAdd x.writeSig }

/-- What an element of a storing command used up, kept for a replay (R188). -/
def noteUse (s : State) (tile slot id : Nat) (data : List Byte) (idx : List (BitVec 32)) (preds : List Line) : State :=
  onSection s tile slot id fun x => { x with data := x.data ++ data, idx := x.idx ++ idx, preds := x.preds ++ preds }

/-- The sections of a command are sealed when it has handled its last element. -/
def sealAll (s : State) (tile slot id : Nat) : State := onSection s tile slot id fun x => { x with sealed := true }

/-- Whether sections of a command are still in flight. -/
def sectionsLeft (s : State) (tile slot id : Nat) : Bool :=
  match ouNode s tile slot with
  | none => false
  | some (_, r) => r.sections.any fun x => x.owner.id == id

/-- A storing command taken back to the start of the first of its sections: what they used up is taken again (R188). Indices read
from scratchpad are read again. -/
def rewind (a : ActiveCmd) : List Section → ActiveCmd
  | [] => a
  | x :: xs =>
    let all := x :: xs
    let pw := all.flatMap (·.preds) ++ a.pred.toList ++ a.preds
    { a with
        k := x.fromK, survivors := x.survivors, finished := false, awaitEos := false
        buf := all.flatMap (·.data) ++ a.buf
        idx := if bitN (scS a.cmd.tmpl 3) 15 then all.flatMap (·.idx) ++ a.idx else []
        pred := pw.head?, preds := pw.drop 1 }

/-- A squashed section before its replay (R188). -/
def resetSection (x : Section) : Section :=
  { x with reads := [], readSig := [], writes := [], writeSig := [], sealed := false, data := [], idx := [], preds := [] }

/-- The storing command of a slot taken back over those of its sections that a test names; the first of them stays, to be run
again. What a feeding command has delivered stands, since its replay would deliver the same (R188). -/
def squashSlot (tile n : Nat) (hit : Section → Bool) (s : State) (slot : Nat) : State :=
  match (slotAt s tile slot).active with
  | none => s
  | some a =>
    if !subWrites (cmdSub a.cmd) then s
    else
      let r := mget (tileOf s tile).regions n {}
      let mine (x : Section) : Bool := x.owner.id == a.cmd.id && hit x
      match r.sections.filter mine with
      | [] => s
      | x :: xs =>
        let keep := r.sections.filterMap fun y =>
          if !mine y then some y else if y.firstK = x.firstK then some (resetSection y) else none
        putActive (setRegion s tile n { r with sections := keep }) tile slot (rewind a (x :: xs))

/-- The sections of a node that a test names squashed (R188). -/
def squash (s : State) (tile n : Nat) (hit : Section → Bool) : State :=
  (maskBits 16 (mget (tileOf s tile).regions n {}).slots.toNat).foldl (squashSlot tile n hit) s

/-- The buffered writes of a section performed, in their order (R188). -/
def performWrites (s : State) (x : Section) : State :=
  x.writes.foldl (fun s p =>
    segsWrite s (agentOf (whoOf x.owner .stream)) none [{ phys := p.phys, len := p.bytes.length, watch := p.watch }] p.bytes) s

/-- A section commits: its writes are performed in order, and it leaves the node (R188, R193). -/
def commitSection (s : State) (tile n : Nat) (x : Section) : State :=
  let s1 := performWrites s x
  let r := mget (tileOf s1 tile).regions n {}
  setRegion s1 tile n
    { r with sections := r.sections.filter fun y => !(y.owner.id == x.owner.id && y.firstK == x.firstK)
             commits := (r.commits + 1) % 2 ^ 20, secNext := (r.secNext + 1) % 2 ^ 16 }

/-- The section that commits next (R188): the oldest, once all its elements have been handled and no earlier command of the node has
elements left. -/
def nextCommit (t : Tile) (r : Region) : Option Section :=
  (r.sections.find? fun x => r.sections.all fun y => !secBefore y x).filter fun x => x.sealed && !olderWork t r x.owner.id

/-- What a storing command that meets a fault in an ORDERED-UPDATE node does first (R189, R220): every element before the fault is
written, once the earlier commands of the node are done. Its whole sections commit; the open one keeps what it has still to do. None
where it has to wait. -/
def flushOwn (s : State) (tile slot : Nat) (a : ActiveCmd) : Option State :=
  match ouNode s tile slot with
  | none => some s
  | some (n, r) =>
    let mine := r.sections.filter fun x => x.owner.id == a.cmd.id
    if mine.all fun x => x.writes.isEmpty then some s
    else if olderWork (tileOf s tile) r a.cmd.id || r.sections.any fun y => decide (y.owner.id < a.cmd.id) then none
    else
      let s1 := (mine.filter (·.sealed)).foldl (fun s x => commitSection s tile n x) s
      let s2 := (mine.filter fun x => !x.sealed).foldl performWrites s1
      some (onSection s2 tile slot a.cmd.id fun x =>
        { x with writes := [], data := [], idx := [], preds := [], fromK := a.k, survivors := a.survivors })

end Sys2Proof.Machine
end

