-- ==== Sys2Proof/Machine/StreamRun.lean ====
section
/-! DEFINITION. How a stream slot runs a command (R190 to R192, R201 to R203, R211 to R213, R220 to R223): reads and writes element
by element, port words, faults and completion. -/

namespace Sys2Proof.Machine

/-! Accesses of a slot. -/

/-- An access fault as the slot's fault (R220 to R222). Where a page is at fault the record names the first byte of the access that
lies in it, else the access. -/
def slotFault (a : Nat) (e : AccFault) : SStop :=
  match e with
  | .page sub x => .fault .page sub x 0
  | _ => .fault (accCause e).1 (accCause e).2 a 0

/-- A read of n bytes at an address by a slot's command. -/
def slotRead (s : State) (tile slot : Nat) (a : ActiveCmd) (x n : Nat) : SChk (State × List Byte) :=
  match engSegs s (whoOf a.cmd .stream) x n false (actOwn a) with
  | .error e => .error (slotFault x e)
  | .ok segs =>
    if heldBack s tile slot a.cmd.id (segLines segs) false then .error .wait
    else if (segsPoison s segs).isSome then .error (.fault .poison 0 x 0)
    else .ok (onSection s tile slot a.cmd.id (noteReads (segLines segs)), segsRead s (whoOf a.cmd (slotPath a.cmd.tmpl)) segs)

/-- The dirty range of a slot after a write at an address (R210): virtual addresses only. -/
def noteDirty (s : State) (tile slot x n : Nat) : State :=
  if x / 2 ^ 56 = 0 ∧ 0 < n then
    let y := slotAt s tile slot
    let r := match y.range with
      | none => (x, x + n - 1)
      | some (lo, hi) => (min lo x, max hi (x + n - 1))
    putSlot s tile slot { y with range := some r }
  else s

/-- A write at an address by a slot's command: performed at once, or kept in its section until that commits. A write to a
page that must collapse first waits (R402); the state then records that it does. -/
def slotWrite (s : State) (tile slot : Nat) (a : ActiveCmd) (x : Nat) (bs : List Byte) : Except SStop State × State :=
  let w := whoOf a.cmd .stream
  match engSegs s w x bs.length true (actOwn a) with
  | .error (.hold v) => (.error .wait, holdWrite s w v)
  | .error e => (.error (slotFault x e), s)
  | .ok segs =>
    if (ouNode s tile slot).isNone then (.ok (noteDirty (segsWrite s (agentOf w) none segs bs) tile slot x bs.length), s)
    else if heldBack s tile slot a.cmd.id (segLines segs) true then (.error .wait, s)
    else (.ok (noteDirty (onSection s tile slot a.cmd.id (noteWrites segs bs)) tile slot x bs.length), s)

/-! The end of a command (R211, R212). -/

/-- Fills that ended early counted once every earlier one has ended. -/
def advanceFills : Nat → OpSlot → OpSlot
  | 0, x => x
  | f + 1, x =>
    if x.early.contains (x.fdone + 1) then
      advanceFills f { x with fdone := x.fdone + 1, early := x.early.filter (· != x.fdone + 1) }
    else x

/-- A DRAINING slot that no fill in flight writes and no task references becomes FREE (R263). -/
def slotReferenced (s : State) (cl n : Nat) : Bool :=
  let c := clusterOf s cl
  let x := opSlotOf s cl n
  decide (x.fdone < x.facc) || (c.taskq ++ c.engines.flatMap fun (_, e) =>
      e.inbox ++ (e.run.toList.filter fun r => !r.readDone).map (·.task)).any fun k =>
    k.caps.any fun p => p.1 == n && p.2 != 0

def freeDrained (s : State) (cl n : Nat) : State :=
  if (opSlotOf s cl n).draining && !slotReferenced s cl n then setOpSlot s cl n {} else s

/-- A fill ends: FDONE advances in order, and a fault is remembered (R264). -/
def settleFill (s : State) (c : Cmd) (ok : Bool) : State :=
  if c.fill = 0 then s
  else
    let cl := tileCluster c.tile
    let n := scN c.tmpl 3 % 256
    let x := opSlotOf s cl n
    let y := { x with early := x.early ++ [c.fill], badFills := if ok then x.badFills else x.badFills ++ [c.fill] }
    freeDrained (setOpSlot s cl n (advanceFills y.early.length y)) cl n

/-- A command of a slot leaves it: its ports, its fill and its sections are settled, and it goes to the completion step. -/
def closeCmd (s : State) (tile slot : Nat) (c : Cmd) (status : BitVec 8) (result : Nat) : State :=
  finish (settleFill (leaveAll (sealAll s tile slot c.id) c) c (status == 0)) c status (BitVec.ofNat 40 result)

/-- A barrier leaves every queue in which it holds a place. -/
def dropBarrier (s : State) (tile id : Nat) : State :=
  let t := tileOf s tile
  setTile s tile
    { t with barriers := t.barriers.filter (fun c => c.id != id)
             slots := t.slots.map fun (n, x) => (n, { x with pending := x.pending.filter fun c => c.id != id }) }

/-- A command held behind one that ended in a fault is cancelled (R212). -/
def cancelCmd (tile slot : Nat) (status : BitVec 8) (s : State) (c : Cmd) : State :=
  if cmdSub c = 8 then finish (dropBarrier s tile c.id) c status 0 else closeCmd s tile slot c status 0

/-- The active command of a slot completes (R211). -/
def endActive (s : State) (tile slot : Nat) (a : ActiveCmd) (result : Nat) : State :=
  closeCmd (putSlot s tile slot { slotAt s tile slot with active := none, halt := none }) tile slot a.cmd 0 result

/-- The active command ends in a fault, and every command still held in the queue is cancelled (R212). DESIGN CHOICE (assumption 25):
elements gathered for a port word that is not full are not delivered, and stay counted as progress. -/
def failActive (s : State) (tile slot : Nat) (a : ActiveCmd) (status : BitVec 8) (prog : Nat) : State :=
  let x := slotAt s tile slot
  let s1 := putSlot s tile slot { x with active := none, pending := [], halt := none }
  x.pending.foldl (cancelCmd tile slot status) (closeCmd s1 tile slot a.cmd status prog)

/-- Whether a command feeds ports with what it reads: an SLD without TGT, an SIDX or an SMCL. -/
def feedsPorts (c : Cmd) : Bool :=
  match cmdSub c with
  | 0 => !scTgt c.tmpl
  | 2 => true
  | 6 => true
  | _ => false

/-- The progress of a command (R223). Whole words that a feeding command has read ahead and not delivered do not count; elements of
a port word that was not full yet do, though no word brings them to the port (assumption 25). -/
def actProg (a : ActiveCmd) : Nat := if feedsPorts a.cmd then a.k - a.buf.length / 64 * 64 / actElem a else a.k

/-- A stop of the active command: PAGE and POISON halt the slot at the element and wait for a response (R220, R221); the
others end the command (R222). -/
def slotStop (s0 : State) (tile slot : Nat) (a : ActiveCmd) (e : SStop) : State :=
  match e with
  | .wait => putActive s0 tile slot a
  | .fault c sub x d =>
    match flushOwn s0 tile slot a with
    | none => putActive s0 tile slot a
    | some s =>
      let o := { cmdOffer s a.cmd c 1 slot with
                   sub := sub, addr := BitVec.ofNat 64 x, prog := BitVec.ofNat 64 (actProg a), detail := BitVec.ofNat 64 d }
      if c = .page ∨ c = .poison then
        let y := { slotAt s tile slot with
                     active := some a, halt := some { cause := c, addr := x, sub := sub, offered := true } }
        offer (putSlot s tile slot y) { o with resp := true, waiter := .slot tile slot }
      else failActive (offer s o) tile slot a (causeByte c) (actProg a)

/-- The command has handled everything: it completes once its sections have committed. -/
def slotDone (s : State) (tile slot : Nat) (a : ActiveCmd) (result : Nat) : State :=
  let s1 := sealAll s tile slot a.cmd.id
  if sectionsLeft s1 tile slot a.cmd.id && subWrites (cmdSub a.cmd) then
    putActive s1 tile slot { a with finished := true, survivors := result }
  else endActive s1 tile slot a result

/-! Starting, and the layout record (R200). -/

/-- The layout record of an LR = 1 command, read when it starts and checked before any element moves. -/
def loadRecord (s : State) (a : ActiveCmd) : SChk ActiveCmd :=
  let x := scAddr a.cmd.tmpl
  match engRead s (whoOf a.cmd .stream) x 96 true with
  | .error e => .error (slotFault x e)
  | .ok bs =>
    let r := wordsOf 12 bs
    match layCheck r (cmdSub a.cmd == 1) with
    | some f => .error (.fault .layout f.sub x (layWord f false false))
    | none =>
      let sel := recBase r / 2 ^ 56
      if 3 < sel ∨ (a.cmd.fromFe ∧ (sel = 1 ∨ sel = 2)) then .error (.fault .accessPath 0 (recBase r) 0)
      else .ok { a with record := some r }

/-- A fill may write its first byte (R264): the fill before it has completed, and every task that captured its count has
finished reading. -/
def fillReady (s : State) (c : Cmd) : Bool :=
  let cl := tileCluster c.tile
  let n := scN c.tmpl 3 % 256
  let k := clusterOf s cl
  let readers := k.taskq ++ k.engines.flatMap fun (_, e) =>
    e.inbox ++ (e.run.toList.filter fun r => !r.readDone).map (·.task)
  (opSlotOf s cl n).fdone + 1 == c.fill && readers.all fun u => u.caps.all fun p => p.1 != n || p.2 + 1 != c.fill

/-- The marker that a command sends (R112). -/
def cmdMarker (c : Cmd) : Item :=
  .marker { fte := c.fte, rm := c.rm, srBase := c.srBase, tile := c.tile, strm := c.strm, cmd := c.id }

/-- Every port that a command feeds takes an item from it now (R202, R204). -/
def allFeed (s : State) (c : Cmd) : Bool := (feedTargets c).all fun p => canFeed (tileOf s p.1) p.2 c.id

/-- An item goes into every port that a command feeds. -/
def feedAll (s : State) (c : Cmd) (x : Item) : State :=
  (feedTargets c).foldl (fun s p => setTile s p.1 (feed (tileOf s p.1) p.2 x)) s

/-- A run of a slot's active command of one SUB, where the slot runs and is not halted. -/
def runSlot (sub tile slot : Nat) (s : State) (f : ActiveCmd → State) : Out :=
  let x := slotAt s tile slot
  match x.active with
  | none => .next s
  | some a =>
    if cmdSub a.cmd ≠ sub ∨ x.halt.isSome ∨ !slotRuns (tileOf s tile) slot then .next s
    else if a.finished then
      .next (if sectionsLeft s tile slot a.cmd.id then s else endActive s tile slot a a.survivors)
    else if scLr a.cmd.tmpl && a.record.isNone then
      match loadRecord s a with
      | .ok b => .next (putActive s tile slot b)
      | .error e => .next (slotStop s tile slot a e)
    else .next (f a)

/-! The ends of commands at ports (R203). -/

/-- The head of a port consumed. -/
def takePort (s : State) (tile p : Nat) : State := setTile s tile (takeOp (tileOf s tile) p)

/-- The sink of a BIND node has taken its end-of-stream token (R25, R364). -/
def noteSink (s : State) (c : Cmd) : State :=
  if c.fromFe then
    { s with fe := { s.fe with bound := s.fe.bound.map fun b => if b.sinkCmd = c.id then { b with sunk := true } else b } }
  else s

/-- An end-of-stream token consumed by a consuming command. -/
def takeToken (s : State) (c : Cmd) (p : Nat) : State := noteSink (takePort s c.tile p) c

/-- A command whose count ran out waits for its end-of-stream token and discards what comes before it (R203). -/
def awaitToken (tile slot : Nat) (s : State) (a : ActiveCmd) (result : Nat) : State :=
  match canTake (tileOf s tile) (scPort a.cmd.tmpl) a.cmd.id with
  | none => s
  | some .eos => slotDone (takeToken s a.cmd (scPort a.cmd.tmpl)) tile slot { a with limit := some (actCount a) } result
  | some _ => takePort s tile (scPort a.cmd.tmpl)

/-- A consuming command has handled what its count or a token leaves it: it completes, or waits for the token (R203). -/
def takeEnd (tile slot : Nat) (s : State) (a : ActiveCmd) (result : Nat) : State :=
  if scEos a.cmd.tmpl && a.limit.isNone then putActive s tile slot { a with awaitEos := true } else slotDone s tile slot a result

/-- A consuming command that takes a token at one of its ports is ended there (R203). -/
def endAt (s : State) (tile slot : Nat) (a : ActiveCmd) (p result : Nat) : State :=
  slotDone (takeToken s a.cmd p) tile slot { a with limit := some a.k } result

/-! Commands that feed ports (R192, R201, R204 to R206). -/

/-- The next index of an indirect command (R205): from own scratchpad, or from a word of its index port. A token at that port ends
the command after the rows before it (R203, assumption 22). An index that an SIDX reads ahead and that fails is met when the whole
words before it have gone (R221). -/
def nextIndex (s : State) (tile slot : Nat) (a : ActiveCmd) : State :=
  let t := a.cmd.tmpl
  if bitN (scS t 3) 15 then
    let p := scS t 3 % 16
    match canTake (tileOf s tile) p a.cmd.id with
    | none => s
    | some (.word w) => putActive (takePort s tile p) tile slot { a with idx := lanes w }
    | some .eos =>
      let s1 := if cmdSub a.cmd = 3 then takeToken s a.cmd p else takePort s tile p
      putActive s1 tile slot { a with limit := some a.k }
    | some _ => takePort s tile p
  else
    let x := ownAddr (scS t 1 * 8 + 4 * (a.k / extent (scN t 2)))
    match slotRead s tile slot a x 4 with
    | .ok (s1, bs) => putActive s1 tile slot { a with idx := [BitVec.ofNat 32 (leNat bs)] }
    | .error e => if feedsPorts a.cmd && decide (64 ≤ a.buf.length) then putActive s tile slot a else slotStop s tile slot a e

/-- Whether element k is the last of its row, after which the row's index is spent. -/
def rowEnds (a : ActiveCmd) (k : Nat) : Bool :=
  (cmdSub a.cmd == 2 || cmdSub a.cmd == 3) && (k + 1) % extent (scN a.cmd.tmpl 2) == 0

/-- A command after element k. -/
def pastElem (a : ActiveCmd) : ActiveCmd :=
  { a with k := a.k + 1, idx := if rowEnds a a.k then a.idx.drop 1 else a.idx }

/-- Elements read until lim bytes are held, the command has no more, an index is needed, or one stops. -/
def gather (tile slot lim : Nat) : Nat → State → ActiveCmd → State × ActiveCmd × Option SStop
  | 0, s, a => (s, a, none)
  | f + 1, s, a =>
    if lim ≤ a.buf.length ∨ actCount a ≤ a.k then (s, a, none)
    else
      match openSection s tile slot a a.k with
      | .error e => (s, a, some e)
      | .ok s1 =>
        match actElement a a.k with
        | .index => (s1, a, none)
        | .edge => (s1, a, some (.fault .layout 10 (scAddr a.cmd.tmpl) (layWord { sub := 10 } false false)))
        | .const bs => gather tile slot lim f s1 (pastElem { a with buf := a.buf ++ bs })
        | .acc x =>
          match slotRead s1 tile slot a x (actElem a) with
          | .ok (s2, bs) => gather tile slot lim f s2 (pastElem { a with buf := a.buf ++ bs })
          | .error e => (s1, a, some e)

/-- A command that feeds ports has sent its last word: the end-of-stream token where EOS is set, and completion (R203). -/
def feedEnd (s : State) (tile slot : Nat) (a : ActiveCmd) : State :=
  if scEos a.cmd.tmpl then
    if allFeed s a.cmd then slotDone (feedAll s a.cmd .eos) tile slot a a.k else s
  else slotDone s tile slot a a.k

/-- Whether a feeding command may read now (R192): when its word has room, and in STREAMING mode up to 64 words, those in the port
FIFO among them, ahead of the port's consumer. -/
def mayRead (s : State) (tile slot : Nat) (a : ActiveCmd) : Bool :=
  let held := (feedTargets a.cmd).foldl (fun n p => max n (places (ipOf (tileOf s p.1) p.2).items)) 0
  let streaming := (hostOf (tileOf s tile) slot).any fun p => p.2.mode == 0
  (allFeed s a.cmd && decide (a.buf.length < 64)) || (streaming && decide (a.buf.length / 64 + held < 64))

/-- A read of the next word of a feeding command. A fault that lies behind whole words that the port has not taken yet is met when
they have gone (R220). -/
def readOn (tile slot : Nat) (s : State) (a : ActiveCmd) : State :=
  let lim := (a.buf.length / 64 + 1) * 64
  let (s1, b, e) := gather tile slot lim 64 s a
  match e with
  | some x => if 64 ≤ b.buf.length then putActive s1 tile slot b else slotStop s1 tile slot b x
  | none =>
    if b.idx.isEmpty && cmdSub b.cmd == 2 && decide (b.buf.length < lim) && decide (b.k < actCount b) then
      nextIndex (putActive s1 tile slot b) tile slot b
    else putActive s1 tile slot b

/-- One step of SLD to a port, SIDX or SMCL: the marker, one word, the end, or a read. -/
def feedStep (tile slot : Nat) (s : State) (a : ActiveCmd) : State :=
  let last := decide (actCount a ≤ a.k)
  if !a.markerSent && allFeed s a.cmd then
    putActive (feedAll s a.cmd (cmdMarker a.cmd)) tile slot { a with markerSent := true }
  else if a.markerSent && last && a.buf.isEmpty then feedEnd s tile slot a
  else if a.markerSent && allFeed s a.cmd && (last || decide (64 ≤ a.buf.length)) then
    putActive (feedAll s a.cmd (.word (lineOfBytes (a.buf.take 64)))) tile slot { a with buf := a.buf.drop 64 }
  else if !last && mayRead s tile slot a then readOn tile slot s a
  else s

/-- A fill's elements read and written to its operand slot in byte order (R204), until one stops. -/
def fillRun (tile slot : Nat) : Nat → State → ActiveCmd → State × ActiveCmd × Option SStop
  | 0, s, a => (s, a, none)
  | f + 1, s, a =>
    if actCount a ≤ a.k then (s, a, none)
    else
      match openSection s tile slot a a.k with
      | .error e => (s, a, some e)
      | .ok s1 =>
        match actElement a a.k with
        | .acc x =>
          match slotRead s1 tile slot a x (actElem a) with
          | .ok (s2, bs) =>
            let p := operandBase (tileCluster tile) + scN a.cmd.tmpl 3 % 256 * 8192 + a.k * actElem a
            fillRun tile slot f (writeAt s2 (agentOf (whoOf a.cmd .stream)) p bs) { a with k := a.k + 1 }
          | .error e => (s1, a, some e)
        | _ => (s1, a, none)

/-- One step of an SLD with TGT = 1: SLOT where the slot is not claimed, else 64 bytes of the fill. -/
def fillStep (tile slot : Nat) (s : State) (a : ActiveCmd) : State :=
  if a.cmd.fill = 0 then slotStop s tile slot a (.fault .slot 0 0 0)
  else if !fillReady s a.cmd then s
  else
    let (s1, b, e) := fillRun tile slot (64 / actElem a) s a
    match e with
    | some e => slotStop s1 tile slot b e
    | none => if actCount b ≤ b.k then slotDone s1 tile slot b b.k else putActive s1 tile slot b

/-- Word k of SCON (R206). -/
def sconWord (t : BitVec 256) (k : Nat) : Line :=
  let e := 2 ^ scEsz t
  let n := 64 / e
  let val (j : Nat) : Nat := wrapI 32 ((scAddr t % 2 ^ 32 : Nat) + ((n * k + j : Nat) : Int) * sextN 16 (scS t 0))
  lineOfBytes ((List.range n).flatMap fun j => leBytes e (val j))

/-- One step of SCON: the marker, one word, or the end. -/
def sconStep (tile slot : Nat) (s : State) (a : ActiveCmd) : State :=
  if !a.markerSent then
    if allFeed s a.cmd then putActive (feedAll s a.cmd (cmdMarker a.cmd)) tile slot { a with markerSent := true } else s
  else if actCount a ≤ a.k then feedEnd s tile slot a
  else if !allFeed s a.cmd then s
  else
    match openSection s tile slot a a.k with
    | .error e => slotStop s tile slot a e
    | .ok s1 => putActive (feedAll s1 a.cmd (.word (sconWord a.cmd.tmpl a.k))) tile slot { a with k := a.k + 1 }

/-! Commands that take from ports (R201 to R203, R425). -/

/-- The end of SREC under EOS (R203): its own token goes out after the last word; where its count ran out first, it also
waits for the incoming token. -/
def srecEnd (tile slot : Nat) (s : State) (a : ActiveCmd) : State :=
  if !a.markerSent then
    if allFeed s a.cmd then putActive (feedAll s a.cmd .eos) tile slot { a with markerSent := true } else s
  else if a.limit.isSome then slotDone s tile slot a a.k
  else awaitToken tile slot s a a.k

/-- One step of SREC (R206): words pass, markers are discarded, a token ends it. -/
def srecStep (tile slot : Nat) (s : State) (a : ActiveCmd) : State :=
  let p := scPort a.cmd.tmpl
  if actCount a ≤ a.k then (if scEos a.cmd.tmpl then srecEnd tile slot s a else slotDone s tile slot a a.k)
  else
    match canTake (tileOf s tile) p a.cmd.id with
    | none => s
    | some .eos => putActive (takeToken s a.cmd p) tile slot { a with limit := some a.k }
    | some (.word w) =>
      if allFeed s a.cmd then
        match openSection s tile slot a a.k with
        | .error e => slotStop s tile slot a e
        | .ok s1 => putActive (feedAll (takePort s1 tile p) a.cmd (.word w)) tile slot { a with k := a.k + 1 }
      else s
    | some _ => takePort s tile p

/-- Elements written from the bytes taken, until the bytes or the elements are used up, an index is needed, or one stops. -/
def scatter (tile slot : Nat) : Nat → State → ActiveCmd → State × ActiveCmd × Option SStop
  | 0, s, a => (s, a, none)
  | f + 1, s, a =>
    let e := actElem a
    if a.buf.length < e ∨ actCount a ≤ a.k then (s, a, none)
    else
      match openSection s tile slot a a.k with
      | .error x => (s, a, some x)
      | .ok s1 =>
        let next := pastElem { a with buf := a.buf.drop e }
        let used (s : State) : State :=
          noteUse s tile slot a.cmd.id (a.buf.take e) (if rowEnds a a.k then a.idx.take 1 else []) []
        match actElement a a.k with
        | .index => (s1, a, none)
        | .edge => (s1, a, some (.fault .layout 10 (scAddr a.cmd.tmpl) (layWord { sub := 10 } false false)))
        | .const _ => scatter tile slot f (used s1) next
        | .acc x =>
          match slotWrite s1 tile slot a x (a.buf.take e) with
          | (.ok s2, _) => scatter tile slot f (used s2) next
          | (.error y, s2) => (s2, a, some y)

/-- One step of SST or SSCT: an index, a word taken, its elements written, or the end. -/
def storeStep (tile slot : Nat) (s : State) (a : ActiveCmd) : State :=
  let p := scPort a.cmd.tmpl
  if a.awaitEos then awaitToken tile slot s a a.k
  else if actCount a ≤ a.k then takeEnd tile slot s { a with buf := [] } a.k
  else if cmdSub a.cmd == 3 && a.idx.isEmpty then nextIndex s tile slot a
  else if actElem a ≤ a.buf.length then
    let (s1, b, e) := scatter tile slot 64 s a
    match e with
    | some e => slotStop s1 tile slot b e
    | none => putActive s1 tile slot b
  else
    match canTake (tileOf s tile) p a.cmd.id with
    | none => s
    | some .eos => endAt s tile slot a p a.k
    | some (.word w) => putActive (takePort s tile p) tile slot { a with buf := lineBytes w }
    | some _ => takePort s tile p

/-! Compaction (R207). -/

/-- The writes of a row, all checked before the first is performed. DESIGN CHOICE (assumption 152): the row is the element of SCMP at which
a fault is taken (R220), so that none of its words is written unless all can be. -/
def writeRow (s : State) (tile slot : Nat) (a : ActiveCmd) : SChk State × State :=
  let run := fun (acc : SChk State × State) (p : Nat × List Byte) =>
    match acc.1 with
    | .error _ => acc
    | .ok s1 =>
      match slotWrite s1 tile slot a p.1 p.2 with
      | (.ok s2, _) => (.ok s2, acc.2)
      | (.error e, s2) => (.error e, if e = .wait then { acc.2 with held := s2.held } else acc.2)
  (survivorWrites a).foldl run (.ok s, s)

/-- A whole row of SCMP: written where its predicate lane is not zero. -/
def rowStep (tile slot : Nat) (s : State) (a : ActiveCmd) (pw : Line) : State :=
  let n := 64 * extent (scN a.cmd.tmpl 2)
  let spent := decide ((a.k + 1) % 16 = 0)
  let next : ActiveCmd := { a with buf := a.buf.drop n, k := a.k + 1, pred := if spent then none else some pw }
  let used (s : State) : State := noteUse s tile slot a.cmd.id (a.buf.take n) [] (if spent then [pw] else [])
  match openSection s tile slot a a.k with
  | .error e => slotStop s tile slot a e
  | .ok s1 =>
    if lane pw (a.k % 16) = 0 then putActive (used s1) tile slot next
    else
      match writeRow s1 tile slot a with
      | (.ok s2, _) => putActive (used s2) tile slot { next with survivors := a.survivors + 1 }
      | (.error e, s2) => slotStop s2 tile slot a e

/-- The next predicate word of SCMP: one that a replay takes again, or one of its port. -/
def nextPred (s : State) (tile slot : Nat) (a : ActiveCmd) : State :=
  let q := scS a.cmd.tmpl 3 % 16
  match a.preds with
  | w :: rest => putActive s tile slot { a with pred := some w, preds := rest }
  | [] =>
    match canTake (tileOf s tile) q a.cmd.id with
    | none => s
    | some .eos => endAt s tile slot a q a.survivors
    | some (.word w) => putActive (takePort s tile q) tile slot { a with pred := some w }
    | some _ => takePort s tile q

/-- One step of SCMP (R207): a predicate word, a data word, a row, or the end. -/
def scmpStep (tile slot : Nat) (s : State) (a : ActiveCmd) : State :=
  let p := scPort a.cmd.tmpl
  if a.awaitEos then awaitToken tile slot s a a.survivors
  else if actCount a ≤ a.k then takeEnd tile slot s a a.survivors
  else
    match a.pred with
    | none => nextPred s tile slot a
    | some pw =>
      if 64 * extent (scN a.cmd.tmpl 2) ≤ a.buf.length then rowStep tile slot s a pw
      else
        match canTake (tileOf s tile) p a.cmd.id with
        | none => s
        | some .eos => endAt s tile slot a p a.survivors
        | some (.word w) => putActive (takePort s tile p) tile slot { a with buf := a.buf ++ lineBytes w }
        | some _ => takePort s tile p

end Sys2Proof.Machine
end

