-- ==== Sys2Proof/Machine/Streams.lean ====
section
/-! DEFINITION. The stream-slot rows of the opcode table (R188 to R213). -/

namespace Sys2Proof.Machine

/-- SLOT_COMMAND_START (R190, R191): a slot that runs, holds no active command and is not halted starts its oldest pending
one. A barrier at the head of the queue is not started here (R208). -/
def execSlotCommandStart (tile slot : Nat) (s : State) : Out :=
  let x := slotAt s tile slot
  match x.active, x.pending with
  | none, c :: rest =>
    if cmdSub c = 8 ∨ !slotRuns (tileOf s tile) slot then .next s
    else .next (putSlot s tile slot { x with active := some { cmd := c }, pending := rest })
  | _, _ => .next s

/-- SLD (R204): to an input port, or into an operand slot. -/
def execSld (tile slot : Nat) (s : State) : Out :=
  runSlot 0 tile slot s fun a => if scTgt a.cmd.tmpl then fillStep tile slot s a else feedStep tile slot s a

/-- SST (R204). -/
def execSst (tile slot : Nat) (s : State) : Out := runSlot 1 tile slot s (storeStep tile slot s)

/-- SIDX (R205). -/
def execSidx (tile slot : Nat) (s : State) : Out := runSlot 2 tile slot s (feedStep tile slot s)

/-- SSCT (R205). -/
def execSsct (tile slot : Nat) (s : State) : Out := runSlot 3 tile slot s (storeStep tile slot s)

/-- SREC (R206). -/
def execSrec (tile slot : Nat) (s : State) : Out := runSlot 4 tile slot s (srecStep tile slot s)

/-- SCON (R206). -/
def execScon (tile slot : Nat) (s : State) : Out := runSlot 5 tile slot s (sconStep tile slot s)

/-- SMCL (R204). -/
def execSmcl (tile slot : Nat) (s : State) : Out := runSlot 6 tile slot s (feedStep tile slot s)

/-- SCMP (R207). -/
def execScmp (tile slot : Nat) (s : State) : Out := runSlot 7 tile slot s (scmpStep tile slot s)

/-- Whether a barrier has reached the head of every queue in which it holds a place, with nothing active before it. -/
def barrierReady (t : Tile) (c : Cmd) : Bool :=
  (maskSlots (scS c.tmpl 0)).all fun n =>
    let x := slotOf t n
    x.active.isNone && x.halt.isNone && (x.pending.head?.map (·.id)) == some c.id

/-- The counts that SBAR returns (R208): of the ORDERED-UPDATE node that hosts the lowest-numbered named slot. -/
def barrierCounts (s : State) (tile : Nat) (c : Cmd) : Nat :=
  match maskSlots (scS c.tmpl 0) with
  | [] => 0
  | n :: _ =>
    match ouNode s tile n with
    | some (_, r) => r.commits % 2 ^ 20 * 2 ^ 20 + r.squashes % 2 ^ 20
    | none => 0

/-- SBAR (R208): barrier n of a tile completes when every command accepted before it on the named slots has completed. -/
def execSbar (tile n : Nat) (s : State) : Out :=
  match (tileOf s tile).barriers[n]? with
  | none => .next s
  | some c =>
    if barrierReady (tileOf s tile) c then
      .next (finish (dropBarrier s tile c.id) c 0 (BitVec.ofNat 40 (barrierCounts s tile c)))
    else .next s

def setCtx (s : State) (ctxn : Nat) (c : Ctx) : State := { s with fe := { s.fe with ctxs := mset s.fe.ctxs ctxn c } }

/-- Bytes [from, from + n) of a word of a context's descriptor written by the device, in memory and in the copy in force: the device
writes only the fields marked RO (R388). -/
def setCtxField (s : State) (ctxn i at_ n v : Nat) : State :=
  let c := mget s.fe.ctxs ctxn {}
  let old := leBytes 8 (c.words.getD i 0).toNat
  let new := BitVec.ofNat 64 (leNat (old.take at_ ++ leBytes n v ++ old.drop (at_ + n)))
  writeNat (setCtx s ctxn { c with words := lset c.words i new }) (feAgent eventStrip) (s.pkg.ctxbase.toNat + 256 * ctxn + 8 * i + at_) n v

/-- DLOVF and DLPIDX written from the indices that the device keeps (R388). -/
def writeDl (s : State) (ctxn : Nat) (c : Ctx) : State :=
  setCtxField (setCtx s ctxn c) ctxn 10 2 6 (c.dlOvf.toNat + c.dlPidx.toNat * 2 ^ 16)

/-- A dirty-range record of 32 bytes (R210). -/
def dirtyRecord (c : Cmd) (slot lo hi seq : Nat) : List Byte :=
  leBytes 8 lo ++ leBytes 8 hi ++ leBytes 2 (cmdTag c).toNat ++ leBytes 1 c.tile ++ leBytes 1 slot ++ leBytes 4 c.ctxn
    ++ leBytes 8 seq

/-- SCLS with a recorded range (R210): the record goes into the log, or is counted as lost when the ring is full. -/
def closeRange (s : State) (tile slot : Nat) (a : ActiveCmd) (lo hi : Nat) : State :=
  let c := mget s.fe.ctxs a.cmd.ctxn {}
  let log2 := wf64 (c.words.getD 10 0) 4 0
  let ci := readNat s (c.words.getD 11 0).toNat 4
  let used := (c.dlPidx.toNat + 2 ^ 32 - ci) % 2 ^ 32
  let x := slotAt s tile slot
  let s1 := putSlot s tile slot { x with range := none }
  if used < 2 ^ log2 then
    let p := (c.words.getD 9 0).toNat + 32 * (c.dlPidx.toNat % 2 ^ log2)
    let s2 := writeAt s1 (agentOf (whoOf a.cmd .stream)) p (dirtyRecord a.cmd slot lo hi c.dlSeq.toNat)
    endActive (writeDl s2 a.cmd.ctxn { c with dlPidx := c.dlPidx + 1, dlSeq := c.dlSeq + 1 }) tile slot a 1
  else
    endActive (writeDl s1 a.cmd.ctxn { c with dlOvf := if c.dlOvf = 0xFFFF then c.dlOvf else c.dlOvf + 1 }) tile slot a 2

/-- SCLS (R210). Writes of the slot's earlier commands have been performed, since it starts after they have completed. -/
def execScls (tile slot : Nat) (s : State) : Out :=
  runSlot 9 tile slot s fun a =>
    match (slotAt s tile slot).range with
    | none => endActive s tile slot a 0
    | some (lo, hi) => closeRange s tile slot a lo hi

/-- Every command that a tile's slots hold. -/
def tileCmdIds (t : Tile) : List Nat := heldIds t 0xFFFF

/-- SWT (R209): waiter n of a tile writes its word once every command that it waits for has completed. -/
def execSwt (tile n : Nat) (s : State) : Out :=
  match (tileOf s tile).swts[n]? with
  | none => .next s
  | some x =>
    if x.awaits.any (tileCmdIds (tileOf s tile)).contains then .next s
    else
      let t := tileOf s tile
      let s1 := setTile s tile { t with swts := ldrop t.swts n }
      let w := { whoOf x.cmd .stream with know := doneKnow x.cmd }
      match engWrite s1 w (ownAddr (scS x.cmd.tmpl 1 * 8)) (leBytes 8 (scAddr x.cmd.tmpl)) false with
      | .ok s2 => .next (finish s2 x.cmd 0 0)
      | .error e =>
        let (c, sub) := accCause e
        .next (finish (offer s1 { cmdOffer s1 x.cmd c 1 0 with sub := sub }) x.cmd (causeByte c) 0)

/-- SECTION_SQUASH (R188, R193): section sec of a node is about to make an access that conflicts with an older one; it and every
younger section are squashed, counted, and replayed. -/
def execSectionSquash (tile region sec : Nat) (s : State) : Out :=
  let r := mget (tileOf s tile).regions region {}
  match r.sections.find? fun x => secNum r x == sec && !x.sealed with
  | none => .next s
  | some x =>
    match (slotAt s tile x.slot).active with
    | none => .next s
    | some a =>
      let hs := newHits r x (nextLines s a) (subWrites (cmdSub a.cmd))
      if r.mode ≠ 2 ∨ a.cmd.id ≠ x.owner.id ∨ hs.isEmpty then .next s
      else
        let hit (y : Section) : Bool := !secBefore y x
        let r1 := { r with
          squashes := (r.squashes + (r.sections.filter hit).length) % 2 ^ 20
          sections := r.sections.map fun y =>
            if y.owner.id = x.owner.id ∧ y.firstK = x.firstK then { y with hits := y.hits ++ hs } else y }
        .next (squash (setRegion s tile region r1) tile region hit)

/-- SECTION_COMMIT (R188): the oldest section of a node commits, once all its elements have been handled. A FROZEN region's have been
discarded (R259). -/
def execSectionCommit (tile region : Nat) (s : State) : Out :=
  let t := tileOf s tile
  let r := mget t.regions region {}
  match if configured r then nextCommit t r else none with
  | none => .next s
  | some x => .next (commitSection s tile region x)

end Sys2Proof.Machine
end

