-- ==== Sys2Proof/Machine/Mesh.lean ====
section
/-! DEFINITION. Pips: SPIP, SPRV and the arrival of a pip at a mesh port (R214 to R218). -/

namespace Sys2Proof.Machine

def mpAddr (t : BitVec 256) : Nat := tf t 255 192
def mpPkg (t : BitVec 256) : Nat := tf t 191 182
def mpTile (t : BitVec 256) : Nat := tf t 181 177 * 8 + tf t 176 174
def mpDst (t : BitVec 256) : Nat := tf t 173 172
def mpMask (t : BitVec 256) : Nat := tf t 159 144
def mpCount (t : BitVec 256) : Nat := if tf t 143 120 = 0 then 2 ^ 24 else tf t 143 120
def mpPort (t : BitVec 256) : Nat := tf t 71 70
def mpMode (t : BitVec 256) : Nat := tf t 69 68
def mpArray (t : BitVec 256) : Nat := tf t 67 64

/-- The issue checks of a KIND 6 command (R214). -/
def pipCheck (s : State) (t : BitVec 256) : Chk Unit :=
  let spip := tf t 7 4 == 0
  let mode := mpMode t
  let dest := tf t 191 172 == 0 && mpMask t == 0
  need (tf t 171 160 == 0 && tf t 119 72 == 0 && mode != 3 && !(mode == 2 && spip) && decide (tf t 181 177 ≤ 23)
      && (mpPkg t == s.pkg.pkgid.toNat || !spip || Config.inDomain (mpPkg t)) && (spip || dest)
      && (mode == 2 || mpAddr t == 0)
      && (spip || mode != 2 || (mpAddr t / 2 ^ 56 == 1 && mpAddr t % 64 == 0))) .template 0

def mportOf (t : Tile) (n : Nat) : MeshPort := mget t.mports n {}

def setMport (t : Tile) (n : Nat) (x : MeshPort) : Tile := { t with mports := mset t.mports n x }

/-- A mesh port holds up to three commands of each kind (R215). -/
def pipRoom (s : State) (tile : Nat) (t : BitVec 256) : Bool :=
  let x := mportOf (tileOf s tile) (mpPort t)
  if tf t 7 4 = 0 then decide (x.spip.length < 3) else decide (x.sprv.length < 3)

/-- Acceptance of a KIND 6 command (R202, R215): under MODE 1 it joins the order of its array port. -/
def pipAccept (s : State) (c : Cmd) : State :=
  let t := tileOf s c.tile
  let n := mpPort c.tmpl
  let x := mportOf t n
  let ports := mpMode c.tmpl == 1
  if cmdSub c = 0 then
    let t1 := setMport t n { x with spip := x.spip ++ [(afterCmds c (heldCmds t (mpMask c.tmpl)), heldIds t (mpMask c.tmpl))] }
    setTile s c.tile (if ports then joinOp t1 (mpArray c.tmpl) c.id else t1)
  else
    let t1 := setMport t n { x with sprv := x.sprv ++ [c] }
    setTile s c.tile (if ports then joinIp t1 (mpArray c.tmpl) c.id else t1)

/-- The spans that a KIND 6 command may touch (R166). -/
def pipSpans (tile : Nat) (t : BitVec 256) : List (Nat × Nat) :=
  if tf t 7 4 = 1 ∧ mpMode t = 2 then [(scratchBase tile + mpAddr t % 2 ^ 56, 64 * mpCount t)] else []

/-- An SPIP ends with its pips sent as the result (R211, R218). -/
def endSpip (s : State) (tile n : Nat) (c : Cmd) (status : BitVec 8) : State :=
  let t := tileOf s tile
  let x := mportOf t n
  let t1 := leavePorts (setMport t n { x with spip := x.spip.drop 1, spipSent := 0, spipInFlight := false }) c.id
  finish (setTile s tile t1) c status (BitVec.ofNat 40 x.spipSent)

/-- A pip leaves for its destination: a mesh port of this package, or one of another package, which R416 reaches by UALink. -/
def sendPip (s : State) (tile n : Nat) (c : Cmd) (payload : Option Line) : State :=
  let t := tileOf s tile
  let x := mportOf t n
  let p : Pip := { ctxn := c.ctxn, payload := payload, know := c.know }
  let m : PipMsg := { job := c.job, srcTile := tile, srcPort := n, dstTile := mpTile c.tmpl, dstPort := mpDst c.tmpl, pip := p
                      pkg := if mpPkg c.tmpl = s.pkg.pkgid.toNat then none else some (mpPkg c.tmpl) }
  let s1 := setTile s tile (setMport t n { x with spipInFlight := true })
  { s1 with mesh := s1.mesh ++ [m] }

/-- SPIP (R215): the first SPIP of a mesh port waits for its slots' commands, then sends one pip at a time. -/
def execSpip (tile mport : Nat) (s : State) : Out :=
  let t := tileOf s tile
  let x := mportOf t mport
  match x.spip with
  | [] => .next s
  | (c, awaits) :: _ =>
    if x.spipInFlight ∨ awaits.any (tileCmdIds t).contains then .next s
    else if mpCount c.tmpl ≤ x.spipSent then .next (endSpip s tile mport c 0)
    else if mpMode c.tmpl = 0 then .next (sendPip s tile mport c none)
    else
      let p := mpArray c.tmpl
      match canTake t p c.id with
      | none => .next s
      | some .eos => .next (endSpip (takeToken s c p) tile mport c 0)
      | some (.word w) => .next (sendPip (setTile s tile (takeOp t p)) tile mport c (some w))
      | some _ => .next (setTile s tile (takeOp t p))

/-- An SPRV ends with its pips received as the result (R211). -/
def endSprv (s : State) (tile n : Nat) (c : Cmd) (status : BitVec 8) : State :=
  let t := tileOf s tile
  let x := mportOf t n
  let t1 := leavePorts (setMport t n { x with sprv := x.sprv.drop 1, sprvGot := 0 }) c.id
  finish (setTile s tile t1) c status (BitVec.ofNat 40 x.sprvGot)

/-- A pip has been handled: the buffer moves up and the count rises; the last one completes the command. What happened before the pip's
sending happens before the completion (R217). -/
def gotPip (s : State) (tile n : Nat) (c : Cmd) : State :=
  let t := tileOf s tile
  let x := mportOf t n
  let d := { c with know := kmerge c.know ((x.recv.head?.map (·.know)).getD {}) }
  let s1 := setTile s tile (setMport t n { x with recv := x.recv.drop 1, sprvGot := x.sprvGot + 1, sprv := d :: x.sprv.drop 1 })
  if mpCount c.tmpl ≤ x.sprvGot + 1 then endSprv s1 tile n d 0 else s1

/-- A payload written to own scratchpad on the STREAM path (R216). DESIGN CHOICE (assumption 156): no buffer's holder is checked. -/
def sprvWrite (s : State) (tile n : Nat) (c : Cmd) (w : Line) : State :=
  let a := mpAddr c.tmpl + 64 * (mportOf (tileOf s tile) n).sprvGot
  match engWrite s (whoOf c .stream) a (lineBytes w) false with
  | .ok s1 => gotPip s1 tile n c
  | .error e =>
    let (cause, sub) := accCause e
    let prog := (mportOf (tileOf s tile) n).sprvGot
    let o := { cmdOffer s c cause 7 n with sub := sub, addr := BitVec.ofNat 64 a, prog := BitVec.ofNat 64 prog }
    endSprv (offer s o) tile n c (causeByte cause)

/-- SPRV (R216): the first SPRV of a mesh port handles the oldest pip of the receive buffer by MODE. -/
def execSprv (tile mport : Nat) (s : State) : Out :=
  let t := tileOf s tile
  let x := mportOf t mport
  match x.sprv, x.recv with
  | c :: _, p :: _ =>
    match mpMode c.tmpl, p.payload with
    | 0, _ => .next (gotPip s tile mport c)
    | 1, _ =>
      if canFeed t (mpArray c.tmpl) c.id then
        .next (gotPip (setTile s tile (feed t (mpArray c.tmpl) (.word (p.payload.getD 0)))) tile mport c)
      else .next s
    | _, some w => .next (sprvWrite s tile mport c w)
    | _, none => .next (gotPip s tile mport c)
  | _, _ => .next s

/-- The contexts that a tile's receive buffers serve: that of its job, and that of its standing regions (R218). -/
def tileServes (s : State) (tile ctxn : Nat) : Bool :=
  ((jobOf s tile).map (·.ctxn)) == some ctxn || (tileOf s tile).standing == some ctxn

/-- A job of a context that ran on a tile is saved by pre-emption (R218). -/
def savedThere (s : State) (tile ctxn : Nat) : Bool :=
  s.fe.saves.any fun (j, ts) =>
    ((mget? s.fe.jobs j).map (·.ctxn)) == some ctxn && ts.any fun p => p.1 == tile

/-- The sender of a pip changed: live, or in its job's save area. -/
def updSender (s : State) (m : PipMsg) (f : MeshPort → MeshPort) : State :=
  if m.remote then s
  else updTile s m.job m.srcTile fun t => setMport t m.srcPort (f (mportOf t m.srcPort))

/-- The SPIP of a pip and its progress. A pip from another package has none here: its SPIP is that package's. -/
def senderOf (s : State) (m : PipMsg) : Option (Cmd × Nat) :=
  let x := mportOf (jobTile s m.job m.srcTile) m.srcPort
  if m.remote then none else x.spip.head?.map fun p => (p.1, x.spipSent)

/-- The SPIP of a pip ends at that pip with a status, and the pips sent before it as its result (R211, R218). -/
def endSender (s : State) (m : PipMsg) (status : BitVec 8) : State :=
  match senderOf s m with
  | none => s
  | some (c, sent) =>
    let s1 := updTile s m.job m.srcTile fun t =>
      let x := mportOf t m.srcPort
      leavePorts (setMport t m.srcPort { x with spip := x.spip.drop 1, spipSent := 0, spipInFlight := false }) c.id
    finish s1 c status (BitVec.ofNat 40 sent)

/-- The record of an SPIP about one of its pips, with the pips sent before it as progress (R218, R222). -/
def senderOffer (s : State) (m : PipMsg) (cause : Cause) : Option Offer :=
  (senderOf s m).map fun p => { cmdOffer s p.1 cause 7 m.srcPort with prog := BitVec.ofNat 64 p.2 }

/-- A refused pip ends its SPIP with ACCESS_PATH (R218). -/
def refusePip (s : State) (m : PipMsg) : State :=
  endSender ((senderOffer s m .accessPath).elim s (offer s)) m (causeByte .accessPath)

/-- A pip has been accepted: its SPIP goes on. -/
def pipSent (s : State) (m : PipMsg) : State := updSender s m fun y => { y with spipSent := y.spipSent + 1, spipInFlight := false }

/-- A pip at the port of another package (R215, R218, R416): whether that port has room, waits for a saved job or refuses, is the other
package's, and open. DESIGN CHOICE (assumption 29). -/
def farArrival (s : State) (n : Nat) (m : PipMsg) (pkg : Nat) : State :=
  let (s1, w) := drawFree s
  let gone := { s1 with mesh := ldrop s1.mesh n }
  match w.toNat % 3 with
  | 0 => s1
  | 1 => pipSent { gone with out := gone.out ++ [.pip pkg m.dstTile m.dstPort m.pip] } m
  | _ => refusePip gone m

/-- PIP_ARRIVAL (R215, R218): pip n of the mesh is accepted where the receive buffer of its context has a place, waits
where it has none or the job is saved, and is refused otherwise. The pips of one source unit of another package arrive in the
order of their path (R176, R416). -/
def execPipArrival (n : Nat) (s : State) : Out :=
  match s.mesh[n]? with
  | none => .next s
  | some m =>
    let t := tileOf s m.dstTile
    if m.halted || (m.remote && (s.mesh.take n).any (fun x => x.remote && x.srcTile == m.srcTile)) then .next s else
    match m.pkg with
    | some pkg => .next (farArrival s n m pkg)
    | none =>
    let x := mportOf t m.dstPort
    let gone := { s with mesh := ldrop s.mesh n }
    if tileServes s m.dstTile m.pip.ctxn then
      if x.recv.length < 16 then
        let s1 := setTile gone m.dstTile (setMport t m.dstPort { x with recv := x.recv ++ [m.pip] })
        .next (pipSent s1 m)
      else .next s
    else if savedThere s m.dstTile m.pip.ctxn then .next s
    else .next (refusePip gone m)

end Sys2Proof.Machine
end

