-- ==== Sys2Proof/Machine/Near.lean ====
section
/-! DEFINITION. Near loads and stores (R143 to R145), atomics, their application at the port (R169 to R173), WAITW (R163),
and the landing of loads. -/

namespace Sys2Proof.Machine

/-- The near address of an M-form word (R49, R143). -/
def nearEa (base : Word) (off : BitVec 10) (size : Nat) : Word := base + off.signExtend 64 * BitVec.ofNat 64 size

/-- Bytes read as an integer of their width, extended to 64 bits (R143). -/
def extendLoad (signed : Bool) (n x : Nat) : Word :=
  if signed then BitVec.ofInt 64 (sextN (8 * n) x) else BitVec.ofNat 64 (x % 2 ^ (8 * n))

/-- The value that a checked near load returns. -/
def loadValue (s : State) (acc : NearAcc) (signed : Bool) (n : Nat) : Word :=
  match acc.win with
  | some off => winRead s s.curTile off
  | none => extendLoad signed n (leNat (segBytes s s.curTile s.curStrm acc.segs))

/-- A near load (R143, R144): a poisoned local load traps, with nothing in ss.tval (R376), and a poisoned non-local one marks its
destination (R122). -/
def nearLoad (signed : Bool) (n : Nat) (o : FormM) (s : State) : Out :=
  issue s do
    let st := cur s
    let base ← readSrc st o.base false
    tokensReady st o.tk
    destReady st o.r
    let ea := nearEa base o.off n
    let acc ← checkNear s s.curTile s.curStrm ea n false false
    waitFor (!segAtomic s s.curTile s.curStrm acc.segs)
    let bad := segPoison s s.curTile s.curStrm acc.segs
    need (!(bad && acc.loc)) .poison 0
    let kind : LandKind := if acc.loc then .own else .load
    let mark : Option Word := if bad then some ea else none
    let st1 := segSeen s s.curTile s.curStrm (popBits st o.tk) acc.segs
    .ok (retire (setCur s (landLater st1 o.r (loadValue s acc signed n) kind mark)) o.tk .seq)

/-- The state after a checked near store has been posted (R143). -/
def storeValue (s : State) (acc : NearAcc) (n : Nat) (v : Word) : State :=
  match acc.win with
  | some off => winWrite s s.curTile off v
  | none => postSegs s s.curTile s.curStrm acc.segs (leBytes n v.toNat)

/-- A near store (R143): it is posted when it retires. -/
def nearStore (n : Nat) (o : FormM) (s : State) : Out :=
  issue s do
    let st := cur s
    let base ← readSrc st o.base false
    let v ← readSrc st o.r false
    tokensReady st o.tk
    let ea := nearEa base o.off n
    let acc ← checkNear s s.curTile s.curStrm ea n true false
    .ok (retire (storeValue (setCur s (popBits st o.tk)) acc n v) o.tk .seq)

/-- NEAR_LOAD_LANDING, RESULT_LANDS and DIVISION_LANDS: landing n of a stream arrives if it is of one of the kinds (R119). -/
def landKindNow (kinds : List LandKind) (t : Nat) (sk : Strm) (n : Nat) (s : State) : Out :=
  let st := strmAt s t sk
  match st.landings[n]? with
  | some l => .next (if kinds.contains l.kind then setStrm s t sk (landNow st n) else s)
  | none => .next s

/-! Atomics. -/

/-- The 64-byte line of an address. -/
def lineOf (p : Nat) : Nat := p / 64

/-- What a port operation writes for the value that the word holds, or none where it writes nothing (R170, R171). -/
def portNew (k : PortKind) (old : Nat) : Option Nat :=
  match k with
  | .atomic op narrow v c =>
    let w := if narrow then 32 else 64
    let b := v.toNat % 2 ^ w
    let so := sextN w old
    let sb := sextN w b
    match op with
    | .add => some ((old + b) % 2 ^ w)
    | .min => some (if so ≤ sb then old else b)
    | .max => some (if so ≤ sb then b else old)
    | .minz => some (if old ≤ b then old else b)
    | .maxz => some (if old ≤ b then b else old)
    | .and => some (old.land b)
    | .or => some (old.lor b)
    | .xor => some (old.xor b)
    | .xch => some b
    | .cas => if old = c.toNat % 2 ^ w then some b else none
  | .fadd32 v rm u => some (toFloat fp32 true rm.toNat u.toNat (vadd (fdecode fp32 old) (fdecode fp32 v.toNat))).1
  | .fadd16 v rm u => some (toFloat bf16 true rm.toNat u.toNat (vadd (fdecode bf16 old) (fdecode bf16 v.toNat))).1
  | .iadd bytes v => some ((old + v.toNat) % 2 ^ (8 * bytes))

/-- The value that an atomic returns (R170): AMINZ and AMAXZ of 32 bits extend with zeros, the others with the sign. -/
def portReturn (k : PortKind) (old : Nat) : Word :=
  match k with
  | .atomic op narrow _ _ =>
    if narrow then
      match op with
      | .minz => BitVec.ofNat 64 old
      | .maxz => BitVec.ofNat 64 old
      | _ => BitVec.ofInt 64 (sextN 32 old)
    else BitVec.ofNat 64 old
  | _ => 0

/-- The physical address of a checked single-piece access, and whether it is watched. -/
def accAddr (acc : NearAcc) : Nat × Bool :=
  match acc.segs with
  | g :: _ => (g.phys, g.watch)
  | [] => (0, false)

/-- Whether an atomic may reach its line: an unpublished store of the stream to the line waits for the stream's earlier atomics to
it to be applied, so that they reach the port in program order (R169, R177). -/
def lineReady (s : State) (p : Nat) : Bool :=
  !((cur s).posted.any fun x => (span x.addr x.bytes.length).any fun a => lineOf a == lineOf p) ||
    (atomicsOf s s.curTile s.curStrm).all fun x => lineOf x.addr != lineOf p

/-- An atomic reaches its port's write queue (R169, R172): the stream's stores to the line are published at its scope first. -/
def sendAtomic (s : State) (kind : PortKind) (acc : NearAcc) (near : Word) (sc : Scope) (dest : Option Nat) : State :=
  let (p, w) := accAddr acc
  let s1 := publishIf s s.curTile s.curStrm sc (fun a => lineOf a == lineOf p)
  { s1 with ports := s1.ports ++ [{ kind := kind, addr := p, near := near, tile := s.curTile, strm := s.curStrm,
                                    scope := sc, path := .core, dest := dest, watch := w, heads := (cur s).rels
                                    ctxn := ctxnOf s s.curTile }] }

/-- An atomic with return (R169). With d = 0 it returns nothing and the stream goes on at once. -/
def atomicOp (op : AtomicOp) (o : FormAtomic) (s : State) : Out :=
  issue s do
    let st := cur s
    let a ← readSrc st o.a false
    let b ← readSrc st o.b false
    let c ← if op = .cas then readSrc st o.d false else .ok 0
    tokensReady st o.tk
    destReady st o.d
    let acc ← checkNear s s.curTile s.curStrm a (if o.narrow then 4 else 8) true true
    waitFor (lineReady s (accAddr acc).1)
    let p := physReg st o.d
    let s1 := setCur s (clearFull (popBits st o.tk) p)
    .ok (retire (sendAtomic s1 (.atomic op o.narrow b c) acc a o.scope (if p = 0 then none else some p)) o.tk .seq)

/-- ARED (R171): the mode is captured at issue, and under SR one generator word is taken. -/
def execAred (o : FormAred) (s : State) : Out :=
  issue s do
    let st := cur s
    let a ← readSrc st o.a false
    let b ← readSrc st o.b false
    tokensReady st o.tk
    let acc ← checkNear s s.curTile s.curStrm a 4 true true
    waitFor (lineReady s (accAddr acc).1)
    let kind : PortKind := .fadd32 (b.truncate 32) (BitVec.ofNat 3 (feRm st)) (BitVec.ofNat 32 (scalarSr s st))
    .ok (retire (sendAtomic (setCur s (stepSr (popBits st o.tk))) kind acc a o.scope none) o.tk .seq)

/-- The old value of an atomic, or its poison mark, on its way to the register (R119, R173). -/
def returnOld (s : State) (x : PortOp) (v : Word) (poison : Option Word) : State :=
  match x.dest with
  | none => s
  | some p =>
    let st := strmAt s x.tile x.strm
    setStrm s x.tile x.strm
      { st with landings := st.landings ++ [{ phys := p, val := v, poison := poison, kind := .load }] }

/-- A no-return operation of a stream's CORE path counted for its line (R173). -/
def countApplied (s : State) (x : PortOp) : State :=
  if x.dest.isNone && x.path == .core then
    let st := strmAt s x.tile x.strm
    setStrm s x.tile x.strm
      { st with noReturn := mset st.noReturn (lineOf x.addr) (mget st.noReturn (lineOf x.addr) 0 + 1) }
  else s

/-- One operation applied at its port (R170 to R172): the word is read, replaced and, where the operation returns a value,
the replaced value is sent back. -/
def applyPort (s : State) (x : PortOp) : State :=
  let n := portBytes x.kind
  let old := readNat s x.addr n
  let g : Agent :=
    { tile := x.tile, strm := x.strm, path := x.path, scope := x.scope, key := x.key, heads := x.heads, rmw := true }
  let s1 :=
    match portNew x.kind old with
    | some v =>
      noteCollapse (writeNat (if x.watch then raiseSpan s (changedBy s x.addr (leBytes n v)) else s) g x.addr n v) g x.addr n
    | none => s
  let s2 := returnOld s1 x (portReturn x.kind old) none
  countApplied (if x.path = .core then seenAt s2 x.tile x.strm x.addr n s2.wnext else s2) x

/-- A reduction of a gather command that failed on a poisoned line: the row it belongs to is reported by the gather engine
(R339). DESIGN CHOICE (assumption 169): of several poisoned lines the last one applied gives the record its address. -/
def failGather (s : State) (x : PortOp) : State :=
  match x.gather with
  | none => s
  | some (die, eng, row) =>
    let d := mget s.dies die {}
    match mget? d.gatherEng eng with
    | none => s
    | some g =>
      let h : Halt := { cause := .poison, addr := (x.near - x.near % 64).toNat, sub := row }
      let e : FMap GatherRun := mset d.gatherEng eng { g with halt := some h, bad := g.bad ++ [row] }
      { s with dies := mset s.dies die { d with gatherEng := e } }

/-- A stream's no-return atomics of a failed entry are reported by one record (R173). -/
def failRecord (s : State) (line : Nat) (t : Nat) (sk : Strm) (near : Word) (n : Nat) : State :=
  let st := strmAt s t sk
  offer s { offerFor s t sk .poison 8 with
            addr := near - near % 64, prog := BitVec.ofNat 64 (mget st.noReturn line 0),
            detail := BitVec.ofNat 64 n, die := dieOfAddr (line * 64) }

/-- The streams of a list of port operations, each once, with the near address of one of its operations and their number. -/
def tally : List PortOp → List (Nat × Strm × Word × Nat)
  | [] => []
  | x :: xs =>
    let rest := tally xs
    if rest.any (fun (t, sk, _) => t == x.tile && sk == x.strm) then
      rest.map fun (t, sk, a, n) => if t == x.tile && sk == x.strm then (t, sk, x.near, n + 1) else (t, sk, a, n)
    else (x.tile, x.strm, x.near, 1) :: rest

/-- A poisoned line (R173): every operation that the entry of the line holds fails together, and none changes memory. -/
def failLine (s : State) (line : Nat) : State :=
  let bad := s.ports.filter (fun x => lineOf x.addr == line)
  let s1 := { s with ports := s.ports.filter (fun x => lineOf x.addr != line) }
  let s2 := bad.foldl (fun u x => failGather (returnOld u x 0 (some x.near)) x) s1
  (tally (bad.filter (fun x => x.dest.isNone && x.gather.isNone))).foldl (fun u (t, sk, a, n) => failRecord u line t sk a n) s2

/-- ATOMIC_PORT_APPLY (R172): entry n of the write queues is applied unless an earlier operation of its stream to the line
still waits. The reductions of a gather command arrive in no defined order (R339). -/
def execAtomicPortApply (n : Nat) (s : State) : Out :=
  match s.ports[n]? with
  | none => .next s
  | some x =>
    let earlier := x.path != .gather && (s.ports.take n).any fun y =>
      y.tile == x.tile && y.strm == x.strm && y.path == x.path && lineOf y.addr == lineOf x.addr
    if earlier then .next s
    else if spanPoisoned s (lineOf x.addr * 64) 64 then .next (failLine s (lineOf x.addr))
    else .next (applyPort { s with ports := ldrop s.ports n } x)

/-! WAITW (R163). -/

/-- The watch of a stream. -/
def watchOf (s : State) (t : Nat) (sk : Strm) : Option Watch := s.watches.find? fun x => x.tile == t && x.strm == sk

/-- What a WAITW observes that returns a word of which the writes before number upto had been made: the completion of each command
whose reply or completion word it is (R181). -/
def wordKnow (s : State) (p upto : Nat) : Know :=
  (span p 8).foldl (fun x a =>
    match (s.wlog.filter fun w => w.addr == a && decide (w.id < upto)).getLast? with
    | some w => kmerge x w.know
    | none => x) {}

/-- WAITW's issue once its condition has held for a word, in a test made when writes before number upto had been made. -/
def waitwDone (s : State) (o : FormWaitw) (p : Nat) (v : Word) (upto : Nat) : State :=
  let s1 := seenAt (dropWatch s s.curTile s.curStrm) s.curTile s.curStrm p 8 upto
  retire (setCur s1 (putReg (popBits (learn (cur s1) (wordKnow s p upto)) o.tk) o.d v)) o.tk .seq

/-- The bytes of a word that a stream has stored and not published. -/
def ownBytes (st : Stream) (p : Nat) : List (Nat × Byte) := (span p 8).filterMap fun x => (postedByte st.posted x).map fun b => (x, b)

/-- WAITW (R163): the address is checked when the stream first reaches it; the port tests the word then, once the stream's own atomics
to it have been applied, and after each write to it. Poison counts only where a test is made. -/
def execWaitw (o : FormWaitw) (s : State) : Out :=
  issue s do
    let st := cur s
    let a ← readSrc st o.a false
    let b ← readSrc st o.b false
    tokensReady st o.tk
    destReady st o.d
    match watchOf s s.curTile s.curStrm with
    | some x =>
      match x.got with
      | some v => .ok (waitwDone s o x.addr v x.gotAt)
      | none => .error .stall
    | none =>
      let acc ← checkNear s s.curTile s.curStrm a 8 false true
      let p := (accAddr acc).1
      waitFor ((atomicsOf s s.curTile s.curStrm).all fun x => lineOf x.addr != lineOf p)
      need (!spanPoisoned s p 8) .poison a
      let own := ownBytes st p
      let v := watchWord s.mem own p
      if ccHolds o.cc v b then .ok (waitwDone s o p v s.wnext)
      else .ok { s with watches := s.watches ++
                          [{ tile := s.curTile, strm := s.curStrm, addr := p, cc := o.cc, cmp := b, own := own
                             near := a, ctxn := ctxnOf s s.curTile }] }

/-- LDB (R143). -/
def execLdb (o : FormM) (s : State) : Out := nearLoad true 1 o s

/-- LDBZ (R143). -/
def execLdbz (o : FormM) (s : State) : Out := nearLoad false 1 o s

/-- LDH (R143). -/
def execLdh (o : FormM) (s : State) : Out := nearLoad true 2 o s

/-- LDHZ (R143). -/
def execLdhz (o : FormM) (s : State) : Out := nearLoad false 2 o s

/-- LDW (R143). -/
def execLdw (o : FormM) (s : State) : Out := nearLoad true 4 o s

/-- LDWZ (R143). -/
def execLdwz (o : FormM) (s : State) : Out := nearLoad false 4 o s

/-- LDD (R143). -/
def execLdd (o : FormM) (s : State) : Out := nearLoad false 8 o s

/-- STB (R143). -/
def execStb (o : FormM) (s : State) : Out := nearStore 1 o s

/-- STH (R143). -/
def execSth (o : FormM) (s : State) : Out := nearStore 2 o s

/-- STW (R143). -/
def execStw (o : FormM) (s : State) : Out := nearStore 4 o s

/-- STD (R143). -/
def execStd (o : FormM) (s : State) : Out := nearStore 8 o s

/-- AADD (R170). -/
def execAadd (o : FormAtomic) (s : State) : Out := atomicOp .add o s

/-- AMIN (R170). -/
def execAmin (o : FormAtomic) (s : State) : Out := atomicOp .min o s

/-- AMAX (R170). -/
def execAmax (o : FormAtomic) (s : State) : Out := atomicOp .max o s

/-- AMINZ (R170). -/
def execAminz (o : FormAtomic) (s : State) : Out := atomicOp .minz o s

/-- AMAXZ (R170). -/
def execAmaxz (o : FormAtomic) (s : State) : Out := atomicOp .maxz o s

/-- AAND (R170). -/
def execAand (o : FormAtomic) (s : State) : Out := atomicOp .and o s

/-- AOR (R170). -/
def execAor (o : FormAtomic) (s : State) : Out := atomicOp .or o s

/-- AXOR (R170). -/
def execAxor (o : FormAtomic) (s : State) : Out := atomicOp .xor o s

/-- AXCH (R170). -/
def execAxch (o : FormAtomic) (s : State) : Out := atomicOp .xch o s

/-- ACAS (R170). -/
def execAcas (o : FormAtomic) (s : State) : Out := atomicOp .cas o s

/-- NEAR_LOAD_LANDING (R119, R122). -/
def execNearLoadLanding (t : Nat) (sk : Strm) (n : Nat) (s : State) : Out := landKindNow [.load] t sk n s

/-- RESULT_LANDS (R121, R129). -/
def execResultLands (t : Nat) (sk : Strm) (n : Nat) (s : State) : Out := landKindNow [.fixed, .own] t sk n s

/-- DIVISION_LANDS (R130). -/
def execDivisionLands (t : Nat) (sk : Strm) (n : Nat) (s : State) : Out := landKindNow [.division] t sk n s

/-- POSTED_STORE_PERFORMED (R179): posted store n of a stream is performed at a scope. -/
def execPostedStorePerformed (t : Nat) (sk : Strm) (n : Nat) (sc : Scope) (s : State) : Out :=
  let st := strmAt s t sk
  match st.posted[n]? with
  | none => .next s
  | some x =>
    let y := if performedAt x sc then x else { x with performed := some sc }
    .next (setStrm s t sk { st with posted := lset st.posted n y })

/-- WRITE_ENTERS_VIEW (R180): a published write enters a stream's view before an acquire point makes it certain. -/
def execWriteEntersView (t : Nat) (sk : Strm) (id : Nat) (s : State) : Out :=
  let st := strmAt s t sk
  if s.wlog.any (fun w => w.id == id) && !st.entered.contains id then
    .next (setStrm s t sk { st with entered := st.entered ++ [id] })
  else .next s

end Sys2Proof.Machine
end

