-- ==== Sys2Proof/Machine/Sync.lean ====
section
/-! DEFINITION. Tokens, queue registers, rendezvous, handles, PHASE and FENCX (R154 to R168, R178 to R187). -/

namespace Sys2Proof.Machine

/-! Queue registers (R158 to R161). -/

/-- Replies owed to a queue register that no claim waits for. -/
def freeOwed (q : QReg) : Nat := q.owed - q.claims.length

/-- A queue register without its first word, and what happens before that word (R181). -/
def dropHead (q : QReg) : QReg := { q with held := q.held.drop 1, know := q.know.drop 1 }

def headKnow (q : QReg) : Know := q.know.headD {}

/-- A queue register with one more word. -/
def addWord (q : QReg) (w : Word) (x : Know) : QReg := { q with held := q.held ++ [w], know := q.know ++ [x] }

/-- QPOP (R159). -/
def execQpop (o : FormQPop) (s : State) : Out :=
  issue s do
    let st := cur s
    tokensReady st o.tk
    destReady st o.d
    let q := qreg st o.q.toNat
    let st1 := popBits st o.tk
    match q.held with
    | w :: _ =>
      .ok (retire (setCur s (putReg (setQreg (learn st1 (headKnow q)) o.q.toNat (dropHead q)) o.d w)) o.tk .seq)
    | [] =>
      need (!(o.t || freeOwed q == 0)) .qunder 0
      let p := physReg st o.d
      .ok (retire (setCur s (clearFull (setQreg st1 o.q.toNat { q with claims := q.claims ++ [p] }) p)) o.tk .seq)

/-- QPEEK (R160). -/
def execQpeek (o : FormQPop) (s : State) : Out :=
  issue s do
    let st := cur s
    tokensReady st o.tk
    destReady st o.d
    let q := qreg st o.q.toNat
    match q.held with
    | w :: _ => .ok (retire (setCur s (putReg (learn (popBits st o.tk) (headKnow q)) o.d w)) o.tk .seq)
    | [] =>
      need (!(o.t || freeOwed q == 0)) .qunder 0
      .error .stall

/-- QPUSH (R161): the word lands in the oldest claim's register, or is appended. -/
def execQpush (o : FormQPush) (s : State) : Out :=
  issue s do
    let st := cur s
    let b ← readSrc st o.b false
    tokensReady st o.tk
    let q := qreg st o.q.toNat
    need (decide (q.held.length + q.owed < 4)) .qover 0
    let st1 := popBits st o.tk
    match q.claims with
    | p :: rest => .ok (retire (setCur s (putPhys (setQreg st1 o.q.toNat { q with claims := rest }) p b)) o.tk .seq)
    | [] => .ok (retire (setCur s (setQreg st1 o.q.toNat (addWord q b {}))) o.tk .seq)

/-- QCNT (R161). -/
def execQcnt (o : FormQCnt) (s : State) : Out :=
  issue s do
    let st := cur s
    tokensReady st o.tk
    destReady st o.d
    let q := qreg st o.q.toNat
    let v := q.held.length + freeOwed q * 2 ^ 8 + q.claims.length * 2 ^ 16
    .ok (retire (setCur s (putReg (popBits st o.tk) o.d (BitVec.ofNat 64 v))) o.tk .seq)

/-! TKW and TKS (R157). -/

/-- TKW: n tokens, and those of its own WL and WR bits, are popped together. -/
def execTkw (o : FormTk) (s : State) : Out :=
  issue s do
    let st := cur s
    let n := o.n1.toNat + 1
    let own := if o.right then tkWR o.tk else tkWL o.tk
    tokensReady st o.tk
    waitFor (decide (n + (if own then 1 else 0) ≤ tokens st o.right))
    .ok (retire (setCur s (popTokens (popBits st o.tk) o.right n)) o.tk .seq)

/-- TKS: n tokens are pushed together, or TOKEN_OVER is raised with n in ss.tval. Its own push to the same side counts in
the test. -/
def execTks (o : FormTk) (s : State) : Out :=
  issue s do
    let st := cur s
    let n := o.n1.toNat + 1
    let own := if o.right then tkSR o.tk else tkSL o.tk
    tokensReady st o.tk
    need (decide (pushedTokens s s.curTile s.curStrm o.right + n + (if own then 1 else 0) ≤ 8)) .tokenOver
      (BitVec.ofNat 64 n)
    .ok (retire (pushN (setCur s (popBits st o.tk)) s.curTile s.curStrm o.right n) o.tk .seq)

/-! Rendezvous (R162). -/

/-- The tiles of a tile's block (R25). -/
def blockOf (s : State) (t : Nat) : List Nat := ((jobOf s t).map (·.tiles)).getD [t]

/-- The clusters of a block, ascending. -/
def blockClusters (tiles : List Nat) : List Nat := (tiles.map tileCluster).eraseDups

/-- The scope of a rendezvous: TILE, or the narrowest of CLUSTER, DIE and PACKAGE that contains the block. -/
def rdvzScope (s : State) (block : Bool) (t : Nat) : Scope :=
  if !block then .tile
  else
    let ts := blockOf s t
    if ts.all (fun u => tileCluster u == tileCluster t) then .cluster
    else if ts.all (fun u => tileDie u == tileDie t) then .die
    else .package

/-- Every stream that a rendezvous of a tile joins. -/
def rdvzParties (s : State) (block : Bool) (t : Nat) : List (Nat × Strm) :=
  (if block then blockOf s t else [t]).flatMap fun u => [(u, .k), (u, .l), (u, .c), (u, .w)]

/-- Rendezvous of a kind that a stream has arrived at. -/
def rdvzCount (st : Stream) (block : Bool) : Nat := if block then st.rdvzBlock else st.rdvzTile

/-- RDVZ: the stream arrives, which is a release point, and waits for the others (R162). It arrives once its loads have landed and
its atomics, which the release publishes too, have been applied (R178). -/
def execRdvz (o : FormRdvz) (s : State) : Out :=
  issue s do
    let st := cur s
    tokensReady st o.tk
    waitFor (loadsLanded st)
    waitFor (atomicsOf s s.curTile s.curStrm).isEmpty
    let s1 := publish (setCur s (popBits st o.tk)) s.curTile s.curStrm (rdvzScope s o.block s.curTile)
    let x := { cur s1 with rdvzKnow := (cur s1).know, rdvzPrior := st.know }
    let y := if o.block then { x with rdvzBlock := x.rdvzBlock + 1 } else { x with rdvzTile := x.rdvzTile + 1 }
    .ok (setCur s1 { y with wait := .rdvz o.block o.tk })

/-- Every party has arrived at the n-th rendezvous of a kind; a halted stream counts as arrived at every one (R162). -/
def allArrived (s : State) (block : Bool) (t n : Nat) : Bool :=
  (rdvzParties s block t).all fun (u, sk) =>
    let x := strmAt s u sk
    x.halted || decide (n ≤ rdvzCount x block)

/-- What happens before the departures from a rendezvous: every arrival (R181). -/
def arrivalsKnow (s : State) (block : Bool) (t : Nat) : Know :=
  (rdvzParties s block t).foldl (fun x (u, sk) => kmerge x (strmAt s u sk).rdvzKnow) {}

/-- A stream leaves a completed rendezvous: every arrival happens before, it acquires, then its RDVZ retires (R162). One that a
pre-emption has stopped keeps its arrival. -/
def leaveRdvz (block : Bool) (arrivals : Know) (s : State) (p : Nat × Strm) : State :=
  let (u, sk) := p
  let x := strmAt s u sk
  match x.wait with
  | .rdvz b tk =>
    if b = block ∧ x.running then
      let y := learn { x with wait := .none } arrivals
      let s1 := acquire (setStrm s u sk y) u sk (rdvzScope s block u) .core
      retireAt s1 u sk tk .seq
    else s
  | _ => s

/-- RENDEZVOUS_COMPLETE (R162): the streams that wait at a rendezvous that every party has reached leave it. -/
def execRendezvousComplete (block : Bool) (t : Nat) (s : State) : Out :=
  let ready := (rdvzParties s block t).filter fun (u, sk) =>
    let x := strmAt s u sk
    allArrived s block t (rdvzCount x block)
  .next (ready.foldl (leaveRdvz block (arrivalsKnow s block t)) s)

/-! PHASE and FENCX (R179, R186). -/

/-- A stream whose PHASE retires: its fetch sees every word that its view holds (R41). -/
def syncFetch (s : State) : State :=
  let st := cur s
  setCur s { st with fetchBase := s.wnext, fetchCount := st.entered.length }

/-- PHASE (R179). -/
def execPhase (o : FormPhase) (s : State) : Out :=
  issue s do
    let st := cur s
    tokensReady st o.tk
    waitFor (loadsLanded st)
    waitFor (performed s s.curTile s.curStrm o.scope)
    let s1 := publish (setCur s (popBits st o.tk)) s.curTile s.curStrm o.scope
    .ok (retire (syncFetch (acquire s1 s.curTile s.curStrm o.scope .core)) o.tk .seq)

/-- The commands of a path that a stream has seen complete by waiting for them (R186). -/
def endedKnow (st : Stream) (p : Path) : Know := { cmds := (st.ended.filter (·.1 == p)).map (·.2) }

/-- Whether a front-end command of a stream is still to be applied: it is one of path FRONT (R174, R342). -/
def feAhead (s : State) (t : Nat) (sk : Strm) : Bool := s.fe.launchq.any fun f => f.tile == t && f.strm == sk

/-- Whether a command on a path that a stream has issued has not completed (R186). -/
def pathBusy (s : State) (t : Nat) (sk : Strm) (p : Path) : Bool :=
  (strmAt s t sk).cmds.any (·.path == p) || (p == .front && feAhead s t sk)

/-- FENCX's wait and publication for its first path (R186). -/
def fenceFirst (o : FormFencx) (s : State) : Chk State :=
  let st := cur s
  let s1 := setCur s (popBits st o.tk)
  if o.p1 = .core then do
    waitFor (loadsLanded st)
    waitFor (performed s s.curTile s.curStrm o.scope)
    .ok (publish s1 s.curTile s.curStrm o.scope (some o.p2))
  else do
    waitFor (!pathBusy s s.curTile s.curStrm o.p1)
    .ok (setCur s1 (learn (cur s1) (endedKnow st o.p1)))

/-- FENCX's second path (R185, R186): with CORE the writes of the first are acquired; FENCX core, core is a PHASE. With another, those
that happen before the FENCX are guaranteed from now on to the accesses of the stream's commands on that path. -/
def fenceSecond (o : FormFencx) (s : State) : State :=
  if o.p2 = .core then
    let s1 := acquire s s.curTile s.curStrm o.scope o.p1
    if o.p1 = .core then syncFetch s1 else s1
  else setCur s (guarantee (cur s) [o.p2] (certainIds s s.curTile o.scope (cur s).know (some o.p1) none))

/-- FENCX (R186). An acquisition, with CORE as the second path, waits until the stream's atomics have been applied, since what they obtain
lies before it (R182). -/
def execFencx (o : FormFencx) (s : State) : Out :=
  issue s do
    tokensReady (cur s) o.tk
    waitFor (o.p2 != .core || (atomicsOf s s.curTile s.curStrm).isEmpty)
    let s1 ← fenceFirst o s
    .ok (retire (fenceSecond o s1) o.tk .seq)

/-! Handles (R164 to R168). -/

/-- The physical span of a handle's buffer. -/
def bufSpan (t : Nat) (e : Word) : Nat × Nat :=
  (scratchBase (tileCluster t * 8 + hHome e) + hBase e * 64, hSize e * 64)

/-- Whether a span meets another. -/
def overlap (a n b m : Nat) : Bool := decide (a < b + m) && decide (b < a + n)

/-- What happens before an HGIVE, noted for the HTAKE that takes the buffer (R181): what happens before the stream's point, and the
commands that the HGIVE has seen complete. -/
def endedAll (st : Stream) : Know := kmerge st.know { cmds := st.ended.map (·.2) }

def noteGive (s : State) (t h : Nat) (x : Know) : State :=
  let c := clusterOf s (tileCluster t)
  setCluster s (tileCluster t) { c with handleKnow := mset c.handleKnow (h % 256) x }

/-- HGIVE (R166). -/
def execHgive (o : FormAB) (s : State) : Out :=
  issue s do
    let st := cur s
    let a ← readSrc st o.a false
    let b ← readSrc st o.b false
    tokensReady st o.tk
    let h := wf64 a 15 0
    let e := handleAt s s.curTile h
    need (handleValid s s.curTile h && heldBy e s.curTile s.curStrm) .owner a
    let (p, n) := bufSpan s.curTile e
    waitFor (loadsLanded st)
    waitFor (st.cmds.all fun c => c.spans.all fun (x, m) => !overlap x m p n)
    waitFor (st.posted.all fun x => !overlap x.addr x.bytes.length p n || performedAt x .cluster)
    waitFor ((atomicsOf s s.curTile s.curStrm).all fun x => !overlap x.addr (portBytes x.kind) p n)
    let s1 := releaseIn (setCur s (popBits st o.tk)) s.curTile s.curStrm .cluster (some (p, n))
    let e1 := if b.getLsbD 5 then hFree e else hWith e 2 0 (wf64 b 4 0)
    .ok (retire (noteGive (setHandle s1 s.curTile h e1) s.curTile h (endedAll (cur s1))) o.tk .seq)

/-- A successful HTAKE is an acquire point for the buffer's bytes on every path; the HGIVE happens before it (R167, R181). Its HGIVE has
released them on every path, so they are guaranteed to the accesses of every path (R187). DEDUCED (assumption 6). -/
def takeBuffer (s : State) (t : Nat) (sk : Strm) (h p n : Nat) : State :=
  let x := mget (clusterOf s (tileCluster t)).handleKnow (h % 256) {}
  let s1 := acquireIn (setStrm s t sk (learn (strmAt s t sk) x)) t sk .cluster none (some (p, n))
  let ids := certainIds s1 t .cluster (strmAt s1 t sk).know none (some (p, n))
  setStrm s1 t sk (guarantee (strmAt s1 t sk) [.stream, .matrix, .copy, .gather, .mesh, .front] ids)

/-- HTAKE's status (R167). -/
def htakeStatus (s : State) (t : Nat) (sk : Strm) (h : Nat) : Nat :=
  let e := handleAt s t h
  if !handleValid s t h then 2
  else if hState e = 2 ∧ hOffer e = holderCode t sk then 0
  else if heldBy e t sk then 3
  else 1

/-- HTAKE (R167): the status lands after a fixed latency. It issues once the stream's atomics have been applied, since what they
obtain lies before it (R182). -/
def execHtake (o : FormDA) (s : State) : Out :=
  issue s do
    let st := cur s
    let a ← readSrc st o.a false
    tokensReady st o.tk
    destReady st o.d
    waitFor (atomicsOf s s.curTile s.curStrm).isEmpty
    let h := wf64 a 15 0
    let e := handleAt s s.curTile h
    let code := htakeStatus s s.curTile s.curStrm h
    let s1 := setCur s (landLater (popBits st o.tk) o.d (BitVec.ofNat 64 code) .fixed)
    let s2 :=
      if code = 0 then
        let (p, n) := bufSpan s.curTile e
        takeBuffer (setHandle s1 s.curTile h (hWith e 1 (holderCode s.curTile s.curStrm) 0)) s.curTile s.curStrm h p n
      else s1
    .ok (retire s2 o.tk .seq)

/-- HQRY (R168). -/
def execHqry (o : FormDA) (s : State) : Out :=
  issue s do
    let st := cur s
    let a ← readSrc st o.a false
    tokensReady st o.tk
    destReady st o.d
    let h := wf64 a 15 0
    let v := if handleValid s s.curTile h then handleAt s s.curTile h else 0
    .ok (retire (setCur s (landLater (popBits st o.tk) o.d v .fixed)) o.tk .seq)

/-! Replies (R70, R158). -/

/-- A reply that reaches a queue register: it lands in the oldest claim's register, which observes its completion (R181), or is
appended (R158). -/
def deliverReply (st : Stream) (n : Nat) (w : Word) (x : Know) : Stream :=
  let q := qreg st n
  match q.claims with
  | p :: rest => putPhys (setQreg (learn st x) n { q with owed := q.owed - 1, claims := rest }) p w
  | [] => setQreg st n (addWord { q with owed := q.owed - 1 } w x)

/-- Whether no earlier reply is on its way to the queue register of a reply: they arrive in the order in which the engines complete
(R158). -/
def replyTurn (s : State) (n : Nat) (r : Reply) : Bool :=
  !(s.replies.take n).any fun x => x.tile == r.tile && x.strm == r.strm && x.q == r.q && x.job == r.job

/-- REPLY_ARRIVAL (R158): reply n reaches its queue register in its turn. A saved stream receives it in its saved state. -/
def execReplyArrival (n : Nat) (s : State) : Out :=
  match s.replies[n]? with
  | none => .next s
  | some r =>
    if !replyTurn s n r then .next s
    else .next (updStrm { s with replies := ldrop s.replies n } r.job r.tile r.strm fun st => deliverReply st r.q r.word r.know)

end Sys2Proof.Machine
end

