-- ==== Sys2Proof/Machine/System.lean ====
section
/-! DEFINITION. System instructions, interrupts, fetch faults and illegal words (R41, R43, R375 to R387). -/

namespace Sys2Proof.Machine

/-! State registers (R125, R126, R376, R383). -/

/-- ss.status (R126). -/
def statusWord (s : State) (t : Nat) (sk : Strm) (st : Stream) : Word :=
  BitVec.ofNat 64 (sidx sk + (if st.tctx then 2 ^ 4 else 0) + (if (inIdem s t sk st.pc.toNat).isSome then 2 ^ 5 else 0)
    + (if st.lca.act then 2 ^ 6 else 0) + (if st.lcb.act then 2 ^ 7 else 0))

/-- ss.full (R125): bit p is set when physical register p is full. -/
def fullWord (st : Stream) : Word :=
  BitVec.ofNat 64 (packN 1 ((List.range 32).map fun p => if p = 0 || (regAt st p).full then 1 else 0))

/-- ss.ctx (R376). -/
def ctxWordOf (s : State) (t : Nat) (sk : Strm) : Word :=
  BitVec.ofNat 64 (ctxnOf s t + ctxPasid s (ctxnOf s t) * 2 ^ 12 + t * 2 ^ 32 + sidx sk * 2 ^ 40)

/-- The value of a state register, by number (R125, R376). -/
def ssRead (s : State) (t : Nat) (sk : Strm) (st : Stream) (num : Nat) : Option Word :=
  match num with
  | 0x000 => some st.pc
  | 0x001 => some (statusWord s t sk st)
  | 0x002 => some (st.rrb.zeroExtend 64)
  | 0x003 => some (st.ftb.zeroExtend 64)
  | 0x004 => some st.fe
  | 0x005 => some st.srctr
  | 0x006 => some (fullWord st)
  | 0x007 => some (cycleOf s st)
  | 0x008 => some (st.lca.cnt.zeroExtend 64)
  | 0x009 => some (st.lca.start.zeroExtend 64)
  | 0x00A => some (st.lca.last.zeroExtend 64)
  | 0x00B => some (st.lca.idx.zeroExtend 64)
  | 0x00C => some (st.lcb.cnt.zeroExtend 64)
  | 0x00D => some (st.lcb.start.zeroExtend 64)
  | 0x00E => some (st.lcb.last.zeroExtend 64)
  | 0x00F => some (st.lcb.idx.zeroExtend 64)
  | 0x040 => some st.epc
  | 0x041 => some st.cause
  | 0x042 => some st.tval
  | 0x043 => some st.tvec
  | 0x044 => some st.tena
  | 0x045 => some st.imask
  | 0x046 => some st.ipend
  | 0x047 => some st.tcmp
  | 0x048 => some st.tsv0
  | 0x049 => some st.tsv1
  | 0x04A => some st.tsv2
  | 0x04B => some st.tsv3
  | 0x04C => some (ctxWordOf s t sk)
  | _ => none

/-- The CNT field written by an SSWR: 0 also clears ACT (R124). -/
def loopCnt (l : LoopRegs) (v : Word) : LoopRegs :=
  { l with cnt := v.truncate 32, act := l.act && decide (v.truncate 32 ≠ (0 : BitVec 32)) }

/-- A START or END field: bits [1:0] ignore writes (R124). -/
def loopOff (v : Word) : BitVec 20 := BitVec.ofNat 20 (wf64 v 19 2 * 4)

/-- The stream after an SSWR, by number and by each field's access code (R125, R376, R383). A read-only register is left
as it is. -/
def ssWrite (st : Stream) (cycle num : Nat) (v : Word) : Stream :=
  match num with
  | 0x002 => { st with rrb := v.truncate 4 }
  | 0x003 => { st with ftb := v.truncate 4 }
  | 0x004 => { st with fe := feWrite st.fe v }
  | 0x005 => { st with srctr := v }
  | 0x008 => { st with lca := loopCnt st.lca v }
  | 0x009 => { st with lca := { st.lca with start := loopOff v } }
  | 0x00A => { st with lca := { st.lca with last := loopOff v } }
  | 0x00B => { st with lca := { st.lca with idx := v.truncate 32 } }
  | 0x00C => { st with lcb := loopCnt st.lcb v }
  | 0x00D => { st with lcb := { st.lcb with start := loopOff v } }
  | 0x00E => { st with lcb := { st.lcb with last := loopOff v } }
  | 0x00F => { st with lcb := { st.lcb with idx := v.truncate 32 } }
  | 0x040 => { st with epc := v }
  | 0x041 => { st with cause := BitVec.ofNat 64 (wf64 v 7 0) }
  | 0x042 => { st with tval := v }
  | 0x043 => { st with tvec := BitVec.ofNat 64 (wf64 v 18 2 * 4) }
  | 0x044 => { st with tena := v }
  | 0x045 => { st with imask := v }
  | 0x046 => { st with ipend := st.ipend &&& ~~~ v }
  | 0x047 => { st with tcmp := v, tcmpFrom := cycle }
  | 0x048 => { st with tsv0 := v }
  | 0x049 => { st with tsv1 := v }
  | 0x04A => { st with tsv2 := v }
  | 0x04B => { st with tsv3 := v }
  | _ => st

/-- State registers whose SSWR needs the trap context (R375, R376). -/
def ssPriv (num : Nat) : Bool := decide (0x040 ≤ num) && decide (num ≤ 0x042)

/-- SSRD (R383). A number that is not assigned raises ILLEGAL with the word in ss.tval. -/
def execSsrd (o : FormSReg) (s : State) : Out :=
  issue s do
    let st := cur s
    match ssRead s s.curTile s.curStrm st o.num.toNat with
    | none => .error (.trap .illegal (BitVec.ofNat 64 ((encode (.ssrd o)).getD 0)))
    | some v =>
      tokensReady st o.tk
      destReady st o.r
      .ok (retire (setCur s (putReg (popBits st o.tk) o.r v)) o.tk .seq)

/-- SSWR (R383): the trap context's record is privileged (R375). DESIGN CHOICE (assumption 146): a loop register that the last word
of the loop writes has its new value already at that word's own examination of the loop (R150). -/
def execSswr (o : FormSReg) (s : State) : Out :=
  issue s do
    let st := cur s
    match ssRead s s.curTile s.curStrm st o.num.toNat with
    | none => .error (.trap .illegal (BitVec.ofNat 64 ((encode (.sswr o)).getD 0)))
    | some _ =>
      need (st.tctx || !ssPriv o.num.toNat) .priv 0
      let v ← readSrc st o.r false
      tokensReady st o.tk
      .ok (retire (setCur s (ssWrite (popBits st o.tk) (cycleOf s st).toNat o.num.toNat v)) o.tk .seq)

/-! Traps (R378 to R382). -/

/-- TRAP (R382): cause 0x20 in place of its issue, resuming at the next word. It waits for the tokens that it names, which stay in
their FIFOs (R44). -/
def execTrap (o : FormS16) (s : State) : Out :=
  issue s do
    tokensReady (cur s) o.tk
    .ok (takeTrap s .trap (o.code.zeroExtend 64) ((cur s).pc + 4))

/-- BRK (R382): cause 0x21, resuming at the BRK, with its tokens as those of TRAP (R44). -/
def execBrk (o : FormS16) (s : State) : Out :=
  issue s do
    tokensReady (cur s) o.tk
    .error (.trap .brk (o.code.zeroExtend 64))

/-- ERET (R379): in the user mode it raises PRIV (R375). -/
def execEret (o : FormS0) (s : State) : Out :=
  issue s do
    let st := cur s
    need st.tctx .priv 0
    tokensReady st o.tk
    .ok (retire (setCur s (leaveTrap (popBits st o.tk))) o.tk (.jump st.epc))

/-- ILLEGAL_INSTRUCTION (R43): ss.tval receives the word; nothing else of the word takes effect. -/
def execIllegalInstruction (w : BitVec 32) (s : State) : Out :=
  if canIssue (cur s) then .next (takeTrap s .illegal (w.zeroExtend 64) (cur s).pc) else .next s

/-- Whether a logged write is one that the stream's fetch sees for certain (R41): it stood in the stream's view when its last PHASE
retired, or when its job started. -/
def fetchSees (t : Nat) (sk : Strm) (st : Stream) (w : WriteRec) : Bool :=
  decide (w.id < st.viewBase)
    || (decide (w.id < st.fetchBase) && ((st.entered.take st.fetchCount).contains w.id || ownWrite t sk w))

/-- Where each of the stores that logged some bytes of a span in order ends: the bytes of one store follow one another. -/
def storeEnds : List WriteRec → List Nat
  | [] => []
  | [w] => [w.id + 1]
  | w :: x :: rest => (if x.id = w.id + 1 ∧ x.addr = w.addr + 1 then [] else [w.id + 1]) ++ storeEnds (x :: rest)

/-- The words that a stream's fetch may return (R41): first the one that its last PHASE has made certain, then those that each later
store has left there, published or not. -/
def fetchVersions (s : State) (t : Nat) (sk : Strm) : List Nat :=
  let st := strmAt s t sk
  let ps := span (scratchBase t + st.pc.toNat) 4
  let ws := s.wlog.filter fun w => ps.contains w.addr
  let at_ (own : List Posted) (cut : Nat) : Nat := leNat (ps.map fun p => (postedByte own p).getD
    (viewBy (fun w => fetchSees t sk st w || decide (w.id < cut)) (ws.filter fun w => w.addr == p) (memGet s.mem p)))
  ((0 :: storeEnds (ws.filter fun w => !fetchSees t sk st w)).map (at_ [])
    ++ (span 1 st.posted.length).map fun n => at_ (st.posted.take n) s.wnext).eraseDups

/-- The cause of a fetch at an offset that holds no fetchable word (R41, R148, R404). DESIGN CHOICE (assumption 149): ALIGN is tested
before NEAR_BOUNDS. -/
def fetchCause (s : State) (t : Nat) (pc : Word) : Option Cause :=
  if pc.toNat % 4 ≠ 0 then some .align
  else if Config.scratchBytes < pc.toNat + 4 then some .nearBounds
  else if poisonedAt s (scratchBase t + pc.toNat) then some .poison
  else none

/-- FETCH_FAULT (R41, R404): ALIGN and NEAR_BOUNDS name the word that was to be fetched; POISON names nothing (R376). -/
def execFetchFault (s : State) : Out :=
  let st := cur s
  if canIssue st then
    match fetchCause s s.curTile st.pc with
    | some c => .next (takeTrap s c (if c = .poison then 0 else st.pc) st.pc)
    | none => .next s
  else .next s

/-! Waits and the end of a stream (R386, R387). -/

/-- SLEEP (R386): its tokens are popped when it issues, and it retires when the sleep ends. -/
def execSleep (o : FormS16) (s : State) : Out :=
  issue s do
    let st := cur s
    tokensReady st o.tk
    let w : Wait := if o.code = 0 then .sleepIntr o.tk else .sleepUntil (s.fab + 64 * o.code.toNat) o.tk
    .ok (setCur s { popBits st o.tk with wait := w, lastIssue := s.fab, watchdogPosted := false })

/-- A sleep of a stream ends: SLEEP retires, and a TOKEN_OVER that fell due is taken (R72, R386). -/
def endSleep (s : State) (t : Nat) (sk : Strm) (tk : BitVec 4) : State :=
  let s1 := retireAt (setStrm s t sk { strmAt s t sk with wait := .none }) t sk tk .seq
  takeOverDue s1 t sk

/-- SLEEP_EXPIRY (R386). -/
def execSleepExpiry (t : Nat) (sk : Strm) (s : State) : Out :=
  match (strmAt s t sk).wait with
  | .sleepUntil f tk => .next (if f ≤ s.fab then endSleep s t sk tk else s)
  | _ => .next s

/-- A HALT's token push that finds its FIFO full is an engine fault of the job (R72, R387). -/
def haltPush (s : State) (t : Nat) (sk : Strm) (tk : BitVec 4) : State :=
  let (s1, fl, fr) := pushBits s t sk (tkSL tk) (tkSR tk)
  if fl || fr then
    offer s1 { offerFor s1 t sk .tokenOver 0 with addr := (strmAt s1 t sk).pc, detail := overTval fl fr }
  else s1

/-- HALT (R387): a release point of scope SYSTEM, once the stream's near loads have landed and its atomics have been applied (R178);
the stream ends, and counts as arrived at every later rendezvous (R162). -/
def execHalt (o : FormS0) (s : State) : Out :=
  issue s do
    let st := cur s
    tokensReady st o.tk
    waitFor (loadsLanded st)
    waitFor (atomicsOf s s.curTile s.curStrm).isEmpty
    let s1 := publish (setCur s (popBits st o.tk)) s.curTile s.curStrm .system
    let x := cur s1
    let s2 := setCur s1 { x with halted := true, pc := st.pc + 4, lastIssue := s.fab, issued := st.issued + 1, rdvzKnow := x.know }
    .ok (haltPush s2 s.curTile s.curStrm o.tk)

/-! TLBI and interrupts (R381, R384, R385). -/

/-- Whether a TLBI removes a held translation (R384). -/
def tlbiRemoves (ctxn : Nat) (kind : TlbiKind) (a : Word) (e : TlbEntry) : Bool :=
  e.ctxn == ctxn &&
    match kind with
    | .l2page => e.l2 && e.base == wf64 a 15 0
    | .vpage => !e.l2 && decide (e.base ≤ a.toNat) && decide (a.toNat < e.base + e.size)
    | .all => true

/-- Whether a TLBI removes an upper-level entry of a walk cache (R384). -/
def tlbiRemovesWalk (ctxn : Nat) (kind : TlbiKind) (a : Word) (e : WalkEntry) : Bool :=
  e.ctxn == ctxn &&
    match kind with
    | .l2page => false
    | .vpage => decide (e.base ≤ a.toNat) && decide (a.toNat < e.base + e.size)
    | .all => true

/-- Whether an access to a near or virtual address may have used a translation that a TLBI removes: one of the L2 page, one within the
largest page that covers the virtual address, or any (R384). -/
def tlbiCovers (kind : TlbiKind) (a near : Word) : Bool :=
  match kind with
  | .l2page => nearSel near == 3 && wf64 near 31 16 == wf64 a 15 0
  | .vpage => nearSel near == 0 && wf64 near 55 30 == wf64 a 55 30
  | .all => nearSel near == 3 || nearSel near == 0

/-- The addresses of the accesses of a tile that are translated and still to be performed (R384): its streams' posted stores that have
not reached the point through which every agent reads, the writes that sections of its nodes keep, and the images that a KILN in
service is still to write. -/
def tileTranslated (t : Tile) : List Nat :=
  ([t.k, t.l, t.c, t.w].flatMap fun st => (st.posted.filter fun x => !performedAt x .system).map (·.near))
    ++ (t.regions.flatMap fun (_, r) => r.sections.flatMap fun x => x.writes.map (·.at_))
    ++ (t.cfg.toList.flatMap fun u => (u.pages.filter fun p => !u.settled.contains p.1).map fun (_, page, _) => 3 * 2 ^ 56 + page * 2 ^ 16)

/-- Whether accesses of a context that used a translation which a TLBI removes have not been performed (R384): those of its tiles, and
operations that wait at their ports. -/
def tlbiPending (s : State) (ctxn : Nat) (kind : TlbiKind) (a : Word) : Bool :=
  (s.tiles.any fun (t, x) => ctxnOf s t == ctxn && (tileTranslated x).any fun y => tlbiCovers kind a (BitVec.ofNat 64 y))
  || s.ports.any fun y => y.ctxn == ctxn && tlbiCovers kind a y.near

/-- A posted store whose translation a TLBI removes has its place in coherence order before every write that follows: it has been
performed, and its publication will not pass over what the page holds by then (R177, R384). -/
def settleStore (next : Nat) (kind : TlbiKind) (a : Word) (x : Posted) : Posted :=
  if tlbiCovers kind a (BitVec.ofNat 64 x.near) && x.placed.isNone then { x with placed := some next } else x

def settleStores (next : Nat) (kind : TlbiKind) (a : Word) (st : Stream) : Stream :=
  { st with posted := st.posted.map (settleStore next kind a) }

/-- Whether a comparison that waits at a port uses a translation that a TLBI removes and that the tables no longer give: its instruction
or packet starts again from its address check. DEDUCED, unsafe (assumption 161). -/
def watchStale (s : State) (ctxn : Nat) (kind : TlbiKind) (a : Word) (x : Watch) : Bool :=
  x.got.isNone && x.ctxn == ctxn && tlbiCovers kind a x.near &&
    (physOf s ctxn (if x.tile < 192 then tileDie x.tile else channelStrip) x.near.toNat).map (·.1) != some x.addr

/-- A TLBI's removal (R384): the translations of every TLB and walk cache that it names go, and no access uses one of them any more. -/
def tlbiDrop (s : State) (ctxn : Nat) (kind : TlbiKind) (a : Word) : State :=
  let settle := settleStores s.wnext kind a
  { s with tlb := s.tlb.filter fun e => !tlbiRemoves ctxn kind a e
           walks := s.walks.filter fun e => !tlbiRemovesWalk ctxn kind a e
           watches := s.watches.filter fun x => !watchStale s ctxn kind a x
           tiles := s.tiles.map fun (t, x) =>
             if ctxnOf s t = ctxn then (t, { x with k := settle x.k, l := settle x.l, c := settle x.c, w := settle x.w }) else (t, x) }

/-- TLBI (R384): it waits until every access that used a removed translation has been performed. -/
def execTlbi (o : FormTlbi) (s : State) : Out :=
  issue s do
    let st := cur s
    let a ← readSrc st o.a false
    tokensReady st o.tk
    need (o.kind != .vpage || nearSel a == 0) .accessPath 0
    waitFor (!tlbiPending s (ctxnOf s s.curTile) o.kind a)
    .ok (retire (tlbiDrop (setCur s (popBits st o.tk)) (ctxnOf s s.curTile) o.kind a) o.tk .seq)

/-- An interrupt line of a stream becomes pending; a halted stream discards it (R381, R385). -/
def setLine (st : Stream) (l : Nat) : Stream :=
  if st.halted then st else { st with ipend := st.ipend ||| (1#64 <<< l) }

/-- IREG (R385). -/
def execIreg (o : FormIreg) (s : State) : Out :=
  issue s do
    let st := cur s
    let a ← readSrc st o.a false
    tokensReady st o.tk
    let ts := blockOf s s.curTile
    match ts[wf64 a 9 2]? with
    | none => .error (.trap .nearBounds a)
    | some t =>
      let sk := strmOf (wf64 a 1 0)
      let s1 := setCur s (popBits st o.tk)
      .ok (retire (setStrm s1 t sk (setLine (strmAt s1 t sk) o.vec.toNat)) o.tk .seq)

/-- TIMER_COMPARE (R381): line 63 becomes pending when ss.cycle first equals a non-zero ss.tcmp. The cycles that pass
between two steps may hold the equality, so it counts once ss.cycle has reached the value since ss.tcmp was written. -/
def execTimerCompare (t : Nat) (sk : Strm) (s : State) : Out :=
  let st := strmAt s t sk
  let now := (cycleOf s st).toNat
  if st.tcmp ≠ 0 ∧ st.tcmpFrom < st.tcmp.toNat ∧ st.tcmp.toNat ≤ now then
    .next (setStrm s t sk { setLine st 63 with tcmpFrom := now })
  else .next s

/-- The interrupt that a stream takes at the boundary after its sleep, if it is still takeable there: a TOKEN_OVER that the end of the
sleep raised may have entered the handler or stopped the stream for a response (R380, R381). -/
def intrAfterSleep (s : State) (t : Nat) (sk : Strm) (l : Nat) : State :=
  let st := strmAt s t sk
  if (takeableLine st).isSome && st.wait == .none then takeTrapAt s t sk .intr (BitVec.ofNat 64 l) st.pc else s

/-- INTR (R381): at an instruction boundary an enabled pending line is taken; a waiting instruction is abandoned, and a
sleep ends first (R386). -/
def execIntr (t : Nat) (sk : Strm) (s : State) : Out :=
  let st := strmAt s t sk
  match takeableLine st with
  | none => .next s
  | some l =>
    if !st.running || st.halted || cfgCommitted s t sk then .next s
    else
      match st.wait with
      | .response => .next s
      | .sleepUntil _ tk => .next (intrAfterSleep (endSleep s t sk tk) t sk l)
      | .sleepIntr tk => .next (intrAfterSleep (endSleep s t sk tk) t sk l)
      | _ => .next (takeTrapAt (setStrm s t sk (abandon st)) t sk .intr (BitVec.ofNat 64 l) st.pc)

end Sys2Proof.Machine
end

