-- ==== Sys2Proof/Machine/Watch.lean ====
section
/-! DEFINITION. The entries of the reuse table as every unit reaches them, the leaves that map their regions, their watch bits, and
the scrub of an entry (R293, R298, R396, R397, R399, R428). -/

namespace Sys2Proof.Machine

def entryAt (s : State) (n : Nat) : REntry := mget s.reuse n {}

def setEntry (s : State) (n : Nat) (e : REntry) : State := { s with reuse := mset s.reuse n e }

/-- The cask command that a unit has in progress: one that has reached its entry and has not ended (R293, R313, R319). -/
def caskBusy (c : Cluster) : Option Cmd := if c.caskBegun then c.cask.head? else none

/-- Whether a cask command that has reached an entry is still in progress there, in a unit other than cl's where one is given:
operations are applied at an entry one at a time (R293). -/
def entryHeld (s : State) (n : Nat) (but : Option Nat) : Bool :=
  s.clusters.any fun p => some p.1 != but && (caskBusy p.2).any fun c => tf c.tmpl 251 240 == n

/-! Pages of a region and their watch bits (R297, R298, R396, R397, R399). -/

/-- The leaf entry that maps a virtual address: the address of the entry and the size of the page. -/
def vaLeaf (s : State) (t : Nat) : List (Nat × Nat) → Option (Nat × Nat)
  | [] => none
  | (i, size) :: rest =>
    let e := readNat s (t + 8 * i) 8
    if !bitN e 0 then none
    else if bitN e 1 then some (t + 8 * i, size)
    else vaLeaf s (bitsN e 55 8 * 2 ^ 8) rest

/-- The entry that maps an address of a context, with the first address and the size of its page. -/
def leafEntry (s : State) (ctxn a : Nat) : Option (Nat × Nat × Nat) :=
  let off := a % 2 ^ 56
  if a / 2 ^ 56 = 3 then some ((ctxWord s ctxn 3).toNat + 8 * (off / 2 ^ 16), a / 2 ^ 16 * 2 ^ 16, 2 ^ 16)
  else
    (vaLeaf s (ctxWord s ctxn 2).toNat
      [(bitsN off 55 39, 0), (bitsN off 38 30, 2 ^ 30), (bitsN off 29 21, 2 ^ 21), (bitsN off 20 16, 2 ^ 16)]).map
      fun (p, size) => (p, a / size * size, size)

/-- The 64 KiB pages of a region, by address. -/
def regionPages (r : Nat × Nat) : List Nat :=
  (List.range (ceilDiv (r.1 % 2 ^ 16 + r.2) (2 ^ 16))).map fun i => r.1 / 2 ^ 16 * 2 ^ 16 + i * 2 ^ 16

/-- The entries that map the pages of a list of regions, each once. -/
def regionLeaves (s : State) (ctxn : Nat) (rs : List (Nat × Nat)) : List (Nat × Nat × Nat) :=
  ((rs.flatMap regionPages).filterMap (leafEntry s ctxn)).eraseDups

/-- The watch bit of a leaf entry written at its port, and the translations of its page removed as TLBI does (R399). -/
def setWatch (ctxn : Nat) (on : Bool) (s : State) (l : Nat × Nat × Nat) : State :=
  let e := readNat s l.1 8
  let s1 := writeNat s (feAgent channelStrip) l.1 8 (e % 2 ^ 63 + (if on then 2 ^ 63 else 0))
  if l.2.1 / 2 ^ 56 = 3 then tlbiDrop s1 ctxn .l2page (BitVec.ofNat 64 (l.2.1 % 2 ^ 56 / 2 ^ 16))
  else tlbiDrop s1 ctxn .vpage (BitVec.ofNat 64 l.2.1)

/-- Every access that used the translation of one of some pages has been performed (R384, R399). -/
def pagesSettled (s : State) (ctxn : Nat) (ls : List (Nat × Nat × Nat)) : Bool :=
  ls.all fun l =>
    if l.2.1 / 2 ^ 56 = 3 then !tlbiPending s ctxn .l2page (BitVec.ofNat 64 (l.2.1 % 2 ^ 56 / 2 ^ 16))
    else !tlbiPending s ctxn .vpage (BitVec.ofNat 64 l.2.1)

/-- Whether a bound entry of the context other than n, and not about to be scrubbed, covers a page. -/
def coveredElse (s : State) (n ctxn : Nat) (l : Nat × Nat × Nat) : Bool :=
  s.reuse.any fun p => p.1 != n && p.2.kind != .free && !p.2.dropping && p.2.ctxn.toNat == ctxn &&
    (entryRegions p.2).any fun r => decide (r.1 < l.2.1 + l.2.2) && decide (l.2.1 < r.1 + r.2)

/-- The leaves of an entry's pages that no other entry covers (R298); none once they have been given up. -/
def ownLeaves (s : State) (n : Nat) : List (Nat × Nat × Nat) :=
  let e := entryAt s n
  if e.dropping then [] else (regionLeaves s e.ctxn.toNat (entryRegions e)).filter fun l => !coveredElse s n e.ctxn.toNat l

/-- The watch bits of an entry's pages cleared where no other entry covers them (R298). -/
def unwatch (s : State) (n : Nat) : State := (ownLeaves s n).foldl (setWatch (entryAt s n).ctxn.toNat false) s

/-- An entry scrubbed, and its pages no longer watched (R298). -/
def scrubEntry (s : State) (n : Nat) : State := setEntry (unwatch s n) n {}

/-- An entry scrubbed from outside the streams (R405, R428): at once, or, as RFREE waits (R298), after the operation being applied
there. Its pages are no longer watched in either case: the translations of its context may be new by then. -/
def dropEntry (s : State) (n : Nat) : State :=
  let e := entryAt s n
  if e.busy || entryHeld s n none then setEntry (unwatch s n) n { e with dropping := true } else scrubEntry s n

/-- An entry that waits to be scrubbed, scrubbed once the operation being applied at it is over (R298, R428). -/
def scrubDropped (s : State) (n : Nat) : State :=
  let e := entryAt s n
  if e.dropping && !e.busy && !entryHeld s n none then setEntry s n {} else s

end Sys2Proof.Machine
end

