-- ==== Sys2Proof/Machine/Chains.lean ====
section
/-! DEFINITION. Matrix tasks at issue (R268 to R272), chain instances, tokens and ring entries (R278 to R281), and what
becomes of them when a span is discarded, a job is saved, or a job ends (R262, R280, R291, R292). -/

namespace Sys2Proof.Machine

/-! Fields of a KIND 2 command (R268, R303). -/

def mtA (t : BitVec 256) : Nat := tf t 255 248
def mtB (t : BitVec 256) : Nat := tf t 247 240
def mtX (t : BitVec 256) : Nat := tf t 239 232
def mtXoff (t : BitVec 256) : Nat := tf t 231 225
def mtM (t : BitVec 256) : Nat := tf t 224 217
def mtMoff (t : BitVec 256) : Nat := tf t 216 210
def mtChn (t : BitVec 256) : Nat := tf t 209 205
def mtCont (t : BitVec 256) : Bool := tf t 204 204 == 1
def mtClose (t : BitVec 256) : Bool := tf t 203 203 == 1
def mtGrs (t : BitVec 256) : Nat := tf t 191 176
def mtGrn (t : BitVec 256) : Nat := tf t 175 152
def mtGiv (t : BitVec 256) : Nat := tf t 151 139
def mtGdef (t : BitVec 256) : Bool := tf t 138 138 == 1
def mtGbase (t : BitVec 256) : Nat := tf t 127 64
def mtRent (t : BitVec 256) : Nat := tf t 191 180
def mtLid (t : BitVec 256) : Nat := tf t 175 160
def mtFrf (t : BitVec 256) : Bool := tf t 159 159 == 1

/-! Fields of a format-table entry (R105). -/

def ftA (e : Word) : Nat := wf64 e 3 0
def ftB (e : Word) : Nat := wf64 e 7 4
def ftO (e : Word) : Nat := wf64 e 11 8
def ftApl (e : Word) : Nat := wf64 e 15 12
def ftBpl (e : Word) : Nat := wf64 e 19 16
def ftHlsb (e : Word) : Bool := wf64 e 20 20 == 1
def ftSat8 (e : Word) : Bool := wf64 e 21 21 == 1
def ftAcc (e : Word) : Bool := wf64 e 22 22 == 1

/-- The family of a matrix format (R109): 1 for 16-bit floats, 2 for 8-bit floats, 3 for BPI, 0 for none. -/
def ftFamily (f : Nat) : Nat :=
  match f with
  | 1 => 1
  | 2 => 1
  | 3 => 2
  | 4 => 2
  | 5 => 3
  | _ => 0

def ftBpi (e : Word) : Bool := ftA e == 5

/-- The checks of a matrix task's captured entry (R109). -/
def fteOk (e : Word) : Bool :=
  let planes (n : Nat) : Bool := if ftBpi e then decide (2 ≤ n) && decide (n ≤ 8) else n == 0
  ftFamily (ftA e) != 0 && ftFamily (ftA e) == ftFamily (ftB e) && planes (ftApl e) && planes (ftBpl e)
    && (!ftAcc e || ftBpi e) && wf64 e 63 23 == 0 && decide (ftO e < 13)

/-- The rate class p′ of a BPI entry (R109). -/
def rateClass (e : Word) : Nat :=
  let m := max (ftApl e) (ftBpl e)
  if m = 2 then 2 else if m ≤ 4 then 4 else 8

/-- The K depth of a task (R275). -/
def mtK (e : Word) : Nat :=
  match ftFamily (ftA e) with
  | 1 => 64
  | 2 => 128
  | _ => 1024 / rateClass e

/-- The bytes of a row of a gathered A (R270). -/
def rowBytes (e : Word) : Nat := 128 + (if ftBpi e then mtK e / 32 else 0)

/-- The first byte after the scale arrays in XSLOT (R267, R270). -/
def scaleEnd (t : BitVec 256) (e : Word) : Nat :=
  if ftBpi e then 64 * mtXoff t + (if tf t 7 4 = 2 then 0 else 2 * mtK e) + (if tf t 7 4 = 1 then 4 else 2) * mtK e else 0

/-- The first byte after the metadata of an MMS, from the start of MSLOT (R270, R276). -/
def metaEnd (t : BitVec 256) (e : Word) : Nat := 64 * mtMoff t + 24 * mtK e

/-- The payload checks of MMD, MMS and MMG (R270). -/
def matrixFields (t : BitVec 256) (e : Word) : Bool :=
  tf t 202 192 == 0 && tf t 137 128 == 0 && (ftBpi e || tf t 239 225 == 0) && decide (scaleEnd t e ≤ 8192) &&
  match tf t 7 4 with
  | 0 => tf t 224 210 == 0 && tf t 191 138 == 0 && mtGbase t == 0
  | 1 => mtB t != 255 && tf t 191 138 == 0 && mtGbase t == 0 &&
      decide (metaEnd t e ≤ (if mtM t = 255 then 8192 else 16384))
  | _ => mtA t == 0 && mtGrn t != 0 && decide (rowBytes e ≤ mtGrs t * 64) &&
      (mtGbase t / 2 ^ 56 == 1 || mtGbase t / 2 ^ 56 == 2) && mtGbase t % 64 == 0 &&
      decide (mtGiv t * 64 + 256 ≤ 0x80000) &&
      (if mtGdef t then decide (64 * mtMoff t + rowBytes e ≤ 8192) else tf t 224 210 == 0)

/-- The payload checks of MMDL (R304). -/
def mmdlFields (t : BitVec 256) (e : Word) : Bool :=
  !mtCont t && mtClose t && tf t 239 210 == 0 && tf t 202 192 == 0 && tf t 179 176 == 0 && tf t 158 64 == 0 &&
    !ftAcc e && !ftBpi e

/-- Whether an MMG's rows or its index vector lie in a buffer that the stream does not hold (R270). -/
def gatherOwned (s : State) (tile : Nat) (sk : Strm) (t : BitVec 256) (e : Word) : Bool :=
  let a := mtGbase t
  let rows :=
    if a / 2 ^ 56 = 1 then !foreignBuffer s tile sk (a % 2 ^ 56) (64 * mtGrs t * (mtGrn t - 1) + rowBytes e)
    else handleValid s tile (bitsN a 55 40) && heldBy (handleAt s tile (bitsN a 55 40)) tile sk
  rows && !foreignBuffer s tile sk (mtGiv t * 64) 256

/-- The checks of a KIND 2 command against its captured entry (R109, R270, R304): TEMPLATE, then OWNER. -/
def matrixCheck (s : State) (tile : Nat) (sk : Strm) (t : BitVec 256) (e : Word) : Chk Unit := do
  need (fteOk e && (if tf t 7 4 = 3 then mmdlFields t e else matrixFields t e)) .template 0
  need (tf t 7 4 != 2 || gatherOwned s tile sk t e) .owner 0

/-! Chain instances (R271, R278, R279). -/

def chnOf (t : Tile) (n : Nat) : ChnSt := mget t.chns n {}

/-- Whether an instance is the chain of a task. -/
def isChainOf (x : Chain) (k : Task) : Bool := x.tile == k.tile && x.chn == k.chn && x.gen == k.gen && x.job == k.cmd.job

/-- Whether two instances are the same. -/
def sameChain (x y : Chain) : Bool := x.tile == y.tile && x.chn == y.chn && x.gen == y.gen && x.job == y.job

def chainOf (c : Cluster) (k : Task) : Option Chain := c.chains.find? fun x => isChainOf x k

/-- A change of one chain instance. -/
def updChain (s : State) (cl : Nat) (x : Chain) (f : Chain → Chain) : State :=
  let c := clusterOf s cl
  setCluster s cl { c with chains := c.chains.map fun y => if sameChain x y then f y else y }

/-- The instance bound to a chain number of a tile (R279). -/
def boundChain (s : State) (tile chn : Nat) : Option Chain :=
  let b := chnOf (tileOf s tile) chn
  if b.bound then
    (clusterOf s (tileCluster tile)).chains.find? fun x =>
      x.tile == tile && x.chn == chn && x.gen + 1 == b.bindings && some x.job == (tileOf s tile).job
  else none

/-- Whether an instance is in a state from PENDING to FULL (R279). -/
def chainLive (x : Chain) : Bool :=
  match x.st with
  | .draining => false
  | .faulted => false
  | _ => true

/-- The instance that a valid token names for a stream of a tile (R278, R279). -/
def tokenChain (s : State) (tile : Nat) (v : Word) : Option Chain :=
  if wf64 v 23 19 = tileCluster tile ∧ wf64 v 18 16 = tileIn tile then
    (clusterOf s (tileCluster tile)).chains.find? fun x =>
      x.tile == tile && x.chn == wf64 v 15 11 && x.gen % 256 == wf64 v 31 24 && some x.job == (tileOf s tile).job
        && chainLive x
  else none

/-- The instance that EPIL and ACCD name, by token or by chain number (R278, R279). -/
def namedChain (s : State) (tile : Nat) (v : Word) : Option Chain :=
  if v.getLsbD 63 then boundChain s tile (wf64 v 4 0) else tokenChain s tile v

/-- A chain token (R278). -/
def tokenWord (cl tile gen chn eng ent : Nat) : BitVec 40 :=
  BitVec.ofNat 40 (gen % 256 * 2 ^ 24 + cl * 2 ^ 19 + tileIn tile * 2 ^ 16 + chn * 2 ^ 11 + eng * 2 ^ 4 + ent)

/-- The token of an instance (R278). -/
def chainToken (cl : Nat) (x : Chain) : BitVec 40 := tokenWord cl x.tile x.gen x.chn x.eng x.ent

/-- The token in the reply of a task (R278): that of its chain, or, when the chain has been released (R292), the one that it was
dispatched with. -/
def taskToken (c : Cluster) (cl : Nat) (k : Task) : BitVec 40 :=
  match chainOf c k with
  | some x => chainToken cl x
  | none => tokenWord cl k.tile k.gen k.chn k.eng k.ent

/-- The chain check of a KIND 2 command (R271). -/
def chainCheck (s : State) (tile : Nat) (t : BitVec 256) (e : Word) : Chk Unit :=
  let v : Word := BitVec.ofNat 64 (mtChn t + (if mtCont t then 2 ^ 8 else 0))
  let b := chnOf (tileOf s tile) (mtChn t)
  if mtCont t then
    match boundChain s tile (mtChn t) with
    | none => .error (.trap .ring v)
    | some x => need (x.acc == ftAcc e) .ring v
  else need (!b.bound) .ring v

/-! Acceptance (R264, R271, R272). -/

/-- The slots that a task reads (R264, R267, R276, R277). -/
def taskSlots (t : BitVec 256) (e : Word) : List Nat :=
  let x := if ftBpi e then [mtX t] else []
  let ss := match tf t 7 4 with
    | 0 => [mtA t, mtB t] ++ x
    | 1 => [mtA t, mtB t, mtB t + 1] ++ x ++ [mtM t] ++ (if 8192 < metaEnd t e then [mtM t + 1] else [])
    | 2 => [mtB t] ++ x ++ (if mtGdef t then [mtM t] else [])
    | _ => [mtA t, mtB t]
  ss.eraseDups

/-- The count captured for a slot; 0 where no tile of the task's job claims it for later tasks (R263, R264). -/
def captureCount (s : State) (cl job n : Nat) : Nat :=
  let x := opSlotOf s cl n
  if x.claim.isSome && x.job == job && !x.draining then x.facc else 0

/-- The cluster task queue has room (R272). -/
def matrixRoom (s : State) (tile : Nat) : Bool := decide ((clusterOf s (tileCluster tile)).taskq.length < 256)

/-- The chain of an accepted task bound, continued or closed (R271, R279). -/
def bindChain (s : State) (c : Cmd) : State × Nat :=
  let t := tileOf s c.tile
  let n := mtChn c.tmpl
  let b := chnOf t n
  let cl := tileCluster c.tile
  let gen := if mtCont c.tmpl then b.bindings - 1 else b.bindings
  let x : Chain := { tile := c.tile, chn := n, gen := gen, job := c.job, st := .pending, acc := ftAcc c.fte,
                     idem := c.idem, span := c.span, strm := c.strm }
  let k := clusterOf s cl
  let s1 := if mtCont c.tmpl then s else setCluster s cl { k with chains := k.chains ++ [x] }
  let b1 : ChnSt := { bound := !mtClose c.tmpl, bindings := gen + 1 }
  let s2 := setTile s1 c.tile { t with chns := mset t.chns n b1 }
  let shut (y : Chain) : Chain :=
    let st := if y.st = .opened then ChainSt.closing else y.st
    { y with closed := true, closer := some c, st := st }
  (if mtClose c.tmpl then updChain s2 cl x shut else s2, gen)

/-- Acceptance of a KIND 2 command (R264, R271, R272, R289). -/
def matrixAccept (s : State) (c : Cmd) : State :=
  let cl := tileCluster c.tile
  let (s1, gen) := bindChain s c
  let k := clusterOf s1 cl
  let caps := (taskSlots c.tmpl c.fte).map fun n => (n, captureCount s1 cl c.job n)
  let u : Task := { cmd := c, seq := k.accSeq, tile := c.tile, chn := mtChn c.tmpl, gen := gen, caps := caps }
  let s2 := setCluster s1 cl { k with taskq := k.taskq ++ [u], accSeq := (k.accSeq + 1) % 2 ^ 32 }
  let o : TaskObs := { id := c.id, tag := cmdTag c, closes := mtClose c.tmpl, chn := mtChn c.tmpl, gen := gen, know := c.know }
  if c.fromFe then s2 else updStrm s2 c.job c.tile c.strm fun st => { st with tasks := st.tasks ++ [o] }

/-- The spans that a KIND 2 command may touch (R166): an MMG reads its rows and its index vector. -/
def matrixSpans (s : State) (tile : Nat) (t : BitVec 256) : List (Nat × Nat) :=
  if tf t 7 4 = 2 then
    let a := mtGbase t
    let rows :=
      if a / 2 ^ 56 = 1 then (scratchBase tile + a % 2 ^ 56, 64 * mtGrs t * mtGrn t)
      else
        let e := handleAt s tile (bitsN a 55 40)
        (scratchBase (tileCluster tile * 8 + hHome e) + hBase e * 64, hSize e * 64)
    [rows, (scratchBase tile + mtGiv t * 64, 256)]
  else []

/-! Ring entries (R280). -/

def engineOf (c : Cluster) (e : Nat) : Engine := mget c.engines e {}

def setEngine (s : State) (cl e : Nat) (x : Engine) : State :=
  let c := clusterOf s cl
  setCluster s cl { c with engines := mset c.engines e x }

/-- Every task of a cluster that has not ended. -/
def clusterTasks (c : Cluster) : List Task :=
  c.taskq ++ c.engines.flatMap fun p => p.2.inbox ++ (p.2.run.toList.map (·.task))

/-- Every task of a chain has ended. -/
def chainIdle (c : Cluster) (x : Chain) : Bool := !(clusterTasks c).any (isChainOf x)

/-- Whether an instance leaves the ring without a drain once its entry is at the tail (R279, R281, R288). -/
def chainOver (c : Cluster) (x : Chain) : Bool :=
  match x.st with
  | .full => x.discard
  | .draining => false
  | .faulted => (x.closed || x.discard) && chainIdle c x
  | _ => x.discard && chainIdle c x

/-- The instance that holds an entry of an engine. -/
def entryChain (c : Cluster) (e ent : Nat) : Option Chain := c.chains.find? fun x => x.placed && x.eng == e && x.ent == ent

/-- The engine with its oldest entry freed; an empty ring starts again at entry 0 (R280). -/
def freeTail (x : Engine) : Engine :=
  match x.alloc with
  | [] => x
  | n :: rest => { x with alloc := rest, ring := mdel x.ring n, next := if rest.isEmpty then 0 else x.next }

/-- Entries freed at the tail of an engine's ring while the instance there is over. -/
def freeTails : Nat → Cluster → Nat → Cluster
  | 0, c, _ => c
  | f + 1, c, e =>
    match (engineOf c e).alloc with
    | [] => c
    | n :: _ =>
      match entryChain c e n with
      | none => c
      | some x =>
        if chainOver c x then
          let c1 := { c with chains := c.chains.filter (fun y => !sameChain x y)
                             engines := mset c.engines e (freeTail (engineOf c e)) }
          freeTails f c1 e
        else c

/-- Everything of a cluster that can be freed is freed. -/
def sweepChains (s : State) (cl : Nat) : State :=
  let c := (List.range 16).foldl (freeTails 4) (clusterOf s cl)
  setCluster s cl { c with chains := c.chains.filter fun x => x.placed || !chainOver c x }

/-! The end of a task, and of a drain, as TASKW observes them (R289). -/

/-- The end of a task recorded for TASKW. -/
def noteTask (s : State) (c : Cmd) (code : BitVec 8) : State :=
  let mark (o : TaskObs) : TaskObs := if o.id = c.id then { o with ended := some code } else o
  updStrm s c.job c.tile c.strm fun st => { st with tasks := st.tasks.map mark }

/-- The end of a chain's drain recorded for TASKW, at the task that closes the chain: the drain is that task's (R289). -/
def noteDrain (s : State) (x : Chain) (code : BitVec 8) : State :=
  let mark (o : TaskObs) : TaskObs := if o.closes && o.chn = x.chn && o.gen = x.gen then { o with drained := some code } else o
  [Strm.k, .l, .c, .w].foldl
    (fun s sk => updStrm s x.job x.tile sk fun st => { st with tasks := st.tasks.map mark }) s

/-- A task that has left its place ends with a status: its reply carries the chain's token (R278). -/
def endTask (s : State) (cl : Nat) (k : Task) (status : BitVec 8) : State :=
  sweepChains (finish (noteTask s k.cmd status) k.cmd status (taskToken (clusterOf s cl) cl k)) cl

/-- An instance FAULTED by a command (R281): the first fault gives its code, and the tasks after the earliest command are cancelled. -/
def faultChain (x : Chain) (code : BitVec 8) (id : Nat) : Chain :=
  if x.st = .faulted then { x with faultId := min x.faultId id } else { x with st := .faulted, fault := code, faultId := id }

/-- Whether a task's chain has become FAULTED. -/
def chainFaulted (c : Cluster) (k : Task) : Bool := (chainOf c k).any fun x => x.st == .faulted

/-- A task ends with a fault (R281): its chain becomes FAULTED, and the first task of a chain to fault alone leaves a record. -/
def failTask (s : State) (cl : Nat) (k : Task) (cause : Cause) (sub addr detail unit : Nat) : State :=
  let o := { cmdOffer s k.cmd cause 2 unit with
               sub := sub, addr := BitVec.ofNat 64 addr, detail := BitVec.ofNat 64 detail }
  let s1 := match chainOf (clusterOf s cl) k with
    | some x => updChain s cl x fun y => faultChain y (causeByte cause) k.cmd.id
    | none => s
  endTask (if chainFaulted (clusterOf s cl) k then s1 else offer s1 o) cl k (causeByte cause)

/-- A DRAINING slot of a cluster becomes FREE when nothing references it any more (R263). -/
def settleSlots (s : State) (cl : Nat) (k : Task) : State := k.caps.foldl (fun s p => freeDrained s cl p.1) s

/-! Discarding, saving and restoring. -/

/-- Whether a job is being pre-empted: none of its queued tasks and cask commands starts any more (R291, R319). -/
def beingSaved (s : State) (job : Nat) : Bool := s.fe.preempt.any fun p => p.job == some job

/-- Whether a command belongs to a job or to a BIND node that is being saved. -/
def cmdSaved (s : State) (c : Cmd) : Bool :=
  if c.fromFe then
    s.fe.preempt.any fun p => p.job.isNone && s.fe.bound.any fun b =>
      b.ref.gid == p.node.gid && b.ref.node == p.node.node && b.cmds.contains c.id
  else beingSaved s c.job

/-- A claim of a queue register is given up: its register becomes full and holds 0 (R393). -/
def trimClaims (st : Stream) (n : Nat) : Stream :=
  let q := qreg st n
  let extra := q.claims.drop q.owed
  extra.foldl (fun st p => putPhys st p 0) (setQreg st n { q with claims := q.claims.take q.owed })

/-- A dropped command of the restarting stream: owed(N) falls by one and nothing is delivered (R191, R393). -/
def dropOwed (s : State) (c : Cmd) : State :=
  updStrm s c.job c.tile c.strm fun st =>
    let st1 := { st with cmds := st.cmds.filter (fun x => x.id != c.id), lastIssue := s.fab }
    let st2 := { st1 with tasks := st1.tasks.filter fun o => o.id != c.id }
    if tf c.tmpl 14 13 = 1 then
      let n := tf c.tmpl 17 15
      trimClaims (setQreg st2 n { qreg st2 n with owed := (qreg st2 n).owed - 1 }) n
    else st2

/-- Whether a drain is that of an instance. -/
def drains (d : Drain) (x : Chain) : Bool := d.tile == x.tile && d.chn == x.chn && d.gen == x.gen

/-- An instance leaves the machine: its entry becomes FREE at once, with the end of a drain of it, and its number is unbound (R280,
R292). -/
def releaseChain (s : State) (cl : Nat) (x : Chain) : State :=
  let c := clusterOf s cl
  let e := engineOf c x.eng
  let rest := e.alloc.filter (· != x.ent)
  let e1 := { e with alloc := rest, ring := mdel e.ring x.ent, next := if rest.isEmpty then 0 else e.next
                     drain := e.drain.filter fun d => !drains d x }
  let c1 := { c with chains := c.chains.filter (fun y => !sameChain x y)
                     engines := if x.placed then mset c.engines x.eng e1 else c.engines }
  updTile (setCluster s cl c1) x.job x.tile fun t =>
    let b := chnOf t x.chn
    if b.bindings = x.gen + 1 then { t with chns := mset t.chns x.chn { b with bound := false } } else t

/-- The chain instances of a discarded span are released and their queued tasks dropped (R292). An entry that comes to the tail so may
be freed in turn (R279, R288). -/
def releaseSpan (s : State) (tile : Nat) (sk : Strm) (start : Nat) : State :=
  let cl := tileCluster tile
  let c := clusterOf s cl
  let xs := c.chains.filter fun x => x.tile == tile && x.strm == sk && x.idem && x.span == start
  let gone := c.taskq.filter fun k => xs.any fun x => isChainOf x k
  let s1 := setCluster s cl { c with taskq := c.taskq.filter fun k => !xs.any fun x => isChainOf x k }
  sweepChains (xs.foldl (fun s x => releaseChain s cl x) (gone.foldl (fun s k => settleSlots (dropOwed s k.cmd) cl k) s1)) cl

/-- A cask command leaves its unit with a status and a result (R211). -/
def endCask (s : State) (cl : Nat) (c : Cmd) (status : BitVec 8) (result : Nat) : State :=
  let k := clusterOf s cl
  let s1 := setCluster s cl { k with cask := k.cask.drop 1, caskBegun := false, caskSent := 0, caskWords := [], caskHalt := none }
  scrubDropped (finish (setTile s1 c.tile (leavePorts (tileOf s1 c.tile) c.id)) c status (BitVec.ofNat 40 result))
    (tf c.tmpl 251 240)

/-- The cask commands of a restarting stream that wait in their queue are dropped with a discarded span (R319). -/
def releaseCask (s : State) (tile : Nat) (sk : Strm) : State :=
  let cl := tileCluster tile
  let c := clusterOf s cl
  let gone := c.cask.filter fun k => k.tile == tile && k.strm == sk && !k.fromFe && caskBusy c != some k
  let s1 := setCluster s cl { c with cask := c.cask.filter fun k => !gone.contains k }
  gone.foldl (fun s k => leaveAll (dropOwed s k) k) s1

/-- The copies and gathers of a tile's restarting stream that have not started are dropped (R334, R340). -/
def releaseEngines (s : State) (tile : Nat) (sk : Strm) : State :=
  let own (k : Cmd) : Bool := k.tile == tile && k.strm == sk && !k.fromFe
  let gone := s.dies.flatMap fun p => (p.2.copyq ++ p.2.gatherq).filter own
  let s1 := { s with dies := s.dies.map fun p =>
    (p.1, { p.2 with copyq := p.2.copyq.filter (fun k => !own k), gatherq := p.2.gatherq.filter (fun k => !own k) }) }
  gone.foldl dropOwed s1

/-- A job ends: its entries are discarded and its claims released (R262, R280). -/
def releaseMatrix (s : State) (job cl : Nat) : State :=
  let c := clusterOf s cl
  let s1 := (c.chains.filter fun x => x.job == job).foldl (fun s x => releaseChain s cl x) s
  let c1 := clusterOf s1 cl
  setCluster s1 cl
    { c1 with slots := c1.slots.map fun p => if p.2.claim.isSome && p.2.job == job then (p.1, {}) else p
              taskq := c1.taskq.filter fun k => k.cmd.job != job }

/-- Whether the matrix work of a job in a cluster has come to rest (R291, R319): no dispatched task, no drain and no cask command in
progress of it. -/
def matrixRests (s : State) (job cl : Nat) : Bool :=
  let c := clusterOf s cl
  c.engines.all (fun p =>
    (p.2.inbox ++ p.2.run.toList.map (·.task)).all (fun k => k.cmd.job != job)
      && !p.2.drain.any (fun d => (c.chains.find? (drains d)).any fun x => x.job == job))
    && !(caskBusy c).any fun k => k.job == job

/-- The matrix state of a job in a cluster, for its save area (R291, R319). -/
def savedCluster (s : State) (job cl : Nat) : SavedCluster :=
  let c := clusterOf s cl
  let entry (x : Chain) : RingEntry := if x.placed then mget (engineOf c x.eng).ring x.ent {} else {}
  let placed := c.engines.flatMap fun p => p.2.alloc.filterMap fun n => entryChain c p.1 n
  { cluster := cl, tasks := c.taskq.filter fun k => k.cmd.job == job
    chains := ((placed ++ c.chains.filter fun x => !x.placed).filter fun x => x.job == job).map fun x => (x, entry x)
    slots := c.slots.filter fun p => p.2.claim.isSome && p.2.job == job
    cask := c.cask.filter fun k => k.job == job && !k.fromFe }

/-- The matrix state of a saved job leaves its cluster. -/
def dropCluster (s : State) (job cl : Nat) : State :=
  let s1 := releaseMatrix s job cl
  let c := clusterOf s1 cl
  setCluster s1 cl { c with cask := c.cask.filter fun k => !(k.job == job && !k.fromFe) }

/-- An engine that a job's entries may use: its ring holds no entry of another job (R273). -/
def eligible (c : Cluster) (job e : Nat) : Bool := c.chains.all fun x => !(x.placed && x.eng == e && x.job != job)

/-- allocated(e) of R273: the entries that are not FREE, with the NEW records that wait in the inbox. -/
def allocated (x : Engine) : Nat := x.alloc.length + (x.inbox.filter fun k => !mtCont k.cmd.tmpl).length

/-- The first eligible engine with a free entry. -/
def freeEngine (c : Cluster) (job : Nat) : Option Nat :=
  (List.range 16).find? fun e => eligible c job e && decide (allocated (engineOf c e) < 4)

/-- The entry at the head of an engine's ring: the next one, past those that entries freed out of their turn have left allocated. -/
def headEntry (x : Engine) : Nat := (((List.range 4).map fun i => (x.next + i) % 4).find? fun n => !x.alloc.contains n).getD x.next

/-- The entry at the head taken (R273, R280). -/
def takeEntry (x : Engine) (r : RingEntry) : Engine :=
  let n := headEntry x
  { x with alloc := x.alloc ++ [n], ring := mset x.ring n r, next := (n + 1) % 4 }

/-- A restored instance: an entry is allocated on an eligible engine, in the saved order (R291). -/
def restoreChain (c : Cluster) (x : Chain) (r : RingEntry) : Cluster :=
  if x.placed then
    match freeEngine c x.job with
    | none => { c with chains := c.chains ++ [{ x with placed := false }] }
    | some e =>
      let g := engineOf c e
      { c with chains := c.chains ++ [{ x with eng := e, ent := headEntry g }], engines := mset c.engines e (takeEntry g r) }
  else { c with chains := c.chains ++ [x] }

/-- Whether a cluster can take a saved job's matrix state back (R291): a free entry for each chain, its own slots, which no other job
holds, and places for its records in the queue. -/
def canRestore (s : State) (v : SavedCluster) : Bool :=
  let c := clusterOf s v.cluster
  let job := (v.chains.head?.map (·.1.job)).getD 0
  let room := (List.range 16).foldl (fun n e => if eligible c job e then n + (4 - allocated (engineOf c e)) else n) 0
  decide ((v.chains.filter fun p => p.1.placed).length ≤ room) && decide (v.tasks.length + c.taskq.length ≤ 256)
    && v.slots.all fun p => (opSlotOf s v.cluster p.1).claim.isNone

/-- Cask commands accepted again ahead of any new one, behind the one in progress (R313, R319). -/
def casksAgain (c : Cluster) (ks : List Cmd) : Cluster :=
  let n := if c.caskBegun then 1 else 0
  { c with cask := c.cask.take n ++ ks ++ c.cask.drop n }

/-- Restoration of a job's matrix state in its cluster (R291): the records come ahead of any new command. -/
def restoreCluster (s : State) (v : SavedCluster) : State :=
  let c := v.chains.foldl (fun c p => restoreChain c p.1 p.2) (clusterOf s v.cluster)
  let c1 := { casksAgain c v.cask with
    taskq := v.tasks ++ c.taskq, slots := v.slots.foldl (fun m p => mset m p.1 p.2) c.slots }
  sweepChains (setCluster s v.cluster c1) v.cluster

end Sys2Proof.Machine
end

