-- ==== Sys2Proof/Machine/ArrayRun.lean ====
section
/-! DEFINITION. What runs in a region: operator groups (R237 to R241), reducer runs (R249), and converter stages (R112 to
R117). -/

namespace Sys2Proof.Machine

def regionAt (s : State) (tile n : Nat) : Region := mget (tileOf s tile).regions n {}

/-! FIFOs by code (R234). -/

/-- The items of the FIFO that a code names, as a source of region r. -/
def srcItems (t : Tile) (r : Region) (code : Nat) : List Item :=
  if 0x40 ≤ code then (mget r.convs (code - 0x40) {}).pipe
  else if 0x20 ≤ code then (chOf t (code - 0x20)).items
  else (ipOf t (code - 0x10)).items

/-- A FIFO's items replaced, in the tile and the region that hold them. -/
def putSrc (t : Tile) (r : Region) (code : Nat) (xs : List Item) : Tile × Region :=
  if 0x40 ≤ code then
    let c := mget r.convs (code - 0x40) {}
    (t, { r with convs := mset r.convs (code - 0x40) { c with pipe := xs } })
  else if 0x20 ≤ code then (setCh t (code - 0x20) { chOf t (code - 0x20) with items := xs }, r)
  else (setIp t (code - 0x10) { ipOf t (code - 0x10) with items := xs }, r)

/-- Whether the destination that a code names has n free places. A port's places are 4, a channel's 4, a converter's FIFO's
4 (R226, R234). -/
def dstRoom (t : Tile) (r : Region) (code n : Nat) : Bool :=
  if 0x40 ≤ code then decide (places (mget r.convs (code - 0x40) {}).pipe + n ≤ 4)
  else if 0x20 ≤ code then decide (places (chOf t (code - 0x20)).items + n ≤ 4)
  else decide (places (opOf t (code - 0x10)).items + n ≤ 4)

/-- An item sent to a destination. A snapshot marker that reaches an output port is absorbed there (R259). -/
def putDst (t : Tile) (r : Region) (code : Nat) (x : Item) : Tile × Region :=
  if 0x40 ≤ code then
    let c := mget r.convs (code - 0x40) {}
    (t, { r with convs := mset r.convs (code - 0x40) { c with pipe := c.pipe ++ [x] } })
  else if 0x20 ≤ code then (setCh t (code - 0x20) (pushItem (chOf t (code - 0x20)) x), r)
  else if x = .snap then (t, r)
  else (setOp t (code - 0x10) (pushItem (opOf t (code - 0x10)) x), r)

/-- An item sent to several destinations. -/
def putAll (t : Tile) (r : Region) (codes : List Nat) (x : Item) : Tile × Region :=
  codes.foldl (fun (p : Tile × Region) c => putDst p.1 p.2 c x) (t, r)

/-- Whether a region's groups and converters act: it runs, or is racked or frozen after it ran (R251, R255, R259). -/
def regionActs (r : Region) : Bool :=
  r.state == .running || ((r.state == .racking || r.state == .freezing) && r.wasRunning)

/-- Whether an item may be taken from a source: a racking region takes nothing more from its input ports (R255). -/
def mayTake (r : Region) (code : Nat) : Bool := r.state != .racking || decide (0x20 ≤ code)

/-- The next item of a source, where the region may take it. -/
def nextItem (t : Tile) (r : Region) (code : Nat) : Option Item :=
  if mayTake r code then (srcItems t r code).head? else none

/-- The head of a source taken. -/
def dropSrc (t : Tile) (r : Region) (code : Nat) : Tile × Region := putSrc t r code ((srcItems t r code).drop 1)

/-! Firing (R238, R239). -/

/-- The word that an input offers to a firing: a held word, or a data word at the head of its FIFO. -/
def inputWord (t : Tile) (r : Region) (g : GroupSt) (code : Nat) : Option Line :=
  match mget? g.held code with
  | some (w, _) => some w
  | none =>
    match nextItem t r code with
    | some (.word w) => some w
    | _ => none

/-- An input after a firing: a held word serves one firing less, and a word taken from the FIFO is held when its sticky
count asks for it (R239). -/
def spendInput (t : Tile) (r : Region) (g : GroupSt) (p : Nat × Nat) : Tile × Region × GroupSt :=
  match mget? g.held p.1 with
  | some (_, none) => (t, r, g)
  | some (w, some n) => (t, r, { g with held := if n ≤ 1 then mdel g.held p.1 else mset g.held p.1 (w, some (n - 1)) })
  | none =>
    match nextItem t r p.1 with
    | some (.word w) =>
      let (t1, r1) := dropSrc t r p.1
      let keep := if p.2 = 15 then mset g.held p.1 (w, none) else if p.2 = 0 then g.held else mset g.held p.1 (w, some p.2)
      (t1, r1, { g with held := keep })
    | _ => (t, r, g)

/-- The rounding mode of a stage (R235). -/
def stageRm (g : GroupSt) (w : Word) : Nat := if swRm w ≠ 0 then swRm w else (g.marker.map (·.rm.toNat)).getD 1

/-- The lanes that a source field gives (R234). -/
def laneSrc (inp : Nat → List Nat) (x : StageRef) (prev q : List Nat) (code : Nat) : List Nat :=
  match code with
  | 0 => List.replicate 16 0
  | 1 => if x.j = 0 then inp (pipeCode x.v) else prev
  | 2 => q
  | 3 => List.replicate 16 (swImmVal x.w)
  | 4 => List.range 16
  | _ => inp code

def laneList (w : Line) : List Nat := (lanes w).map (·.toNat)
def lineOfLanes (l : List Nat) : Line := ofLanes (l.map (BitVec.ofNat 32))

/-- The stages of a firing in order: the q values they leave, and the words they send out (R234, R238). -/
def runStages (tile : Nat) (key : Word) (g : GroupSt) (inp : Nat → List Nat) :
    List StageRef → List Nat → FMap Line → List (Nat × Line) → FMap Line × List (Nat × Line)
  | [], _, q, outs => (q, outs)
  | x :: xs, prev, q, outs =>
    let old := laneList (mget g.q x.j 0)
    let src := laneSrc inp x prev old
    let sr : SrCtx := { c0 := g.fires % 2 ^ 32, c3 := stageC3 tile x.v x.j, key := key }
    let res := wordOp x.w (stageRm g x.w) sr (src (swA x.w)) (src (swB x.w)) (src (swC x.w))
    let line := lineOfLanes res
    runStages tile key g inp xs res (mset q x.j line) (if swOut x.w = 0 then outs else outs ++ [(swOut x.w, line)])

/-- The generator context of a reducer's stage (R430). -/
def redSr (tile : Nat) (key : Word) (x : StageRef) (fires : Nat) : SrCtx :=
  { c0 := fires % 2 ^ 32, c3 := stageC3 tile x.v x.j, key := key }

/-- The result of a reducer's run (R249). -/
def reduceRun (tile : Nat) (key : Word) (g : GroupSt) (x : StageRef) (fires : Nat) (ws : List Line) : Line :=
  let mod := swMod x.w
  let sr := redSr tile key x fires
  let v := runTree (swOp x.w) mod (stageRm g x.w) sr (swImm x.w % 16) (ws.map laneList)
  lineOfLanes (if 4 ≤ mod then crossLanes (swOp x.w) mod (stageRm g x.w) sr v else v)

/-- A firing of a reducer's group: one word is taken, and the last of a run sends the result (R249). -/
def fireReducer (tile : Nat) (key : Word) (t : Tile) (r : Region) (g : GroupSt) (x : StageRef) (p : Nat × Nat) :
    Option (Tile × Region × GroupSt) :=
  match inputWord t r g p.1 with
  | none => none
  | some w =>
    let run := g.run ++ [w]
    let last := 2 ^ (swImm x.w % 16) ≤ run.length
    if last ∧ !dstRoom t r (swOut x.w) 1 then none
    else
      let (t1, r1, g1) := spendInput t r g p
      if last then
        let (t2, r2) := putDst t1 r1 (swOut x.w) (.word (reduceRun tile key g x g.fires run))
        some (t2, r2, { g1 with run := [], fires := g.fires + 1 })
      else some (t1, r1, { g1 with run := run, fires := g.fires + 1 })

/-- A firing of a group of a COMPUTE region (R238). -/
def fireCompute (tile : Nat) (key : Word) (t : Tile) (r : Region) (g : GroupSt) (st : List StageRef) :
    Option (Tile × Region × GroupSt) :=
  let ins := groupInputs st
  let ready := ins.all fun p => (inputWord t r g p.1).isSome
  if ready && (groupOutputs st).all (fun c => dstRoom t r c 1) then
    let inp (code : Nat) : List Nat := laneList ((inputWord t r g code).getD 0)
    let (q, outs) := runStages tile key g inp st [] g.q []
    let (t1, r1, g1) := ins.foldl (fun (a : Tile × Region × GroupSt) p => spendInput a.1 a.2.1 a.2.2 p) (t, r, g)
    let (t2, r2) := outs.foldl (fun (a : Tile × Region) o => putDst a.1 a.2 o.1 (.word o.2)) (t1, r1)
    some (t2, r2, { g1 with q := q, fires := g.fires + 1 })
  else none

/-- Whether a group is aligned in a kiln wave and lets nothing more through (R259). -/
def groupAligned (r : Region) (n : Nat) : Bool := r.aligned.contains n
def convAligned (r : Region) (v : Nat) : Bool := r.aligned.contains (16 + v)

/-- A firing of a group, where it may fire. -/
def fireGroup (s : State) (tile n g : Nat) : Option State :=
  let t := tileOf s tile
  let r := regionAt s tile n
  let st := groupStages r.cellRecs g
  let x := mget r.groups g {}
  if st.isEmpty || !regionActs r || groupAligned r g then none
  else
    let key := srKey s tile
    let res :=
      if r.typ = .reducer then
        match st, groupInputs st with
        | sr :: _, p :: _ => fireReducer tile key t r x sr p
        | _, _ => none
      else fireCompute tile key t r x st
    res.map fun (t1, r1, x1) => setTile s tile { t1 with regions := mset t1.regions n { r1 with groups := mset r1.groups g x1 } }

/-- A format marker at the head of an input whose turn has come (R240): taken and forwarded on the first input, dropped on
another. -/
def takeMarker (s : State) (tile n g i : Nat) : Option State :=
  let t := tileOf s tile
  let r := regionAt s tile n
  let st := groupStages r.cellRecs g
  let x := mget r.groups g {}
  match (groupInputs st)[i]? with
  | none => none
  | some p =>
    if !regionActs r || groupAligned r g || (mget? x.held p.1).isSome then none
    else
      match nextItem t r p.1 with
      | some (.marker m) =>
        let (t1, r1) := dropSrc t r p.1
        if i = 0 then
          if (groupOutputs st).all (fun c => dstRoom t r c 1) then
            let (t2, r2) := putAll t1 r1 (groupOutputs st) (.marker m)
            let x1 := { x with marker := some m }
            some (setTile s tile { t2 with regions := mset t2.regions n { r2 with groups := mset r2.groups g x1 } })
          else none
        else some (setTile s tile { t1 with regions := mset t1.regions n r1 })
      | _ => none

/-- End-of-stream tokens on every input with a sticky count below 15 (R241): taken together, with a reducer's partial run
first (R249). DESIGN CHOICE (assumption 133): a token behind a word that is still held is not the next item of its input until the
word's firings are over. -/
def takeEos (s : State) (tile n g : Nat) : Option State :=
  let t := tileOf s tile
  let r := regionAt s tile n
  let st := groupStages r.cellRecs g
  let x := mget r.groups g {}
  let ins := (groupInputs st).filter fun p => p.2 != 15
  let outs := groupOutputs st
  let all := ins.all fun p => (mget? x.held p.1).isNone && nextItem t r p.1 == some .eos
  let extra := if x.run.isEmpty then 0 else 1
  if st.isEmpty || ins.isEmpty || !regionActs r || groupAligned r g || !all || !outs.all (fun c => dstRoom t r c (1 + extra))
  then none
  else
    let (t1, r1) := ins.foldl (fun (a : Tile × Region) p => dropSrc a.1 a.2 p.1) (t, r)
    let (t2, r2) :=
      match st with
      | sr :: _ =>
        if x.run.isEmpty then (t1, r1)
        else putAll t1 r1 outs (.word (reduceRun tile (srKey s tile) x sr (x.fires - 1) x.run))
      | [] => (t1, r1)
    let (t3, r3) := putAll t2 r2 outs .eos
    let keep := x.held.filter fun h => (groupInputs st).any fun p => p.1 == h.1 && p.2 == 15
    let x1 := { x with held := keep, run := [] }
    some (setTile s tile { t3 with regions := mset t3.regions n { r3 with groups := mset r3.groups g x1 } })

/-! Converters (R110 to R117). -/

/-- The marker in force in a converter: the reset entry, RNE and B = 0 where none has come (R112). -/
def convMarker (tile : Nat) (c : ConvSt) : Marker :=
  c.marker.getD { fte := 0x200111, rm := 1, srBase := 0, tile := tile, strm := .k }

/-- A format code resolved by the marker (R111). -/
def convFmt (m : Marker) (code sel : Nat) : Nat :=
  if code ≠ 15 then code else wf64 m.fte (4 * sel + 3) (4 * sel)

/-- The planes read of a BPI source (R112). -/
def convPlanes (m : Marker) (w : Word) : Nat :=
  if cwSp w ≠ 15 then cwSp w
  else if cwSfmt w ≠ 15 then 8
  else
    match cwSsel w with
    | 0 => wf64 m.fte 15 12
    | 1 => wf64 m.fte 19 16
    | _ => 8

def convHlsb (m : Marker) (w : Word) : Bool := cwHlsb w == 1 || (cwHlsb w == 2 && wf64 m.fte 20 20 == 1)
def convSat (m : Marker) (w : Word) : Bool := cwSatm w == 1 || (cwSatm w == 0 && wf64 m.fte 21 21 == 1)
def convRm (m : Marker) (w : Word) : Nat := if cwRm w ≠ 0 then cwRm w else m.rm.toNat

/-- Whether a marker resolves the fields of a converter word to values that it may use (R113). -/
def convResolves (m : Marker) (w : Word) : Bool :=
  let sf := convFmt m (cwSfmt w) (cwSsel w)
  let df := convFmt m (cwDfmt w) (cwDsel w)
  decide (sf ≤ 12) && (convFamily (swOp w)).contains df
    && (sf != 5 || (decide (2 ≤ convPlanes m w) && decide (convPlanes m w ≤ 8)))

/-- The random word of element n of a converter (R100, R112). -/
def convSr (key : Word) (m : Marker) (rm n : Nat) : Nat :=
  if rm = 5 then srWord n (wf64 m.srBase 31 0) (wf64 m.srBase 63 32) (0x02000000 + 4 * m.tile + sidx m.strm) key else 0

/-- The bytes of a list cut into elements. -/
def chunks (e : Nat) : Nat → List Byte → List Nat
  | 0, _ => []
  | n + 1, bs => leNat (bs.take e) :: chunks e n (bs.drop e)

/-- The values of the elements of source bytes: a BPI group with its scale pair, or elements of a plain format. -/
def convValues (m : Marker) (w : Word) (sf : Nat) (bs scales : List Byte) : List Val :=
  match sfOf sf with
  | some .bpi =>
    (List.range 64).map fun i =>
      bpiVal (convPlanes m w) (convHlsb m w) (bpiStored bs i) (scales.getD (i / 32) 0).toNat
  | some f => (chunks (sfBytes f) (bs.length / sfBytes f) bs).map (sfRead f)
  | none => []

/-- The plane bytes and the scale pair of 64 values (R116). -/
def convGroup (key : Word) (m : Marker) (rm n : Nat) (vs : List Val) : List Byte × List Byte :=
  let (s0, v0) := bpiHalf rm (fun i => convSr key m rm (n + i)) (vs.take 32)
  let (s1, v1) := bpiHalf rm (fun i => convSr key m rm (n + 32 + i)) (vs.drop 32)
  (bpiPlanes (v0 ++ v1), [BitVec.ofNat 8 s0, BitVec.ofNat 8 s1])

/-- Values converted to a plain format and packed (R102, R115). -/
def convBytes (key : Word) (m : Marker) (w : Word) (df : Nat) (n : Nat) (vs : List Val) : List Byte :=
  match sfOf df with
  | some f =>
    vs.zipIdx.flatMap fun (v, i) =>
      leBytes (sfBytes f) (sfWrite f (convSat m w) (convRm m w) (convSr key m (convRm m w) (n + i)) v)
  | none => []

/-- A BPI group of source bytes emitted by VCBPI (R116). -/
def emitGroup (key : Word) (m : Marker) (w : Word) (sf : Nat) (c : ConvSt) (bs scales : List Byte) (count : Nat) : ConvSt :=
  let (planes, pair) := convGroup key m (convRm m w) c.n (convValues m w sf bs scales)
  { c with out := c.out ++ planes, sout := c.sout ++ pair, n := c.n + count }

/-- One input word converted (R115, R116). -/
def convWord (key : Word) (tile : Nat) (w : Word) (c : ConvSt) (x : Line) : ConvSt :=
  let m := convMarker tile c
  let sf := convFmt m (cwSfmt w) (cwSsel w)
  let df := convFmt m (cwDfmt w) (cwDsel w)
  let bs := lineBytes x
  let c1 := { c with words := c.words + 1 }
  if swOp w = 0 then { c1 with out := c.out ++ bs }
  else if df = 5 then
    if sf = 5 then { emitGroup key m w sf c1 bs c.scales 64 with scales := c.scales.drop 2 }
    else
      let size := 64 * ((sfOf sf).map sfBytes).getD 1
      let el := c.elems ++ bs
      if size ≤ el.length then { emitGroup key m w sf c1 (el.take size) [] 64 with elems := el.drop size }
      else { c1 with elems := el }
  else
    let vs := convValues m w sf bs c.scales
    let c2 := if sf = 5 then { c1 with scales := c.scales.drop 2 } else c1
    { c2 with out := c.out ++ convBytes key m w df c.n vs, n := c.n + vs.length }

/-- Bytes completed with zeros to a whole word. -/
def padWord (bs : List Byte) : List Byte := bs ++ List.replicate ((64 - bs.length % 64) % 64) 0

/-- Before a marker or a token passes, a partial group and partial words are completed with zero elements (R115, R116). DESIGN CHOICE
(assumption 30): for later words that no marker precedes, the zero elements of a completed group count in n, and those that complete
a plain word do not. -/
def convFlush (key : Word) (tile : Nat) (w : Word) (c : ConvSt) : ConvSt :=
  let m := convMarker tile c
  let sf := convFmt m (cwSfmt w) (cwSsel w)
  let size := 64 * ((sfOf sf).map sfBytes).getD 1
  let c1 :=
    if c.elems.isEmpty then c
    else { emitGroup key m w sf c (c.elems ++ List.replicate (size - c.elems.length) 0) [] 64 with elems := [] }
  { c1 with out := padWord c1.out, sout := padWord c1.sout, scales := [] }

/-- Whether a converter still has something to complete before a marker or a token passes. -/
def convPartial (c : ConvSt) : Bool := !(c.elems.isEmpty && c.out.isEmpty && c.sout.isEmpty)

/-- A converter of a region and its FIFOs replaced. -/
def putConv (s : State) (tile n v : Nat) (t : Tile) (r : Region) (c : ConvSt) : State :=
  let keep := (mget r.convs v {}).pipe
  setTile s tile { t with regions := mset t.regions n { r with convs := mset r.convs v { c with pipe := keep } } }

/-- A command that feeds ports, where it runs: in a slot, at a mesh port, or in a cask unit. -/
inductive Feeding where
  | slot (tile slot : Nat) (a : ActiveCmd)
  | sprv (tile port : Nat) (c : Cmd)
  | cask (cluster : Nat) (c : Cmd)

/-- Where the command of a number runs that feeds ports. -/
def feedingOf (s : State) (id : Nat) : Option Feeding :=
  let slots := s.tiles.flatMap fun p => p.2.slots.filterMap fun q => (q.2.active.filter fun a => a.cmd.id == id).map (Feeding.slot p.1 q.1)
  let ports := s.tiles.flatMap fun p => p.2.mports.filterMap fun q => (q.2.sprv.head?.filter fun c => c.id == id).map (Feeding.sprv p.1 q.1)
  let casks := s.clusters.filterMap fun p =>
    (p.2.cask.head?.filter fun c => c.id == id && p.2.caskBegun).map (Feeding.cask p.1)
  (slots ++ ports ++ casks).head?

/-- Whether a command's words go out behind no marker of its own: those of SREC and SPRV (R112). -/
def unmarked : Feeding → Bool
  | .slot _ _ a => cmdSub a.cmd == 4
  | .sprv _ _ _ => true
  | .cask _ _ => false

/-- The command that feeds a converter the word that its marker rejects (R113, R222): the one that sent the marker, as long as it runs,
else the SREC or SPRV that feeds the port now. -/
def rejectedFeed (s : State) (tile code : Nat) (m : Marker) : Option Feeding :=
  (feedingOf s m.cmd).or
    (if 0x10 ≤ code ∧ code < 0x20 then
      (((ipOf (tileOf s tile) (code - 0x10)).feeders.head?).bind (feedingOf s)).filter unmarked
    else none)

/-- The end of a feeding command with STATUS CONFIG and its progress, with no record of its own (R222). A replay's progress is the
words that it has delivered (assumption 134). -/
def endRejected (s : State) : Feeding → State
  | .slot t n a => failActive s t n a (causeByte .config) (actProg a)
  | .sprv t n c => endSprv s t n c (causeByte .config)
  | .cask cl c => endCask s cl c (causeByte .config) ((clusterOf s cl).caskSent - 1)

/-- A converter rejects its marker (R113): the region becomes FAULTED, its record is offered, and the feeding command ends (R222). -/
def convReject (s : State) (tile n v : Nat) : State :=
  let r := regionAt s tile n
  let w := cellWord r.cellRecs v 0
  let c := mget r.convs v {}
  let s1 := setRegion s tile n { r with state := .faulted, fcell := v }
  let o : Offer :=
    { offerFor s1 tile .k .config 9 with unit := n, detail := BitVec.ofNat 64 v, prog := BitVec.ofNat 64 c.words }
  let s2 := offer s1 o
  match rejectedFeed s2 tile (swA w) (convMarker tile c) with
  | some f => endRejected s2 f
  | none => s2

/-- Whether the next item of a converter's secondary input is a marker or a token: it is dropped as soon as it is next (R240). That a
token is treated as a marker is a DESIGN CHOICE (assumption 30). -/
def sideMark (t : Tile) (r : Region) (w : Word) : Bool :=
  decide (0x10 ≤ swB w) &&
    match nextItem t r (swB w) with
    | some (.marker _) => true
    | some .eos => true
    | _ => false

/-- The next item of a converter's primary input handled (R115, R240, R241). A word of a BPI source waits for its scales; where the
secondary input is the code zero they are 0 (R234). -/
def convTake (s : State) (tile n v : Nat) : Option State :=
  let t := tileOf s tile
  let r := regionAt s tile n
  let w := cellWord r.cellRecs v 0
  let c := mget r.convs v {}
  let prim := if swOut w = 0 then pipeCode v else swOut w
  let outs := prim :: (if swC w = 0 then [] else [swC w])
  match nextItem t r (swA w) with
  | some (.word x) =>
    let m := convMarker tile c
    if swOp w ≠ 0 ∧ !convResolves m w then some (convReject s tile n v)
    else if swOp w ≠ 0 ∧ convFmt m (cwSfmt w) (cwSsel w) = 5 ∧ c.scales.isEmpty ∧ 0x10 ≤ swB w then
      match nextItem t r (swB w) with
      | some (.word y) =>
        let (t1, r1) := dropSrc t r (swB w)
        some (putConv s tile n v t1 r1 { c with scales := lineBytes y })
      | _ => none
    else
      let (t1, r1) := dropSrc t r (swA w)
      some (putConv s tile n v t1 r1 (convWord (srKey s tile) tile w c x))
  | some (.marker m) =>
    if convPartial c then some (putConv s tile n v t r (convFlush (srKey s tile) tile w c))
    else if outs.all (fun o => dstRoom t r o 1) then
      let (t1, r1) := dropSrc t r (swA w)
      let (t2, r2) := putAll t1 r1 outs (.marker m)
      some (putConv s tile n v t2 r2 { c with marker := some m, n := 0, words := 0, scales := [] })
    else none
  | some .eos =>
    if convPartial c then some (putConv s tile n v t r (convFlush (srKey s tile) tile w c))
    else if outs.all (fun o => dstRoom t r o 1) then
      let (t1, r1) := dropSrc t r (swA w)
      let (t2, r2) := putAll t1 r1 outs .eos
      some (putConv s tile n v t2 r2 { c with scales := [] })
    else none
  | _ => none

/-- One step of a converter: a marker of the secondary input is dropped, a finished word leaves, or the next item of its primary input
is handled (R115, R240, R241). The sticky counts of a converter word have no effect and no check: DESIGN CHOICE (assumption 135). -/
def convStep (s : State) (tile n v : Nat) : Option State :=
  let t := tileOf s tile
  let r := regionAt s tile n
  let w := cellWord r.cellRecs v 0
  let c := mget r.convs v {}
  let prim := if swOut w = 0 then pipeCode v else swOut w
  if w = 0 ∨ !regionActs r ∨ convAligned r v then none
  else if sideMark t r w then
    let (t1, r1) := dropSrc t r (swB w)
    some (putConv s tile n v t1 r1 c)
  else if 64 ≤ c.out.length then
    if dstRoom t r prim 1 then
      let (t1, r1) := putDst t r prim (.word (lineOfBytes (c.out.take 64)))
      some (putConv s tile n v t1 r1 { c with out := c.out.drop 64 })
    else none
  else if 64 ≤ c.sout.length then
    if swC w = 0 then some (putConv s tile n v t r { c with sout := c.sout.drop 64 })
    else if dstRoom t r (swC w) 1 then
      let (t1, r1) := putDst t r (swC w) (.word (lineOfBytes (c.sout.take 64)))
      some (putConv s tile n v t1 r1 { c with sout := c.sout.drop 64 })
    else none
  else convTake s tile n v

/-! Quiescence (R255). -/

/-- Whether anything of a region can still act. -/
def regionCanAct (s : State) (tile n : Nat) : Bool :=
  let r := regionAt s tile n
  ((groupsUsed r.cellRecs).any fun g =>
      (fireGroup s tile n g).isSome || (takeEos s tile n g).isSome
        || (List.range (groupInputs (groupStages r.cellRecs g)).length).any fun i => (takeMarker s tile n g i).isSome)
    || (convCells r.cellRecs).any fun v => (convStep s tile n v).isSome

/-- The conditions under which the settle tree reports a region quiescent (R255). -/
def quiescent (s : State) (tile n : Nat) : Bool :=
  let t := tileOf s tile
  let r := regionAt s tile n
  !regionCanAct s tile n
    && (maskBits 16 r.oports.toNat).all (fun p => places (opOf t p).items == 0)
    && (r.typ != .ag || ((maskBits 16 r.slots.toNat).all (fun k => slotHeld (slotOf t k) == 0) && r.sections.isEmpty))

end Sys2Proof.Machine
end

