-- ==== Sys2Proof/Machine/Ready.lean ====
section
/-! DEFINITION. What an instruction needs before it issues (R29, R45 to R60), and which stream's instruction the configuration unit of a
tile takes (R253). -/

namespace Sys2Proof.Machine

/-- What an instruction needs before it issues (R29): tokens from the left and from the right, source registers with their trap bits,
and a destination. -/
structure Needs where
  left : Nat := 0
  right : Nat := 0
  srcs : List (BitVec 5 × Bool) := []
  dst : Option (BitVec 5) := none
  deriving DecidableEq, Repr

/-- The tokens of a token field (R45), with registers. -/
def needTk (tk : BitVec 4) (srcs : List (BitVec 5 × Bool)) (dst : Option (BitVec 5)) : Needs :=
  { left := if tkWL tk then 1 else 0, right := if tkWR tk then 1 else 0, srcs := srcs, dst := dst }

/-- The needs of an instruction, by its form (R45 to R60). SEL, BINS, FFMA and ACAS also read their destination. The needs of PHD and
PIS lie in a template. -/
def needsOf (i : Instr) : Needs :=
  match i with
  | .add o | .sub o | .and o | .or o | .xor o | .andn o | .shl o | .shr o | .sar o | .rot o | .mul o | .mulh o | .mulhz o
  | .div o | .divz o | .rem o | .remz o | .min o | .max o | .minz o | .maxz o | .slt o | .sltz o | .seq o | .bext o | .addw o =>
    needTk o.tk [(o.a, o.ta), (o.b, o.tb)] o.d
  | .sel o | .bins o => needTk o.tk [(o.a, o.ta), (o.b, o.tb), (o.d, false)] o.d
  | .clz o | .popc o | .jli o => needTk o.tk [(o.a, o.ta)] o.d
  | .lea o | .leas o => needTk o.tk [(o.a, o.ta), (o.b, o.tb)] o.d
  | .ji o => needTk o.tk [(o.a, o.ta)] none
  | .fadd o | .fsub o | .fmul o | .fmin o | .fmax o | .fcmp o => needTk o.tk [(o.a, o.ta), (o.b, o.tb)] o.d
  | .ffma o => needTk o.tk [(o.a, o.ta), (o.b, o.tb), (o.d, false)] o.d
  | .fabs o | .fneg o | .frcp o | .frsq o => needTk o.tk [(o.a, o.ta)] o.d
  | .fcvt o => needTk o.tk [(o.a, o.ta)] o.d
  | .addi o | .andi o | .ori o | .xori o | .slti o => needTk o.tk [(o.a, o.ta)] o.d
  | .shli o | .shri o | .sari o => needTk o.tk [(o.a, o.ta)] o.d
  | .ldb o | .ldbz o | .ldh o | .ldhz o | .ldw o | .ldwz o | .ldd o => needTk o.tk [(o.base, false)] o.r
  | .stb o | .sth o | .stw o | .std o => needTk o.tk [(o.base, false), (o.r, false)] none
  | .lih o => needTk o.tk [] o.d
  | .beq o | .bne o | .blt o | .bge o | .blo o | .bhs o => needTk o.tk [(o.a, o.ta), (o.b, o.tb)] none
  | .j o => needTk o.tk [] none
  | .jl o => needTk o.tk [] (some 15)
  | .loop o => needTk o.tk [(o.a, false)] none
  | .brloop o => needTk o.tk [] none
  | .qpop o | .qpeek o => needTk o.tk [] o.d
  | .qpush o => needTk o.tk [(o.b, false)] none
  | .qcnt o => needTk o.tk [] o.d
  | .tkw o =>
    let x := needTk o.tk [] none
    if o.right then { x with right := x.right + o.n1.toNat + 1 } else { x with left := x.left + o.n1.toNat + 1 }
  | .tks o => needTk o.tk [] none
  | .rdvz o => needTk o.tk [] none
  | .phase o => needTk o.tk [] none
  | .fencx o => needTk o.tk [] none
  | .waitw o => needTk o.tk [(o.a, false), (o.b, false)] o.d
  | .hgive o | .orel o | .epil o | .cfgld o | .thaw o | .gset o | .tbld o | .tbsv o => needTk o.tk [(o.a, false), (o.b, false)] none
  | .htake o | .hqry o | .oclm o | .taskw o | .rqry o | .cfgq o => needTk o.tk [(o.a, false)] o.d
  | .aadd o | .amin o | .amax o | .aminz o | .amaxz o | .aand o | .aor o | .axor o | .axch o =>
    needTk o.tk [(o.a, false), (o.b, false)] o.d
  | .acas o => needTk o.tk [(o.a, false), (o.b, false), (o.d, false)] o.d
  | .ared o => needTk o.tk [(o.a, false), (o.b, false)] none
  | .sleep o => needTk o.tk [] none
  | .eret o | .halt o | .yld o => needTk o.tk [] none
  | .ssrd o => needTk o.tk [] o.r
  | .sswr o => needTk o.tk [(o.r, false)] none
  | .tlbi o => needTk o.tk [(o.a, false)] none
  | .ireg o => needTk o.tk [(o.a, false)] none
  | .rrbs o => needTk o.tk [] none
  | .rbind o => needTk o.tk [(o.a, false), (o.b, false)] o.d
  | .rcnt o => needTk o.tk [(o.a, false)] o.d
  | .accd o | .rfree o | .rinv o | .rack o | .kiln o | .rgo o | .garm o | .sigh o => needTk o.tk [(o.a, false)] none
  | .emit o => needTk o.tk [(o.a, false), (o.b, false)] none
  | .trap o | .brk o => needTk o.tk [] none
  | _ => {}

/-- A source register is no reason to wait: it is full with nothing to land, or its emptiness traps (R120). -/
def srcReady (st : Stream) (x : BitVec 5 × Bool) : Bool :=
  let p := physReg st x.1
  p == 0 || (if (regAt st p).full then !landPending st p else x.2)

/-- Whether the tokens, sources and destination of an instruction are there (R29). -/
def needsHeld (st : Stream) (n : Needs) : Bool :=
  decide (n.left ≤ st.fromLeft) && decide (n.right ≤ st.fromRight) && n.srcs.all (srcReady st)
    && n.dst.all fun d => (destReady st d matches .ok _)

/-- The instruction at ss.pc of a stream, as its last PHASE has made it certain; none where the word cannot be fetched or decodes to
nothing (R41, R43). -/
def nextInstr (s : State) (t : Nat) (sk : Strm) : Option Instr :=
  let st := strmAt s t sk
  if (fetchCause s t st.pc).isSome then none else (decodeBytes (bytesOfWord ((fetchVersions s t sk).headD 0))).map (·.1)

/-- Whether an instruction is one that the configuration unit serves (R253). -/
def usesCfg (i : Instr) : Bool :=
  match i with
  | .cfgld _ | .rack _ | .kiln _ | .thaw _ | .rgo _ => true
  | _ => false

/-- Whether a stream could issue an instruction of the configuration unit, were the unit free (R29, R253). -/
def cfgWaits (s : State) (t : Nat) (sk : Strm) : Bool :=
  canIssue (strmAt s t sk) && (nextInstr s t sk).any fun i => usesCfg i && needsHeld (strmAt s t sk) (needsOf i)

/-- The streams that come before one in the order K, L, C, W (R253). -/
def strmsBefore : Strm → List Strm
  | .k => []
  | .l => [.k]
  | .c => [.k, .l]
  | .w => [.k, .l, .c]

/-- Whether the configuration unit takes an instruction of a stream (R253): it serves no other, and no stream before this one could
issue such an instruction. -/
def cfgTakes (s : State) (t : Nat) (sk : Strm) : Bool := (tileOf s t).cfg.isNone && !(strmsBefore sk).any (cfgWaits s t)

end Sys2Proof.Machine
end

