-- ==== Sys2Proof/Machine/Array.lean ====
section
/-! DEFINITION. The array rows of the opcode table: CFGLD, CFGQ, RACK, RGO, KILN and THAW, the firings of groups and
converters, racking and kiln waves (R237 to R261, R393). -/

namespace Sys2Proof.Machine

/-! Images in near space (R253, R254). -/

/-- The whole words of a list of bytes. -/
def allWords (bs : List Byte) : List Word := wordsOf (bs.length / 8) bs

/-- The image read of CFGLD and THAW: ALIGN, ACCESS_PATH, then the near-access traps of the header and of the whole. -/
def readImage (s : State) (a : Word) : Chk (List Word) := do
  need (wf64 a 5 0 == 0) .align a
  need (nearSel a == 1 || nearSel a == 2 || nearSel a == 3) .accessPath a
  let hdr ← nearSpan s a 64
  let size := wf64 ((allWords hdr).getD 0 0) 31 16
  let bs ← nearSpan s a (64 * max size 1)
  .ok (allWords bs)

/-- The members of release sequences that the read of an image obtains (R182, R254). -/
def imageSeen (s : State) (a : Word) : List SeqHead :=
  match readImage s a with
  | .ok ws => spanSeen s a (8 * ws.length)
  | .error _ => []

/-- A check of R250 that fails as a CONFIG trap. -/
def cfgNeed (f : Option CfgFail) : Chk Unit :=
  match f with
  | none => .ok ()
  | some x => .error (.trap .config (cfgTval x))

/-- The regions that a mask names. -/
def maskOf (b : Word) : List Nat := maskBits 8 (wf64 b 7 0)

/-- Bits [63:8] of a mask register are zero (R253). -/
def maskClean (b : Word) : Chk Unit := cfgNeed (if wf64 b 63 8 = 0 then none else some { sub := 10 })

/-- The records of an image that a mask selects, checked (R250): header, then records. -/
def checkedRecs (kiln : Bool) (ws : List Word) (mask : List Nat) : Chk (List RecImg) :=
  match imageRecs kiln ws with
  | none => .error (.trap .config (cfgTval { sub := 1 }))
  | some recs => do
    cfgNeed (chkMasked recs mask)
    .ok (recs.filter fun r => mask.contains (rhNum r))

/-! The configuration unit (R252 to R255). -/

/-- The unit's instruction in service, where it is the current stream's. -/
def myCfg (s : State) : Option CfgUnit :=
  match (tileOf s s.curTile).cfg with
  | some u => if u.strm = s.curStrm then some u else none
  | none => none

/-- The unit takes an instruction only when it serves no other, and in the order of the streams (R253). -/
def cfgFree (s : State) : Chk Unit := waitFor (cfgTakes s s.curTile s.curStrm)

/-- The channels of a region emptied. -/
def emptyChans (t : Tile) (r : Region) : Tile :=
  { t with chs := t.chs.map fun (i, f) => if r.chans.getLsbD i then (i, { f with items := [] }) else (i, f) }

/-- The dirty ranges of the slots of a region begin anew when it is configured (R210). -/
def clearRanges (t : Tile) (r : Region) : Tile :=
  { t with slots := t.slots.map fun (i, x) => if r.slots.getLsbD i then (i, { x with range := none }) else (i, x) }

/-- A region put in place of what a region number held: the old channels are emptied (R254). DESIGN CHOICE (assumption 154): KTO goes
with the region that it was set for. -/
def placeRegion (t : Tile) (p : Nat × Region) : Tile :=
  let t1 := clearRanges (emptyChans t (mget t.regions p.1 {})) p.2
  { t1 with regions := mset t1.regions p.1 p.2 }

/-- A region set racking, with whether it ran (R255). -/
def startRack (t : Tile) (n : Nat) : Tile :=
  let r := mget t.regions n {}
  { t with regions := mset t.regions n { r with state := .racking, wasRunning := r.state == .running } }

/-- The regions of a mask that must be racked first (R252). -/
def toRack (t : Tile) (mask : List Nat) : List Nat :=
  mask.filter fun n =>
    let st := (mget t.regions n {}).state
    st == .stopped || st == .running

/-- The commands that the slots of a region hold, each once: an SBAR stands in several (R208). -/
def regionCmds (s : State) (tile : Nat) (r : Region) : List Cmd :=
  ((maskBits 16 r.slots.toNat).flatMap fun n => slotCmds (slotAt s tile n)).eraseDups

/-- The commands of a region's slots leave their ports, and its SBARs every queue, but for those to be kept; the slots are emptied. -/
def dropSlots (s : State) (tile : Nat) (r : Region) (keep : List Nat := []) : State :=
  let leave (s : State) (c : Cmd) : State := leaveAll (if cmdSub c = 8 then dropBarrier s tile c.id else s) c
  (maskBits 16 r.slots.toNat).foldl (fun s n =>
    putSlot s tile n { slotAt s tile n with active := none, pending := [], halt := none })
    (((regionCmds s tile r).filter fun c => !keep.contains c.id).foldl leave s)

/-- The contents of a FROZEN or FAULTED region discarded (R252). The commands that its slots held get no reply (assumption 136).
DESIGN CHOICE (assumption 164): what its output ports hold stays there. -/
def discardHeld (s : State) (tile n : Nat) : State :=
  let r := regionAt s tile n
  if r.state = .frozen ∨ r.state = .faulted then dropSlots s tile r else s

/-- A region becomes UNCONFIGURED and releases what it held (R252, R255). -/
def releaseRegion (s : State) (tile n : Nat) : State :=
  let s1 := discardHeld s tile n
  setTile s1 tile (placeRegion (tileOf s1 tile) (n, {}))

/-- The instruction in service retires: the unit is free again. -/
def cfgRetire (s : State) (tk : BitVec 4) : State :=
  let x := tileOf s s.curTile
  let s1 := setTile s s.curTile { x with cfg := none }
  retire (setCur s1 (popBits (cur s1) tk)) tk .seq

/-- CFGLD's replacement (R254): the contents of a FAULTED region are discarded first. -/
def cfgReplace (s : State) (new : FMap Region) (tk : BitVec 4) : State :=
  let s1 := new.foldl (fun s p => discardHeld s s.curTile p.1) s
  cfgRetire (setTile s1 s.curTile (new.foldl placeRegion (tileOf s1 s.curTile))) tk

/-- The configured regions with the idempotence record of the loading stream (R254). -/
def withIdem (s : State) (r : Region) : Region :=
  match inIdem s s.curTile s.curStrm (cur s).pc.toNat with
  | some first => { r with idem := true, span := first, spanStrm := s.curStrm }
  | none => { r with idem := false, spanStrm := s.curStrm }

/-- The regions that a CFGLD will put in place, after every check (R254). -/
def cfgldRegions (s : State) (a b : Word) : Chk (FMap Region) := do
  let ws ← readImage s a
  maskClean b
  let recs ← checkedRecs false ws (maskOf b)
  let new : FMap Region := recs.map fun r => (rhNum r, withIdem s (regionOf r))
  cfgNeed (chkStates (tileOf s s.curTile) new (fun st => st == .frozen) (maskOf b))
  .ok new

/-- CFGLD (R254): regions that are STOPPED or RUNNING are racked first, while the stream waits at the instruction. -/
def execCfgld (o : FormAB) (s : State) : Out :=
  issue s do
    let st := cur s
    match myCfg s with
    | some u =>
      waitFor (u.settle.all u.settled.contains)
      .ok (cfgReplace (noteCur s u.seen) u.image o.tk)
    | none =>
      let a ← readSrc st o.a false
      let b ← readSrc st o.b false
      tokensReady st o.tk
      cfgFree s
      if b = 0 then .ok (retire (setCur s (popBits st o.tk)) o.tk .seq)
      else
        let new ← cfgldRegions s a b
        let t := tileOf s s.curTile
        let rk := toRack t (maskOf b)
        if rk.isEmpty then .ok (cfgReplace (noteCur s (imageSeen s a)) new o.tk)
        else
          let u : CfgUnit := { strm := s.curStrm, settle := rk, image := new, seen := imageSeen s a }
          .ok (setTile s s.curTile { rk.foldl startRack t with cfg := some u })

/-- The regions of RACK released, once all of them have settled (R253, R255). -/
def rackRelease (s : State) (mask : List Nat) (tk : BitVec 4) : State :=
  cfgRetire (mask.foldl (fun s n => releaseRegion s s.curTile n) s) tk

/-- RACK (R255). -/
def execRack (o : FormA) (s : State) : Out :=
  issue s do
    let st := cur s
    match myCfg s with
    | some u =>
      waitFor (u.settle.all u.settled.contains)
      .ok (rackRelease s u.release o.tk)
    | none =>
      let a ← readSrc st o.a false
      tokensReady st o.tk
      cfgFree s
      if a = 0 then .ok (retire (setCur s (popBits st o.tk)) o.tk .seq)
      else
        maskClean a
        let t := tileOf s s.curTile
        let rk := toRack t (maskOf a)
        if rk.isEmpty then .ok (rackRelease s (maskOf a) o.tk)
        else
          let u : CfgUnit := { strm := s.curStrm, settle := rk, release := maskOf a }
          .ok (setTile s s.curTile { rk.foldl startRack t with cfg := some u })

/-- The lowest region of a mask whose state satisfies a test, as a failure of sub-reason 10 (R250, R252). -/
def stateFail (t : Tile) (mask : List Nat) (bad : RegionState → Bool) : Option CfgFail :=
  (mask.find? fun n => bad (mget t.regions n {}).state).map fun n => { sub := 10, region := n }

/-- RGO (R256): every STOPPED region of the mask starts. -/
def execRgo (o : FormA) (s : State) : Out :=
  issue s do
    let st := cur s
    let a ← readSrc st o.a false
    tokensReady st o.tk
    cfgFree s
    if a = 0 then .ok (retire (setCur s (popBits st o.tk)) o.tk .seq)
    else
      maskClean a
      let t := tileOf s s.curTile
      cfgNeed (stateFail t (maskOf a) fun x => x == .unconfigured || x == .frozen || x == .faulted)
      let go (t : Tile) (n : Nat) : Tile :=
        let r := mget t.regions n {}
        if r.state = .stopped then { t with regions := mset t.regions n { r with state := .running } } else t
      .ok (cfgRetire (setTile s s.curTile ((maskOf a).foldl go t)) o.tk)

/-- The state codes of R251. -/
def stateCode : RegionState → Nat
  | .unconfigured => 0
  | .stopped => 1
  | .running => 2
  | .racking => 3
  | .freezing => 4
  | .frozen => 5
  | .faulted => 6

/-- The word that CFGQ returns (R257). -/
def cfgqWord (r : Region) : Word :=
  let typ := if r.state = .unconfigured then 0 else match r.typ with
    | .ag => 0
    | .compute => 1
    | .reducer => 2
  BitVec.ofNat 64 (stateCode r.state + typ * 2 ^ 4 + (if r.idem then 2 ^ 14 else 0) + (if r.kto then 2 ^ 15 else 0)
    + (if r.state = .faulted then r.fcell else 15) * 2 ^ 20 + (if r.state = .frozen then r.isize else 0) * 2 ^ 32)

/-- CFGQ (R257): it does not wait for the configuration unit. -/
def execCfgq (o : FormDA) (s : State) : Out :=
  issue s do
    let st := cur s
    let a ← readSrc st o.a false
    tokensReady st o.tk
    destReady st o.d
    let v := cfgqWord (regionAt s s.curTile (wf64 a 2 0))
    .ok (retire (setCur s (landLater (popBits st o.tk) o.d v .fixed)) o.tk .seq)

/-! Events of a running region. -/

/-- GROUP_FIRE (R238). -/
def execGroupFire (tile region group : Nat) (s : State) : Out := .next ((fireGroup s tile region group).getD s)

/-- FORMAT_MARKER_TAKE (R240). -/
def execFormatMarkerTake (tile region group input : Nat) (s : State) : Out :=
  .next ((takeMarker s tile region group input).getD s)

/-- END_OF_STREAM (R241). -/
def execEndOfStream (tile region group : Nat) (s : State) : Out := .next ((takeEos s tile region group).getD s)

/-- CONVERTER_CONVERT (R115). -/
def execConverterConvert (tile region cell : Nat) (s : State) : Out := .next ((convStep s tile region cell).getD s)

/-- SETTLE_REPORT (R255): a racking region that is quiescent is reported to the configuration unit, and one that has stopped with a
fault meanwhile (R252). -/
def execSettleReport (tile region : Nat) (s : State) : Out :=
  let t := tileOf s tile
  match t.cfg with
  | none => .next s
  | some u =>
    let st := (regionAt s tile region).state
    if (st = .racking ∧ quiescent s tile region ∨ st = .faulted ∧ !u.kiln) ∧ u.settle.contains region
        ∧ !u.settled.contains region then
      .next (setTile s tile { t with cfg := some { u with settled := u.settled ++ [region] } })
    else .next s

/-! Kiln waves (R258 to R261). -/

/-- CRC-32 of IEEE 802.3 over bits, least significant first. -/
def crcStep (c : Nat) (b : Byte) : Nat :=
  (List.range 8).foldl (fun c _ => if c % 2 = 1 then (c / 2).xor 0xEDB88320 else c / 2) (c.xor b.toNat)

def crc32 (bs : List Byte) : Nat := (bs.foldl crcStep 0xFFFFFFFF).xor 0xFFFFFFFF

/-- The header and cell words of a region's record (R231, R232). -/
def recordWords (n : Nat) (r : Region) : List Word :=
  let typ := match r.typ with
    | .ag => 0
    | .compute => 1
    | .reducer => 2
  let h0 := n + typ * 2 ^ 3 + r.cells.toNat * 2 ^ 8 + r.ngrp * 2 ^ 16 + r.slots.toNat * 2 ^ 24 + r.mode.toNat * 2 ^ 40
    + (if r.mode = 2 then r.secLen - 1 else 0) * 2 ^ 42
  let h1 := r.iports.toNat + r.oports.toNat * 2 ^ 16 + r.chans.toNat * 2 ^ 32
  let h2 := r.ipnar.toNat + r.opnar.toNat * 2 ^ 16
  [BitVec.ofNat 64 h0, BitVec.ofNat 64 h1, BitVec.ofNat 64 h2, 0, 0, 0, 0, 0] ++ r.cellRecs.flatMap (·.2)

/-- The format identifier of this device's state sections (R259): it is private to the device. DESIGN CHOICE
(assumption 20). -/
def kilnFormat : Nat := 0x4B54

/-- The state section of image number i, with a CRC (R259). -/
def stateWords (i crc : Nat) : List Word :=
  [BitVec.ofNat 64 (crc + 2 ^ 32 + kilnFormat * 2 ^ 48), BitVec.ofNat 64 i, 0, 0, 0, 0, 0, 0]

def bytesOf (ws : List Word) : List Byte := ws.flatMap fun w => leBytes 8 w.toNat

/-- The CRC of a record, its own field taken as zero (R259). -/
def recordCrc (body state : List Word) : Nat :=
  let first := (state.getD 0 0).toNat / 2 ^ 32 * 2 ^ 32
  crc32 (bytesOf (body ++ BitVec.ofNat 64 first :: state.drop 1))

/-- The bytes of a one-region kiln image (R229, R230, R258). -/
def kilnBytes (n i : Nat) (r : Region) : List Byte :=
  let body := recordWords n r
  let st := stateWords i (recordCrc body (stateWords i 0))
  let size := (8 + body.length + st.length) / 8
  bytesOf (BitVec.ofNat 64 (1 + 2 ^ 8 + size * 2 ^ 16) :: [0, 0, 0, 0, 0, 0, 0] ++ body ++ st)

/-- The L2 page of region n of a tile in a context's kiln area (R258). -/
def kilnPage (s : State) (tile n : Nat) : Nat := wf64 (ctxWord s (ctxnOf s tile) 4) 31 16 + 8 * tile + n

/-- The feeder of an input port that cannot insert a marker yet: an SMCL of another tile whose slot is halted (R259). -/
def feederHalted (s : State) (tile port : Nat) : Bool :=
  match (ipOf (tileOf s tile) port).feeders.head?.bind (feedingOf s) with
  | some (.slot u slot _) => u != tile && (slotAt s u slot).halt.isSome
  | _ => false

/-- Snapshot markers inserted in the input ports of a freezing region that have none yet (R259). -/
def insertSnaps (s : State) (tile n : Nat) : State :=
  (maskBits 16 (regionAt s tile n).iports.toNat).foldl (fun s p =>
    let f := ipOf (tileOf s tile) p
    if f.items.contains .snap ∨ feederHalted s tile p then s
    else setTile s tile (setIp (tileOf s tile) p (pushItem f .snap))) s

/-- A kiln wave starts on a region (R259). -/
def startWave (s : State) (tile n : Nat) (byFe : Bool) : State :=
  let r := regionAt s tile n
  let r1 := { r with state := .freezing, wasRunning := r.state == .running, aligned := [], waveStart := s.fab, waveByFe := byFe }
  insertSnaps (setRegion s tile n r1) tile n

/-- Groups and converters at which a marker has arrived on every input are aligned, and pass markers on (R259). -/
def alignOnce (s : State) (tile n : Nat) : State :=
  let mark (s : State) (id : Nat) (ins outs : List Nat) : State :=
    let t := tileOf s tile
    let r := regionAt s tile n
    if r.aligned.contains id ∨ !(ins.all fun c => (srcItems t r c).contains .snap) then s
    else
      let (t1, r1) := putAll t { r with aligned := r.aligned ++ [id] } outs .snap
      setTile s tile { t1 with regions := mset t1.regions n r1 }
  let cells := (regionAt s tile n).cellRecs
  let s1 := (groupsUsed cells).foldl (fun s g =>
    mark s g ((groupInputs (groupStages cells g)).map (·.1)) (groupOutputs (groupStages cells g))) s
  (convCells cells).foldl (fun s v => mark s (16 + v) (convInputs (cellWord cells v 0)) (convOutputs v (cellWord cells v 0))) s1

def alignAll (s : State) (tile n : Nat) : State := (List.range 20).foldl (fun s _ => alignOnce s tile n) s

/-- Whether every group and converter of a region is aligned. -/
def waveAligned (r : Region) : Bool :=
  (groupsUsed r.cellRecs).all r.aligned.contains && (convCells r.cellRecs).all fun v => r.aligned.contains (16 + v)

/-- The items of the FIFOs that a mask names. -/
def fifoItems (m : FMap Fifo) (mask : BitVec 16) : FMap (List Item) :=
  (m.filter fun p => mask.getLsbD p.1).map fun p => (p.1, noSnap p.2.items)

def emptied (m : FMap Fifo) (mask : BitVec 16) : FMap Fifo :=
  m.map fun (i, f) => if mask.getLsbD i then (i, { f with items := [] }) else (i, f)

/-- A feeding command without the words that it has read ahead (R259): it reads them again. Those whose indices came through a port
stay, since no port would give them again (assumption 137). -/
def unread (a : ActiveCmd) : ActiveCmd :=
  let sub := cmdSub a.cmd
  let port := sub == 2 && bitN (scS a.cmd.tmpl 3) 15
  if (sub = 0 ∨ sub = 2 ∨ sub = 6) ∧ !port then { a with k := a.k - a.buf.length / actElem a, buf := [], idx := [] } else a

/-- The slots of a region halted for a read-out (R259): uncommitted sections and words read ahead are discarded. -/
def haltSlots (s : State) (tile n : Nat) : State :=
  let s1 := squash s tile n fun _ => true
  let r := regionAt s1 tile n
  let s2 := setRegion s1 tile n { r with sections := [] }
  (maskBits 16 r.slots.toNat).foldl (fun s m =>
    match (slotAt s tile m).active with
    | some a => putActive s tile m (unread a)
    | none => s) s2

/-- The read-out of a region (R259): its contents go into image number i, its ports and channels are emptied, and it is
FROZEN. Slots keep their commands until the image takes them elsewhere. -/
def readOut (s0 : State) (tile n : Nat) : State × Nat :=
  let s := haltSlots s0 tile n
  let t := tileOf s tile
  let r := regionAt s tile n
  let convs := r.convs.map fun (v, c) => (v, { c with pipe := noSnap c.pipe })
  let back := if r.wasRunning then RegionState.running else .stopped
  let img : KilnImage :=
    { region := { r with state := back, convs := convs, aligned := [], kto := false }
      ips := fifoItems t.ips r.iports
      ops := fifoItems t.ops r.oports
      chs := fifoItems t.chs r.chans
      slots := t.slots.filter fun p => r.slots.getLsbD p.1 }
  let i := s.nextImage
  let size := (kilnBytes n i r).length / 64
  let r1 := { r with state := .frozen, image := i, isize := size, kto := false, convs := convs, aligned := [] }
  let t1 := { t with ips := emptied t.ips r.iports, ops := emptied t.ops r.oports, chs := emptied t.chs r.chans
                     regions := mset t.regions n r1 }
  ({ setTile s tile t1 with images := mset s.images i img, nextImage := i + 1 }, i)

/-- The image of a region written as CORE stores of a stream to its page, as translated before the freeze (R258). -/
def writeKiln (s : State) (tile : Nat) (u : CfgUnit) (n i : Nat) : State :=
  match mget? u.pages n with
  | some (page, p, w) =>
    let bs := kilnBytes n i (regionAt s tile n)
    postSegs s tile u.strm [{ phys := p, len := bs.length, watch := w, at_ := 3 * 2 ^ 56 + page * 2 ^ 16 }] bs
  | none => s

/-- A region's wave is over for the instruction that waits for it. -/
def cfgSettled (s : State) (tile n : Nat) : State :=
  let t := tileOf s tile
  match t.cfg with
  | some u => if u.settle.contains n then setTile s tile { t with cfg := some { u with settled := u.settled ++ [n] } } else s
  | none => s

/-- Whether a wave has no matrix work to wait for: that of a front-end pre-emption waits for every task and drain of the tile's job, in
each cluster of its block, so that none is in progress when a region is read out (R38, R259, R291). -/
def tasksOver (s : State) (tile : Nat) (r : Region) : Bool :=
  !r.waveByFe || (tileOf s tile).job.all fun no => (blockClusters (blockOf s tile)).all (matrixRests s no)

/-- KILN_WAVE_COMPLETE (R259): markers that were held back are inserted, groups align, and once all have, the region is read
out and becomes FROZEN. -/
def execKilnWaveComplete (tile region : Nat) (s : State) : Out :=
  if (regionAt s tile region).state ≠ .freezing then .next s
  else
    let s1 := alignAll (insertSnaps s tile region) tile region
    if waveAligned (regionAt s1 tile region) && tasksOver s1 tile (regionAt s1 tile region) then
      let byFe := (regionAt s1 tile region).waveByFe
      let (s2, i) := readOut s1 tile region
      match (tileOf s2 tile).cfg with
      | some u => .next (cfgSettled (if byFe then s2 else writeKiln s2 tile u region i) tile region)
      | none => .next s2
    else .next s1

/-- The pages of KILN's images are translated before anything freezes (R258). -/
def kilnPages (s : State) : List Nat → Chk (FMap (Nat × Nat × Bool))
  | [] => .ok []
  | n :: ns =>
    let page := kilnPage s s.curTile n
    match xlL2 s (.core s.curTile) (ctxnOf s s.curTile) (page * 2 ^ 16) true with
    | .ok p w => do
      let rest ← kilnPages s ns
      .ok ((n, page, p, w) :: rest)
    | .fault sub => .error (.trap .page (BitVec.ofNat 64 (3 * 2 ^ 56 + page * 2 ^ 16)) sub)
    | .dup _ _ => .error (.trap .page (BitVec.ofNat 64 (3 * 2 ^ 56 + page * 2 ^ 16)) 3)

/-- KILN (R258): the stream waits while the waves run, and retires when each has completed or timed out. DESIGN CHOICE (assumption 153):
it translates the pages of the STOPPED and RUNNING regions of its mask, of which alone it writes an image (R252). -/
def execKiln (o : FormA) (s : State) : Out :=
  issue s do
    let st := cur s
    match myCfg s with
    | some u =>
      waitFor (u.settle.all u.settled.contains)
      .ok (cfgRetire s o.tk)
    | none =>
      let a ← readSrc st o.a false
      tokensReady st o.tk
      cfgFree s
      if a = 0 then .ok (retire (setCur s (popBits st o.tk)) o.tk .seq)
      else
        let t := tileOf s s.curTile
        let live := toRack t (maskOf a)
        let pages ← kilnPages s live
        maskClean a
        cfgNeed (stateFail t (maskOf a) fun x => x == .frozen || x == .faulted)
        if live.isEmpty then .ok (cfgRetire s o.tk)
        else
          let u : CfgUnit := { strm := s.curStrm, settle := live, kiln := true, pages := pages }
          let s1 := setTile s s.curTile { t with cfg := some u }
          .ok (live.foldl (fun s n => startWave s s.curTile n false) s1)

/-- The kiln timeout of a tile's context in fabric cycles (R260): 2,200 to the microsecond. -/
def kilnLimit (s : State) (tile : Nat) : Nat :=
  let k := wf64 (ctxWord s (ctxnOf s tile) 4) 47 32
  2200 * (if k = 0 then 20 else k)

/-- A wave abandoned: the markers vanish and the region returns to the state it had (R260). -/
def quitWave (t : Tile) (n : Nat) : Tile :=
  let t1 := clearSnaps t n
  { t1 with regions := mset t1.regions n (unhold (mget t1.regions n {})) }

/-- A wave that timed out is abandoned, and KTO is set (R260). -/
def timeoutRegion (t : Tile) (n : Nat) : Tile :=
  let t1 := quitWave t n
  { t1 with regions := mset t1.regions n { mget t1.regions n {} with kto := true } }

/-- A command dropped with its region (R191, R393): of the restarting stream it lowers owed, of another it replies with
KILN_TIMEOUT. -/
def dropCommand (sk : Strm) (s : State) (c : Cmd) : State :=
  let s1 := settleFill (leaveAll s c) c false
  if c.strm = sk then dropOwed s1 c
  else finish s1 c (causeByte .kilnTimeout) 0

/-- A stream that restarts at an offset (R393): a wait other than that for a response is over, since the instruction that waited is
left. -/
def restartAt (st : Stream) (pc : Nat) : Stream :=
  let x := if st.wait = .response then st else { abandon st with wait := .none }
  { x with pc := BitVec.ofNat 64 pc }

/-- The idempotent fallback (R260, R393): the region is discarded with its ports, channels and commands, and the stream that
configured it restarts at its span. -/
def discardRegion (s : State) (tile n : Nat) : State :=
  let r := regionAt s tile n
  let s1 := (regionCmds s tile r).foldl (dropCommand r.spanStrm) (dropSlots s tile r)
  let t := tileOf s1 tile
  let t1 := { t with ips := emptied t.ips r.iports, ops := emptied t.ops r.oports, chs := emptied t.chs r.chans
                     regions := mset t.regions n {} }
  let s2 := releaseEngines (releaseCask (releaseSpan (setTile s1 tile t1) tile r.spanStrm r.span) tile r.spanStrm) tile r.spanStrm
  let s3 := abandonCfg (dropWatch s2 tile r.spanStrm) tile r.spanStrm
  setStrm s3 tile r.spanStrm (restartAt (strmAt s3 tile r.spanStrm) r.span)

/-! THAW (R261). -/

/-- The image that a record's state section names, where the section is sound: the CRC matches, the format is this device's
and the configuration is the one frozen (R250, sub-reason 11). -/
def imageFor (s : State) (r : RecImg) : Option KilnImage :=
  let w0 := r.state.getD 0 0
  if wf64 w0 31 0 ≠ recordCrc r.body r.state ∨ wf64 w0 63 48 ≠ kilnFormat then none
  else
    match mget? s.images (r.state.getD 1 0).toNat with
    | none => none
    | some m => if recordWords (rhNum r) m.region = r.body then some m else none

/-- The images of the selected records, or sub-reason 11. -/
def imagesFor (s : State) : List RecImg → Chk (List (Nat × KilnImage))
  | [] => .ok []
  | r :: rs =>
    match imageFor s r with
    | none => .error (.trap .config (cfgTval { sub := 11, region := rhNum r }))
    | some m => do
      let rest ← imagesFor s rs
      .ok ((rhNum r, m) :: rest)

/-- Restored items stand ahead of those that came since (R261). -/
def restoreItems (m : FMap Fifo) (xs : FMap (List Item)) : FMap Fifo :=
  xs.foldl (fun m (i, l) => let f := mget m i {}; mset m i { f with items := l ++ f.items }) m

/-- The commands of a restored slot take their places in the orders of their ports again, where they have none (R202,
R261). -/
def rejoin (s : State) (tile : Nat) (c : Cmd) : State :=
  let s1 := if (feedTargets c).any (fun p => (ipOf (tileOf s p.1) p.2).feeders.contains c.id) then s
    else (feedTargets c).foldl (fun s p => setTile s p.1 (joinIp (tileOf s p.1) p.2 c.id)) s
  let s2 := if (takePorts c).any (fun p => (opOf (tileOf s1 tile) p).takers.contains c.id) then s1
    else (takePorts c).foldl (fun s p => setTile s tile (joinOp (tileOf s tile) p c.id)) s1
  let t := tileOf s2 tile
  if cmdSub c = 8 ∧ !(t.barriers.any fun b => b.id == c.id) then setTile s2 tile { t with barriers := t.barriers ++ [c] } else s2

/-- A restored command belongs to the tile that thaws it, with that tile's job and context, since images hold no tile number (R229,
assumption 138). -/
def ownedBy (s : State) (tile : Nat) (c : Cmd) : Cmd :=
  { c with tile := tile, ctxn := ctxnOf s tile, job := (tileOf s tile).job.getD 0 }

/-- A restored slot: one that was halted starts again at the failing element. -/
def ownedSlot (s : State) (tile : Nat) (x : Slot) : Slot :=
  { x with halt := none, active := x.active.map fun a => { a with cmd := ownedBy s tile a.cmd }
           pending := x.pending.map (ownedBy s tile) }

/-- A FROZEN region gives up what its slots hold to an image that is restored in its place (R252): the commands that the image does
not restore are dropped (assumption 136), and those that it restores keep their places in the orders of their ports. -/
def giveUp (s : State) (tile n : Nat) (keep : List Cmd) : State :=
  let r := regionAt s tile n
  if r.state = .frozen then dropSlots s tile r (keep.map (·.id)) else s

/-- A region restored from its image under its number (R261): section numbers start at 0 (R193), and sk, where given, is the stream
whose THAW configures it (R260). Its commands take their places in the order in which they were accepted. -/
def thawRegion (tile : Nat) (sk : Option Strm) (s0 : State) (p : Nat × KilnImage) : State :=
  let m := p.2
  let s := giveUp s0 tile p.1 (m.slots.flatMap fun (_, x) => slotCmds x)
  let t := tileOf s tile
  let r := { m.region with secNext := 0, spanStrm := sk.getD m.region.spanStrm }
  let t1 := { t with ips := restoreItems t.ips m.ips, ops := restoreItems t.ops m.ops, chs := restoreItems t.chs m.chs
                     regions := mset t.regions p.1 r }
  let s1 := setTile s tile t1
  let slots := m.slots.map fun (k, x) => (k, ownedSlot s1 tile x)
  let s2 := slots.foldl (fun s (k, x) => putSlot s tile k x) s1
  (sortBy (·.id) (slots.flatMap fun (_, x) => slotCmds x).eraseDups).foldl (fun s c => rejoin s tile c) s2

/-- A FROZEN region that a THAW restores gives up its slots before any region of the mask is restored: an image may host slots that
another region of the mask held (R252). -/
def vacate (tile : Nat) (keep : List Cmd) (s : State) (n : Nat) : State :=
  if (regionAt s tile n).state = .frozen then setRegion (giveUp s tile n keep) tile n {} else s

/-- The regions of a THAW restored from their images (R261): what the FROZEN ones among them held and no image restores goes first. -/
def thawAll (tile : Nat) (sk : Option Strm) (s : State) (imgs : List (Nat × KilnImage)) : State :=
  let keep := imgs.flatMap fun p => p.2.slots.flatMap fun (_, x) => slotCmds x
  imgs.foldl (thawRegion tile sk) ((imgs.map (·.1)).foldl (vacate tile keep) s)

/-- THAW (R261). DESIGN CHOICE (assumption 31): sub-reason 11 is reported after those of the records and before 4 and 10. -/
def execThaw (o : FormAB) (s : State) : Out :=
  issue s do
    let st := cur s
    let a ← readSrc st o.a false
    let b ← readSrc st o.b false
    tokensReady st o.tk
    cfgFree s
    if b = 0 then .ok (retire (setCur s (popBits st o.tk)) o.tk .seq)
    else
      let ws ← readImage s a
      maskClean b
      let recs ← checkedRecs true ws (maskOf b)
      let imgs ← imagesFor s recs
      let new : FMap Region := imgs.map fun p => (p.1, p.2.region)
      cfgNeed (chkStates (tileOf s s.curTile) new (fun x => x == .stopped || x == .running || x == .faulted) (maskOf b))
      .ok (cfgRetire (thawAll s.curTile (some s.curStrm) (noteCur s (imageSeen s a)) imgs) o.tk)

/-! Timeouts (R260). -/

/-- A stream of a victim goes on after a deferral. -/
def goOn (st : Stream) : Stream := { st with running := true }

/-- A refused pre-emption counted against the LIVE queue that asked for it (R34, R374, R392). -/
def countRefusal (s : State) (qkey : Nat) (target : NodeRef) : State :=
  match mget? s.fe.queues qkey with
  | some q =>
    if q.cls = .live then
      let queues := mset s.fe.queues qkey { q with lmiss := q.lmiss + 1 }
      { s with fe := { s.fe with queues := queues, liveMissed := s.fe.liveMissed ++ [target] } }
    else s
  | none => s

/-- Whether a region has a wave that has not completed: it freezes, or it has stopped with a fault while KILN waits for it. -/
def waveOpen (t : Tile) (n : Nat) : Bool :=
  let st := (mget t.regions n {}).state
  st == .freezing || (st == .faulted && t.cfg.any fun u => u.kiln && u.settle.contains n && !u.settled.contains n)

/-- Whether a wave has not completed within the kiln timeout of its start (R260). -/
def waveLate (s : State) (tile n : Nat) : Bool :=
  waveOpen (tileOf s tile) n && decide ((regionAt s tile n).waveStart + kilnLimit s tile ≤ s.fab)

/-- KILN_TIMEOUT names the tile and the region (R260, R389). -/
def postTimeout (s : State) (tile n : Nat) : State := offer s { offerFor s tile .k .kilnTimeout 6 with unit := n }

/-- A late wave of a pre-emption: the event, and its region discarded where it is idempotent, else the wave abandoned (R260). -/
def lateRegion (tile : Nat) (s : State) (n : Nat) : State :=
  if waveLate s tile n then
    let s1 := postTimeout s tile n
    if (regionAt s1 tile n).idem then discardRegion s1 tile n else setTile s1 tile (timeoutRegion (tileOf s1 tile) n)
  else setTile s tile (quitWave (tileOf s tile) n)

/-- A pre-emption whose wave timed out is deferred to the boundary of the victim: its waves are abandoned, its streams go on,
and the refusal is counted against the queue that asked (R34, R38, R260, R374). -/
def deferPreempt (s : State) : State :=
  match s.fe.preempt with
  | none => s
  | some p =>
    let stop (s : State) (u : Nat) : State :=
      let t := tileOf s u
      let live := t.regions.filter fun p => p.2.state == .freezing && p.2.waveByFe
      let frozen := t.regions.filter fun p => p.2.state == .frozen && p.2.waveByFe
      let s1 := (live.map (·.1)).foldl (lateRegion u) s
      let imgs := frozen.filterMap fun p => (mget? s1.images p.2.image).map fun m => (p.1, m)
      let s2 := thawAll u none s1 imgs
      let t2 := tileOf s2 u
      if p.job.isSome then setTile s2 u { t2 with k := goOn t2.k, l := goOn t2.l, c := goOn t2.c, w := goOn t2.w } else s2
    let s1 := p.tiles.foldl stop s
    let s2 := { s1 with fe := { s1.fe with preempt := none, deferred := s1.fe.deferred ++ p.job.toList } }
    let mark (b : BoundNode) : BoundNode := if p.job.isNone && b.ref == p.node then { b with deferred := true } else b
    let s3 := { s2 with fe := { s2.fe with bound := s2.fe.bound.map mark } }
    countRefusal s3 p.qkey p.target

/-- KILN_TIMEOUT (R260): a wave that has not completed within the limit posts its event; then the wave is abandoned, the
region is discarded, or the pre-emption is deferred. -/
def execKilnTimeout (tile region : Nat) (s : State) : Out :=
  let r := regionAt s tile region
  if !waveLate s tile region then .next s
  else if !r.waveByFe then
    let s1 := postTimeout s tile region
    .next (cfgSettled (setTile s1 tile (timeoutRegion (tileOf s1 tile) region)) tile region)
  else if r.idem then .next (lateRegion tile s region)
  else .next (deferPreempt s)

end Sys2Proof.Machine
end

