-- ==== Sys2Proof/Machine/MatrixMath.lean ====
section
/-! DEFINITION. The arithmetic of matrix tasks (R103, R104, R267, R275, R276): operands as rows of exact values, group sums,
and the 64 × 64 result. -/

namespace Sys2Proof.Machine

/-- The physical address of a byte of an operand slot (R262). -/
def slotByte (cl n off : Nat) : Nat := operandBase cl + n * 8192 + off

/-- The bytes of an operand slot. -/
def slotBytes (s : State) (cl n off len : Nat) : List Byte := readAt s (slotByte cl n off) len

/-- The exact values of a row of floating-point elements (R267). -/
def floatRow (f : FloatFmt) (bs : List Byte) : Nat → List Val
  | 0 => []
  | n + 1 =>
    let w := (f.eb + f.fb + 1) / 8
    fdecode f (leNat (bs.take w)) :: floatRow f (bs.drop w) n

/-- The plane bytes of group j of a BPI row of rate class p, as a whole group with its absent planes zero (R267). -/
def groupPlanes (p : Nat) (row : List Byte) (j : Nat) : List Byte := (row.drop (8 * p * j)).take (8 * p)

/-- The exact values of a row of K BPI elements: reals, or the integers of R93 under an I48 accumulator (R104). A scale of
255 is a NaN in both (R94). -/
def bpiRow (p planes : Nat) (hlsb acc : Bool) (row scales : List Byte) (n : Nat) : List Val :=
  (List.range n).map fun k =>
    let v := bpiStored (groupPlanes p row (k / 64)) (k % 64)
    let sc := (scales.getD (k / 32) 0).toNat
    if acc && sc != 255 then ofInt (bpiInt planes hlsb v) else bpiVal planes hlsb v sc

/-- A row of an operand by its format code. -/
def operandRow (fmt p planes : Nat) (hlsb acc : Bool) (row scales : List Byte) (n : Nat) : List Val :=
  match sfOf fmt with
  | some (.flt f) => floatRow f row n
  | _ => bpiRow p planes hlsb acc row scales n

/-- A sum of a group of 32 products into an A48 accumulator (R103). -/
def accA48 (acc : Val) (prods : List Val) : Val := fdecode a48 (rneA48 (vadd acc (groupSum prods))).toNat

/-- The integer of an exact product of integers; one that a scale of 255 makes NaN counts as 0 (R94). -/
def prodInt (v : Val) : Int :=
  match v with
  | .fin neg m e => scaled neg m e (min e 0) / 2 ^ (-(min e 0)).toNat
  | _ => 0

/-- A sum of a group of 32 products into an I48 accumulator (R96, R104), with the saturation flag. -/
def accI48 (acc : Int × Bool) (prods : List Val) : Int × Bool :=
  let (x, o) := sat48 (acc.1 + (prods.map prodInt).foldl (· + ·) 0)
  (x.toInt, acc.2 || o || prods.any visNan)

/-- Products of a row and a column, in groups of 32 consecutive positions (R103). -/
def groupsOf : Nat → List Val → List (List Val)
  | 0, _ => []
  | f + 1, xs => if xs.isEmpty then [] else xs.take 32 :: groupsOf f (xs.drop 32)

def prodGroups (a b : List Val) : List (List Val) :=
  let xs := List.zipWith vmul a b
  groupsOf xs.length xs

/-- One element of a result under A48, from the entry's value. -/
def dotA48 (acc : BitVec 48) (a b : List Val) : BitVec 48 :=
  rneA48 ((prodGroups a b).foldl accA48 (fdecode a48 acc.toNat))

/-- One element of a result under I48. -/
def dotI48 (acc : BitVec 48) (a b : List Val) : BitVec 48 × Bool :=
  let (x, o) := (prodGroups a b).foldl accI48 (acc.toInt, false)
  (BitVec.ofInt 48 x, o)

/-- The result of a task: 4,096 accumulators in row order, and whether any addition saturated. -/
def tileResult (isInt : Bool) (old : List (BitVec 48)) (a b : List (List Val)) : List (BitVec 48) × Bool :=
  let cells := a.zipIdx.flatMap fun (r, i) => b.zipIdx.map fun (c, j) =>
    let acc := old.getD (64 * i + j) 0
    if isInt then dotI48 acc r c else (dotA48 acc r c, false)
  (cells.map (·.1), cells.any (·.2))

/-! Operands of a task. -/

/-- The shape of a task's operands: format, planes and depth. -/
def rateOf (e : Word) : Nat := if ftBpi e then rateClass e else 8

/-- The rows of the A operand in a slot (R267). -/
def rowsA (s : State) (cl : Nat) (t : BitVec 256) (e : Word) : List (List Val) :=
  let n := mtK e
  (List.range 64).map fun r =>
    operandRow (ftA e) (rateOf e) (ftApl e) (ftHlsb e) (ftAcc e) (slotBytes s cl (mtA t) (128 * r) 128)
      (if ftBpi e then slotBytes s cl (mtX t) (64 * mtXoff t + r * (n / 32)) (n / 32) else []) n

/-- The columns of the B operand over n positions held in one slot, with the column array of w bytes a column from byte
sbase of XSLOT, starting at scale skip of each column. -/
def colsB (s : State) (cl : Nat) (t : BitVec 256) (e : Word) (slot sbase w skip : Nat) : List (List Val) :=
  let n := mtK e
  (List.range 64).map fun c =>
    operandRow (ftB e) (rateOf e) (ftBpl e) (ftHlsb e) (ftAcc e) (slotBytes s cl slot (128 * c) 128)
      (if ftBpi e then slotBytes s cl (mtX t) (sbase + c * w + skip) (n / 32) else []) n

/-- The byte of XSLOT where the B array starts (R267). -/
def scaleBaseB (t : BitVec 256) (e : Word) : Nat := 64 * mtXoff t + (if tf t 7 4 = 2 then 0 else 2 * mtK e)

/-- The columns of B of a task: an MMS spans two slots (R267). -/
def taskCols (s : State) (cl : Nat) (t : BitVec 256) (e : Word) : List (List Val) :=
  let n := mtK e
  if tf t 7 4 = 1 then
    let lo := colsB s cl t e (mtB t) (scaleBaseB t e) (2 * n / 32) 0
    let hi := colsB s cl t e (mtB t + 1) (scaleBaseB t e) (2 * n / 32) (n / 32)
    List.zipWith (· ++ ·) lo hi
  else colsB s cl t e (mtB t) (scaleBaseB t e) (n / 32) 0

/-! The 4:8 metadata of MMS (R276). -/

/-- The metadata area of an MMS as one number. -/
def metaBits (s : State) (cl : Nat) (t : BitVec 256) (e : Word) : Nat :=
  leNat (slotBytes s cl (mtM t) (64 * mtMoff t) (24 * mtK e))

/-- The four codes of the metadata group of index g. -/
def metaCodes (bits g : Nat) : List Nat := (List.range 4).map fun i => bits / 2 ^ (12 * g + 3 * i) % 8

def codesRise (cs : List Nat) : Bool := cs.Pairwise (· < ·)

/-- The first group of an MMS whose codes do not rise, over all 64 rows. -/
def badGroup (bits : Nat) (e : Word) : Option Nat :=
  (List.range (64 * (mtK e / 4))).find? fun g => !codesRise (metaCodes bits g)

/-- A compressed row spread over its 2K logical positions (R276). -/
def spreadRow (bits row : Nat) (e : Word) (xs : List Val) : List Val :=
  let gs := mtK e / 4
  (List.range gs).flatMap fun j =>
    let cs := metaCodes bits (gs * row + j)
    (List.range 8).map fun p =>
      match cs.findIdx? (· == p) with
      | some i => xs.getD (4 * j + i) (.fin false 0 0)
      | none => .fin false 0 0

/-- The positions of a compressed row that its metadata keeps. -/
def keptRow (bits row : Nat) (e : Word) : List Bool :=
  let gs := mtK e / 4
  (List.range gs).flatMap fun j => (List.range 8).map (metaCodes bits (gs * row + j)).contains

/-- A column with the positions that a row drops replaced by zero, so that a dropped position contributes an exact zero even
where the column holds an infinity or a NaN (R103, R276). -/
def keepCol (kept : List Bool) (col : List Val) : List Val :=
  List.zipWith (fun k v => if k then v else .fin false 0 0) kept col

/-- The result of an MMS, row by row. -/
def sparseResult (isInt : Bool) (old : List (BitVec 48)) (bits : Nat) (e : Word) (a b : List (List Val)) :
    List (BitVec 48) × Bool :=
  let rows := a.zipIdx.map fun (r, i) =>
    let kept := keptRow bits i e
    tileResult isInt ((old.drop (64 * i)).take 64) [spreadRow bits i e r] (b.map (keepCol kept))
  (rows.flatMap (·.1), rows.any (·.2))

/-! Poison (R281). -/

/-- The spans of operand slots whose bytes a task reads: slot, offset, length. -/
def readSpans (t : BitVec 256) (e : Word) : List (Nat × Nat × Nat) :=
  let b := if tf t 7 4 = 1 then [(mtB t, 0, 8192), (mtB t + 1, 0, 8192)] else [(mtB t, 0, 8192)]
  let a := if tf t 7 4 = 2 then [] else [(mtA t, 0, 8192)]
  let x := if ftBpi e then [(mtX t, 64 * mtXoff t, scaleEnd t e - 64 * mtXoff t)] else []
  let m :=
    if tf t 7 4 = 1 then
      (mtM t, 64 * mtMoff t, min (24 * mtK e) (8192 - 64 * mtMoff t)) ::
        (if 8192 < metaEnd t e then [(mtM t + 1, 0, metaEnd t e - 8192)] else [])
    else []
  a ++ b ++ x ++ m

/-- The first poisoned byte of a span of an operand slot: the slot and the offset in it. -/
def slotPoison (s : State) (cl n off len : Nat) : Option (Nat × Nat) :=
  match (s.poison.filter fun g => decide (g * 8 < slotByte cl n off + len) && decide (slotByte cl n off < g * 8 + 8)) with
  | [] => none
  | g :: gs => some (n, max (gs.foldl min g * 8) (slotByte cl n off) - slotByte cl n 0)

/-- The first poisoned byte of a task's operands: slot and offset. DESIGN CHOICE (assumption 158): A, B, scales and metadata in that order,
and all of them before the metadata's own check. -/
def operandPoison (s : State) (cl : Nat) (t : BitVec 256) (e : Word) : Option (Nat × Nat) :=
  (readSpans t e).findSome? fun (n, off, len) => slotPoison s cl n off len

end Sys2Proof.Machine
end

