-- ==== Sys2Proof/Machine/ReuseTable.lean ====
section
/-! DEFINITION. The reuse state table (R293 to R296, R302, R318) and the arithmetic of MMDL (R305 to R310). -/

namespace Sys2Proof.Machine

/-- An operation from a cluster moves an entry into that cluster's cache, which holds 64 (R14, R293). -/
def cacheEntry (s : State) (cl n : Nat) : State :=
  let s1 := { s with clusters := s.clusters.map fun p => (p.1, { p.2 with rcache := p.2.rcache.filter (· != n) }) }
  let c := clusterOf s1 cl
  setCluster s1 cl { c with rcache := (n :: c.rcache).take 64 }

/-- Whether a stream has cask commands or MMDLs, of some numbers, that have not reached the entry they name (R293). -/
def opsAhead (s : State) (t : Nat) (sk : Strm) (n : Nat) (which : Nat → Bool) : Bool :=
  let c := clusterOf s (tileCluster t)
  let own (k : Cmd) : Bool := k.tile == t && k.strm == sk && !k.fromFe && which k.id
  (c.cask.any fun k => own k && tf k.tmpl 251 240 == n)
    || c.taskq.any fun k => own k.cmd && cmdSub k.cmd == 3 && mtRent k.cmd.tmpl == n

/-- Whether an instruction of a stream on an entry must wait for the stream's earlier operations there (R293). -/
def entryBehind (s : State) (t : Nat) (sk : Strm) (n : Nat) : Bool := opsAhead s t sk n fun _ => true

/-- Whether a command on an entry must wait for its stream's operations there that were accepted before it (R71, R293). -/
def cmdBehind (s : State) (c : Cmd) (n : Nat) : Bool := !c.fromFe && opsAhead s c.tile c.strm n fun i => decide (i < c.id)

/-- Whether an entry belongs to a context (R294, R296). -/
def entryOwned (s : State) (ctxn : Nat) (e : REntry) : Bool :=
  e.ctxn.toNat == ctxn && e.pasid.toNat == ctxPasid s ctxn

/-- The checks of R296 that concern tenancy: sub-reason 1 or 2. -/
def entryTenant (s : State) (ctxn : Nat) (e : REntry) : Option Nat :=
  if e.kind = .free then some 1 else if !entryOwned s ctxn e then some 2 else none

/-- Sub-reasons 1 to 4 of an operation on an entry of a kind under a LID (R296, R305, R314). -/
def entryFail (s : State) (ctxn : Nat) (e : REntry) (kind : RKind) (lid : Nat) : Option Nat :=
  match entryTenant s ctxn e with
  | some n => some n
  | none => if e.kind ≠ kind then some 3 else if e.lid.toNat ≠ lid then some 4 else none

/-- ss.tval of a REUSE trap (R296). -/
def reuseTval (sub n : Nat) : Word := BitVec.ofNat 64 (sub + n * 2 ^ 8)

/-- A counter of w bits raised, saturating (R294, R301). -/
def satAdd {w : Nat} (x : BitVec w) (n : Nat) : BitVec w := BitVec.ofNat w (min (x.toNat + n) (2 ^ w - 1))

/-- An entry's counter by number (R61). -/
def entryCounter (e : REntry) : Nat → Nat
  | 0 => e.hit.toNat
  | 1 => e.miss.toNat
  | 2 => e.forced.toNat
  | 3 => e.rowsSkipped.toNat
  | _ => e.bytesReplayed.toNat

def bumpEntry (e : REntry) (i n : Nat) : REntry :=
  match i with
  | 0 => { e with hit := satAdd e.hit n }
  | 1 => { e with miss := satAdd e.miss n }
  | 2 => { e with forced := satAdd e.forced n }
  | 3 => { e with rowsSkipped := satAdd e.rowsSkipped n }
  | _ => { e with bytesReplayed := satAdd e.bytesReplayed n }

/-- A tenant total raised, modulo 2^64, in force and in the context descriptor (R301, R388). -/
def bumpTotal (s : State) (ctxn i n : Nat) : State :=
  let c := mget s.fe.ctxs ctxn {}
  let v := c.totals.getD i 0 + BitVec.ofNat 64 n
  setCtxField (setCtx s ctxn { c with totals := lset c.totals i v }) ctxn (16 + i) 0 8 v.toNat

/-- A counter of an entry and its tenant's total raised together (R301). -/
def countReuse (s : State) (n i amount : Nat) : State :=
  let e := entryAt s n
  bumpTotal (setEntry s n (bumpEntry e i amount)) e.ctxn.toNat i amount

/-- The reuse force bit of a context (R306, R314, R388). -/
def forceBit (s : State) (ctxn : Nat) : Bool := wf64 (ctxWord s ctxn 0) 30 30 == 1

/-! MMDL (R305 to R310). -/

/-- What the dispatcher finds at the entry of an MMDL: it is busy, a check fails, or the task may go with what it records
(R305, R306). -/
inductive Admit where
  | busy
  | fail (sub : Nat)
  | go (st : MmdlSt)
  deriving DecidableEq, Repr

/-- The admission of an MMDL. The first six causes of R306 are tested when the entry is read. -/
def admitMmdl (s : State) (c : Cmd) : Admit :=
  let e := entryAt s (mtRent c.tmpl)
  if e.busy then .busy
  else
    match entryFail s c.ctxn e .delta (mtLid c.tmpl) with
    | some n => .fail n
    | none =>
      let limit := decide (e.nmax.toNat ≤ e.use.toNat)
      let other := !e.valid || e.ver != e.wseen || mtFrf c.tmpl || forceBit s c.ctxn || e.fte.toNat != wf64 c.fte 22 0
      .go { vd := e.ver, refresh := limit || other, forced := limit && !other }

/-- The agent of the reuse unit for a command (R295). -/
def reuseWho (c : Cmd) : Who := whoOf c .matrix

/-- X_prev and Y_prev read for a delta invocation (R306, R310). -/
def readPrev (s : State) (c : Cmd) (st : MmdlSt) : Except AccFault MmdlSt :=
  let e := entryAt s (mtRent c.tmpl)
  let n := 64 * mtK c.fte
  match engRead s (reuseWho c) e.xaddr.toNat (4 * n) false with
  | .error f => .error f
  | .ok xs =>
    match engRead s (reuseWho c) e.yaddr.toNat 24576 false with
    | .error f => .error f
    | .ok ys =>
      .ok { st with xprev := (List.range n).map fun i => BitVec.ofNat 32 (leNat ((xs.drop (4 * i)).take 4))
                    yprev := (List.range 4096).map fun i => BitVec.ofNat 48 (leNat ((ys.drop (6 * i)).take 6)) }

/-- A value rounded once to FP32 (R284, R307). -/
def rneFp32 (v : Val) : Nat := (toFloat fp32 false 1 0 v).1

/-- D of R307, as FP32 values. -/
def deltaOf (x : List Val) (xp : List (BitVec 32)) : List Val :=
  List.zipWith (fun a b => fdecode fp32 (rneFp32 (vadd a (vneg (fdecode fp32 b.toNat))))) x xp

/-- q of R307: D in steps, rounded to an integer, clipped to P planes, with the dead zone. -/
def quantise (e : REntry) (d : Val) : Int :=
  match d with
  | .fin n m ex =>
    let p := 2 ^ (e.p.toNat - 1)
    let q := (toInt (-(p : Nat)) ((p : Nat) - 1) 1 0 (.fin n m (ex - e.e.toInt))).1
    if q.natAbs ≤ e.t0.toNat then 0 else q
  | _ => 0

/-- q · 2^E as an exact value. -/
def stepVal (e : REntry) (q : Int) : Val := .fin (decide (q < 0)) q.natAbs e.e.toInt

/-- Rows of a list of n elements each. -/
def rowsOf {α : Type} (n : Nat) : Nat → List α → List (List α)
  | 0, _ => []
  | f + 1, xs => xs.take n :: rowsOf n f (xs.drop n)

/-- A refresh (R307): the full product, and x as the new X_prev. -/
def mmdlRefresh (st : MmdlSt) (a b : List (List Val)) : MmdlSt :=
  { st with refresh := true, rows := List.range 64, yprev := (tileResult false [] a b).1
            xprev := a.flatMap fun r => r.map fun x => BitVec.ofNat 32 (rneFp32 x) }

/-- The new Y and X_prev of one row of a delta (R307). A row of zeros is skipped. -/
def deltaRow (e : REntry) (b : List (List Val)) (xp : List (BitVec 32)) (yp : List (BitVec 48)) (qs : List Int) :
    List (BitVec 32) × List (BitVec 48) :=
  if qs.all (· == 0) then (xp, yp)
  else
    let a := qs.map (stepVal e)
    (List.zipWith (fun x q => BitVec.ofNat 32 (rneFp32 (vadd (fdecode fp32 x.toNat) (stepVal e q)))) xp qs,
     (tileResult false yp [a] b).1)

/-- A delta (R307), with the quantised rows. -/
def mmdlDelta (e : REntry) (st : MmdlSt) (k : Nat) (b : List (List Val)) (qs : List (List Int)) : MmdlSt :=
  let xs := rowsOf k 64 st.xprev
  let ys := rowsOf 64 64 st.yprev
  let out := qs.zipIdx.map fun (q, i) => deltaRow e b (xs.getD i []) (ys.getD i []) q
  { st with rows := (List.range 64).filter fun i => (qs.getD i []).any (· != 0)
            xprev := out.flatMap (·.1), yprev := out.flatMap (·.2) }

/-- The computation of an MMDL (R306, R307): a NaN or infinite element of D makes it a refresh. -/
def mmdlCompute (s : State) (cl : Nat) (c : Cmd) (st : MmdlSt) : MmdlSt :=
  let e := entryAt s (mtRent c.tmpl)
  let k := mtK c.fte
  let a := rowsA s cl c.tmpl c.fte
  let b := taskCols s cl c.tmpl c.fte
  if st.refresh then mmdlRefresh st a b
  else
    let ds := List.zipWith deltaOf a (rowsOf k 64 st.xprev)
    if ds.any fun r => r.any fun d => visNan d || visInf d then mmdlRefresh st a b
    else mmdlDelta e st k b (ds.map fun r => r.map (quantise e))

/-- The entry of an MMDL that ended without a write-back, or whose write-back failed: not valid, not busy (R310). -/
def spoilEntry (s : State) (n : Nat) : State := setEntry s n { entryAt s n with valid := false, busy := false }

/-- A command for which the reuse unit has written an entry's regions: an RFREE observes its writes (R298). -/
def noteWriter (s : State) (n key : Nat) : State :=
  let e := entryAt s n
  setEntry s n { e with writers := if e.writers.contains key then e.writers else e.writers ++ [key] }

/-- The write-back of row i: X_prev, then Y_prev (R295, R309). The task's completion does not observe it. -/
def backRow (s : State) (c : Cmd) (st : MmdlSt) (i : Nat) : Except AccFault State :=
  let n := mtRent c.tmpl
  let e := entryAt s n
  let k := mtK c.fte
  let xs := ((st.xprev.drop (k * i)).take k).flatMap fun x => leBytes 4 x.toNat
  let ys := ((st.yprev.drop (64 * i)).take 64).flatMap fun y => leBytes 6 y.toNat
  let w := { reuseWho c with key := lateKey c.id }
  match engWrite s w (e.xaddr.toNat + 4 * k * i) xs false (some n) with
  | .error f => .error f
  | .ok s1 => engWrite s1 w (e.yaddr.toNat + 384 * i) ys false (some n)

/-- The rows of a write-back in order: the state, the rows written, and the fault that stopped it. -/
def backRows (c : Cmd) (st : MmdlSt) : List Nat → Nat → State → State × Nat × Option AccFault
  | [], n, s => (s, n, none)
  | i :: rest, n, s =>
    match backRow s c st i with
    | .ok s1 => backRows c st rest (n + 1) s1
    | .error f => (s, n, some f)

/-- The entry updated in one step when its write-back has been performed (R309). -/
def settleEntry (s : State) (c : Cmd) (st : MmdlSt) : State :=
  let n := mtRent c.tmpl
  let e := entryAt (noteWriter s n (lateKey c.id)) n
  if st.refresh then
    let e1 := { e with wseen := st.vd, valid := e.ver == st.vd, fte := BitVec.ofNat 23 (wf64 c.fte 22 0), use := 0,
                       busy := false }
    countReuse (setEntry s n e1) n (if st.forced then 2 else 1) 1
  else
    let e1 := { e with valid := e.valid && e.ver == st.vd, use := e.use + 1, busy := false }
    countReuse (countReuse (setEntry s n e1) n 0 1) n 3 (64 - st.rows.length)

end Sys2Proof.Machine
end

