-- ==== Sys2Proof/Machine/Matrix.lean ====
section
/-! DEFINITION. Operand slots, dispatch and execution of matrix tasks, chains and TASKW (R262 to R281, R287 to R289, R305 to
R309). The epilogue engine stands in Epilogue. -/

namespace Sys2Proof.Machine

/-! OCLM and OREL (R265, R266). -/

/-- Whether n slots from first are FREE. -/
def runFree (s : State) (cl first n : Nat) : Bool :=
  (span first n).all fun i => decide (i < 256) && (opSlotOf s cl i).claim.isNone

/-- The first slot of the run that a request claims, by its fields (R265). -/
def claimRun (s : State) (cl n first : Nat) (exact : Bool) : Option Nat :=
  if exact then (if runFree s cl first n then some first else none) else (List.range 256).find? fun i => runFree s cl i n

/-- A claim: the state and the result word (R265). DESIGN CHOICE (assumption 157): FIRST and N are 0 where nothing is claimed. -/
def claimSlots (s : State) (tile : Nat) (v : Word) : State × Word :=
  let n := wf64 v 6 0
  let first := wf64 v 15 8
  let exact := wf64 v 16 16 == 1
  let cl := tileCluster tile
  if n = 0 || 64 < n || (exact && 256 < first + n) then (s, BitVec.ofNat 64 (2 * 2 ^ 16))
  else
    match claimRun s cl n first exact with
    | none => (s, BitVec.ofNat 64 (2 ^ 16))
    | some f =>
      let x : OpSlot := { claim := some tile, job := ((tileOf s tile).job).getD 0 }
      ((span f n).foldl (fun s i => setOpSlot s cl i x) s, BitVec.ofNat 64 (f + n * 2 ^ 8))

/-- OCLM (R265): the claim is made at issue and its result lands eight core cycles later. -/
def execOclm (o : FormDA) (s : State) : Out :=
  issue s do
    let st := cur s
    let a ← readSrc st o.a false
    tokensReady st o.tk
    destReady st o.d
    let (s1, v) := claimSlots s s.curTile a
    .ok (retire (setCur s1 (landLater (popBits (cur s1) o.tk) o.d v .fixed)) o.tk .seq)

/-- A slot released by its tile (R266): FREE, or DRAINING while it is referenced. -/
def releaseSlot (cl : Nat) (s : State) (n : Nat) : State :=
  if slotReferenced s cl n then setOpSlot s cl n { opSlotOf s cl n with draining := true } else setOpSlot s cl n {}

/-- OREL (R266). -/
def execOrel (o : FormAB) (s : State) : Out :=
  issue s do
    let st := cur s
    let a ← readSrc st o.a false
    let b ← readSrc st o.b false
    tokensReady st o.tk
    let first := wf64 a 7 0
    let n := wf64 b 6 0
    let cl := tileCluster s.curTile
    let mine (i : Nat) : Bool := let x := opSlotOf s cl i; x.claim == some s.curTile && !x.draining
    need (n != 0 && decide (n ≤ 64) && decide (first + n ≤ 256) && (span first n).all mine) .slot
      (BitVec.ofNat 64 (first + n * 2 ^ 8))
    let s1 := (span first n).foldl (releaseSlot cl) s
    .ok (retire (setCur s1 (popBits (cur s1) o.tk)) o.tk .seq)

/-! Dispatch (R273, R305). -/

/-- What the scheduler does with a cycle. -/
inductive Disp where
  | none
  | cancel (k : Task)
  | slot (k : Task) (n : Nat)
  | reuse (k : Task) (sub : Nat)
  | send (k : Task) (e : Nat) (st : Option MmdlSt)
  deriving DecidableEq, Repr

/-- The first slot that fails the check of R264. -/
def badSlot (s : State) (cl : Nat) (k : Task) : Option Nat :=
  (k.caps.find? fun p =>
    let x := opSlotOf s cl p.1
    p.2 == 0 || x.claim.isNone || x.job != k.cmd.job || x.badFills.contains p.2).map (·.1)

/-- Every slot of a task is ready (R264). -/
def slotsReady (s : State) (cl : Nat) (k : Task) : Bool := k.caps.all fun p => (opSlotOf s cl p.1).fdone == p.2

def sameChainTasks (a b : Task) : Bool := a.tile == b.tile && a.chn == b.chn && a.gen == b.gen && a.cmd.job == b.cmd.job

/-- An MMDL accepted earlier that names the same entry. -/
def sameEntry (a b : Task) : Bool := cmdSub a.cmd == 3 && mtRent a.cmd.tmpl == mtRent b.cmd.tmpl

/-- The engine that would take a task now (R273). -/
def pickEngine (c : Cluster) (k : Task) : Option Nat :=
  if mtCont k.cmd.tmpl then
    match chainOf c k with
    | some x => if x.placed && decide ((engineOf c x.eng).inbox.length < 2) then some x.eng else none
    | none => none
  else (List.range 16).find? fun e =>
    eligible c k.cmd.job e && decide ((engineOf c e).inbox.length < 2) && decide (allocated (engineOf c e) < 4)

/-- The scan of the queue in acceptance order (R273, R305). The tasks of a job that is being saved stay in it (R291). -/
def scanTasks (s : State) (cl : Nat) : List Task → List Task → Disp
  | _, [] => .none
  | earlier, k :: rest =>
    let c := clusterOf s cl
    let skip := scanTasks s cl (earlier ++ [k]) rest
    let mmdl := cmdSub k.cmd == 3
    if beingSaved s k.cmd.job || (mtCont k.cmd.tmpl && earlier.any (sameChainTasks k)) || (mmdl && earlier.any fun x => sameEntry x k) then skip
    else if chainFaulted c k then .cancel k
    else
      match badSlot s cl k with
      | some n => .slot k n
      | none =>
        if slotsReady s cl k then
          match pickEngine c k with
          | none => skip
          | some e =>
            if mmdl then
              if entryHeld s (mtRent k.cmd.tmpl) none || cmdBehind s k.cmd (mtRent k.cmd.tmpl) then skip
              else
                match admitMmdl s k.cmd with
                | .busy => skip
                | .fail sub => .reuse k sub
                | .go st => .send k e (some st)
            else .send k e none
        else skip

/-- A record leaves the queue. -/
def unqueue (s : State) (cl : Nat) (k : Task) : State :=
  let c := clusterOf s cl
  setCluster s cl { c with taskq := c.taskq.filter fun x => x.cmd.id != k.cmd.id }

/-- A record sent to an engine's inbox. A NEW task takes the entry at the head of the ring, cleared (R273, R280). -/
def sendTask (s : State) (cl : Nat) (k : Task) (e : Nat) (st : Option MmdlSt) : State :=
  let s1 := unqueue s cl k
  let g := engineOf (clusterOf s1 cl) e
  let ent := if mtCont k.cmd.tmpl then ((chainOf (clusterOf s1 cl) k).map (·.ent)).getD 0 else headEntry g
  let g1 := { g with inbox := g.inbox ++ [{ k with eng := e, ent := ent }]
                     inboxMmdl := match st with
                       | some m => mset g.inboxMmdl k.cmd.id m
                       | none => g.inboxMmdl }
  let s2 := match st with
    | some _ =>
      setEntry (cacheEntry s1 cl (mtRent k.cmd.tmpl)) (mtRent k.cmd.tmpl) { entryAt s1 (mtRent k.cmd.tmpl) with busy := true }
    | none => s1
  if mtCont k.cmd.tmpl then setEngine s2 cl e g1
  else
    let place (x : Chain) : Chain :=
      { x with placed := true, eng := e, ent := headEntry g, st := if x.closed then .closing else .opened }
    let s3 := setEngine s2 cl e (takeEntry g1 {})
    match chainOf (clusterOf s3 cl) k with
    | some x => updChain s3 cl x place
    | none => s3

/-- A task of a FAULTED chain is cancelled (R281). -/
def cancelTask (s : State) (cl : Nat) (k : Task) : State :=
  let code := ((chainOf (clusterOf s cl) k).map (·.fault)).getD 0
  settleSlots (endTask s cl k code) cl k

/-- The engine that the record of a fault at dispatch names (R281): that of the task's chain, once it has one. -/
def chainUnit (s : State) (cl : Nat) (k : Task) : Nat :=
  match chainOf (clusterOf s cl) k with
  | some x => if x.placed then x.eng else 0
  | none => 0

/-- TASK_DISPATCH (R273): one dispatch. -/
def execTaskDispatch (cluster : Nat) (s : State) : Out :=
  match scanTasks s cluster [] (clusterOf s cluster).taskq with
  | .none => .next s
  | .cancel k => .next (cancelTask (unqueue s cluster k) cluster k)
  | .slot k n =>
    .next (settleSlots (failTask (unqueue s cluster k) cluster k .slot 0 0 n (chainUnit s cluster k)) cluster k)
  | .reuse k sub =>
    .next (settleSlots (failTask (unqueue s cluster k) cluster k .reuse sub 0 (mtRent k.cmd.tmpl) (chainUnit s cluster k)) cluster k)
  | .send k e st => .next (sendTask s cluster k e st)

/-! Execution (R274 to R277). -/

/-- A dispatched task ends without its result: an MMDL gives its entry up (R310). DESIGN CHOICE (assumption 166): VAL and BUSY are cleared
whatever ended the task. -/
def giveEntry (s : State) (c : Cmd) : State :=
  if cmdSub c = 3 then scrubDropped (spoilEntry s (mtRent c.tmpl)) (mtRent c.tmpl) else s

/-- A task that an engine holds ends with a fault (R281). -/
def engineFault (s : State) (cl e : Nat) (k : Task) (cause : Cause) (sub addr detail : Nat) : State :=
  settleSlots (failTask (giveEntry s k.cmd) cl k cause sub addr detail e) cl k

/-- What ends a task before it starts: cause, sub-reason, address and DETAIL. -/
abbrev StartFault := Cause × Nat × Nat × Nat

/-- An access fault of a task's feeder. -/
def startFault (a : Nat) (f : AccFault) : StartFault := ((accCause f).1, (accCause f).2, accAt f a, 0)

/-- Row i of a gathered A (R277): from scratchpad, or the default row. Poison in a default row names the slot and the offset (R281). -/
def gatherRow (s : State) (cl : Nat) (c : Cmd) (x : Int) : Except StartFault (List Byte) :=
  let t := c.tmpl
  let n := rowBytes c.fte
  if 0 ≤ x ∧ x < mtGrn t then
    let a := moveAddr (mtGbase t) ((64 * mtGrs t : Nat) * x)
    match engRead s (whoOf c .matrix) a n (mtGbase t / 2 ^ 56 == 2) with
    | .ok bs => .ok bs
    | .error f => .error (startFault a f)
  else if mtGdef t then
    match slotPoison s cl (mtM t) (64 * mtMoff t) n with
    | some (m, off) => .error (.poison, 0, off, m)
    | none => .ok (slotBytes s cl (mtM t) (64 * mtMoff t) n)
  else .ok (List.replicate n 0)

/-- The 64 rows that the feeder holds before an MMG starts (R277). -/
def gatherRows (s : State) (cl : Nat) (c : Cmd) : Except StartFault (List (List Byte)) :=
  let a := ownAddr (mtGiv c.tmpl * 64)
  match engRead s (whoOf c .matrix) a 256 false with
  | .error f => .error (startFault a f)
  | .ok bs => (List.range 64).mapM fun i => gatherRow s cl c (sextN 32 (leNat ((bs.drop (4 * i)).take 4)))

/-- What a task holds when it starts: an MMG its rows, a delta MMDL the saved operand and result (R277, R306). -/
def startTask (s : State) (cl : Nat) (k : Task) (st : Option MmdlSt) : Except StartFault Running :=
  match cmdSub k.cmd, st with
  | 2, _ =>
    match gatherRows s cl k.cmd with
    | .ok rows => .ok { task := k, rows := rows }
    | .error f => .error f
  | _, some m =>
    if m.refresh then .ok { task := k, mmdl := some m }
    else
      match readPrev s k.cmd m with
      | .ok m1 => .ok { task := k, mmdl := some m1 }
      | .error f => .error (startFault (entryAt s (mtRent k.cmd.tmpl)).xaddr.toNat f)
  | _, none => .ok { task := k }

/-- TASK_START (R274): the oldest record of an inbox starts on an engine that runs no task. A task behind the one that made its
chain FAULTED is cancelled without running (R281). -/
def execTaskStart (cluster engine : Nat) (s : State) : Out :=
  let c := clusterOf s cluster
  let g := engineOf c engine
  match g.run, g.inbox with
  | none, k :: rest =>
    let st := mget? g.inboxMmdl k.cmd.id
    let s1 := setEngine s cluster engine { g with inbox := rest, inboxMmdl := mdel g.inboxMmdl k.cmd.id }
    if (chainOf c k).any fun x => x.st == .faulted && decide (x.faultId < k.cmd.id) then
      .next (cancelTask (giveEntry s1 k.cmd) cluster k)
    else
      match startTask s cluster k st with
      | .ok r => .next (setEngine s1 cluster engine { engineOf (clusterOf s1 cluster) engine with run := some r })
      | .error (cause, sub, a, d) => .next (engineFault s1 cluster engine k cause sub a d)
  | _, _ => .next s

/-- The value of a chain's entry that a task starts from: +0 for a NEW task (R103, R280). -/
def entryOf (c : Cluster) (e : Nat) (k : Task) : RingEntry :=
  if mtCont k.cmd.tmpl then
    match chainOf c k with
    | some x => mget (engineOf c e).ring x.ent {}
    | none => {}
  else {}

/-- A task of one SUB whose slots are being read: POISON of a slot's data ends it, otherwise its result is formed. -/
def runTask (sub cluster engine : Nat) (s : State) (f : Running → RingEntry → State → State) : Out :=
  let c := clusterOf s cluster
  let g := engineOf c engine
  match g.run with
  | none => .next s
  | some r =>
    let k := r.task
    if cmdSub k.cmd ≠ sub ∨ r.result.isSome then .next s
    else
      match operandPoison s cluster k.cmd.tmpl k.cmd.fte with
      | some (n, off) =>
        let s1 := setEngine s cluster engine { g with run := none }
        .next (engineFault s1 cluster engine k .poison 0 off n)
      | none => .next (f r (entryOf c engine k) s)

/-- The result of a running task held until it is written. -/
def putResult (s : State) (cl e : Nat) (r : Running) (res : List (BitVec 48) × Bool) : State :=
  setEngine s cl e { engineOf (clusterOf s cl) e with run := some { r with result := some res } }

/-- MMD (R275). -/
def execMmd (cluster engine : Nat) (s : State) : Out :=
  runTask 0 cluster engine s fun r old s =>
    let t := r.task.cmd.tmpl
    let e := r.task.cmd.fte
    putResult s cluster engine r (tileResult (ftAcc e) old.vals (rowsA s cluster t e) (taskCols s cluster t e))

/-- MMS (R276): the metadata is checked before anything is accumulated. -/
def execMms (cluster engine : Nat) (s : State) : Out :=
  runTask 1 cluster engine s fun r old s =>
    let t := r.task.cmd.tmpl
    let e := r.task.cmd.fte
    let bits := metaBits s cluster t e
    match badGroup bits e with
    | some g =>
      let s1 := setEngine s cluster engine { engineOf (clusterOf s cluster) engine with run := none }
      engineFault s1 cluster engine r.task .spmeta 0 0 g
    | none =>
      putResult s cluster engine r
        (sparseResult (ftAcc e) old.vals bits e (rowsA s cluster t e) (taskCols s cluster t e))

/-- MMG (R277): A is the gathered rows, each with its scales after its planes. -/
def execMmg (cluster engine : Nat) (s : State) : Out :=
  runTask 2 cluster engine s fun r old s =>
    let t := r.task.cmd.tmpl
    let e := r.task.cmd.fte
    let row (bs : List Byte) : List Val :=
      operandRow (ftA e) (rateOf e) (ftApl e) (ftHlsb e) (ftAcc e) (bs.take 128) (bs.drop 128) (mtK e)
    putResult s cluster engine r (tileResult (ftAcc e) old.vals (r.rows.map row) (taskCols s cluster t e))

/-- MMDL (R307). -/
def execMmdl (cluster engine : Nat) (s : State) : Out :=
  runTask 3 cluster engine s fun r _ s =>
    match r.mmdl with
    | none => s
    | some m =>
      let m1 := mmdlCompute s cluster r.task.cmd m
      putResult s cluster engine { r with mmdl := some m1 } (m1.yprev, false)

/-- TASK_SLOT_READ_END (R264): the running task has read its slots. -/
def execTaskSlotReadEnd (cluster engine : Nat) (s : State) : Out :=
  let g := engineOf (clusterOf s cluster) engine
  match g.run with
  | none => .next s
  | some r =>
    if r.result.isSome && !r.readDone then
      .next (settleSlots (setEngine s cluster engine { g with run := some { r with readDone := true } }) cluster r.task)
    else .next s

/-- The ring entry written by a task's end, and its chain FULL when the task closes it; a chain that has become FAULTED stays so
(R274, R279). -/
def writeEntry (s : State) (cl e : Nat) (k : Task) (res : List (BitVec 48) × Bool) : State :=
  match chainOf (clusterOf s cl) k with
  | none => s
  | some x =>
    let g := engineOf (clusterOf s cl) e
    let old := entryOf (clusterOf s cl) e k
    let s1 := setEngine s cl e { g with ring := mset g.ring x.ent { vals := res.1, sat := old.sat || res.2 } }
    if mtClose k.cmd.tmpl then updChain s1 cl x fun y => { y with st := if y.st = .faulted then y.st else .full } else s1

/-- TASK_COMPLETE (R274, R309): the entry is written and the task completes; an MMDL leaves its write-back to the reuse
unit. -/
def execTaskComplete (cluster engine : Nat) (s : State) : Out :=
  let g := engineOf (clusterOf s cluster) engine
  match g.run with
  | none => .next s
  | some r =>
    match r.result with
    | none => .next s
    | some res =>
      if r.readDone then
        let s1 := writeEntry (setEngine s cluster engine { g with run := none }) cluster engine r.task res
        let c := clusterOf s1 cluster
        let s2 := match r.mmdl with
          | some m => setCluster s1 cluster { c with writebacks := c.writebacks ++ [{ task := r.task, st := m }] }
          | none => s1
        .next (endTask s2 cluster r.task 0)
      else .next s

/-- MMDL_WRITEBACK (R309, R310): write-back n of a cluster is performed and its entry, cached in the cluster (R293), updated in one
step; a fault leaves the entry not valid and a record, and RFREE observes the rows written before it (R298). An entry whose context is
no longer VALID is then scrubbed (R428). -/
def execMmdlWriteback (cluster n : Nat) (s : State) : Out :=
  let c := clusterOf s cluster
  match c.writebacks[n]? with
  | none => .next s
  | some b =>
    let k := b.task.cmd
    let (s1, rows, err) := backRows k b.st b.st.rows 0 (cacheEntry s cluster (mtRent k.tmpl))
    let drop (s : State) : State :=
      let c1 := clusterOf s cluster
      setCluster s cluster { c1 with writebacks := ldrop c1.writebacks n }
    match err with
    | none => .next (scrubDropped (settleEntry (drop s1) k b.st) (mtRent k.tmpl))
    | some (.hold v) => .next (holdWrite s1 { reuseWho k with key := lateKey k.id } v)
    | some f =>
      let (cause, sub) := accCause f
      let o := { cmdOffer s1 k cause 5 (mtRent k.tmpl) with sub := sub, prog := BitVec.ofNat 64 rows, resp := isLost f }
      let s2 := noteWriter (spoilEntry (drop s1) (mtRent k.tmpl)) (mtRent k.tmpl) (lateKey k.id)
      .next (scrubDropped (offer s2 o) (mtRent k.tmpl))

/-! TASKW (R289). -/

/-- Whether the drain of a closed chain needs no more waiting: it has ended, the instance is discarded or gone, or it is
FAULTED with every task ended. -/
def drainOver (s : State) (tile : Nat) (o : TaskObs) : Bool :=
  let c := clusterOf s (tileCluster tile)
  o.drained.isSome ||
    match c.chains.find? fun x => x.tile == tile && x.chn == o.chn && x.gen == o.gen && some x.job == (tileOf s tile).job with
    | none => true
    | some x => x.discard || (x.st == .faulted && chainIdle c x)

/-- The result of TASKW (R289). -/
def taskwResult (os : List TaskObs) : Word :=
  let code (o : TaskObs) : BitVec 8 := if o.ended.getD 0 ≠ 0 then o.ended.getD 0 else o.drained.getD 0
  let first := ((os.map code).find? (· != 0)).getD 0
  BitVec.ofNat 64 (min os.length 255 * 2 ^ 8 + first.toNat)

/-- The tasks of a tag that TASKW observes (R289). -/
def taskwOf (st : Stream) (a : Word) : List TaskObs := st.tasks.filter fun x => x.tag == BitVec.ofNat 16 (wf64 a 15 0)

/-- Whether the tasks that TASKW observes have ended and, with DRAIN, the drains of those that close a chain (R289). -/
def taskwOver (s : State) (t : Nat) (a : Word) (os : List TaskObs) : Bool :=
  os.all fun x => x.ended.isSome && (!a.getLsbD 16 || !x.closes || drainOver s t x)

/-- TASKW (R289): it waits for the stream's tasks of a tag and, with DRAIN, for the drains of those that close a chain, and
observes their completion (R181). -/
def execTaskw (o : FormDA) (s : State) : Out :=
  issue s do
    let st := cur s
    let a ← readSrc st o.a false
    tokensReady st o.tk
    destReady st o.d
    let os := taskwOf st a
    let seen (x : TaskObs) : Know :=
      kmerge x.know { cmds := ownKey x.id :: (if a.getLsbD 16 && x.closes then [lateKey x.id] else []) }
    waitFor (taskwOver s s.curTile a os)
    let left := st.tasks.filter fun x => x.tag != BitVec.ofNat 16 (wf64 a 15 0)
    let st1 := learn (popBits { st with tasks := left } o.tk) ((os.map seen).foldl kmerge {})
    .ok (retire (setCur s (putReg st1 o.d (taskwResult os))) o.tk .seq)

/-- ACCD (R288). -/
def execAccd (o : FormA) (s : State) : Out :=
  issue s do
    let st := cur s
    let a ← readSrc st o.a false
    tokensReady st o.tk
    match namedChain s s.curTile a with
    | none => .error (.trap .ring a)
    | some x =>
      let t := tileOf s s.curTile
      let b := chnOf t x.chn
      let t1 := if b.bindings = x.gen + 1 then { t with chns := mset t.chns x.chn { b with bound := false } } else t
      let cl := tileCluster s.curTile
      let s1 := updChain (setTile s s.curTile t1) cl x fun y => { y with discard := true }
      let s2 := sweepChains s1 cl
      .ok (retire (setCur s2 (popBits (cur s2) o.tk)) o.tk .seq)

end Sys2Proof.Machine
end

