-- ==== Sys2Proof/Machine/Epilogue.lean ====
section
/-! DEFINITION. The epilogue engine: records, EPIL, and the drain of a ring entry (R282 to R287). -/

namespace Sys2Proof.Machine

/-! Epilogue records (R282). -/

def epWord (r : List Word) (n : Nat) : Word := r.getD n 0
def epOfmt (r : List Word) : Nat := wf64 (epWord r 0) 23 20
def epAct (r : List Word) : Nat := wf64 (epWord r 0) 15 12
def epBmode (r : List Word) : Nat := wf64 (epWord r 0) 11 10
def epSmode (r : List Word) : Nat := wf64 (epWord r 0) 9 8
def epCwe (r : List Word) : Bool := (epWord r 0).getLsbD 0
def epStride (r : List Word) : Nat := wf64 (epWord r 4) 31 0

/-- The offset of the first word that fails a TEMPLATE check of R283. -/
def epTemplate (r : List Word) : Option Nat :=
  let e0 := epWord r 0
  if wf64 e0 63 24 ≠ 0 ∨ wf64 e0 19 16 ≠ 0 ∨ wf64 e0 7 1 ≠ 0 ∨ epOfmt r = 13 ∨ epOfmt r = 14 ∨ 3 < epAct r then some 0
  else if wf64 (epWord r 4) 63 32 ≠ 0 then some 32
  else if epWord r 5 ≠ 0 ∧ epOfmt r ≠ 5 ∧ epOfmt r ≠ 15 then some 40
  else if (epWord r 7).getLsbD 63 then some 56
  else none

/-- The bytes of a result row (R283); an unresolved OFMT 15 counts 64. -/
def epRow (ofmt : Nat) : Nat :=
  match sfOf ofmt with
  | some sf => 64 * sfBytes sf
  | none => 64

/-- The bytes of a scale or bias vector by its mode. -/
def vecBytes (mode : Nat) : Nat := if mode = 3 then 4 else 256

/-- The check of one address of a record over the span that it reaches, in the order of R141 (R283). L2 pages are not translated here. -/
def epSpan (s : State) (t : Nat) (sk : Strm) (a : Word) (n align : Nat) : Chk Unit := do
  need (wf64 a 55 0 % align == 0) .align a
  need (nearSel a == 1 || nearSel a == 2 || nearSel a == 3) .accessPath a
  match nearSel a with
  | 1 => let _ ← nearOwn s t sk a n
  | 2 => let _ ← nearPeer s t sk a n
  | _ => need (decide (wf64 a 55 0 + n ≤ 2 ^ 32)) .nearBounds a

/-- The bytes from DEST to the end of the last result row. -/
def destSpan (r : List Word) (row : Nat) : Nat := 63 * epStride r + row

/-- The address checks of R283 that EPIL makes. DESIGN CHOICE (assumption 159): their order, where several fail. -/
def epChecks (s : State) (t : Nat) (sk : Strm) (r : List Word) : Chk Unit := do
  let row := epRow (epOfmt r)
  if epSmode r = 0 then .ok () else epSpan s t sk (epWord r 1) (vecBytes (epSmode r)) 4
  if epBmode r = 0 then .ok () else epSpan s t sk (epWord r 2) (vecBytes (epBmode r)) 4
  epSpan s t sk (epWord r 3) (destSpan r row) 64
  need (epStride r % 64 == 0 && decide (row ≤ epStride r)) .align 0
  if epOfmt r = 5 then epSpan s t sk (epWord r 5) 128 2 else .ok ()
  if epCwe r then epSpan s t sk (epWord r 6) 8 8 else .ok ()

/-- EPIL (R287). -/
def execEpil (o : FormAB) (s : State) : Out :=
  issue s do
    let st := cur s
    let a ← readSrc st o.a false
    let b ← readSrc st o.b false
    tokensReady st o.tk
    need (wf64 a 55 0 % 64 == 0) .align a
    need (nearSel a == 1 || nearSel a == 2 || nearSel a == 3) .accessPath a
    let bs ← nearSpan s a 64
    let r := wordsOf 8 bs
    match epTemplate r with
    | some off => .error (.trap .template (BitVec.ofNat 64 off))
    | none =>
      epChecks s s.curTile s.curStrm r
      match (namedChain s s.curTile b).filter chainLive with
      | none => .error (.trap .ring b)
      | some x =>
        let rec_ : EpiRec := { words := r, tile := s.curTile, strm := s.curStrm }
        let s1 := updChain (seeSpan s a 64) (tileCluster s.curTile) x fun y => { y with epi := some rec_ }
        .ok (retire (setCur s1 (popBits (cur s1) o.tk)) o.tk .seq)

/-! Activations (R284), on FP32 codes. -/

def fval (x : Nat) : Val := fdecode fp32 x

/-- The FP32 values nearest 0.398942, −0.037626 and log2 e. -/
def geluC1 : Nat := (toFloat fp32 false 1 0 (.fin false (398942 * 2 ^ 100 / 1000000) (-100))).1
def geluC3 : Nat := (toFloat fp32 false 1 0 (.fin true (37626 * 2 ^ 100 / 1000000) (-100))).1
def l2e : Nat := 0x3FB8AA3B

def fp32One : Nat := 0x3F800000
def fp32Half : Nat := 0x3F000000

def actRelu (z : Nat) : Nat := if vlt (.fin false 0 0) (fval z) then z else 0

/-- h of GELU for a finite z. -/
def geluH (z : Nat) : Nat :=
  let lim : Val := .fin false 15 (-3)
  if !vlt (fval z) lim then fp32One
  else if !vlt (vneg lim) (fval z) then 0
  else
    let u := rneFp32 (vmul (fval z) (fval z))
    let w := rneFp32 (vadd (vmul (fval geluC3) (fval u)) (fval geluC1))
    let h := rneFp32 (vadd (vmul (fval z) (fval w)) (fval fp32Half))
    if !vlt (.fin false 0 0) (fval h) then 0 else if vlt (fval fp32One) (fval h) then fp32One else h

def actGelu (z : Nat) : Nat :=
  match fval z with
  | .inf n => if n then fsign fp32 true 0 else z
  | _ => rneFp32 (vmul (fval z) (fval (geluH z)))

/-- SiLU through the array operators VEXP2 and VRCP (R245). -/
def actSilu (z : Nat) : Nat :=
  match fval z with
  | .inf n => if n then fsign fp32 true 0 else z
  | _ =>
    let e := vexp2Code (rneFp32 (vmul (vneg (fval z)) (fval l2e)))
    let d := rneFp32 (vadd (fval fp32One) (fval e))
    let r := (frcpOf fp32 1 0 (fval d)).1
    rneFp32 (vmul (fval z) (fval r))

/-- An activation on an FP32 code (R284); a NaN gives the canonical NaN. -/
def epAct32 (act z : Nat) : Nat :=
  if visNan (fval z) then fnanCode fp32
  else
    match act with
    | 0 => z
    | 1 => actRelu z
    | 2 => actGelu z
    | _ => actSilu z

/-! The drain (R284 to R286). -/

/-- The agent of a drain: the stream that issued EPIL, in the closing task's context. A WAITW that returns the completion word observes
the drain (R285). -/
def drainWho (p : EpiRec) (c : Cmd) : Who :=
  { tile := p.tile, strm := p.strm, ctxn := c.ctxn, path := .matrix, die := tileDie p.tile, unit := .second (tileCluster p.tile)
    key := lateKey c.id, sees := some (c.base, c.reach), know := kmerge (doneKnow c) { cmds := [lateKey c.id] } }

/-- Whether an access of a drain asks for the ownership of a handle (R286). -/
def drainOwn (a : Nat) : Bool := a / 2 ^ 56 == 2

/-- OFMT as the drain resolves it (R283). -/
def drainFmt (r : List Word) (c : Cmd) : Nat := if epOfmt r = 15 then ftO c.fte else epOfmt r

/-- The checks that OFMT 15 defers to the drain (R283, R286): the cause, its sub-reason and the address of the first failure. -/
def deferred (s : State) (p : EpiRec) (c : Cmd) : Option (Cause × Nat × Nat) :=
  let r := p.words
  let f := drainFmt r c
  if epOfmt r ≠ 15 then none
  else
    let look (m : Chk Unit) (a : Word) : Option (Cause × Nat × Nat) :=
      match m with
      | .ok _ => none
      | .error (.trap .align _ _) => some (.layout, 0, a.toNat)
      | .error (.trap k _ sub) => some (k, sub, a.toNat)
      | .error .stall => none
    let dest := look (epSpan s p.tile p.strm (epWord r 3) (destSpan r (epRow f)) 64) (epWord r 3)
    let stride := if epStride r % 64 ≠ 0 ∨ epStride r < epRow f then some (Cause.layout, 0, (epWord r 3).toNat) else none
    let scale :=
      if f = 5 then look (epSpan s p.tile p.strm (epWord r 5) 128 2) (epWord r 5)
      else if epWord r 5 ≠ 0 then some (Cause.layout, 0, (epWord r 5).toNat) else none
    dest.or (stride.or scale)

/-- A vector or scalar of a row, as 64 values (R284): by mode, with a constant where there is none. -/
def drainVec (s : State) (w : Who) (mode : Nat) (a : Word) (row none_ : Nat) : Except (AccFault × Nat) (List Nat) :=
  let read (x n : Nat) : Except (AccFault × Nat) (List Byte) :=
    match engRead s w x n (drainOwn x) with
    | .ok bs => .ok bs
    | .error f => .error (f, x)
  match mode with
  | 0 => .ok (List.replicate 64 none_)
  | 2 =>
    match read a.toNat 256 with
    | .ok bs => .ok ((List.range 64).map fun i => leNat ((bs.drop (4 * i)).take 4))
    | .error f => .error f
  | _ =>
    match read (moveAddr a.toNat (if mode = 1 then 4 * row else 0)) 4 with
    | .ok bs => .ok (List.replicate 64 (leNat bs))
    | .error f => .error f

/-- The entry's value at a position (R95, R96). -/
def entryVal (x : Chain) (v : BitVec 48) : Val := if x.acc then ofInt v.toInt else fdecode a48 v.toNat

/-- The values of a row after scale, bias and activation (R284). -/
def drainRow (r : List Word) (vals : List Val) (sc bi : List Nat) : List Val :=
  if epSmode r = 0 ∧ epBmode r = 0 ∧ epAct r = 0 then vals
  else vals.zipIdx.map fun (v, i) =>
    fval (epAct32 (epAct r) (rneFp32 (vadd (vmul v (fval (sc.getD i 0))) (fval (bi.getD i 0)))))

/-- The random word of output element n of a closing task (R100). -/
def drainSr (s : State) (c : Cmd) (n : Nat) : Nat :=
  if c.rm.toNat = 5 then
    srWord n (wf64 c.srBase 31 0) (wf64 c.srBase 63 32) (0x02000000 + 4 * c.tile + sidx c.strm) (ctxWord s c.ctxn 1)
  else 0

/-- The bytes of a converted row, and its scale pair when the format is BPI (R102, R116, R285). -/
def rowOut (s : State) (c : Cmd) (f row : Nat) (ys : List Val) : List Byte × List Byte :=
  let u (i : Nat) := drainSr s c (64 * row + i)
  match sfOf f with
  | some .bpi =>
    let (s0, a) := bpiHalf c.rm.toNat u (ys.take 32)
    let (s1, b) := bpiHalf c.rm.toNat (fun i => u (32 + i)) (ys.drop 32)
    (bpiPlanes (a ++ b), [BitVec.ofNat 8 s0, BitVec.ofNat 8 s1])
  | some sf => (ys.zipIdx.flatMap fun (y, i) => leBytes (sfBytes sf) (sfWrite sf (ftSat8 c.fte) c.rm.toNat (u i) y), [])
  | none => ([], [])

/-- The drain ends and its entry becomes FREE (R285, R286). -/
def endDrain (s : State) (cl e : Nat) (x : Chain) (code : BitVec 8) : State :=
  let c := clusterOf s cl
  let g := engineOf c e
  let c1 := { c with chains := c.chains.filter (fun y => !sameChain x y)
                     engines := mset c.engines e { freeTail g with drain := none } }
  sweepChains (noteDrain (setCluster s cl c1) x code) cl

/-- A drain stops (R286): a record with the rows performed, and the entry is freed. -/
def stopDrain (s : State) (cl e : Nat) (x : Chain) (c : Cmd) (cause : Cause) (sub addr rows : Nat) : State :=
  let o := { cmdOffer s c cause 2 e with
               sub := sub, addr := BitVec.ofNat 64 addr, prog := BitVec.ofNat 64 rows }
  endDrain (offer s o) cl e x (causeByte cause)

/-- A drain stopped by an access. A write to a page that must collapse first waits. -/
def drainFault (s : State) (cl e : Nat) (x : Chain) (c : Cmd) (w : Who) (f : AccFault) (a rows : Nat) : State :=
  match f with
  | .hold v => holdWrite s w v
  | _ => stopDrain s cl e x c (accCause f).1 (accCause f).2 (accAt f a) rows

/-- One row of a drain: vectors read, values converted, row and scale pair written (R284, R285). The pair's address is checked before
the row is written, so that a drain stops at a row boundary (R286). -/
def drainStep (s : State) (cl e : Nat) (x : Chain) (p : EpiRec) (c : Cmd) (row : Nat) : State :=
  let r := p.words
  let w := drainWho p c
  let g := engineOf (clusterOf s cl) e
  let vals := (((mget g.ring x.ent {}).vals.drop (64 * row)).take 64).map (entryVal x)
  match drainVec s w (epSmode r) (epWord r 1) row fp32One, drainVec s w (epBmode r) (epWord r 2) row 0 with
  | .error (f, a), _ => drainFault s cl e x c w f a row
  | _, .error (f, a) => drainFault s cl e x c w f a row
  | .ok sc, .ok bi =>
    let (bs, pair) := rowOut s c (drainFmt r c) row (drainRow r vals sc bi)
    let a := moveAddr (epWord r 3).toNat (row * epStride r : Nat)
    let b := moveAddr (epWord r 5).toNat (2 * row : Nat)
    match engWrite s w a bs (drainOwn a), (if pair.isEmpty then .ok s else engWrite s w b pair (drainOwn b)) with
    | .error f, _ => drainFault s cl e x c w f a row
    | _, .error f => drainFault s cl e x c w f b row
    | .ok s1, .ok _ =>
      match (if pair.isEmpty then .ok s1 else engWrite s1 w b pair (drainOwn b)) with
      | .error f => drainFault s cl e x c w f b row
      | .ok s2 =>
        let g2 := engineOf (clusterOf s2 cl) e
        setEngine s2 cl e { g2 with drain := g2.drain.map fun d => { d with row := row + 1 } }

/-- EPILOGUE_DRAIN (R284): it begins on a FULL entry at the tail with a record attached, and then performs a row. -/
def execEpilogueDrain (cluster engine : Nat) (s : State) : Out :=
  let cc := clusterOf s cluster
  let g := engineOf cc engine
  match g.alloc.head?.bind (entryChain cc engine) with
  | none => .next s
  | some x =>
    match x.epi, x.closer with
    | some p, some c =>
      match g.drain with
      | none =>
        if x.st = .full && !x.discard then
          match deferred s p c with
          | some (cause, sub, a) => .next (stopDrain s cluster engine x c cause sub a 0)
          | none =>
            let s1 := setEngine s cluster engine { g with drain := some { tile := x.tile, chn := x.chn, gen := x.gen } }
            .next (updChain s1 cluster x fun y => { y with st := .draining })
        else .next s
      | some d => if d.row < 64 then .next (drainStep s cluster engine x p c d.row) else .next s
    | _, _ => .next s

/-- DRAIN_COMPLETE (R285): every row has been performed. -/
def execDrainComplete (cluster engine : Nat) (s : State) : Out :=
  let cc := clusterOf s cluster
  let g := engineOf cc engine
  match g.drain, g.alloc.head?.bind (entryChain cc engine) with
  | some d, some x =>
    match x.epi, x.closer with
    | some p, some c =>
      if d.row < 64 then .next s
      else if epCwe p.words then
        let a := (epWord p.words 6).toNat
        let sat := (mget g.ring x.ent {}).sat
        let v := wf64 (epWord p.words 7) 62 0 + (if sat then 2 ^ 63 else 0)
        match engWrite s (drainWho p c) a (leBytes 8 v) (drainOwn a) with
        | .ok s1 => .next (endDrain s1 cluster engine x 0)
        | .error f => .next (drainFault s cluster engine x c (drainWho p c) f a 64)
      else .next (endDrain s cluster engine x 0)
    | _, _ => .next s
  | _, _ => .next s

end Sys2Proof.Machine
end

