-- ==== Sys2Proof/Machine/Reuse.lean ====
section
/-! DEFINITION. The reuse instructions (R296 to R301) and the step cask (R312 to R319). -/

namespace Sys2Proof.Machine

/-- The sub-reason for which a page of a region has no translation for a read, if it has none (R297, R395, R397). -/
def pageFault (s : State) (ctxn cl a : Nat) : Option Nat :=
  let x := if a / 2 ^ 56 = 3 then xlL2 s (.second cl) ctxn (a % 2 ^ 56) false
    else if a < 2 ^ 56 then xlVa s (.second cl) ctxn a false else .fault 1
  match x with
  | .ok _ _ => none
  | .fault sub => some sub
  | .dup _ _ => some 3

/-! RBIND (R297). -/

def rkindOf (n : Nat) : RKind :=
  match n with
  | 1 => .delta
  | 2 => .step
  | _ => .free

def rkindCode : RKind → Nat
  | .free => 0
  | .delta => 1
  | .step => 2

/-- Sub-reason 5: a descriptor field out of range, or a reserved or device-owned field that is not zero (R294, R297). -/
def descFields (w : List Word) : Bool :=
  let d (n : Nat) : Word := w.getD n 0
  let kind := wf64 (d 1) 47 46
  let common := d 0 == 0 && d 1 == BitVec.ofNat 64 (kind * 2 ^ 46) && d 6 == 0 && d 7 == 0
  match kind with
  | 1 => common && wf64 (d 2) 63 40 != 0 && decide (-126 ≤ sextN 8 (wf64 (d 5) 63 56)) &&
      decide (2 ≤ wf64 (d 5) 52 49) && decide (wf64 (d 5) 52 49 ≤ 8) && wf64 (d 5) 48 41 != 0 && wf64 (d 5) 40 0 == 0
  | 2 =>
    let bin (n : Nat) : Bool := n != 0 && decide (n ≤ 16384)
    common && bin (wf64 (d 2) 63 40) && bin (wf64 (d 2) 39 16) && wf64 (d 5) 24 0 == 0
  | _ => false

/-- The entry that a descriptor describes, for a context and a LID. -/
def descEntry (w : List Word) (pasid ctxn lid : Nat) : REntry :=
  let d (n : Nat) : Word := w.getD n 0
  let base : REntry :=
    { pasid := BitVec.ofNat 20 pasid, ctxn := BitVec.ofNat 12 ctxn, lid := BitVec.ofNat 16 lid,
      kind := rkindOf (wf64 (d 1) 47 46), xaddr := d 3, yaddr := d 4 }
  let f (n hi lo : Nat) : Nat := wf64 (d n) hi lo
  if base.kind = .delta then
    { base with wpages := BitVec.ofNat 24 (f 2 63 40), wbase := BitVec.ofNat 40 (f 2 39 0), e := BitVec.ofNat 8 (f 5 63 56),
                t0 := BitVec.ofNat 3 (f 5 55 53), p := BitVec.ofNat 4 (f 5 52 49), nmax := BitVec.ofNat 8 (f 5 48 41) }
  else
    { base with ibin := BitVec.ofNat 24 (f 2 63 40), obin := BitVec.ofNat 24 (f 2 39 16), crows := BitVec.ofNat 16 (f 2 15 0),
                theta := BitVec.ofNat 32 (f 5 63 32), metric := (d 5).getLsbD 31, km1 := BitVec.ofNat 2 (f 5 30 29),
                mmax := BitVec.ofNat 4 (f 5 28 25) }

/-- Whether two regions share a byte. -/
def regionsMeet (a b : Nat × Nat) : Bool := decide (a.1 < b.1 + b.2) && decide (b.1 < a.1 + a.2)

/-- Sub-reason 6: a region misaligned, outside selectors 0x00 and 0x03, or overlapping another (R295, R296). -/
def descRegions (e : REntry) : Bool :=
  let rs := entryRegions e
  let sel (r : Nat × Nat) : Bool := r.1 / 2 ^ 56 == 0 || r.1 / 2 ^ 56 == 3
  rs.all sel && e.xaddr.toNat % 64 == 0 && e.yaddr.toNat % 64 == 0 && rs.Pairwise fun a b => !regionsMeet a b

/-- Entries that a context holds. -/
def entriesHeld (s : State) (ctxn : Nat) : Nat := (s.reuse.filter fun p => p.2.kind != .free && p.2.ctxn.toNat == ctxn).length

/-- The entry that RBIND allocates on a die (R297). -/
def freeEntry (s : State) (die : Nat) : Option Nat :=
  let free (n : Nat) : Bool := (entryAt s n).kind == .free
  ((List.range Config.reuseEntries).find? fun n => n % 4 == die && free n).or ((List.range Config.reuseEntries).find? free)

/-- The effect of RBIND once its checks have passed: the state and g[d]. -/
def bindEntry (s : State) (tile : Nat) (e : REntry) : State × Word :=
  let ctxn := e.ctxn.toNat
  if wf64 (ctxWord s ctxn 0) 27 16 ≤ entriesHeld s ctxn then (s, BitVec.ofNat 64 (2 * 2 ^ 16))
  else
    match freeEntry s (tileDie tile) with
    | none => (s, BitVec.ofNat 64 (2 ^ 16))
    | some n =>
      let ls := regionLeaves s ctxn (entryRegions e)
      (ls.foldl (setWatch ctxn true) (setEntry (cacheEntry s (tileCluster tile) n) n e), BitVec.ofNat 64 n)

/-- RBIND waits for the entry that it would take, while an operation is being applied there and while earlier ones of its own stream
have not reached it (R293). -/
def bindTurn (s : State) : Bool :=
  (freeEntry s (tileDie s.curTile)).all fun n => !entryHeld s n none && !entryBehind s s.curTile s.curStrm n

/-- RBIND (R297). -/
def execRbind (o : FormDAB) (s : State) : Out :=
  issue s do
    let st := cur s
    let a ← readSrc st o.a false
    let b ← readSrc st o.b false
    tokensReady st o.tk
    destReady st o.d
    need (wf64 a 55 0 % 64 == 0) .align a
    let bs ← nearSpan s a 64
    let w := wordsOf 8 bs
    let ctxn := ctxnOf s s.curTile
    let e := descEntry w (ctxPasid s ctxn) ctxn (wf64 b 15 0)
    need (descFields w) .reuse (reuseTval 5 0)
    need (descRegions e) .reuse (reuseTval 6 0)
    let failed (p : Nat) : Option (Nat × Nat) := (pageFault s ctxn (tileCluster s.curTile) p).map fun sub => (p, sub)
    match ((entryRegions e).flatMap regionPages).findSome? failed with
    | some (p, sub) => .error (.trap .page (BitVec.ofNat 64 p) sub)
    | none =>
      waitFor (bindTurn s && pagesSettled s ctxn (regionLeaves s ctxn (entryRegions e)))
      let (s1, v) := bindEntry (seeSpan s a 64) s.curTile e
      .ok (retire (setCur s1 (putReg (popBits (cur s1) o.tk) o.d v)) o.tk .seq)

/-! RFREE, RINV, RQRY and RCNT (R298 to R301). -/

/-- The tenancy checks of a reuse instruction on entry n. -/
def needTenant (s : State) (n : Nat) : Chk Unit :=
  match entryTenant s (ctxnOf s s.curTile) (entryAt s n) with
  | none => .ok ()
  | some sub => .error (.trap .reuse (reuseTval sub n))

/-- A reuse instruction on entry n waits while an operation is being applied there and while earlier ones of its own stream have not
reached it (R293), and, unless it applies at once, while the entry is BUSY (R296). -/
def entryTurn (s : State) (n : Nat) (atOnce : Bool) : Chk Unit :=
  waitFor (!entryHeld s n none && !entryBehind s s.curTile s.curStrm n && (atOnce || !(entryAt s n).busy))

/-- The entry that a reuse instruction names is cached in its cluster (R293). -/
def atEntry (s : State) (n : Nat) : State := cacheEntry s (tileCluster s.curTile) n

/-- RFREE (R298): it waits for every operation that reached the entry before it, and observes the reuse unit's writes (R181). -/
def execRfree (o : FormA) (s : State) : Out :=
  issue s do
    let st := cur s
    let a ← readSrc st o.a false
    tokensReady st o.tk
    let n := wf64 a 11 0
    entryTurn s n false
    needTenant s n
    waitFor (pagesSettled s (entryAt s n).ctxn.toNat (ownLeaves s n))
    let s1 := scrubEntry (atEntry s n) n
    let st1 := learn (popBits (cur s1) o.tk) { cmds := (entryAt s n).writers }
    .ok (retire (setCur s1 st1) o.tk .seq)

/-- RINV (R299): the version is raised at once, BUSY or not. -/
def execRinv (o : FormA) (s : State) : Out :=
  issue s do
    let st := cur s
    let a ← readSrc st o.a false
    tokensReady st o.tk
    let n := wf64 a 11 0
    entryTurn s n true
    needTenant s n
    let s1 := setEntry (atEntry s n) n (raiseEntry (entryAt s n))
    .ok (retire (setCur s1 (popBits (cur s1) o.tk)) o.tk .seq)

/-- The word of RQRY (R300). -/
def queryWord (e : REntry) : Word :=
  let bit (b : Bool) (n : Nat) : Nat := if b then 2 ^ n else 0
  let top := e.ver.toNat * 2 ^ 48 + e.wseen.toNat * 2 ^ 32 + rkindCode e.kind * 2 ^ 30 + bit e.busy 28
  match e.kind with
  | .free => 0
  | .delta => BitVec.ofNat 64 (top + bit e.valid 29 + e.use.toNat * 2 ^ 20)
  | .step =>
    BitVec.ofNat 64 (top + e.bval.toNat * 2 ^ 24 + e.lqv.toNat * 2 ^ 22 + bit e.qseen 21 + e.hrun.toNat * 2 ^ 16
      + e.stag.toNat)

/-- RQRY (R300). -/
def execRqry (o : FormDA) (s : State) : Out :=
  issue s do
    let st := cur s
    let a ← readSrc st o.a false
    tokensReady st o.tk
    destReady st o.d
    let n := wf64 a 11 0
    let e := entryAt s n
    entryTurn s n true
    need (e.kind == .free || entryOwned s (ctxnOf s s.curTile) e) .reuse (reuseTval 2 n)
    let s1 := atEntry s n
    .ok (retire (setCur s1 (putReg (popBits st o.tk) o.d (queryWord e))) o.tk .seq)

/-- The number of a counter (R61). -/
def counterNum : RCounter → Nat
  | .hit => 0
  | .miss => 1
  | .forced => 2
  | .rows => 3
  | .bytes => 4

/-- RCNT (R301): an entry's counter, or with g[a][63] the tenant total. -/
def execRcnt (o : FormRcnt) (s : State) : Out :=
  issue s do
    let st := cur s
    let a ← readSrc st o.a false
    tokensReady st o.tk
    destReady st o.d
    let i := counterNum o.ctr
    if a.getLsbD 63 then
      let v := (mget s.fe.ctxs (ctxnOf s s.curTile) {}).totals.getD i 0
      .ok (retire (setCur s (putReg (popBits st o.tk) o.d v)) o.tk .seq)
    else
      let n := wf64 a 11 0
      entryTurn s n false
      needTenant s n
      let v : Word := BitVec.ofNat 64 (entryCounter (entryAt s n) i)
      let s1 := atEntry s n
      .ok (retire (setCur s1 (putReg (popBits st o.tk) o.d v)) o.tk .seq)

/-! Cask commands (R312, R313). -/

def ckRent (t : BitVec 256) : Nat := tf t 251 240
def ckLid (t : BitVec 256) : Nat := tf t 239 224
def ckEtype (t : BitVec 256) : Nat := tf t 207 206
def ckTgt (t : BitVec 256) : Bool := tf t 205 205 == 1
def ckOcvt (t : BitVec 256) : Bool := tf t 204 204 == 1
def ckPort (t : BitVec 256) : Nat := tf t 203 200
def ckIaddr (t : BitVec 256) : Nat := tf t 191 128
def ckOaddr (t : BitVec 256) : Nat := tf t 127 64

/-- The step of a cask command, taken at issue (R312). -/
def ckStep (c : Cmd) : Nat := (tf c.tmpl 223 208 + (if tf c.tmpl 199 199 = 1 then c.lcaIdx.toNat else 0)) % 2 ^ 16

/-- The addresses that a sub-kind uses (R312). -/
def ckUses (t : BitVec 256) : List Nat :=
  match tf t 7 4 with
  | 0 => [ckIaddr t]
  | 1 => if ckTgt t then [] else [ckOaddr t]
  | _ => [ckIaddr t, ckOaddr t]

/-- The fields of a KIND 5 template (R313). -/
def caskFields (t : BitVec 256) : Bool :=
  let sub := tf t 7 4
  tf t 255 252 == 0 && tf t 198 192 == 0 && ckEtype t != 3 && !(sub == 0 && tf t 14 13 == 0) &&
  (sub == 1 || (!ckTgt t && !ckOcvt t && ckPort t == 0)) && (ckTgt t || ckPort t == 0) &&
  (sub != 1 || ckIaddr t == 0) && !(sub == 0 && ckOaddr t != 0) && !(sub == 1 && ckTgt t && ckOaddr t != 0) &&
  (ckUses t).all fun a => decide (a / 2 ^ 56 ≤ 3) && a % 64 == 0

/-- Whether the first line at an address lies in a buffer that the stream does not hold (R198, R313). -/
def lineOwned (s : State) (tile : Nat) (sk : Strm) (a : Nat) : Bool :=
  if a / 2 ^ 56 = 1 then !foreignBuffer s tile sk (a % 2 ^ 56) 64
  else if a / 2 ^ 56 = 2 then handleValid s tile (bitsN a 55 40) && heldBy (handleAt s tile (bitsN a 55 40)) tile sk
  else true

/-- The issue checks of a KIND 5 command (R313): TEMPLATE, then OWNER. -/
def caskCheck (s : State) (tile : Nat) (sk : Strm) (t : BitVec 256) : Chk Unit := do
  need (caskFields t) .template 0
  need ((ckUses t).all (lineOwned s tile sk)) .owner 0

/-- Acceptance of a KIND 5 command by its cluster's cask unit; a replay to a port joins the port's order (R202, R313). -/
def caskAccept (s : State) (c : Cmd) : State :=
  let k := clusterOf s (tileCluster c.tile)
  let s1 := setCluster s (tileCluster c.tile) { k with cask := k.cask ++ [c] }
  if cmdSub c = 1 && ckTgt c.tmpl then setTile s1 c.tile (joinIp (tileOf s1 c.tile) (ckPort c.tmpl) c.id) else s1

/-- The spans that a KIND 5 command may touch (R166): the buffer of a handle, or own scratchpad from the address on. -/
def caskSpans (s : State) (tile : Nat) (t : BitVec 256) : List (Nat × Nat) :=
  (ckUses t).filterMap fun a =>
    if a / 2 ^ 56 = 1 then some (scratchBase tile + a % 2 ^ 56, 2 ^ 20)
    else if a / 2 ^ 56 = 2 then
      let e := handleAt s tile (bitsN a 55 40)
      some (scratchBase (tileCluster tile * 8 + hHome e) + hBase e * 64, hSize e * 64)
    else none

/-- A cask command ends with REUSE (R296). -/
def caskRefuse (s : State) (cl : Nat) (c : Cmd) (sub : Nat) : State :=
  endCask (offer s { cmdOffer s c .reuse 5 (ckRent c.tmpl) with sub := sub }) cl c (causeByte .reuse) 0

/-- An access fault of a cask command: PAGE and POISON halt the unit and wait for a response (R390, R400); a write that must
wait for a collapse waits; every other fault ends the command. -/
def caskFault (s : State) (cl : Nat) (c : Cmd) (a0 : Nat) (f : AccFault) : State :=
  let (cause, sub) := accCause f
  let a := accAt f a0
  let o := { cmdOffer s c cause 5 (ckRent c.tmpl) with sub := sub, addr := BitVec.ofNat 64 a }
  let k := { clusterOf s cl with caskBegun := true }
  match f with
  | .hold v => holdWrite (setCluster s cl k) (reuseWho c) v
  | _ =>
    if cause = .page ∨ cause = .poison then
      let s1 := setCluster s cl { k with caskHalt := some { cause := cause, addr := a, sub := sub, offered := true } }
      offer s1 { o with resp := true, waiter := .cask cl }
    else endCask (offer s o) cl c (causeByte cause) 0

/-- A run of the first command of a cask unit, of one SUB, with its entry, once sub-reasons 1 to 4 have passed. A queued command of a job
or a BIND node that is being saved does not start (R319), and one waits while another operation is applied at its entry, or its
stream's earlier ones have not reached it (R293). -/
def runCask (sub cluster : Nat) (s : State) (f : Cmd → REntry → State) : Out :=
  let k := clusterOf s cluster
  match k.cask with
  | [] => .next s
  | c :: _ =>
    let e := entryAt s (ckRent c.tmpl)
    if cmdSub c ≠ sub ∨ k.caskHalt.isSome ∨ e.busy ∨ entryHeld s (ckRent c.tmpl) (some cluster)
        ∨ (!k.caskBegun && (cmdSaved s c || cmdBehind s c (ckRent c.tmpl))) then .next s
    else if k.caskBegun then .next (f c e)
    else
      match entryFail s c.ctxn e .step (ckLid c.tmpl) with
      | some n => .next (caskRefuse s cluster c n)
      | none => .next (f c e)

/-- The bytes of an entry's bins and where they lie (R295). -/
def binIn (e : REntry) (b : Nat) : Nat := moveAddr e.xaddr.toNat (64 * e.ibin.toNat * b : Nat)
def binOut (e : REntry) (b : Nat) : Nat := moveAddr e.yaddr.toNat (64 * e.obin.toNat * b : Nat)

/-- Whether an access of a cask command asks for the ownership of a handle. -/
def ckOwn (a : Nat) : Bool := a / 2 ^ 56 == 2

/-! CASKQ (R314, R315). -/

def ckFmt (t : BitVec 256) : FloatFmt :=
  match ckEtype t with
  | 0 => fp32
  | 1 => bf16
  | _ => fp16

/-- The absolute difference of two exact values. -/
def absDiff (x y : Val) : Val :=
  match vadd x (vneg y) with
  | .nan => .nan
  | .inf _ => .inf false
  | .fin _ m e => .fin false m e

/-- The distance of a query as an FP32 code (R314): the greatest difference, or their mean, rounded once. -/
def caskDist (metric : Bool) (ds : List Val) : Nat :=
  if ds.any visNan then fnanCode fp32
  else if metric then
    match ds.foldl vadd (.fin false 0 0) with
    | .fin _ m e =>
      if m = 0 then 0
      else (roundFin fp32 false 1 0 false (m * 2 ^ 100 / ds.length) (e - 100) (m * 2 ^ 100 % ds.length != 0)).1
    | _ => finfCode fp32
  else rneFp32 (ds.foldl (fun a d => if vlt a d then d else a) (.fin false 0 0))

/-- Verdict codes (R315). -/
def vMiss : BitVec 2 := 0
def vHit : BitVec 2 := 1
def vForced : BitVec 2 := 2

/-- The reply of a query (R315). -/
def queryReply (e : REntry) : Nat := e.lqv.toNat * 2 ^ 36 + e.hrun.toNat * 2 ^ 32 + e.dist.toNat

/-- The entry as a query for step st finds it (R314): bins invalidated by a raise or by a jump of the step. -/
def queryEntry (e : REntry) (force : Bool) (st : Nat) : REntry :=
  let e1 := if e.ver ≠ e.wseen ∨ force then { e with bval := 0, wseen := e.ver } else e
  let e2 := if e.qseen && st != (e.stag.toNat + 1) % 2 ^ 16 then { e1 with bval := 0, hrun := 0 } else e1
  { e2 with qseen := true, stag := BitVec.ofNat 16 st }

/-- The bin of a step. -/
def binOf (e : REntry) (st : Nat) : Nat := st % (e.km1.toNat + 1)

/-- The verdict of a distance, with the run of hits that follows (R314). -/
def verdictOf (e : REntry) (dist : Nat) : BitVec 2 × BitVec 4 :=
  let d := fdecode fp32 dist
  let t := fdecode fp32 e.theta.toNat
  if !visNan d && !visNan t && !vlt t d then
    if e.mmax.toNat ≤ e.hrun.toNat then (vForced, 0) else (vHit, e.hrun + 1)
  else (vMiss, 0)

/-- The entry after a query with a verdict; a bin that did not hit is no longer valid (R314). -/
def queryEnd (e : REntry) (b : Nat) (v : BitVec 2) (run : BitVec 4) (dist : Nat) : REntry :=
  { e with lqv := v, hrun := run, dist := BitVec.ofNat 32 dist, verAtQuery := e.ver
           bval := if v = vHit then e.bval else e.bval &&& ~~~ (1#4 <<< b) }

/-- A query recorded at its entry, counted, and answered. -/
def queryDone (s : State) (cl : Nat) (c : Cmd) (e : REntry) : State :=
  let n := ckRent c.tmpl
  let i := if e.lqv = vHit then 0 else if e.lqv = vMiss then 1 else 2
  endCask (countReuse (setEntry s n e) n i 1) cl c 0 (queryReply e)

/-- CASKQ (R314): the block's input is read whether the bin is valid or not. -/
def execCaskq (cluster : Nat) (s0 : State) : Out :=
  runCask 0 cluster s0 fun c e =>
    let s := cacheEntry s0 cluster (ckRent c.tmpl)
    let st := ckStep c
    if e.qseen && e.stag.toNat == st then endCask s cluster c 0 (queryReply e)
    else
      let e1 := queryEntry e (forceBit s c.ctxn) st
      let b := binOf e st
      let n := 64 * e.ibin.toNat
      let f := ckFmt c.tmpl
      let w := (f.eb + f.fb + 1) / 8
      match engRead s (reuseWho c) (ckIaddr c.tmpl) n (ckOwn (ckIaddr c.tmpl)) with
      | .error x => caskFault s cluster c (ckIaddr c.tmpl) x
      | .ok xs =>
        if !e1.bval.getLsbD b then queryDone s cluster c (queryEnd e1 b vMiss e1.hrun (finfCode fp32))
        else
          match engRead s (reuseWho c) (binIn e b) n false with
          | .error x => caskFault s cluster c (binIn e b) x
          | .ok ys =>
            let dist := caskDist e.metric (List.zipWith absDiff (floatRow f xs (n / w)) (floatRow f ys (n / w)))
            let (v, run) := verdictOf e1 dist
            queryDone s cluster c (queryEnd e1 b v run dist)

/-! CASKRP and CASKCP (R316, R317). -/

/-- Whether the last query was for the command's step. -/
def queriedStep (c : Cmd) (e : REntry) : Bool := e.qseen && e.stag.toNat == ckStep c

/-- The delivered bytes of n FP32 elements from element i0 on: as stored, or converted to BF16 (R316). -/
def replayBytes (s : State) (c : Cmd) (i0 : Nat) (bs : List Byte) : List Byte :=
  if ckOcvt c.tmpl then
    (List.range (bs.length / 4)).flatMap fun i =>
      let u := drainSr s c (i0 + i)
      leBytes 2 (toFloat bf16 (ftSat8 c.fte) c.rm.toNat u (fdecode fp32 (leNat ((bs.drop (4 * i)).take 4)))).1
  else bs

/-- The bytes that a replay delivers. -/
def replayLen (c : Cmd) (e : REntry) : Nat := if ckOcvt c.tmpl then 32 * e.obin.toNat else 64 * e.obin.toNat

/-- A replay completes: rows and bytes are counted (R316). -/
def replayDone (s : State) (cl : Nat) (c : Cmd) (e : REntry) : State :=
  let n := ckRent c.tmpl
  endCask (countReuse (countReuse s n 3 e.crows.toNat) n 4 (replayLen c e)) cl c 0 (replayLen c e)

/-- A replay to memory. -/
def replayMem (s : State) (cl : Nat) (c : Cmd) (e : REntry) : State :=
  let b := binOut e (binOf e (ckStep c))
  match engRead s (reuseWho c) b (64 * e.obin.toNat) false with
  | .error x => caskFault s cl c b x
  | .ok bs =>
    match engWrite s (reuseWho c) (ckOaddr c.tmpl) (replayBytes s c 0 bs) (ckOwn (ckOaddr c.tmpl)) with
    | .error x => caskFault s cl c (ckOaddr c.tmpl) x
    | .ok s1 => replayDone s1 cl c e

/-- Bytes as port words, the last one filled up with zeros. -/
def linesOf (bs : List Byte) : List Line :=
  (List.range (ceilDiv bs.length 64)).map fun j => lineOfBytes ((bs.drop (64 * j)).take 64)

/-- A replay to a port, one item at a time: the format marker, then the words (R202, R316). The whole bin is read before the marker goes,
so that nothing that reaches the entry later shows in the words (R293). DESIGN CHOICE (assumption 160). -/
def replayPort (s : State) (cl : Nat) (c : Cmd) (e : REntry) : State :=
  let k := clusterOf s cl
  let send (x : Item) (ws : List (BitVec 512)) : State :=
    let s1 := setCluster s cl { k with caskBegun := true, caskSent := k.caskSent + 1, caskWords := ws }
    setTile s1 c.tile (feed (tileOf s1 c.tile) (ckPort c.tmpl) x)
  let free := canFeed (tileOf s c.tile) (ckPort c.tmpl) c.id
  if k.caskSent = 0 then
    let b := binOut e (binOf e (ckStep c))
    if !free then s
    else
      match engRead s (reuseWho c) b (64 * e.obin.toNat) false with
      | .error x => caskFault s cl c b x
      | .ok bs => send (cmdMarker c) (linesOf (replayBytes s c 0 bs))
  else
    match k.caskWords with
    | [] => replayDone s cl c e
    | x :: rest => if free then send (.word x) rest else s

/-- CASKRP (R316): it needs a HIT for its step and no version raise since. It is applied at its entry when it reads the bin: a command
that has been held up with nothing delivered is tested again, and a raise that came meanwhile refuses it (R293). -/
def execCaskrp (cluster : Nat) (s0 : State) : Out :=
  runCask 1 cluster s0 fun c e =>
    let s := cacheEntry s0 cluster (ckRent c.tmpl)
    if (clusterOf s cluster).caskSent = 0 ∧ !(queriedStep c e && e.lqv == vHit && e.ver == e.verAtQuery) then
      caskRefuse s cluster c 7
    else if ckTgt c.tmpl then replayPort s cluster c e
    else replayMem s cluster c e

/-- CASKCP (R317): input and output go into the step's bins, which then are valid. -/
def execCaskcp (cluster : Nat) (s0 : State) : Out :=
  runCask 2 cluster s0 fun c e =>
    let s := cacheEntry s0 cluster (ckRent c.tmpl)
    if !(queriedStep c e && e.lqv != vHit) then caskRefuse s cluster c 7
    else
      let n := ckRent c.tmpl
      let b := binOf e (ckStep c)
      let ia := ckIaddr c.tmpl
      let oa := ckOaddr c.tmpl
      match engRead s (reuseWho c) ia (64 * e.ibin.toNat) (ckOwn ia), engRead s (reuseWho c) oa (64 * e.obin.toNat) (ckOwn oa) with
      | .error x, _ => caskFault s cluster c ia x
      | _, .error x => caskFault s cluster c oa x
      | .ok xs, .ok ys =>
        match engWrite s (reuseWho c) (binIn e b) xs false (some n) with
        | .error x => caskFault s cluster c (binIn e b) x
        | .ok s1 =>
          match engWrite s1 (reuseWho c) (binOut e b) ys false (some n) with
          | .error x => caskFault (noteWriter s1 n (ownKey c.id)) cluster c (binOut e b) x
          | .ok s2 =>
            let s3 := noteWriter s2 n (ownKey c.id)
            endCask (setEntry s3 n { entryAt s3 n with bval := (entryAt s3 n).bval ||| (1#4 <<< b) }) cluster c 0 1

end Sys2Proof.Machine
end

