-- ==== Sys2Proof/Machine/Copy.lean ====
section
/-! DEFINITION. Copy commands (R320 to R335): the fields of KIND 3, the checks at issue and at the engine, and the four
instructions that a copy engine runs. -/

namespace Sys2Proof.Machine

/-! Fields and issue checks (R63, R327, R328). SUB is 0 for CPY, 1 for CFIL, 2 for CPYW, 3 for LRCHK. -/

def cpSrec (t : BitVec 256) : Nat := tf t 255 192
def cpDrec (t : BitVec 256) : Nat := tf t 191 128
def cpFval (t : BitVec 256) : Nat := tf t 127 64
def cpCwoff (t : BitVec 256) : Nat := tf t 127 112
def cpCwval (t : BitVec 256) : Nat := tf t 111 64

/-- The record addresses that a sub-kind uses, source first. -/
def cpRecs (t : BitVec 256) : List Nat :=
  if tf t 7 4 = 1 then [cpDrec t]
  else if tf t 7 4 = 3 ∧ cpDrec t = 0 then [cpSrec t]
  else [cpSrec t, cpDrec t]

/-- The selectors that an address of a command may have, from lo to 0x03; the front end's commands have 0x00 or 0x03
(R354). -/
def cmdSel (fe : Bool) (lo a : Nat) : Bool :=
  let sel := a / 2 ^ 56
  if fe then sel == 0 || sel == 3 else decide (lo ≤ sel) && decide (sel ≤ 3)

/-- The fields of a KIND 3 template (R327, R328). -/
def copyFields (t : BitVec 256) (fe : Bool) : Bool :=
  let sub := tf t 7 4
  decide (sub ≤ 3) && !(sub == 1 && cpSrec t != 0) && !(sub != 3 && cpDrec t == 0) && !(sub != 1 && cpSrec t == 0)
    && ((cpRecs t).all fun a => cmdSel fe 1 a && a % 8 == 0) && !((sub == 0 || sub == 3) && cpFval t != 0)
    && !(sub == 3 && tf t 14 13 == 0)

/-- A span within the limits of R140, in no buffer that another stream holds: NEAR_BOUNDS or OWNER (R198, R328). -/
def spanLimits (s : State) (tile : Nat) (sk : Strm) (a n : Nat) : Chk Unit :=
  let off := a % 2 ^ 56
  match a / 2 ^ 56 with
  | 1 => do
    need (decide (off + n ≤ Config.scratchBytes)) .nearBounds 0
    need (!foreignBuffer s tile sk off n) .owner 0
  | 2 => do
    let e := handleAt s tile (bitsN a 55 40)
    need (handleValid s tile (bitsN a 55 40) && heldBy e tile sk) .owner 0
    need (decide (a % 2 ^ 40 + n ≤ hSize e * 64)) .nearBounds 0
  | 3 => need (decide (off + n ≤ 2 ^ 32)) .nearBounds 0
  | _ => .ok ()

/-- The issue checks of a KIND 3 command (R328). -/
def copyCheck (s : State) (tile : Nat) (sk : Strm) (t : BitVec 256) : Chk Unit := do
  need (copyFields t false) .template 0
  (cpRecs t).foldlM (fun _ a => spanLimits s tile sk a 96) ()
  need (tf t 7 4 != 2 || ownSpanOk s tile sk (cpCwoff t * 8) 8) .owner 0

def dieOf (s : State) (d : Nat) : Die := mget s.dies d {}

def setDie (s : State) (d : Nat) (x : Die) : State := { s with dies := mset s.dies d x }

/-- Whether a die's copy queue takes one more command (R320). -/
def copyRoom (s : State) (d : Nat) : Bool := decide ((dieOf s d).copyq.length < 64)

/-- Acceptance into a die's copy queue (R71, R320). -/
def copyAccept (s : State) (d : Nat) (c : Cmd) : State :=
  let x := dieOf s d
  setDie s d { x with copyq := x.copyq ++ [c] }

/-- The spans that a copy or gather may touch, for HGIVE (R166): its addresses come from memory, so every scratchpad of the
cluster. -/
def clusterSpans (tile : Nat) : List (Nat × Nat) := [(scratchBase (tileCluster tile * 8), 8 * Config.scratchBytes)]

/-! A copy engine at work. -/

/-- The agent of a copy or gather engine's accesses: the issuing stream, on the engine's path and die (R174), with the engine's own TLB
(R398). -/
def engWho (c : Cmd) (p : Path) (die eng : Nat) : Who :=
  { tile := c.tile, strm := c.strm, ctxn := c.ctxn, path := p, die := die, key := ownKey c.id, sees := some (c.base, c.reach)
    unit := if p = .gather then .gather die eng else .copy die eng }

/-- Why an engine's command stops: cause, sub-reason, address and DETAIL (R329, R334). -/
structure EngStop where
  cause : Cause
  sub : Nat := 0
  addr : Nat := 0
  detail : Nat := 0
  deriving DecidableEq, Repr

def engOf (s : State) (die eng : Nat) : Option CopyRun := mget? (dieOf s die).copyEng eng

def setEng (s : State) (die eng : Nat) (r : CopyRun) : State :=
  let d := dieOf s die
  setDie s die { d with copyEng := mset d.copyEng eng r }

/-- A copy command leaves its engine (R211, R330). -/
def endCopy (s : State) (die eng : Nat) (c : Cmd) (status : BitVec 8) (result : Nat) : State :=
  let d := dieOf s die
  finish (setDie s die { d with copyEng := mdel d.copyEng eng }) c status (BitVec.ofNat 40 result)

/-- A copy's fault (R334): PAGE and POISON halt the engine and wait for a response; every other fault ends the command. A
POISON in the read that a memmove makes before its first write ends it too (R331). -/
def copyStop (s : State) (die eng : Nat) (r : CopyRun) (e : EngStop) (ends : Bool := false) : State :=
  let o := { cmdOffer s r.cmd e.cause 3 eng with
               sub := e.sub, die := die, addr := BitVec.ofNat 64 e.addr, prog := BitVec.ofNat 64 r.k
               detail := BitVec.ofNat 64 e.detail }
  if (e.cause = .page ∨ e.cause = .poison) ∧ !ends then
    let h : Halt := { cause := e.cause, addr := e.addr, sub := e.sub, offered := true }
    offer (setEng s die eng { r with halt := some h }) { o with resp := true, waiter := .copy die eng }
  else endCopy (offer s o) die eng r.cmd (causeByte e.cause) r.k

/-- A fault of a copy's access at an address, with the address of the page or granule at fault (R334); a write to a page that must
collapse waits (R402). -/
def copyFault (s : State) (die eng : Nat) (r : CopyRun) (a : Nat) (f : AccFault) (ends : Bool := false) : State :=
  match f with
  | .hold v => holdWrite s (engWho r.cmd .copy die eng) v
  | _ => let (c, sub) := accCause f; copyStop s die eng r { cause := c, sub := sub, addr := accAt f a } ends

/-- Whether a window's hull stays within the limits of R140 (R329); selector 0x00 has none. -/
def hullFits (s : State) (tile : Nat) (r : List Word) : Bool :=
  let (lo, n) := recHull r
  let base := recBase r
  let within (o : Int) (size : Nat) : Bool := decide (0 ≤ o) && decide (o + n ≤ size)
  match base / 2 ^ 56 with
  | 1 => within lo Config.scratchBytes
  | 2 => within (lo - (bitsN base 55 40 * 2 ^ 40 : Nat)) (hSize (handleAt s tile (bitsN base 55 40)) * 64)
  | 3 => within lo (2 ^ 32)
  | _ => true

/-- Whether a window in a peer's scratchpad names a valid handle (R164). -/
def hullHandle (s : State) (tile : Nat) (r : List Word) : Bool :=
  recBase r / 2 ^ 56 != 2 || handleValid s tile (bitsN (recBase r) 55 40)

/-- The hull of a window against R140 and R141 (R329). DESIGN CHOICE (assumption 168): ADDR is the window's BASE. -/
def hullStop (s : State) (w : Who) (r : List Word) : Option EngStop :=
  let (lo, n) := recHull r
  let base := recBase r
  let bad (c : Cause) : Option EngStop := some { cause := c, addr := base }
  match base / 2 ^ 56 with
  | 1 =>
    if !hullFits s w.tile r then bad .nearBounds
    else if foreignBuffer s w.tile w.strm lo.toNat n then bad .owner else none
  | 2 =>
    if !hullHandle s w.tile r || !heldBy (handleAt s w.tile (bitsN base 55 40)) w.tile w.strm then bad .owner
    else if !hullFits s w.tile r then bad .nearBounds else none
  | _ => if !hullFits s w.tile r then bad .nearBounds else none

/-- A hull in a scratchpad, resolved through the handle table: its physical start and length (R331). -/
def hullPhys (s : State) (tile : Nat) (r : List Word) : Option (Int × Nat) :=
  let (lo, n) := recHull r
  let base := recBase r
  match base / 2 ^ 56 with
  | 1 => some ((scratchBase tile : Int) + lo, n)
  | 2 =>
    let h := bitsN base 55 40
    let e := handleAt s tile h
    some ((scratchBase (tileCluster tile * 8 + hHome e) + hBase e * 64 : Nat) + (lo - (h * 2 ^ 40 : Nat)), n)
  | _ => none

/-- Whether two windows overlap in one scratchpad (R331). -/
def hullsMeet (s : State) (tile : Nat) (a b : List Word) : Bool :=
  match hullPhys s tile a, hullPhys s tile b with
  | some (x, n), some (y, m) => decide (x < y + m) && decide (y < x + n)
  | _, _ => false

/-- Whether overlapping windows may be copied as a memmove (R331). -/
def memmoveOk (a b : List Word) : Bool :=
  let up (r : List Word) : Bool := (recDims r).all fun d => decide (recN r d ≤ 1) || decide (0 < recS r d)
  up a && up b && decide (recCount a * recElem a ≤ 65536)

/-- A copy of these records would end with COPY_OVERLAP. -/
def copyOverlap (s : State) (tile : Nat) (a b : List Word) : Bool := hullsMeet s tile a b && !memmoveOk a b

/-- One record read by an engine; no address, no record. -/
def readRec (s : State) (w : Who) (a : Nat) : Except AccFault (List Word) :=
  if a = 0 then .ok []
  else
    match engRead s w a 96 true with
    | .ok bs => .ok (wordsOf 12 bs)
    | .error e => .error e

/-- The records of a command, or the address and the fault of the one that cannot be read (R329). -/
def readRecs (s : State) (w : Who) (t : BitVec 256) : Except (Nat × AccFault) (List Word × List Word) :=
  match readRec s w (cpSrec t) with
  | .error e => .error (cpSrec t, e)
  | .ok a =>
    match readRec s w (cpDrec t) with
    | .error e => .error (cpDrec t, e)
    | .ok b => .ok (a, b)

/-- The first failing check of R325 of the records that a command has. -/
def recsFail (a b : List Word) : Option (LayFail × Bool) :=
  if a.isEmpty then (layCheck b true).map (·, true)
  else if b.isEmpty then (layCheck a false).map (·, false)
  else layPair a b

/-- The checks that follow (R329, R331): selectors, hulls, overlap, whose ADDR is the destination's BASE (assumption
168). A front-end command reaches only L2 pages and virtual space (R354). -/
def windowStop (s : State) (w : Who) (fe : Bool) (a b : List Word) : Option EngStop :=
  let rs := [a, b].filter (!·.isEmpty)
  match rs.find? (fun r => !cmdSel fe 0 (recBase r)) with
  | some r => some { cause := .accessPath, addr := recBase r }
  | none =>
    match rs.findSome? (hullStop s w) with
    | some e => some e
    | none =>
      if !a.isEmpty && !b.isEmpty && copyOverlap s w.tile a b then some { cause := .copyOverlap, addr := recBase b } else none

/-- The records of the command read and checked; no byte has moved (R329). -/
def startCopy (s : State) (die eng : Nat) (r : CopyRun) : State :=
  let w := engWho r.cmd .copy die eng
  match readRecs s w r.cmd.tmpl with
  | .error (x, e) => copyFault s die eng r x e
  | .ok (a, b) =>
    match recsFail a b with
    | some (f, dest) =>
      copyStop s die eng r { cause := .layout, sub := f.sub, addr := if dest then cpDrec r.cmd.tmpl else cpSrec r.cmd.tmpl
                             detail := layWord f dest false }
    | none =>
      match windowStop s w r.cmd.fromFe a b with
      | some e => copyStop s die eng r e
      | none => setEng s die eng { r with checked := true, src := a, dst := b, before := s.mem }

/-- Whether an engine runs a copy as a memmove (R331). -/
def isMemmove (s : State) (r : CopyRun) : Bool :=
  r.checked && !r.src.isEmpty && !r.dst.isEmpty && hullsMeet s r.cmd.tile r.src r.dst

/-- The elements of a command's window. -/
def copyCount (r : CopyRun) : Nat := recCount r.dst

/-- The stop at an element past the edge under FM 3 (R324). -/
def edgeStop (a : Nat) (dest : Bool) : EngStop :=
  { cause := .layout, sub := 10, addr := a, detail := layWord { sub := 10 } dest false }

/-- The whole source of a memmove, read before its first write (R331). -/
def readAll (s : State) (w : Who) (r : CopyRun) : Nat → Nat → Except (Nat × AccFault) (List Byte)
  | 0, _ => .ok []
  | f + 1, k =>
    let here : Except (Nat × AccFault) (List Byte) :=
      match recSource r.src k with
      | .read a => (match engRead s w a (recElem r.src) false with
        | .ok bs => .ok bs
        | .error e => .error (a, e))
      | .const bs => .ok bs
      | .edge => .ok (List.replicate (recElem r.src) 0)
    match here with
    | .error e => .error e
    | .ok bs =>
      match readAll s w r f (k + 1) with
      | .ok rest => .ok (bs ++ rest)
      | .error e => .error e

/-- The value of source element k, or the stop that it meets (R330). -/
def copySource (s : State) (w : Who) (r : CopyRun) : Except (Nat × AccFault) (Option (List Byte)) :=
  match recSource r.src r.k with
  | .const bs => .ok (some bs)
  | .edge => .ok none
  | .read a =>
    match r.moved with
    | some all => .ok (some ((all.drop (r.k * recElem r.src)).take (recElem r.src)))
    | none =>
      match engRead s w a (recElem r.src) false with
      | .ok bs => .ok (some bs)
      | .error e => .error (a, e)

/-- The value that the engine has for source element k, of which v stands in memory (R330, R331). Reads may run ahead of writes, so
where the element has changed since the copy began the value is that of before or the one that stands there now, which is left
open. -/
def copySeen (s : State) (w : Who) (r : CopyRun) (v : List Byte) : State × List Byte :=
  match recSource r.src r.k, r.moved with
  | .read a, none =>
    match engSegs s w a (recElem r.src) false false with
    | .ok segs =>
      let old := segsRead { s with mem := r.before } w segs
      if old = v then (s, v)
      else
        let (s1, x) := drawFree s
        (s1, if x.getLsbD 0 then old else v)
    | .error _ => (s, v)
  | _, _ => (s, v)

/-- The value of element k of the destination written, where it is not past the edge. -/
def copyPut (s : State) (die eng : Nat) (r : CopyRun) (v : List Byte) : State :=
  let w := engWho r.cmd .copy die eng
  match recDest r.dst r.k with
  | .edge => copyStop s die eng r (edgeStop (cpDrec r.cmd.tmpl) true)
  | .drop => setEng s die eng { r with k := r.k + 1 }
  | .write a =>
    match engWrite s w a v false with
    | .error e => copyFault s die eng r a e
    | .ok s1 => setEng s1 die eng { r with k := r.k + 1 }

/-- One element of CPY or CPYW (R330), after the whole source where the copy is a memmove (R331). -/
def copyElem (s : State) (die eng : Nat) (r : CopyRun) : State :=
  let w := engWho r.cmd .copy die eng
  if r.moved.isNone && isMemmove s r then
    match readAll s w r (copyCount r) 0 with
    | .error (a, e) => copyFault s die eng r a e true
    | .ok bs => setEng s die eng { r with moved := some bs }
  else
    match copySource s w r with
    | .error (a, e) => copyFault s die eng r a e
    | .ok none => copyStop s die eng r (edgeStop (cpSrec r.cmd.tmpl) false)
    | .ok (some v) => copyPut (copySeen s w r v).1 die eng r (copySeen s w r v).2

/-- A step of the command of one sub-kind that an engine runs; an idle engine takes the oldest command of its die's queue
(R320). -/
def runCopy (sub die eng : Nat) (s : State) (f : CopyRun → State) : Out :=
  match engOf s die eng with
  | some r =>
    if cmdSub r.cmd ≠ sub ∨ r.halt.isSome then .next s
    else if !r.checked && sub != 3 then .next (startCopy s die eng r)
    else .next (f r)
  | none =>
    let d := dieOf s die
    match d.copyq with
    | [] => .next s
    | c :: rest =>
      if cmdSub c = sub ∧ eng < 8 then .next (setEng (setDie s die { d with copyq := rest }) die eng { cmd := c }) else .next s

/-- CPY (R330). -/
def execCpy (die engine : Nat) (s : State) : Out :=
  runCopy 0 die engine s fun r =>
    if r.k < copyCount r then copyElem s die engine r else endCopy s die engine r.cmd 0 r.k

/-- CPYW (R330): after the window, its completion word goes to own scratchpad. A WAITW that returns it observes the completion
(R181). -/
def execCpyw (die engine : Nat) (s : State) : Out :=
  runCopy 2 die engine s fun r =>
    if r.k < copyCount r then copyElem s die engine r
    else
      let a := ownAddr (cpCwoff r.cmd.tmpl * 8)
      let w := { engWho r.cmd .copy die engine with know := doneKnow r.cmd }
      match engWrite s w a (leBytes 8 (cpCwval r.cmd.tmpl)) false with
      | .error e => copyFault s die engine r a e
      | .ok s1 => endCopy s1 die engine r.cmd 0 r.k

/-- CFIL (R332). -/
def execCfil (die engine : Nat) (s : State) : Out :=
  runCopy 1 die engine s fun r =>
    if r.k < copyCount r then copyPut s die engine r (leBytes (recElem r.dst) (cpFval r.cmd.tmpl))
    else endCopy s die engine r.cmd 0 r.k

/-- Whether two hulls reach the test of R331: their handles are valid and they stay within the limits, which R329 tests before it. The
holder of a buffer is not looked at (R333, assumption 61). -/
def hullsReach (s : State) (tile : Nat) (a b : List Word) : Bool := [a, b].all fun r => hullHandle s tile r && hullFits s tile r

/-- The word that LRCHK replies (R333). -/
def lrchkWord (s : State) (tile : Nat) (a b : List Word) : Nat :=
  match recsFail a b with
  | some (f, dest) => layWord f dest false
  | none => layWord { sub := 0, dim := 0, word := 0 } false (!b.isEmpty && hullsReach s tile a b && copyOverlap s tile a b)

/-- LRCHK (R333): it never ends in LAYOUT. -/
def execLrchk (die engine : Nat) (s : State) : Out :=
  runCopy 3 die engine s fun r =>
    match readRecs s (engWho r.cmd .copy die engine) r.cmd.tmpl with
    | .error (x, e) => copyFault s die engine r x e
    | .ok (a, b) => endCopy s die engine r.cmd 0 (lrchkWord s r.cmd.tile a b)

end Sys2Proof.Machine
end

