-- ==== Sys2Proof/Machine/Gather.lean ====
section
/-! DEFINITION. Gather commands (R336 to R340): the fields of KIND 4, the checks at issue and of the table descriptor, and the
two instructions that a gather engine runs. -/

namespace Sys2Proof.Machine

/-! Fields and issue checks (R337). -/

def gaIlist (t : BitVec 256) : Nat := tf t 255 192
def gaData (t : BitVec 256) : Nat := tf t 191 128
def gaCount (t : BitVec 256) : Nat := if tf t 127 104 = 0 then 2 ^ 24 else tf t 127 104
def gaTdoff (t : BitVec 256) : Nat := tf t 103 91
def gaPoff (t : BitVec 256) : Nat := tf t 90 78
def gaDstr (t : BitVec 256) : Nat := tf t 77 66

/-- Bytes of an index entry. -/
def gaEntry (t : BitVec 256) : Nat := if tf t 65 65 = 1 then 8 else 4

/-- The fields of a KIND 4 template (R337); the front end's have no offsets in scratchpad (R354). -/
def gatherFields (t : BitVec 256) (fe : Bool) : Bool :=
  decide (tf t 7 4 ≤ 1) && tf t 64 64 == 0 && gaDstr t != 0 && cmdSel fe 0 (gaIlist t) && cmdSel fe 0 (gaData t) &&
  gaData t % 64 == 0 && gaIlist t % gaEntry t == 0 && (!fe || (gaTdoff t == 0 && gaPoff t == 0))

/-- The issue checks of a KIND 4 command (R337): the descriptor and the progress area. -/
def gatherCheck (s : State) (tile : Nat) (sk : Strm) (t : BitVec 256) : Chk Unit := do
  need (gatherFields t false) .template 0
  spanLimits s tile sk (ownAddr (gaTdoff t * 64)) 64
  if gaPoff t = 0 then .ok () else spanLimits s tile sk (ownAddr (gaPoff t * 64)) 512

/-- Whether a die's gather queue takes one more command (R320). -/
def gatherRoom (s : State) (d : Nat) : Bool := decide ((dieOf s d).gatherq.length < 32)

/-- Acceptance into a die's gather queue (R71, R320). -/
def gatherAccept (s : State) (d : Nat) (c : Cmd) : State :=
  let x := dieOf s d
  setDie s d { x with gatherq := x.gatherq ++ [c] }

/-! The table descriptor (R336). -/

def tdBase (d : List Word) : Nat := recWord d 0
def tdEtype (d : List Word) : Nat := bitsN (recWord d 1) 63 56
def tdElem (d : List Word) : Nat := (etypeBytes (tdEtype d)).getD 1
def tdMode (d : List Word) : Nat := bitsN (recWord d 1) 47 46
def tdRows (d : List Word) : Nat := bitsN (recWord d 1) 39 0
def tdLen (d : List Word) : Nat := bitsN (recWord d 2) 63 48
def tdStride (d : List Word) : Nat := bitsN (recWord d 2) 47 0
def tdDef (d : List Word) : Nat := recWord d 3

/-- Bytes of a row. -/
def tdRowBytes (d : List Word) : Nat := tdLen d * tdElem d

/-- The rules of R336 and R338, all of sub-reason 11. -/
def tdOk (d : List Word) (dstr : Nat) : Bool :=
  cmdSel true 0 (tdBase d) && tdBase d % 64 == 0 && (etypeBytes (tdEtype d)).isSome && bitsN (recWord d 1) 55 48 == 0 &&
  bitsN (recWord d 1) 45 40 == 0 && decide (tdMode d ≤ 1) && tdRows d != 0 && tdLen d != 0 && tdStride d % 64 == 0 &&
  decide (tdRowBytes d ≤ tdStride d) && (d.drop 4).all (· == 0) &&
  (if tdMode d = 1 then decide (tdDef d / 2 ^ 56 ≤ 3) && tdDef d % 64 == 0 else tdDef d == 0) &&
  decide (tdRowBytes d ≤ 64 * dstr)

/-- Element types that SCTR reduces (R336). -/
def reducible (etype : Nat) : Bool := etype == 0x10 || etype == 0x11 || etype == 5 || etype == 6 || etype == 7

/-- The sub-reason of a descriptor that breaks a rule. -/
def tdFail (d : List Word) (dstr sub : Nat) : Option Nat :=
  if !tdOk d dstr then some 11 else if sub == 1 && !reducible (tdEtype d) then some 12 else none

/-! Rows (R338). -/

/-- An index entry of n bytes is valid for a table of a number of rows: its row. -/
def entryRow (n rows x : Nat) : Option Nat :=
  if bitN x (8 * n - 1) then none
  else
    let v := sextN (8 * n - 1) x
    if 0 ≤ v ∧ v < rows then some v.toNat else none

/-- The lowest batch of 64 rows that is not wholly complete (R340). -/
def lowBatch (done : List Nat) (count : Nat) : Nat → Nat → Nat
  | 0, b => b
  | f + 1, b =>
    if (List.range 64).all fun r => decide (count ≤ 64 * b + r) || done.contains (64 * b + r) then lowBatch done count f (b + 1)
    else b

def gaBatch (g : GatherRun) : Nat := lowBatch g.done (gaCount g.cmd.tmpl) (g.done.length / 64 + 1) 0

/-- The mask of a batch (R340). -/
def gaMask (g : GatherRun) (b : Nat) : Nat :=
  (List.range 64).foldl (fun m r => if g.done.contains (64 * b + r) then m + 2 ^ r else m) 0

/-- Whether the engine works on a row, or has completed it. -/
def rowTaken (g : GatherRun) (j : Nat) : Bool :=
  g.done.contains j || g.entries.any (·.1 == j) || g.reads.any (·.1 == j) || g.rows.any (·.1 == j) || g.issued.contains j

/-- The first row that has not started, below the limit of R340. -/
def nextRow (g : GatherRun) : Option Nat :=
  let b := gaBatch g
  let top := min (gaCount g.cmd.tmpl) (64 * (b + 64))
  (span (64 * b) (top - 64 * b)).find? fun j => !rowTaken g j

/-- The reads of 64 bytes that a row takes (R338): those of its table row, of the default row or, for an SCTR, of its row of DATA. An
entry that is not valid makes no read where no default row stands. -/
def rowLines (g : GatherRun) (d : List Word) (x : Option Nat) : Nat :=
  if x.isNone && (cmdSub g.cmd == 1 || tdMode d != 1) then 0 else ceilDiv (tdRowBytes d) 64

/-- Whether n more reads stay within the 4,096 of R340. -/
def readRoom (g : GatherRun) (d : List Word) (n : Nat) : Bool :=
  decide ((g.reads.map fun p => rowLines g d p.2).foldl (· + ·) n ≤ 4096)

/-- A row that the engine no longer works on. -/
def dropRow (g : GatherRun) (j : Nat) : GatherRun :=
  { g with reads := g.reads.filter (·.1 != j), rows := g.rows.filter fun p => p.1 != j }

/-! A gather engine at work. -/

def gatherOf (s : State) (die eng : Nat) : Option GatherRun := mget? (dieOf s die).gatherEng eng

def setGather (s : State) (die eng : Nat) (g : GatherRun) : State :=
  let d := dieOf s die
  setDie s die { d with gatherEng := mset d.gatherEng eng g }

/-- A gather command leaves its engine. -/
def endGather (s : State) (die eng : Nat) (c : Cmd) (status : BitVec 8) (result : Nat) : State :=
  let d := dieOf s die
  let d1 := { d with gatherEng := mdel d.gatherEng eng, descs := mdel d.descs c.id }
  finish (setDie s die d1) c status (BitVec.ofNat 40 result)

/-- The engine stops issuing: its fault, the first it meets, is posted once what it has issued has been performed (R340). The entries
that it has read ahead are given up. -/
def gatherHalt (s : State) (die eng : Nat) (g : GatherRun) (c : Cause) (sub a : Nat) : State :=
  setGather s die eng { g with entries := [], halt := g.halt.or (some { cause := c, addr := a, sub := sub }) }

/-- A fault of an access at an address: ADDR is that of the page or granule at fault (R340). -/
def gatherFault (s : State) (die eng : Nat) (g : GatherRun) (a : Nat) (f : AccFault) : State :=
  match f with
  | .hold v => holdWrite s (engWho g.cmd .gather die eng) v
  | _ => let (c, sub) := accCause f; gatherHalt s die eng g c sub (accAt f a)

/-- Reductions of a row that have not been applied. -/
def rowPending (s : State) (die eng row : Nat) : Bool := s.ports.any fun x => x.gather == some (die, eng, row)

/-- Rows all of whose reductions have been performed become complete (R340). -/
def settleRows (s : State) (die eng : Nat) (g : GatherRun) : GatherRun :=
  let ready := g.issued.filter fun j => !rowPending s die eng j && !g.bad.contains j
  { g with done := g.done ++ ready, issued := g.issued.filter fun j => !ready.contains j }

/-- The progress area written (R340). -/
def writeMasks (s : State) (g : GatherRun) (die eng : Nat) : State :=
  if gaPoff g.cmd.tmpl = 0 then s
  else
    let b := gaBatch g
    let bytes := (List.range 64).flatMap fun i => leBytes 8 (gaMask g (b + i))
    match engWrite s (engWho g.cmd .gather die eng) (ownAddr (64 * gaPoff g.cmd.tmpl)) bytes false with
    | .ok s1 => s1
    | .error _ => s

/-- The fault record and, for a fault that is not resolved by a response, the end of the command (R339, R340). -/
def gatherPost (s0 : State) (die eng : Nat) (g : GatherRun) (h : Halt) : State :=
  let s := writeMasks s0 g die eng
  let b := gaBatch g
  let m := gaMask g b
  let o := { cmdOffer s g.cmd h.cause 4 eng with
               sub := if g.bad.isEmpty then h.sub else 0, die := die, addr := BitVec.ofNat 64 h.addr, prog := BitVec.ofNat 64 b
               detail := BitVec.ofNat 64 m }
  if (h.cause = .page ∨ h.cause = .poison) ∧ g.bad.isEmpty then
    offer (setGather s die eng { g with halt := some { h with offered := true } })
      { o with resp := true, waiter := .gather die eng }
  else endGather (offer s o) die eng g.cmd (causeByte h.cause) (64 * b + (maskBits 64 m).length)

/-- A read by a gather; the front end's commands reach only L2 pages and virtual space (R354). -/
def gatherRead (s : State) (die eng : Nat) (g : GatherRun) (a n : Nat) : Except AccFault (List Byte) :=
  if g.cmd.fromFe && !cmdSel true 0 a then .error .path else engRead s (engWho g.cmd .gather die eng) a n true

/-- Where the descriptor of a command lies: own scratchpad, or the address that the front end keeps (R336, R354). -/
def descAddr (s : State) (die : Nat) (c : Cmd) : Nat :=
  match mget? (dieOf s die).descs c.id with
  | some a => a
  | none => ownAddr (64 * gaTdoff c.tmpl)

/-- The descriptor read and checked. -/
def startGather (s : State) (die eng : Nat) (g : GatherRun) : State :=
  let a := descAddr s die g.cmd
  match gatherRead s die eng g a 64 with
  | .error e => gatherFault s die eng g a e
  | .ok bs =>
    let d := wordsOf 8 bs
    match tdFail d (gaDstr g.cmd.tmpl) (cmdSub g.cmd) with
    | some n => gatherHalt s die eng g .layout n a
    | none => setGather s die eng { g with desc := some d }

/-- The address of row j of DATA. -/
def dataRow (t : BitVec 256) (j : Nat) : Nat := moveAddr (gaData t) (64 * gaDstr t * j : Nat)

/-- The address of index entry j. -/
def entryAddr (t : BitVec 256) (j : Nat) : Nat := moveAddr (gaIlist t) (gaEntry t * j : Nat)

/-- Index entry j read ahead: the table row that it names, or none (R338, R340). -/
def entryStep (s : State) (die eng : Nat) (g : GatherRun) (d : List Word) (j : Nat) : State :=
  let n := gaEntry g.cmd.tmpl
  match gatherRead s die eng g (entryAddr g.cmd.tmpl j) n with
  | .ok bs => setGather s die eng { g with entries := g.entries ++ [(j, entryRow n (tdRows d) (leNat bs))] }
  | .error e => gatherFault s die eng g (entryAddr g.cmd.tmpl j) e

/-- The address of a row of the table. -/
def tableRow (d : List Word) (x : Nat) : Nat := moveAddr (tdBase d) (x * tdStride d : Nat)

/-- The bytes that row j of a GTHR writes (R338). -/
def gthrRow (s : State) (die eng : Nat) (g : GatherRun) (d : List Word) (x : Option Nat) :
    Except (Nat × AccFault) (List Byte) :=
  let src := match x with
    | some x => some (tableRow d x)
    | none => if tdMode d = 1 then some (tdDef d) else none
  match src with
  | none => .ok (List.replicate (tdRowBytes d) 0)
  | some a =>
    match gatherRead s die eng g a (tdRowBytes d) with
    | .ok bs => .ok bs
    | .error e => .error (a, e)

/-- The reads of row j of a GTHR, whose entry names x, land (R338): the engine holds the row. -/
def gthrStep (s : State) (die eng : Nat) (g : GatherRun) (d : List Word) (j : Nat) (x : Option Nat) : State :=
  match gthrRow s die eng g d x with
  | .error (a, e) => gatherFault s die eng g a e
  | .ok bs => setGather s die eng { g with rows := g.rows ++ [(j, bs)] }

/-- A row that the engine holds is written (R338, R340). A write to a page that must collapse waits; at a fault the row is to be read
again. -/
def gthrPut (s : State) (die eng : Nat) (g : GatherRun) (j : Nat) (bs : List Byte) : State :=
  let a := dataRow g.cmd.tmpl j
  let g1 := dropRow g j
  match engWrite s (engWho g.cmd .gather die eng) a bs true with
  | .error (.hold v) => holdWrite (setGather s die eng g) (engWho g.cmd .gather die eng) v
  | .error e => gatherFault s die eng g1 a e
  | .ok s1 => setGather s1 die eng { g1 with done := g.done ++ [j] }

/-- The reduction of element m of row j into a table element (R339). -/
def reduction (s : State) (c : Cmd) (d : List Word) (n v : Nat) : PortKind :=
  match tdEtype d with
  | 0x10 => .fadd32 (BitVec.ofNat 32 v) c.rm (BitVec.ofNat 32 (drainSr s c n))
  | 0x11 => .fadd16 (BitVec.ofNat 16 v) c.rm (BitVec.ofNat 32 (drainSr s c n))
  | _ => .iadd (tdElem d) (BitVec.ofNat 64 v)

/-- The reductions of a row, with every address translated before the first goes out. -/
def rowOps (s : State) (die eng : Nat) (g : GatherRun) (d : List Word) (x j : Nat) (bs : List Byte) :
    Nat → Nat → Except (Nat × AccFault) (List PortOp)
  | 0, _ => .ok []
  | f + 1, m =>
    let e := tdElem d
    let a := moveAddr (tableRow d x) (e * m : Nat)
    match engSegs s (engWho g.cmd .gather die eng) a e true false with
    | .ok (p :: _) =>
      match rowOps s die eng g d x j bs f (m + 1) with
      | .ok rest =>
        .ok ({ kind := reduction s g.cmd d (tdLen d * j + m) (leNat ((bs.drop (e * m)).take e)), addr := p.phys
               near := BitVec.ofNat 64 a, tile := g.cmd.tile, strm := g.cmd.strm, scope := .system, path := .gather
               gather := some (die, eng, j), watch := p.watch, key := ownKey g.cmd.id, ctxn := g.cmd.ctxn } :: rest)
      | .error y => .error y
    | .ok [] => .ok []
    | .error y => .error (a, y)

/-- The reads of row j of an SCTR, whose entry names x, land, and its reductions go out (R338, R339): an invalid entry is dropped and
counts as done. -/
def sctrStep (s : State) (die eng : Nat) (g : GatherRun) (d : List Word) (j : Nat) (x : Option Nat) : State :=
  match x with
  | none => setGather s die eng { g with done := g.done ++ [j] }
  | some x =>
    let a := dataRow g.cmd.tmpl j
    match gatherRead s die eng g a (tdRowBytes d) with
    | .error e => gatherFault s die eng g a e
    | .ok bs =>
      match rowOps s die eng g d x j bs (tdLen d) 0 with
      | .error (b, e) => gatherFault s die eng g b e
      | .ok ops => setGather { s with ports := s.ports ++ ops } die eng { g with issued := g.issued ++ [j] }

/-- What a gather engine can do next (R340): read an index entry ahead, issue the reads of a row whose entry it has, take the row whose
reads land, or write a row that it holds. -/
inductive GaAct where
  | entry (j : Nat)
  | issue (j : Nat) (x : Option Nat)
  | land (j : Nat) (x : Option Nat)
  | put (j : Nat) (bs : List Byte)
  deriving DecidableEq, Repr

/-- Whether an engine issues reads: not after a fault nor while its job is being saved (R340). -/
def gaGoes (s : State) (g : GatherRun) : Bool := g.halt.isNone && (g.cmd.fromFe || !beingSaved s g.cmd.job)

/-- The acts open to an engine: entries and rows are read in ascending order within the limits; rows land and are written in any order
(R340). -/
def gaActs (s : State) (g : GatherRun) (d : List Word) : List GaAct :=
  let entries := if gaGoes s g && readRoom g d 1 then (nextRow g).toList else []
  let issues := if gaGoes s g then g.entries.head?.toList.filter fun p => readRoom g d (rowLines g d p.2) else []
  entries.map .entry ++ issues.map (fun p => .issue p.1 p.2) ++ g.reads.map (fun p => .land p.1 p.2) ++ g.rows.map fun p => .put p.1 p.2

/-- The act that an engine takes: which, the spec leaves open (R340). -/
def gaPick (s : State) (g : GatherRun) (d : List Word) : Option (State × GaAct) :=
  let acts := gaActs s g d
  let (s1, w) := drawFree s
  acts[w.toNat % acts.length]?.map (s1, ·)

/-- An act performed, with the landing of the command's sub-kind. -/
def gaDo (die eng : Nat) (s : State) (g : GatherRun) (d : List Word) (land : State → GatherRun → Nat → Option Nat → State) :
    GaAct → State
  | .entry j => entryStep s die eng g d j
  | .issue j x => setGather s die eng { g with entries := g.entries.drop 1, reads := g.reads ++ [(j, x)] }
  | .land j x => land s (dropRow g j) j x
  | .put j bs => gthrPut s die eng g j bs

/-- A step of the command of one sub-kind that a gather engine runs: the descriptor, an act, the post of a fault once nothing is on
its way, or the end (R320, R338 to R340). -/
def runGather (sub die eng : Nat) (s : State) (f : State → GatherRun → List Word → Nat → Option Nat → State) :
    Out :=
  match gatherOf s die eng with
  | some g0 =>
    if cmdSub g0.cmd ≠ sub then .next s
    else
      let g := settleRows s die eng g0
      match g.desc.bind (gaPick s g), g.halt with
      | some (s1, x), _ => .next (gaDo die eng s1 g (g.desc.getD []) (fun s g => f s g (g.desc.getD [])) x)
      | none, some h =>
        if h.offered || g.issued.any (rowPending s die eng) then .next s else .next (gatherPost s die eng g h)
      | none, none =>
        if g.desc.isNone then .next (startGather s die eng g)
        else if g.done.length < gaCount g.cmd.tmpl then .next (setGather s die eng g)
        else .next (endGather s die eng g.cmd 0 (gaCount g.cmd.tmpl))
  | none =>
    let d := dieOf s die
    match d.gatherq with
    | [] => .next s
    | c :: rest =>
      if cmdSub c = sub ∧ eng < 4 then .next (setGather (setDie s die { d with gatherq := rest }) die eng { cmd := c })
      else .next s

/-- GTHR (R338). -/
def execGthr (die engine : Nat) (s : State) : Out := runGather 0 die engine s fun s g d => gthrStep s die engine g d

/-- SCTR (R338, R339). -/
def execSctr (die engine : Nat) (s : State) : Out := runGather 1 die engine s fun s g d => sctrStep s die engine g d

end Sys2Proof.Machine
end

