-- ==== Sys2Proof/Machine/Template.lean ====
section
/-! DEFINITION. Templates and their staging copies (R62 to R77): the field selects, the checks at issue, capture, acceptance,
and TBLD, TBSV, PHD and PIS. -/

namespace Sys2Proof.Machine

/-! Field selects (R65, R66). -/

/-- Part i of a field whose lowest bit is lo and highest bit hi: its bits (R66). -/
def partOf (hi lo i : Nat) : Nat × Nat := (min hi (lo + 16 * i + 15), lo + 16 * i)

/-- The selects of KIND 1 (R195). -/
def sel1 (n : Nat) : Option (Nat × Nat) :=
  if n < 36 then some (partOf 255 192 (n - 32))
  else if n < 40 then some (143 + 16 * (n - 36), 128 + 16 * (n - 36))
  else if n < 44 then some (91 + 12 * (n - 40), 80 + 12 * (n - 40))
  else
    match n with
    | 44 => some (79, 76)
    | 45 => some (75, 72)
    | 46 => some (71, 70)
    | 47 => some (69, 68)
    | 48 => some (67, 67)
    | 49 => some (66, 66)
    | 50 => some (65, 65)
    | 51 => some (79, 64)
    | _ => none

/-- The selects of KIND 2 (R269, R303); 53 to 62 are the raw parcels p6 to p15. -/
def sel2 (n : Nat) : Option (Nat × Nat) :=
  match n with
  | 32 => some (255, 248)
  | 33 => some (247, 240)
  | 34 => some (239, 232)
  | 35 => some (231, 225)
  | 36 => some (224, 217)
  | 37 => some (216, 210)
  | 38 => some (209, 205)
  | 39 => some (204, 204)
  | 40 => some (203, 203)
  | 41 => some (191, 176)
  | 42 => some (167, 152)
  | 43 => some (175, 168)
  | 44 => some (151, 139)
  | 45 => some (79, 64)
  | 46 => some (95, 80)
  | 47 => some (111, 96)
  | 48 => some (127, 112)
  | 49 => some (138, 138)
  | 50 => some (191, 180)
  | 51 => some (175, 160)
  | 52 => some (159, 159)
  | _ => if n < 63 then some (partOf 255 0 (n - 47)) else none

/-- The selects of KIND 3 (R327). -/
def sel3 (n : Nat) : Option (Nat × Nat) :=
  if n < 36 then some (partOf 255 192 (n - 32))
  else if n < 40 then some (partOf 191 128 (n - 36))
  else if n < 44 then some (partOf 127 64 (n - 40))
  else none

/-- The selects of KIND 4 (R337). -/
def sel4 (n : Nat) : Option (Nat × Nat) :=
  if n < 36 then some (partOf 255 192 (n - 32))
  else if n < 40 then some (partOf 191 128 (n - 36))
  else
    match n with
    | 40 => some (119, 104)
    | 41 => some (127, 120)
    | 42 => some (103, 91)
    | 43 => some (90, 78)
    | 44 => some (77, 66)
    | 45 => some (65, 65)
    | _ => none

/-- The selects of KIND 5 (R312). -/
def sel5 (n : Nat) : Option (Nat × Nat) :=
  match n with
  | 32 => some (255, 240)
  | 33 => some (239, 224)
  | 34 => some (223, 208)
  | 35 => some (207, 192)
  | _ => if n < 40 then some (partOf 191 128 (n - 36)) else if n < 44 then some (partOf 127 64 (n - 40)) else none

/-- The selects of KIND 6 (R214). -/
def sel6 (n : Nat) : Option (Nat × Nat) :=
  if n < 36 then some (partOf 255 192 (n - 32))
  else
    match n with
    | 36 => some (191, 182)
    | 37 => some (181, 177)
    | 38 => some (176, 174)
    | 39 => some (173, 172)
    | 40 => some (159, 144)
    | 41 => some (135, 120)
    | 42 => some (143, 136)
    | 43 => some (71, 70)
    | 44 => some (69, 68)
    | 45 => some (67, 64)
    | _ => none

/-- The selects of KIND 7 (R369). -/
def sel7 (n : Nat) : Option (Nat × Nat) :=
  if n < 36 then some (partOf 255 192 (n - 32))
  else
    match n with
    | 36 => some (191, 176)
    | 37 => some (175, 175)
    | _ => none

/-- The selects of the common header (R65); 24 to 31 are reserved. -/
def selHead (n : Nat) : Option (Nat × Nat) :=
  if n < 16 then some (16 * n + 15, 16 * n)
  else
    match n with
    | 16 => some (11, 8)
    | 17 => some (12, 12)
    | 18 => some (14, 13)
    | 19 => some (17, 15)
    | 20 => some (23, 20)
    | 21 => some (26, 24)
    | 22 => some (47, 32)
    | 23 => some (63, 48)
    | _ => none

/-- The bits that a select names for a KIND, or none where it is reserved or undefined (R65, R67). -/
def selField (kind n : Nat) : Option (Nat × Nat) :=
  if n < 32 then selHead n
  else
    match kind with
    | 1 => sel1 n
    | 2 => sel2 n
    | 3 => sel3 n
    | 4 => sel4 n
    | 5 => sel5 n
    | 6 => sel6 n
    | 7 => sel7 n
    | _ => none

/-- Bits [hi:lo] of a template replaced by the low bits of a value (R66). -/
def amendBits (t : BitVec 256) (hi lo v : Nat) : BitVec 256 :=
  let x := t.toNat
  BitVec.ofNat 256 (x - tf t hi lo * 2 ^ lo + v % 2 ^ (hi + 1 - lo) * 2 ^ lo)

/-- A patch of a staging copy (R66, R67): TEMPLATE for a select that is reserved or undefined; select 63 amends nothing. -/
def amend (t : BitVec 256) (sel v : Nat) : Chk (BitVec 256) :=
  if sel = 63 then .ok t
  else
    match selField (tf t 3 0) sel with
    | some (hi, lo) => .ok (amendBits t hi lo v)
    | none => .error (.trap .template 0)

/-! The checks of a command (R68, R69, R77). -/

/-- The highest SUB of each KIND (R63); none for a KIND that issues nothing. -/
def lastSub (kind : Nat) : Option Nat :=
  match kind with
  | 1 => some 10
  | 2 => some 3
  | 3 => some 3
  | 4 => some 1
  | 5 => some 2
  | 6 => some 1
  | 7 => some 1
  | _ => none

/-- The header checks (R68). -/
def headOk (t : BitVec 256) : Bool :=
  (match lastSub (tf t 3 0) with
    | some n => decide (tf t 7 4 ≤ n)
    | none => false)
  && tf t 14 13 != 3 && decide (tf t 26 24 ≤ 5) && tf t 31 27 == 0 && tf t 19 18 == 0

def grGaddr (t : BitVec 256) : Nat := tf t 255 192
def grQnum (t : BitVec 256) : Nat := tf t 191 176
def grOrd (t : BitVec 256) : Bool := tf t 175 175 == 1

/-- The fields of a KIND 7 template (R369). -/
def graphFields (t : BitVec 256) : Bool := tf t 174 64 == 0 && grGaddr t / 2 ^ 56 == 0 && grGaddr t % 64 == 0

/-- The checks of a kind that need no format-table entry (R77). -/
def kindCheck (s : State) (tile : Nat) (sk : Strm) (t : BitVec 256) : Chk Unit :=
  match tf t 3 0 with
  | 1 => streamCheck s tile sk (blockOf s tile) t
  | 3 => copyCheck s tile sk t
  | 4 => gatherCheck s tile sk t
  | 5 => caskCheck s tile sk t
  | 6 => pipCheck s t
  | 7 => need (graphFields t) .template 0
  | _ => .ok ()

/-- Whether the launch queue takes one more command (R342). -/
def launchRoom (s : State) : Bool := decide (s.fe.launchq.length < 1024)

/-- Whether the unit of a command accepts it now (R71). -/
def kindRoom (s : State) (tile : Nat) (t : BitVec 256) : Bool :=
  match tf t 3 0 with
  | 1 => streamRoom s tile t
  | 2 => matrixRoom s tile
  | 3 => copyRoom s (tileDie tile)
  | 4 => gatherRoom s (tileDie tile)
  | 6 => pipRoom s tile t
  | 7 => launchRoom s
  | _ => true

/-- A command for the front end joins the launch queue (R342). -/
def feAccept (s : State) (c : Cmd) (k : FeKind) : State :=
  let f : FeCmd := { kind := k, tile := c.tile, strm := c.strm, job := c.job, ctxn := c.ctxn }
  { s with fe := { s.fe with launchq := s.fe.launchq ++ [f] } }

/-- A command enters the unit that executes it (R71). -/
def kindAccept (s : State) (c : Cmd) : State :=
  match cmdKind c with
  | 1 => streamAccept s c
  | 2 => matrixAccept s c
  | 3 => copyAccept s (tileDie c.tile) c
  | 4 => gatherAccept s (tileDie c.tile) c
  | 5 => caskAccept s c
  | 6 => pipAccept s c
  | _ => feAccept s c (if cmdSub c = 0 then .glnc c else .gnxt c)

/-- The path of a command's writes, and of its replies (R70, R174). -/
def kindPath (kind : Nat) : Path :=
  match kind with
  | 1 => .stream
  | 2 => .matrix
  | 3 => .copy
  | 4 => .gather
  | 5 => .matrix
  | 6 => .mesh
  | _ => .front

/-- The path of a command's reads of memory (R174). -/
def readPath (t : BitVec 256) : Path := if tf t 3 0 = 1 then slotPath t else kindPath (tf t 3 0)

/-- The physical spans that a command may touch, by which HGIVE waits (R166). -/
def kindSpans (s : State) (tile : Nat) (t : BitVec 256) : List (Nat × Nat) :=
  match tf t 3 0 with
  | 1 => streamSpans s tile t
  | 2 => matrixSpans s tile t
  | 3 => clusterSpans tile
  | 4 => clusterSpans tile
  | 5 => caskSpans s tile t
  | 6 => pipSpans tile t
  | _ => []

/-- The rounding mode that a command captures (R73). -/
def captureRm (st : Stream) (t : BitVec 256) : BitVec 3 := BitVec.ofNat 3 (if tf t 26 24 = 0 then feRm st else tf t 26 24)

/-- The format-table entry that a command captures (R73, R108). -/
def captureFte (s : State) (tile : Nat) (st : Stream) (t : BitVec 256) : Word :=
  ftAt s tile (st.ftb.toNat + tf t 23 20 + st.lca.idx.toNat)

/-- The command that a stream issues (R73, R100, R126). DESIGN CHOICE (assumption 145): the base of a command that does not capture
mode SR, which its task record (R272) and its markers (R112) carry, is 0. -/
def makeCmd (s : State) (tile : Nat) (sk : Strm) (t : BitVec 256) : Cmd :=
  let st := strmAt s tile sk
  let idem := inIdem s tile sk st.pc.toNat
  let rm := captureRm st t
  let before := (popBits st (BitVec.ofNat 4 (tf t 11 8))).know
  { id := s.nextCmd, tmpl := t, rm := rm, fte := captureFte s tile st t, srBase := if rm = 5 then st.srctr else 0, tile := tile, strm := sk
    ctxn := ctxnOf s tile, job := (tileOf s tile).job.getD 0, stage := stageOf s tile, idem := idem.isSome
    span := idem.getD 0, lcaIdx := st.lca.idx, gaddr := gaddrOf s tile
    know := before, base := st.viewBase, reach := reachOf s tile st before (readPath t) }

/-- One more reply is owed where the command replies to a queue register (R77). -/
def oweReply (st : Stream) (t : BitVec 256) : Stream :=
  if tf t 14 13 = 1 then
    let n := tf t 17 15
    setQreg st n { qreg st n with owed := (qreg st n).owed + 1 }
  else st

/-- The issuing stream after its command has been sent (R77, R100): tokens popped, reply owed, staging copy reloaded, the
command noted until it completes. -/
def issued (s : State) (tile : Nat) (st : Stream) (c : Cmd) (idx : Nat) : Stream :=
  let st1 := oweReply (popBits st (BitVec.ofNat 4 (tf c.tmpl 11 8))) c.tmpl
  let st2 := if c.rm = 5 then { st1 with srctr := st1.srctr + 1 } else st1
  let ref : CmdRef := { id := c.id, path := kindPath (cmdKind c), spans := kindSpans s tile c.tmpl }
  { st2 with staging := mset st2.staging idx (mget st2.templates idx 0), cmds := st2.cmds ++ [ref] }

/-- The token bits that a PIS pushes when it retires: those of a TKON 0 command (R72). -/
def pisPushes (t : BitVec 256) : BitVec 4 := BitVec.ofNat 4 (if tf t 12 12 = 0 then tf t 9 8 else 0)

/-- PHD (R76). -/
def execPhd (o : FormPatch) (s : State) : Out :=
  issue s do
    let st := cur s
    let t ← amend (mget st.staging o.idx.toNat 0) o.sel.toNat o.value.toNat
    let s1 := if o.sel = 63 then s else setCur s { st with staging := mset st.staging o.idx.toNat t }
    .ok (retire s1 0 .seq)

/-- PIS (R77). -/
def execPis (o : FormPatch) (s : State) : Out :=
  issue s do
    let st := cur s
    let tile := s.curTile
    let sk := s.curStrm
    let t ← amend (mget st.staging o.idx.toNat 0) o.sel.toNat o.value.toNat
    need (headOk t) .template 0
    kindCheck s tile sk t
    let q := qreg st (tf t 17 15)
    need (tf t 14 13 != 1 || decide (q.held.length + q.owed < 4)) .qover 0
    need (tf t 14 13 != 2 || ownSpanOk s tile sk (tf t 63 48 * 8) 8) .owner 0
    tokensReady st (BitVec.ofNat 4 (tf t 11 8))
    waitFor (kindRoom s tile t)
    let c := makeCmd s tile sk t
    if tf t 3 0 = 2 then
      matrixCheck s tile sk t c.fte
      chainCheck s tile t c.fte
    let s1 := setCur { s with nextCmd := s.nextCmd + 1 } (issued s tile st c o.idx.toNat)
    .ok (retire (kindAccept s1 c) (pisPushes t) .seq)

/-! TBLD and TBSV (R74, R75). -/

/-- The first template and the number that TBLD and TBSV name, and their checks before check_near. -/
def tbChecks (a b : Word) : Chk (Nat × Nat) := do
  let first := wf64 b 5 0
  let n := wf64 b 14 8
  need (n != 0 && decide (first + n ≤ 64)) .template 0
  need (wf64 a 4 0 == 0) .align a
  need (nearSel a == 1 || nearSel a == 2 || nearSel a == 3) .accessPath a
  .ok (first, n)

/-- Templates and staging copies written from bytes, 32 to each (R74). -/
def loadTemplates (st : Stream) (first : Nat) : Nat → List Byte → Stream
  | 0, _ => st
  | n + 1, bs =>
    let t := BitVec.ofNat 256 (leNat (bs.take 32))
    loadTemplates { st with templates := mset st.templates first t, staging := mset st.staging first t } (first + 1) n (bs.drop 32)

/-- TBLD (R74). -/
def execTbld (o : FormAB) (s : State) : Out :=
  issue s do
    let st := cur s
    let a ← readSrc st o.a false
    let b ← readSrc st o.b false
    tokensReady st o.tk
    let (first, n) ← tbChecks a b
    let bs ← nearSpan s a (32 * n)
    let s1 := seeSpan s a (32 * n)
    .ok (retire (setCur s1 (loadTemplates (popBits (cur s1) o.tk) first n bs)) o.tk .seq)

/-- TBSV (R75). -/
def execTbsv (o : FormAB) (s : State) : Out :=
  issue s do
    let st := cur s
    let a ← readSrc st o.a false
    let b ← readSrc st o.b false
    tokensReady st o.tk
    let (first, n) ← tbChecks a b
    let acc ← checkNear s s.curTile s.curStrm a (32 * n) true false
    let bs := (span first n).flatMap fun i => leBytes 32 (mget st.templates i 0).toNat
    .ok (retire (postSegs (setCur s (popBits st o.tk)) s.curTile s.curStrm acc.segs bs) o.tk .seq)

end Sys2Proof.Machine
end

