-- ==== Sys2Proof/Machine/Paging.lean ====
section
/-! DEFINITION. Page walks (R395, R397, R398) and the collapse of read-duplicated pages (R401, R402). -/

namespace Sys2Proof.Machine

/-! The TLBs and the walk caches (R219, R398). -/

/-- Whether two translations are of one page in one TLB. -/
def tlbSame (x y : TlbEntry) : Bool := x.unit == y.unit && x.ctxn == y.ctxn && x.l2 == y.l2 && x.base == y.base

/-- A translation put in a TLB in place of the one held for its page. A full TLB gives up an entry; which one is left open
(assumption 10). -/
def tlbPut (s : State) (e : TlbEntry) : State :=
  let others := s.tlb.filter fun x => !tlbSame x e
  let mine := others.filter (·.unit == e.unit)
  if unitRoom e.unit = 0 then s
  else if mine.length < unitRoom e.unit then { s with tlb := others ++ [e] }
  else
    let (s1, v) := drawFree s
    { s1 with tlb := others.erase (mine.getD (v.toNat % mine.length) e) ++ [e] }

/-- An upper-level entry put in the cache of its die; a full cache gives up an entry, which one is left open. -/
def cacheWalk (s : State) (e : WalkEntry) : State :=
  let others := s.walks.filter fun x => !(x.die == e.die && x.ctxn == e.ctxn && x.addr == e.addr)
  let mine := others.filter (·.die == e.die)
  if mine.length < walkRoom then { s with walks := others ++ [e] }
  else
    let (s1, v) := drawFree s
    { s1 with walks := others.erase (mine.getD (v.toNat % mine.length) e) ++ [e] }

/-- The upper-level entries that a walk on a die reads, from a table on, with the virtual addresses that each serves: 2^39, 2^30 and
2^21 bytes (R395). -/
def upperWalk (s : State) (ctxn die : Nat) (key : List Nat) (va : Nat) : Nat → List Nat → List (Nat × Nat) → List WalkEntry
  | t, z :: zs, (i, _) :: rest =>
    let e := pteAt s ctxn die key (t + 8 * i)
    if localOk t && bitN e 0 && !pteReserved e && !bitN e 1 then
      { die := die, ctxn := ctxn, base := va / 2 ^ z * 2 ^ z, size := 2 ^ z, addr := t + 8 * i, val := e }
        :: upperWalk s ctxn die key va (bitsN e 55 8 * 2 ^ 8) zs rest
    else []
  | _, _, _ => []

/-- The leaf entry that a walk on a die reaches, and the size of its page. -/
def leafWalk (s : State) (ctxn die : Nat) (key : List Nat) (va t : Nat) : List (Nat × Nat) → Option (Nat × Nat)
  | [] => none
  | (i, size) :: rest =>
    let e := pteAt s ctxn die key (t + 8 * i)
    if bitN e 1 then some (e, size) else leafWalk s ctxn die key va (bitsN e 55 8 * 2 ^ 8) rest

/-- What a walk finds for an address of a context, as a translation of a TLB: the leaf's page and permission. A write through a
read-duplicated page walks again (R402). -/
def walkFor (s : State) (u : TlbUnit) (ctxn : Nat) (l2 : Bool) (a : Nat) (write : Bool) : Option TlbEntry :=
  if l2 then
    match walkL2 s ctxn a write with
    | .ok p w =>
      some { unit := u, ctxn := ctxn, l2 := true, base := a, size := 1, phys := p, watch := w
             write := bitN (readNat s ((ctxWord s ctxn 3).toNat + 8 * a) 8) 2 }
    | _ => none
  else
    let key := accessKey s u a write
    match walkVa s ctxn (unitDie u) key a write, leafWalk s ctxn (unitDie u) key a (ctxWord s ctxn 2).toNat (vaLevels a) with
    | .ok p w, some (e, size) =>
      some { unit := u, ctxn := ctxn, l2 := false, base := a / size * size, size := size, phys := p - a % size, watch := w
             write := bitN e 3, dup := bitN e 62 }
    | _, _ => none

/-- The upper-level entries of a walk are cached on its die. -/
def cacheUpper (s : State) (u : TlbUnit) (ctxn a : Nat) (write : Bool) : State :=
  (upperWalk s ctxn (unitDie u) (accessKey s u a write) a (ctxWord s ctxn 2).toNat [39, 30, 21] (vaLevels a)).foldl cacheWalk s

/-- A miss of a unit's TLB (R398): the second-level TLB of its cluster serves it, or a walk, whose translation both then hold. A walk
that faults leaves nothing: the unit that asked reports the fault. -/
def fillTlb (s : State) (u : TlbUnit) (ctxn : Nat) (l2 : Bool) (a : Nat) (write : Bool) : State :=
  match (unitCluster u).bind fun c => heldIn s (.second c) ctxn l2 a with
  | some e => tlbPut s { e with unit := u }
  | none =>
    match walkFor s u ctxn l2 a write with
    | none => s
    | some e =>
      let s1 := if l2 then s else cacheUpper s u ctxn a write
      match unitCluster u with
      | some c => tlbPut (tlbPut s1 { e with unit := .second c }) e
      | none => s1

/-- The direction in which a slot's active command reads ahead (R219): down where its pattern's S0 is negative, up for any other,
an indirect or a layout-record command. -/
def slotDown (s : State) (u : TlbUnit) : Bool :=
  match u with
  | .slot t n =>
    ((mget (tileOf s t).slots n {}).active.map fun x =>
      let sub := cmdSub x.cmd
      sub != 2 && sub != 3 && !scLr x.cmd.tmpl && bitN (scS x.cmd.tmpl 0) 15).getD false
  | _ => false

/-- The page after one that a slot's stream TLB has come to hold, in its size (R219): a prefetch that finds no mapping is dropped. -/
def prefetchNext (s : State) (u : TlbUnit) (ctxn : Nat) (l2 : Bool) (a : Nat) : State :=
  match u, heldIn s u ctxn l2 a with
  | .slot _ _, some e =>
    let next := if slotDown s u then (if e.base = 0 then none else some (e.base - 1)) else some (e.base + e.size)
    match next with
    | none => s
    | some b =>
      if (if l2 then decide (2 ^ 16 ≤ b) else decide (2 ^ 56 ≤ b)) || (heldIn s u ctxn l2 b).isSome then s
      else fillTlb s u ctxn l2 b false
  | _, _ => s

/-- PAGE_WALK (R219, R395, R397, R398): a miss of a unit's TLB is served and, for a slot whose access enters a page, held before or not,
the next page is prefetched; a fault is reported by the unit that asked, under its own rule. -/
def execPageWalk (req : WalkReq) (s : State) : Out :=
  let a := if req.l2 then req.addr else req.addr % 2 ^ 56
  let s1 := if (heldIn s req.unit req.ctxn req.l2 a).isSome then s else fillTlb s req.unit req.ctxn req.l2 a req.write
  .next (prefetchNext s1 req.unit req.ctxn req.l2 a)

/-! The collapse of a read-duplicated page (R401, R402). -/

/-- The copies that a duplicate record names (R401). -/
def dupCopies (s : State) (rec : Nat) : List Nat := (List.range 4).map fun d => readNat s (rec + 8 * d) 8

/-- The word u4 of a record after a collapse that keeps a copy (R401, R402). -/
def collapsed (u4 keep : Nat) : Nat :=
  u4 / 2 ^ 10 * 2 ^ 10 + 2 ^ 8 + bitsN u4 7 6 * 2 ^ 6 + keep * 2 ^ 4 + 2 ^ keep

/-- A leaf that names its page instead of a duplicate record (R402): WATCH and W stay. -/
def plainLeaf (e page : Nat) : Nat := bitsN e 63 63 * 2 ^ 63 + page / 2 ^ 8 * 2 ^ 8 + e % 2 ^ 8

/-- The collapse of the page of a virtual address for a write from a die (R402), where it is still read-duplicated: the copy kept,
the first address of the page, and where the held write goes. Every die drops the page's translations. -/
def collapsePage (s : State) (ctxn die va : Nat) : Option (State × Nat × Nat × Nat) :=
  match leafEntry s ctxn va with
  | none => none
  | some (a, base, size) =>
    let e := readNat s a 8
    let rec_ := bitsN e 55 8 * 2 ^ 8
    let u4 := readNat s (rec_ + 32) 8
    if !bitN e 62 || bitN u4 8 then none
    else
      let keep := if bitN u4 die then die else bitsN u4 5 4
      let copies := dupCopies s rec_
      let gone (x : TlbEntry) : Bool :=
        !x.l2 && (copies.contains x.phys || (x.ctxn == ctxn && decide (x.base ≤ va) && decide (va < x.base + x.size)))
      let s1 := { s with tlb := s.tlb.filter fun x => !gone x }
      let s2 := writeNat s1 (feAgent channelStrip) a 8 (plainLeaf e (copies.getD keep 0))
      some (writeNat s2 (feAgent channelStrip) (rec_ + 32) 8 (collapsed u4 keep), keep, base, copies.getD keep 0 + va % size)

/-- Whether the command that makes accesses of a key is still at work: in its slot, queue or engine, at its node, or, for the late
accesses of a task, in its drain or its write-back (R288, R309). -/
def keyLive (s : State) (key : Nat) : Bool :=
  let named (c : Cmd) : Bool := lateKey c.id == key
  (s.tiles.any fun (_, t) => [t.k, t.l, t.c, t.w].any fun st => st.cmds.any fun r => ownKey r.id == key)
    || (s.fe.saves.any fun (_, ts) => ts.any fun (_, t) => [t.k, t.l, t.c, t.w].any fun st => st.cmds.any fun r => ownKey r.id == key)
    || (s.fe.bound.any fun b => b.cmds.any fun i => ownKey i == key)
    || s.clusters.any fun (_, x) => (x.chains.any fun c => c.closer.any named) || x.writebacks.any fun w => named w.task.cmd

/-- COLLAPSE (R402): the page of held write n collapses, and the unit that holds the write performs it, after which the event is posted
(noteCollapse). Where the page has collapsed meanwhile, the unit walks again and writes as to an ordinary page. The event of a write
that its command has left unperformed is posted once the command is gone (assumption 66). -/
def execCollapse (n : Nat) (s : State) : Out :=
  match s.held[n]? with
  | none => .next s
  | some h =>
    match h.kept with
    | some (keep, base, _) =>
      if keyLive s h.key then .next s else .next (collapseEvent { s with held := ldrop s.held n } h.ctxn h.die keep base)
    | none =>
      match collapsePage s h.ctxn h.die h.va with
      | none => .next { s with held := ldrop s.held n }
      | some (s1, x) => .next { s1 with held := lset s1.held n { h with kept := some x } }

/-! The scrubber (R403). -/

/-- The entries of a list, numbered from off on, without those of a die that a pass finds with bad parity; and how many those are. -/
def dropBad {α : Type} (pass off : Nat) (here : α → Bool) (xs : List α) : List α × Nat :=
  let kept := (xs.zipIdx.filter fun (x, i) => !(here x && Config.parityBad pass (off + i))).map (·.1)
  (kept, xs.length - kept.length)

/-- SCRUB_PASS (R403): every line of a die is read, and each single-bit error found is corrected in place and counted; TLB and walk-cache
entries found with bad parity are dropped, walked again, and counted as corrected. How many errors there are, those corrected in
registers and in ordinary reads since the pass before among them, is a free value; a correction leaves every byte as it reads, and
poison stays (assumption 110). -/
def execScrubPass (die : Nat) (s : State) : Out :=
  let pass := s.free
  let (s1, n) := drawFree s
  let (tlb, a) := dropBad pass 0 (fun e => unitDie e.unit == die) s1.tlb
  let (walks, b) := dropBad pass s1.tlb.length (fun e => e.die == die) s1.walks
  .next (countScrub { s1 with tlb := tlb, walks := walks } die (n.toNat + a + b))

end Sys2Proof.Machine
end

