-- ==== Sys2Proof/Machine/Front.lean ====
section
/-! DEFINITION. The front end's records: its memory accesses, completion records and index words (R411 to R413), graph state
in memory (R349, R350, R433), signals and node completion (R357, R359), and launches with their checks (R355, R356). -/

namespace Sys2Proof.Machine

/-! Memory on the FRONT path (R341, R353): the strip that walks graphs reads and writes node state, signals and completion words. -/

def feWho (ctxn : Nat) : Who :=
  { tile := 0x200 + graphStrip, strm := .k, ctxn := ctxn, path := .front, die := graphStrip, unit := .front }

/-- A read in a context; only selectors 0x00 and 0x03 are the front end's (R353). -/
def frontRead (s : State) (ctxn a n : Nat) : Except AccFault (List Byte) :=
  if cmdSel true 0 a then engRead s (feWho ctxn) a n false else .error .path

def feNat (s : State) (ctxn a n : Nat) : Except AccFault Nat :=
  match frontRead s ctxn a n with
  | .ok bs => .ok (leNat bs)
  | .error e => .error e

/-- Whether an access of the front end to n bytes gets no response from another package (R416). -/
def feLost (s : State) (ctxn a n : Nat) : Bool :=
  match engSegs s (feWho ctxn) a n true false with
  | .ok segs => (linkLost s segs).isSome
  | .error _ => false

/-- A write in a context, before which what k names happens. A read-duplicated page collapses first, and its event follows the write
(R402). -/
def frontWrite (s : State) (ctxn a : Nat) (bs : List Byte) (k : Know := {}) : Except AccFault State :=
  let w := { feWho ctxn with know := k }
  if cmdSel true 0 a then
    match engWrite s w a bs false with
    | .error (.hold v) =>
      match collapsePage s ctxn w.die v with
      | none => .error (.hold v)
      | some (s1, keep, base, _) => (engWrite s1 w a bs false).map fun s2 => collapseEvent s2 ctxn w.die keep base
    | r => r
  else .error .path

/-- A word read, or 0 where it cannot be. -/
def feWord (s : State) (ctxn a : Nat) : Nat :=
  match feNat s ctxn a 8 with
  | .ok v => v
  | .error _ => 0

/-- Bits [hi:lo] of a word replaced. -/
def setField (w hi lo v : Nat) : Nat := w - bitsN w hi lo * 2 ^ lo + v % 2 ^ (hi + 1 - lo) * 2 ^ lo

/-- Bits [hi:lo] of the word at an address replaced. -/
def feField (s : State) (ctxn a hi lo v : Nat) : Except AccFault State :=
  match feNat s ctxn a 8 with
  | .error e => .error e
  | .ok w => frontWrite s ctxn a (leBytes 8 (setField w hi lo v))

/-- The code of a front-end access fault (R377). -/
def feCode (e : AccFault) : BitVec 8 := causeByte (accCause e).1

/-! Interrupts, index words and completion records (R411 to R413). -/

def msix (s : State) (fn vec : Nat) : State := { s with out := s.out ++ [.msix fn vec] }

/-- CRC-16 with polynomial 0x1021 and initial value 0xFFFF over bytes (R411). -/
def crc16Step (c : Nat) (b : Byte) : Nat :=
  (List.range 8).foldl (fun c _ => if 2 ^ 15 ≤ c then (c * 2 % 2 ^ 16).xor 0x1021 else c * 2) (c.xor (b.toNat * 2 ^ 8))

def crc16 (bs : List Byte) : Nat := bs.foldl crc16Step 0xFFFF

/-- The index word of a channel (R411). -/
def indexWord (chid : Nat) (i : BitVec 32) : Nat :=
  let low := i.toNat + chid * 2 ^ 32
  low + crc16 (leBytes 6 low) * 2 ^ 48

/-- The index that an index word carries, where it passes R411. -/
def readIndex (chid w : Nat) : Option (BitVec 32) :=
  if bitsN w 63 48 = crc16 (leBytes 6 w) ∧ bitsN w 43 32 = chid then some (BitVec.ofNat 32 w) else none

def chanOf (s : State) (n : Nat) : Channel := mget s.fe.channels n {}

def setChan (s : State) (n : Nat) (x : Channel) : State := { s with fe := { s.fe with channels := mset s.fe.channels n x } }

/-- Whether an address is one that R410 gives a channel: space 00 or 01. -/
def chanSpace (a : Nat) : Bool := decide (a < 2 ^ 55)

/-- A channel block's sizes, alignments and spaces are as R409 and R410 state them: only then may EN be set, and only then does the
device use the block. -/
def channelSound (ch : Channel) : Bool :=
  decide (4 ≤ ch.rlog2.toNat) && decide (ch.rlog2.toNat ≤ 16) && decide (4 ≤ ch.clog2.toNat) && decide (ch.clog2.toNat ≤ 16) &&
  ch.rbase.toNat % 64 == 0 && ch.cbase.toNat % 64 == 0 && [ch.dciaddr, ch.cpiaddr, ch.hciaddr].all (fun a => a.toNat % 8 == 0)
    && [ch.rbase, ch.cbase, ch.dciaddr, ch.cpiaddr, ch.hciaddr].all fun a => chanSpace a.toNat

/-- Completion records written while there is space (R412): the record, the mirror, the interrupt. They wait while the block holds a
value that the device does not use (R409). -/
def flushOut : Nat → State → Nat → State
  | 0, s, _ => s
  | f + 1, s, n =>
    let ch := chanOf s n
    match ch.outbox with
    | [] => s
    | r :: rest =>
      if ch.paused || !channelSound ch then s
      else if 2 ^ ch.clog2.toNat ≤ (ch.cpidx - ch.hci).toNat then
        setChan s n { ch with blockedAt := if ch.blockedAt.isSome then ch.blockedAt else some s.fab }
      else
        let a := ch.cbase.toNat + 16 * (ch.cpidx.toNat % 2 ^ ch.clog2.toNat)
        let s1 := writeAt s (feAgent channelStrip) a r
        let s2 := writeNat s1 (feAgent channelStrip) ch.cpiaddr.toNat 8 (indexWord ch.chid (ch.cpidx + 1))
        let ch1 := { ch with outbox := rest, cpidx := ch.cpidx + 1, sinceRecon := ch.sinceRecon + 1, blockedAt := none }
        let s3 := setChan s2 n ch1
        flushOut f (if ch.cien then msix s3 ch.fn ch.cvec.toNat else s3) n

def flushChan (s : State) (n : Nat) : State := flushOut (chanOf s n).outbox.length s n

/-- The completion record of a packet (R346, R412); code is byte 10. -/
def completion (s : State) (p : PktNode) (status : Nat) (code : BitVec 8 := 0) : State :=
  if status = 0 ∧ !p.cmpl then s
  else
    let ch := chanOf s p.chan
    let r := leBytes 2 p.ptag ++ leBytes 1 p.pkind ++ leBytes 1 status ++ leBytes 4 p.idx ++ leBytes 2 ch.chid ++ [code]
      ++ List.replicate 5 0
    flushChan (setChan s p.chan { ch with outbox := ch.outbox ++ [r] }) p.chan

/-- The PCIe function that a context's interrupts go to: that of a channel whose events it receives. -/
def ctxFn (s : State) (ctxn : Nat) : Nat :=
  match s.fe.channels.find? fun p => p.2.mapped && p.2.ectxn.toNat == ctxn with
  | some p => p.2.fn
  | none => 0

/-! Graphs (R349, R350). -/

def graphOf (s : State) (gid : Nat) : Option Graph := s.fe.graphs.find? fun g => g.gid == gid

def updGraph (s : State) (gid : Nat) (f : Graph → Graph) : State :=
  { s with fe := { s.fe with graphs := s.fe.graphs.map fun g => if g.gid = gid then f g else g } }

/-- Word i of a graph's header as memory holds it: of h0 and h7, which the front end writes (R349, R433). -/
def headNow (s : State) (g : Graph) (i : Nat) : Nat := feWord s g.ctxn (g.gaddr + 8 * i)

/-- Word i of a graph's header as the launch read it (R355), and word i of one of its nodes. -/
def headWord (g : Graph) (i : Nat) : Nat := g.head.getD i 0
def nodeAddr (g : Graph) (n : Nat) : Nat := moveAddr (headWord g 1) (128 * n : Nat)
def nodeWord (s : State) (g : Graph) (n i : Nat) : Nat := feWord s g.ctxn (nodeAddr g n + 8 * i)

/-- The stage number that a record about a node carries: that of a JOB node, else 0 (R24). -/
def nodeStage (s : State) (g : Graph) (n : Nat) : Nat :=
  if g.pkt.isNone && bitsN (nodeWord s g n 0) 63 60 == 0 then bitsN (nodeWord s g n 2) 37 32 else 0

/-- Whether a ready node is one that a pre-emption has put back: it has been bound before (R374). -/
def wasBound (s : State) (r : NodeRef) : Bool :=
  s.fe.jobs.any (fun p => p.2.gid == r.gid && p.2.node == r.node)
    || s.fe.savedBinds.any fun p => p.1.ref.gid == r.gid && p.1.ref.node == r.node

/-- The ready nodes of a graph that have not been bound leave the ready lists (R359). -/
def stopReady (s : State) (gid : Nat) : State :=
  let keep (r : NodeRef) : Bool := r.gid != gid || wasBound s r
  let queues := s.fe.queues.map fun p => (p.1, { p.2 with ready := p.2.ready.filter keep })
  { s with fe := { s.fe with queues := queues, feReady := s.fe.feReady.filter keep } }

/-- A write of graph state that is dropped in silence when it fails (R433). -/
def quietField (s : State) (ctxn a hi lo v : Nat) : State :=
  match feField s ctxn a hi lo v with
  | .ok s1 => s1
  | .error _ => s

/-- GSTATE, FCODE and FNODE of a FAULTED graph. -/
def faultFields (s : State) (g : Graph) (code : BitVec 8) (node : Nat) (put : State → Nat → Nat → Nat → Nat → State) : State :=
  let s1 := put s g.gaddr 63 62 2
  let s2 := put s1 (g.gaddr + 56) 39 32 code.toNat
  put s2 (g.gaddr + 56) 31 16 node

/-- A write of a graph's state failed (R433): it is dropped, an event is posted once, and the graph faults. -/
def graphLost (s : State) (g : Graph) (a node : Nat) (e : AccFault) : State :=
  if g.lost then s
  else
    let code := if (accCause e).1 = .poison then causeByte .poison else causeByte .page
    let s1 := updGraph s g.gid fun x =>
      { x with lost := true, faulted := true, fcode := if x.faulted then x.fcode else code
               fnode := if x.faulted then x.fnode else node }
    let s2 := offer s1 { ctxn := g.ctxn, code := code, src := 6, sub := (accCause e).2, unit := node, stage := nodeStage s g node
                         resp := isLost e, addr := BitVec.ofNat 64 a, gaddr := BitVec.ofNat 64 g.gaddr }
    stopReady (if g.faulted then s2 else faultFields s2 g code node fun s a h l v => quietField s g.ctxn a h l v) g.gid

/-- A field of a graph's records written (R433). A one-node graph has no records. -/
def graphPut (s : State) (gid a hi lo v node : Nat) : State :=
  match graphOf s gid with
  | none => s
  | some g =>
    if g.pkt.isSome then s
    else
      match feField s g.ctxn a hi lo v with
      | .ok s1 => s1
      | .error e => graphLost s g a node e

/-- NSTATE and CNT of a node (R350). -/
def putNstate (s : State) (g : Graph) (n v : Nat) : State := graphPut s g.gid (nodeAddr g n) 59 58 v n
def putCnt (s : State) (g : Graph) (n v : Nat) : State := graphPut s g.gid (nodeAddr g n) 43 32 v n

/-- A graph faults with a code and a node (R359). The first fault is the one that it keeps. -/
def faultGraph (s : State) (gid : Nat) (code : BitVec 8) (node : Nat) : State :=
  match graphOf s gid with
  | none => s
  | some g =>
    if g.faulted then s
    else
      let s1 := updGraph s gid fun x => { x with faulted := true, fcode := code, fnode := node }
      stopReady (if g.pkt.isSome then s1 else faultFields s1 g code node fun s a h l v => graphPut s gid a h l v 0) gid

/-- A node joins the ready list of its queue; a queue that becomes ready counts from now (R372). -/
def queueReady (s : State) (qkey : Nat) (r : NodeRef) : State :=
  match mget? s.fe.queues qkey with
  | none => s
  | some q =>
    let q1 := { q with ready := q.ready ++ [r], since := if q.ready.isEmpty then s.fab else q.since }
    { s with fe := { s.fe with queues := mset s.fe.queues qkey q1 } }

/-- Whether a node kind runs in the front end: COND, HOST, REARM (R368). -/
def feKind (kind : Nat) : Bool := decide (4 ≤ kind)

/-- A node becomes READY (R355, R357). A FAULTED graph's node is never bound (R359). -/
def makeReady (s : State) (g : Graph) (n : Nat) : State :=
  let s1 := putNstate s g n 1
  match graphOf s1 g.gid with
  | none => s1
  | some g1 =>
    if g1.faulted then s1
    else
      let r : NodeRef := { gid := g.gid, node := n, since := s.fab }
      if feKind (bitsN (nodeWord s g n 0) 63 60) then { s1 with fe := { s1.fe with feReady := s1.fe.feReady ++ [r] } }
      else queueReady s1 g.qkey r

/-- A signal to a node (R357). A record that cannot be read cannot be written either: the write of CNT fails (R433). -/
def signalNode (s : State) (gid n : Nat) : State :=
  match graphOf s gid with
  | none => s
  | some g =>
    match feNat s g.ctxn (nodeAddr g n) 8 with
    | .error e => graphLost s g (nodeAddr g n) n e
    | .ok n0 =>
      let cnt := bitsN n0 43 32
      if bitsN n0 59 58 = 0 ∧ 0 < cnt then
        let s1 := putCnt s g n (cnt - 1)
        if cnt = 1 then makeReady s1 g n else s1
      else
        let ovs := bitsN (headNow s g 7) 15 0
        graphPut s gid (g.gaddr + 56) 15 0 (min (ovs + 1) 65535) 0

/-- Successors lo to hi − 1 of a node, from the successor array (R350). -/
def successors (s : State) (g : Graph) (n lo hi : Nat) : List Nat :=
  let soff := bitsN (nodeWord s g n 1) 31 0
  (span (soff + lo) (hi - lo)).filterMap fun i =>
    match feNat s g.ctxn (moveAddr (headWord g 2) (2 * i : Nat)) 2 with
    | .ok x => if x < bitsN (headWord g 0) 12 0 then some x else none
    | .error _ => none

/-- Signals to some of a node's successors, in array order (R357). -/
def signalSome (s : State) (gid n lo hi : Nat) : State :=
  match graphOf s gid with
  | none => s
  | some g => if g.pkt.isSome then s else (successors s g n lo hi).foldl (fun s m => signalNode s gid m) s

def nsucc (s : State) (g : Graph) (n : Nat) : Nat := bitsN (nodeWord s g n 1) 63 48

/-- Accesses of a graph's nodes, which happen before its completion word (R358). -/
def noteAccesses (s : State) (gid : Nat) (k : Know) : State := updGraph s gid fun g => { g with know := kmerge g.know k }

/-- A node completes: it is DONE and signals its successors (R357). -/
def nodeDone (s : State) (gid n : Nat) : State :=
  match graphOf s gid with
  | none => s
  | some g => if g.pkt.isSome then s else signalSome (putNstate s g n 3) gid n 0 (nsucc s g n)

/-- A node fails a check at binding (R356, R359): the event of the graph's completion carries the sub-reason. -/
def bindFail (s : State) (gid n sub : Nat) : State :=
  faultGraph (updGraph s gid fun g => if g.faulted then g else { g with fsub := sub }) gid (causeByte .graph) n

/-! The checks of a launch (R352, R353, R356). -/

/-- A block descriptor (R352); mapped asks for mode 0 or 1, as a stage map does. -/
def blkOk (b : Nat) (mapped : Bool) : Bool :=
  match bitsN b 31 30 with
  | 0 => decide (bitsN b 28 24 ≤ 23) && decide (bitsN b 22 20 + bitsN b 18 16 + 1 ≤ 8) && bitsN b 29 29 == 0 && bitsN b 23 23 == 0
      && bitsN b 19 19 == 0 && bitsN b 15 0 == 0
  | 1 => bitsN b 23 0 != 0 && bitsN b 29 24 == 0
  | 2 => !mapped && bitsN b 29 19 == 0 && bitsN b 15 0 == 0
  | _ => false

/-- The bits of words n2 to n15 that a kind uses (R351), as pairs of word and mask. -/
def nodeMasks (kind : Nat) : List (Nat × Nat) :=
  let all := 2 ^ 64 - 1
  match kind with
  | 0 => [(2, 2 ^ 39 - 1), (3, all), (4, all), (5, 2 ^ 6 - 1 + (2 ^ 19 - 1) * 2 ^ 32), (6, all), (7, all), (8, all), (9, all)]
  | 1 => [(2, 0x77FF), (3, all), (4, 2 ^ 63 + (2 ^ 12 - 1) * 2 ^ 48 + (2 ^ 32 - 1) * 2 ^ 16 + 3), (5, all), (6, all)]
  | 2 => [(2, 3), (3, all)]
  | 3 => [(2, 3), (3, all), (4, all)]
  | 4 => [(2, 3), (3, all), (4, all)]
  | 5 => (2, 0x3FFF) :: (3, all) :: (List.range 8).map fun i => (8 + i, all)
  | _ => [(2, 0x1FFF + 0x1FFF * 2 ^ 16)]

/-- Sub-reason 2: a node's kind and reserved bits (R350, R351). -/
def nodeBits (w : List Nat) : Bool :=
  let n0 := w.getD 0 0
  let kind := bitsN n0 63 60
  decide (kind ≤ 6) && bitsN n0 57 56 == 0 && bitsN n0 31 0 == 0 && (kind == 4 || bitsN (w.getD 1 0) 47 32 == 0) &&
  (List.range 14).all fun i =>
    let m := ((nodeMasks kind).find? fun p => p.1 == i + 2).elim 0 (·.2)
    (w.getD (i + 2) 0).land m == w.getD (i + 2) 0

/-- What a launch has read of a graph: header words, node records (none where unreadable), and the successor array. -/
structure GraphImage where
  gaddr : Nat
  head : List Nat
  nodes : List (Option (List Nat))
  edge : Nat → Option Nat

/-- The successor lists of the readable nodes, with whether every entry could be read. -/
def nodeEdges (g : GraphImage) (w : List Nat) : List (Option Nat) :=
  (span (bitsN (w.getD 1 0) 31 0) (bitsN (w.getD 1 0) 63 48)).map g.edge

def virtOnly (a : Nat) : Bool := a / 2 ^ 56 == 0

/-- Sub-reason 7 for a node (R351, R353): selectors and alignments. -/
def nodeAddrs (w : List Nat) : Bool :=
  let n (i : Nat) : Nat := w.getD i 0
  match bitsN (n 0) 63 60 with
  | 0 => virtOnly (n 3) && virtOnly (n 4) && bitsN (n 5) 32 32 == 0
  | 1 => virtOnly (n 3) && cmdSel true 0 (n 5) && cmdSel true 0 (n 6)
  | 2 => virtOnly (n 3)
  | 3 => virtOnly (n 3) && cmdSel true 0 (n 4)
  | 4 => cmdSel true 0 (n 3)
  | _ => true

/-- Sub-reason 7 for the header (R349, R350, R353). -/
def headAddrs (h : List Nat) : Bool :=
  let n (i : Nat) : Nat := h.getD i 0
  [1, 2, 3, 4, 6].all (fun i => cmdSel true 0 (n i)) && n 1 % 128 == 0 && n 4 % 8 == 0

/-- The stage-map word of a JOB placed by stage (R352). -/
def stageWord (s : State) (ctxn smap stage : Nat) : Option Nat :=
  match feNat s ctxn (moveAddr smap (8 * stage : Nat)) 8 with
  | .ok w => some w
  | .error _ => none

/-- Sub-reason 6 for a JOB (R352); a stage map that cannot be read is left to sub-reason 8. -/
def jobBlk (s : State) (ctxn smap : Nat) (w : List Nat) : Bool :=
  let n2 := w.getD 2 0
  bitsN (w.getD 0 0) 63 60 != 0 ||
  (decide (bitsN (w.getD 5 0) 5 0 ≤ 32) &&
    if bitN n2 38 then
      smap != 0 && bitsN n2 31 0 == 0 &&
        match stageWord s ctxn smap (bitsN n2 37 32) with
        | some x => bitN x 63 && bitsN x 62 32 == 0 && blkOk (bitsN x 31 0) true
        | none => true
    else blkOk (bitsN n2 31 0) false)

/-- Whether a JOB's stage map can be read where it needs it. -/
def jobMap (s : State) (ctxn smap : Nat) (w : List Nat) : Bool :=
  bitsN (w.getD 0 0) 63 60 != 0 || !bitN (w.getD 2 0) 38 || (stageWord s ctxn smap (bitsN (w.getD 2 0) 37 32)).isSome

/-- The words of a record read as one, or none. -/
def feRecord (s : State) (ctxn a n : Nat) : Option (List Nat) :=
  match frontRead s ctxn a (8 * n) with
  | .ok bs => some ((wordsOf n bs).map (·.toNat))
  | .error _ => none

/-- Sub-reason 1 (R356). -/
def headOk1 (gaddr : Nat) (h : List Nat) : Bool :=
  let n (i : Nat) : Nat := h.getD i 0
  gaddr % 64 == 0 && bitsN (n 0) 61 48 == 0 && bitsN (n 0) 15 13 == 0 && bitsN (n 0) 12 0 != 0 && decide (bitsN (n 0) 12 0 ≤ 4096)
    && bitsN (n 5) 63 63 == 0 && bitsN (n 7) 63 40 == 0

/-- Sub-reason 5 for node i (R356). -/
def rearmOk (nnode i : Nat) (w : List Nat) : Bool :=
  let first := bitsN (w.getD 2 0) 12 0
  let count := bitsN (w.getD 2 0) 28 16
  bitsN (w.getD 0 0) 63 60 != 6 ||
    (decide (1 ≤ count) && decide (first + count ≤ nnode) && !(decide (first ≤ i) && decide (i < first + count)))

/-- The first failing check of a launch (R356), for a header that passes sub-reason 1. -/
def graphFail (s : State) (ctxn : Nat) (g : GraphImage) : Option Nat :=
  let nnode := bitsN (g.head.getD 0 0) 12 0
  let nedge := bitsN (g.head.getD 0 0) 31 16
  let ws := g.nodes.filterMap id
  let smap := g.head.getD 3 0
  let kind (w : List Nat) : Nat := bitsN (w.getD 0 0) 63 60
  let edges := ws.flatMap (nodeEdges g)
  if !ws.all nodeBits then some 2
  else if ws.any (fun w => decide (nedge < bitsN (w.getD 1 0) 31 0 + bitsN (w.getD 1 0) 63 48)) ||
      edges.any (fun e => e.any fun x => decide (nnode ≤ x)) then some 3
  else if ws.any (fun w => kind w == 4 && decide (bitsN (w.getD 1 0) 63 48 < bitsN (w.getD 1 0) 47 32)) then some 4
  else if !(g.nodes.zipIdx.all fun p => p.1.all (rearmOk nnode p.2)) then some 5
  else if !ws.all (jobBlk s ctxn smap) then some 6
  else if !(headAddrs g.head && ws.all nodeAddrs) then some 7
  else if g.nodes.any (·.isNone) || edges.any (·.isNone) || !ws.all (jobMap s ctxn smap) then some 8
  else none

/-- A graph read for a launch. -/
def readGraph (s : State) (ctxn gaddr : Nat) (h : List Nat) : GraphImage :=
  { gaddr := gaddr, head := h
    nodes := (List.range (bitsN (h.getD 0 0) 12 0)).map fun i => feRecord s ctxn (moveAddr (h.getD 1 0) (128 * i : Nat)) 16
    edge := fun i =>
      match feNat s ctxn (moveAddr (h.getD 2 0) (2 * i : Nat)) 2 with
      | .ok x => some x
      | .error _ => none }

/-- The checks of a launch in the order of R356. -/
def launchFail (s : State) (ctxn gaddr : Nat) : Option Nat :=
  if gaddr % 64 ≠ 0 then some 1
  else if !cmdSel true 0 gaddr then some 7
  else
    match feRecord s ctxn gaddr 8 with
    | none => some 8
    | some h => if headOk1 gaddr h then graphFail s ctxn (readGraph s ctxn gaddr h) else some 1

/-- The nodes of a launched graph set to their first state, then the ready ones queued (R355). -/
def primeNodes (s : State) (g : Graph) (nnode : Nat) : State :=
  let init (s : State) (i : Nat) : Nat := bitsN (nodeWord s g i 0) 55 44
  let s1 := (List.range nnode).foldl (fun s i => putNstate (putCnt s g i (init s i)) g i 0) s
  (List.range nnode).foldl (fun s i => if init s i = 0 then makeReady s g i else s) s1

/-- The graph launched last in a queue (R348). -/
def setTail (s : State) (qkey gaddr : Nat) : State :=
  match mget? s.fe.queues qkey with
  | none => s
  | some q => { s with fe := { s.fe with queues := mset s.fe.queues qkey { q with tailg := gaddr } } }

/-- launch of R355: the state, the STATUS of R346, and the sub-reason. -/
def launchNow (s : State) (gaddr ctxn qkey : Nat) : State × Nat × Nat :=
  match launchFail s ctxn gaddr with
  | some n => (s, 7, n)
  | none =>
    let h0 := feWord s ctxn gaddr
    if bitsN h0 63 62 ≠ 0 then (s, 8, 0)
    else
      let g : Graph :=
        { gid := s.fe.nextGraph, gaddr := gaddr, ctxn := ctxn, qkey := qkey, head := (feRecord s ctxn gaddr 8).getD [] }
      let s1 := { s with fe := { s.fe with graphs := s.fe.graphs ++ [g], nextGraph := s.fe.nextGraph + 1 } }
      let s2 := graphPut (setTail s1 qkey gaddr) g.gid gaddr 63 62 1 0
      let s3 := graphPut s2 g.gid gaddr 47 32 0 0
      let s4 := graphPut s3 g.gid (gaddr + 56) 39 0 0 0
      (primeNodes s4 g (bitsN h0 12 0), 0, 0)

/-- A one-node graph of a BIND or COPY packet (R345): its node is READY at once. -/
def launchPkt (s : State) (ctxn qkey : Nat) (p : PktNode) : State :=
  let g : Graph := { gid := s.fe.nextGraph, gaddr := 0, ctxn := ctxn, qkey := qkey, pkt := some p }
  let s1 := { s with fe := { s.fe with graphs := s.fe.graphs ++ [g], nextGraph := s.fe.nextGraph + 1 } }
  queueReady (setTail s1 qkey 0) qkey { gid := g.gid, node := 0, since := s.fab }

/-- What a launch answers: a packet's completion record, the end of a GLNC, or the fault record of a GNXT (R346, R369). -/
def launchEnd (s : State) (pkt : Option PktNode) (cmd : Option Cmd) (status sub : Nat) : State :=
  let s1 := match pkt with
    | some p => completion s p status
    | none => s
  match cmd with
  | none => s1
  | some c =>
    if cmdSub c = 1 then
      if status = 0 then s1
      else offer s1 { cmdOffer s1 c .graph 6 0 with sub := sub, addr := BitVec.ofNat 64 (grGaddr c.tmpl) }
    else if status = 7 then
      let o := { cmdOffer s1 c .graph 6 0 with sub := sub, addr := BitVec.ofNat 64 (grGaddr c.tmpl) }
      finish (offer s1 o) c (causeByte .graph) 7
    else finish s1 c 0 (BitVec.ofNat 40 status)

/-- Active graphs of a queue. -/
def queueGraphs (s : State) (qkey : Nat) : List Nat := (s.fe.graphs.filter fun g => g.qkey == qkey).map (·.gid)

/-- A launch asked for; with ord it waits for the queue's earlier graphs (R355). A GNXT names the graph of its job (R359). -/
def askLaunch (s : State) (gaddr ctxn qkey : Nat) (ord : Bool) (pkt : Option PktNode) (cmd : Option Cmd) (from_ : Option Nat := none) :
    State :=
  let earlier := queueGraphs s qkey
  if ord && (!earlier.isEmpty || s.fe.pending.any fun p => p.qkey == qkey) then
    let p : PendLaunch := { gaddr := gaddr, ctxn := ctxn, qkey := qkey, awaits := earlier, pkt := pkt, cmd := cmd, from_ := from_ }
    { s with fe := { s.fe with pending := s.fe.pending ++ [p] } }
  else
    let (s1, status, sub) := launchNow s gaddr ctxn qkey
    launchEnd s1 pkt cmd status sub

/-- Waiting launches of a queue performed while nothing earlier is active (R355); the graph that one makes is earlier to
those behind it. -/
def advancePending : Nat → State → Nat → State
  | 0, s, _ => s
  | f + 1, s, qkey =>
    match s.fe.pending.find? fun p => p.qkey == qkey with
    | none => s
    | some p =>
      if p.awaits.any fun g => (queueGraphs s qkey).contains g then s
      else
        let s1 := { s with fe := { s.fe with pending := s.fe.pending.erase p } }
        let gid := s1.fe.nextGraph
        let (s2, status, sub) := launchNow s1 p.gaddr p.ctxn qkey
        let later (x : PendLaunch) : PendLaunch := if x.qkey = qkey then { x with awaits := x.awaits ++ [gid] } else x
        let s3 := { s2 with fe := { s2.fe with pending := s2.fe.pending.map later } }
        advancePending f (launchEnd s3 p.pkt p.cmd status sub) qkey

end Sys2Proof.Machine
end

