-- ==== Sys2Proof/Machine/Launch.lean ====
section
/-! DEFINITION. The launch queue and its commands (R342, R369, R370), host output rings (R371), and the lookup of queues
(R347). -/

namespace Sys2Proof.Machine

/-! Queues by number (R347). -/

/-- The slot that probe i of a key visits. -/
def probeSlot (s : State) (pasid qnum i : Nat) : Nat :=
  let h := vhash (pasid % 2 ^ 16 * 2 ^ 16 + qnum) (pasid / 2 ^ 16 + 16 * s.pkg.qtHseed.toNat)
  (h + i) % 2 ^ s.pkg.qtS.toNat

/-- The key of a queue, and its parts. -/
def queueKey (pasid qnum : Nat) : Nat := pasid * 2 ^ 16 + qnum
def keyPasid (key : Nat) : Nat := key / 2 ^ 16
def keyQnum (key : Nat) : Nat := key % 2 ^ 16

/-- A full lookup: eight probes, ended early by a match or by an EMPTY slot. -/
def lookupFrom (s : State) (pasid qnum : Nat) : List Nat → Option Nat
  | [] => none
  | i :: is =>
    match mget? s.fe.qslots (probeSlot s pasid qnum i) with
    | none => none
    | some (some key) => if key = queueKey pasid qnum then some key else lookupFrom s pasid qnum is
    | some none => lookupFrom s pasid qnum is

/-- The queue of a number, as the table finds it. -/
def findQueue (s : State) (pasid qnum : Nat) : Option (Nat × Qcb) :=
  match lookupFrom s pasid qnum (List.range 8) with
  | none => none
  | some key => (mget? s.fe.queues key).map (key, ·)

/-! The launch queue (R342). -/

/-- The command at place n of the launch queue, where no earlier one of its stream is still to be applied. -/
def launchAt (s : State) (n : Nat) : Option FeCmd :=
  match s.fe.launchq[n]? with
  | none => none
  | some f => if (s.fe.launchq.take n).any fun g => g.tile == f.tile && g.strm == f.strm then none else some f

/-- The command at place n leaves the launch queue. -/
def dropLaunch (s : State) (n : Nat) : State := { s with fe := { s.fe with launchq := ldrop s.fe.launchq n } }

/-- An engine fault record to the stream that issued a front-end command, with the stage and the graph of its job (R24, R370). -/
def feCmdFault (s : State) (f : FeCmd) (code : BitVec 8) (sub : Nat) (a : Word) (resp : Bool := false) : State :=
  let j := mget? s.fe.jobs f.job
  offer s { ctxn := f.ctxn, code := code, src := 6, sub := sub, tile := f.tile, strm := f.strm, resp := resp
            stage := (j.map (·.stage)).getD 0, addr := a, gaddr := BitVec.ofNat 64 ((j.map (·.gaddr)).getD 0) }

/-- The queue that a graph command names: the job's own for 0xFFFF, else one of the job's PASID (R369). -/
def graphQueue (s : State) (c : Cmd) : Option (Nat × Qcb) :=
  if grQnum c.tmpl = 0xFFFF then
    match mget? s.fe.jobs c.job with
    | none => none
    | some j => (mget? s.fe.queues j.qkey).map (j.qkey, ·)
  else findQueue s (ctxPasid s c.ctxn) (grQnum c.tmpl)

/-- GLNC (R369). -/
def execGlnc (n : Nat) (s : State) : Out :=
  match launchAt s n with
  | some { kind := .glnc c, .. } =>
    let s1 := dropLaunch s n
    match graphQueue s c with
    | none => .next (launchEnd s1 none (some c) 2 0)
    | some (key, q) => .next (askLaunch s1 (grGaddr c.tmpl) q.ctxn key (grOrd c.tmpl) none (some c))
  | _ => .next s

/-- GNXT (R369): recorded with its job, at most sixteen times. -/
def execGnxt (n : Nat) (s : State) : Out :=
  match launchAt s n with
  | some f =>
    match f.kind with
    | .gnxt c =>
      let s1 := dropLaunch s n
      match mget? s1.fe.jobs f.job with
      | none => .next (finish s1 c 0 0)
      | some j =>
        if j.gnxts.length < 16 then
          let jobs := mset s1.fe.jobs f.job { j with gnxts := j.gnxts ++ [f] }
          .next (finish { s1 with fe := { s1.fe with jobs := jobs } } c 0 0)
        else .next (finish (offer s1 (cmdOffer s1 c .graph 6 0)) c (causeByte .graph) 0)
    | _ => .next s
  | none => .next s

/-- The ACTIVE graph of a context whose node array holds an address, with the node (R370). -/
def nodeAt (s : State) (ctxn a : Nat) : Option (Nat × Nat) :=
  s.fe.graphs.findSome? fun g =>
    let base := headWord g 1
    if g.ctxn = ctxn ∧ g.pkt.isNone ∧ !g.faulted ∧ base ≤ a ∧ a < base + 128 * bitsN (headWord g 0) 12 0 then
      some (g.gid, (a - base) / 128)
    else none

/-- GARM_APPLY (R370). -/
def execGarmApply (n : Nat) (s : State) : Out :=
  match launchAt s n with
  | some f =>
    match f.kind with
    | .garm a =>
      let s1 := dropLaunch s n
      match nodeAt s1 f.ctxn a.toNat with
      | some (gid, node) => .next (signalNode s1 gid node)
      | none => .next (feCmdFault s1 f (causeByte .graph) 12 a)
    | _ => .next s
  | none => .next s

/-- GSET_APPLY (R370). -/
def execGsetApply (n : Nat) (s : State) : Out :=
  match launchAt s n with
  | some f =>
    match f.kind with
    | .gset a v =>
      let s1 := dropLaunch s n
      match frontWrite s1 f.ctxn a.toNat (leBytes 8 v.toNat) with
      | .ok s2 => .next s2
      | .error e => .next (feCmdFault s1 f (feCode e) (accCause e).2 a (isLost e))
    | _ => .next s
  | none => .next s

/-- A value written to the HSIG word of a queue, with its interrupt (R370); the error where the write is dropped. -/
def signalHost (s : State) (q : Qcb) (v : Word) : Except AccFault State :=
  if q.hsig = 0 then .ok s
  else
    match frontWrite s q.ctxn q.hsig.toNat (leBytes 8 v.toNat) with
    | .error e => .error e
    | .ok s1 => .ok (if q.sigint then msix s1 q.fn q.vec else s1)

/-- SIGH_APPLY (R370). -/
def execSighApply (n : Nat) (s : State) : Out :=
  match launchAt s n with
  | some f =>
    match f.kind with
    | .sigh v =>
      let s1 := dropLaunch s n
      match (mget? s1.fe.jobs f.job).bind fun j => mget? s1.fe.queues j.qkey with
      | none => .next s1
      | some q =>
        match signalHost s1 q v with
        | .ok s2 => .next s2
        | .error e => .next (feCmdFault s1 f (feCode e) (accCause e).2 q.hsig (isLost e))
    | _ => .next s
  | none => .next s

/-! Host output rings (R371). -/

/-- Word i of a ring's descriptor. -/
def ringWord (s : State) (ring i : Nat) : Nat := readNat s (s.pkg.rtbase.toNat + 64 * ring + 8 * i) 8

/-- An IOVA as a physical address: host memory is space 01 (R394). -/
def iova (a : Nat) : Nat := 2 ^ 54 + a % 2 ^ 54

def ringLog (s : State) (ring : Nat) : Nat := bitsN (ringWord s ring 1) 19 16
def ringCount (s : State) (ring : Nat) : Nat := bitsN (ringWord s ring 1) 47 32
def ringTime (s : State) (ring : Nat) : Nat := bitsN (ringWord s ring 1) 63 48

/-- A ring that exists and belongs to a context (R371, R409). -/
def ringOwned (s : State) (ring ctxn : Nat) : Bool :=
  let d1 := ringWord s ring 1
  bitN d1 20 && bitsN d1 11 0 == ctxn && decide (4 ≤ ringLog s ring) && decide (ringLog s ring ≤ 15)
    && decide (ringCount s ring ≤ 4096) && bitsN d1 15 12 == 0 && bitsN (ringWord s ring 2) 63 32 == 0
    && [5, 6, 7].all fun i => ringWord s ring i == 0

def ringOf (s : State) (ring : Nat) : HostRing := mget s.fe.rings ring {}

def setRing (s : State) (ring : Nat) (r : HostRing) : State := { s with fe := { s.fe with rings := mset s.fe.rings ring r } }

/-- Records that have been accepted for a ring and not yet written: they keep their room. -/
def ringPending (s : State) (ring : Nat) : Nat :=
  (s.fe.launchq.filter fun f => match f.kind with
    | .emit r _ => r == ring
    | _ => false).length

/-- Whether a ring takes one more record, by the consumer index last read (R371). -/
def ringRoom (s : State) (ring : Nat) : Bool :=
  let r := ringOf s ring
  decide ((r.pidx - r.cidx).toNat + ringPending s ring < 2 ^ ringLog s ring)

/-- The interrupt of a ring; both counts start again. -/
def ringIntr (s : State) (ring : Nat) : State :=
  let d1 := ringWord s ring 1
  let s1 := setRing s ring { ringOf s ring with sinceIntr := 0, firstAt := none }
  msix s1 (ctxFn s (bitsN d1 11 0)) (bitsN d1 31 21)

/-- A record written to a ring, then the mirror, then the interrupt where a threshold is reached (R371). -/
def ringPut (s : State) (ring : Nat) (record : List Byte) : State :=
  let r := ringOf s ring
  let base := ringWord s ring 0
  let s1 := writeAt s (feAgent eventStrip) (iova (base + 64 * (r.pidx.toNat % 2 ^ ringLog s ring))) record
  let p := (r.pidx + 1).toNat
  let s2 := writeNat s1 (feAgent eventStrip) (s.pkg.rtbase.toNat + 64 * ring + 16) 8 p
  let s3 := if ringWord s ring 3 = 0 then s2 else writeNat s2 (feAgent eventStrip) (iova (ringWord s ring 3)) 4 p
  let first := r.firstAt.getD s.fab
  let s4 := setRing s3 ring { r with pidx := r.pidx + 1, sinceIntr := r.sinceIntr + 1, firstAt := some first }
  if (ringCount s ring ≠ 0 ∧ ringCount s ring ≤ r.sinceIntr + 1) ∨
      (ringTime s ring ≠ 0 ∧ first + 2200 * ringTime s ring ≤ s.fab) then ringIntr s4 ring
  else s4

/-- EMIT_APPLY (R371). -/
def execEmitApply (n : Nat) (s : State) : Out :=
  match launchAt s n with
  | some f =>
    match f.kind with
    | .emit ring bs => .next (ringPut (dropLaunch s n) ring bs)
    | _ => .next s
  | none => .next s

/-- RING_COALESCE_TIMEOUT (R371): CTIME has passed since the first record after the last interrupt. -/
def execRingCoalesceTimeout (ring : Nat) (s : State) : Out :=
  match (ringOf s ring).firstAt with
  | none => .next s
  | some t =>
    if ringTime s ring ≠ 0 ∧ t + 2200 * ringTime s ring ≤ s.fab then .next (ringIntr s ring) else .next s

/-- RING_FULL_REREAD (R371): a ring that looks full has its consumer index read again, at most once per microsecond. -/
def execRingFullReread (ring : Nat) (s : State) : Out :=
  let r := ringOf s ring
  if !ringRoom s ring ∧ r.lastReread + 2200 ≤ s.fab then
    let ci := readNat s (iova (ringWord s ring 4)) 4
    .next (setRing s ring { r with cidx := BitVec.ofNat 32 ci, lastReread := s.fab })
  else .next s

/-! The instructions GARM, GSET, EMIT and SIGH (R369, R370). -/

/-- The current stream sends a front-end command and retires. -/
def sendFe (s : State) (tk : BitVec 4) (k : FeKind) : State :=
  let f : FeCmd := { kind := k, tile := s.curTile, strm := s.curStrm, job := (tileOf s s.curTile).job.getD 0
                     ctxn := ctxnOf s s.curTile }
  let s1 := setCur s (popBits (cur s) tk)
  retire { s1 with fe := { s1.fe with launchq := s1.fe.launchq ++ [f] } } tk .seq

/-- GARM (R370). -/
def execGarm (o : FormA) (s : State) : Out :=
  issue s do
    let a ← readSrc (cur s) o.a false
    tokensReady (cur s) o.tk
    need (a.toNat % 128 == 0) .align 0
    need (nearSel a == 0) .accessPath 0
    waitFor (launchRoom s)
    .ok (sendFe s o.tk (.garm a))

/-- GSET (R370). -/
def execGset (o : FormAB) (s : State) : Out :=
  issue s do
    let a ← readSrc (cur s) o.a false
    let b ← readSrc (cur s) o.b false
    tokensReady (cur s) o.tk
    need (a.toNat % 8 == 0) .align 0
    need (nearSel a == 0 || nearSel a == 3) .accessPath 0
    waitFor (launchRoom s)
    .ok (sendFe s o.tk (.gset a b))

/-- EMIT (R370): the whole record is read before the ring is checked. -/
def execEmit (o : FormAB) (s : State) : Out :=
  issue s do
    let a ← readSrc (cur s) o.a false
    let b ← readSrc (cur s) o.b false
    tokensReady (cur s) o.tk
    need (b.toNat % 64 == 0) .align b
    need (nearSel b == 1 || nearSel b == 2 || nearSel b == 3) .accessPath b
    let bs ← nearSpan s b 64
    let ring := wf64 a 11 0
    need (ringOwned s ring (ctxnOf s s.curTile)) .graph (BitVec.ofNat 64 ring)
    waitFor (launchRoom s && ringRoom s ring)
    .ok (sendFe (seeSpan s b 64) o.tk (.emit ring bs))

/-- SIGH (R370). -/
def execSigh (o : FormA) (s : State) : Out :=
  issue s do
    let a ← readSrc (cur s) o.a false
    tokensReady (cur s) o.tk
    waitFor (launchRoom s)
    .ok (sendFe s o.tk (.sigh a))

end Sys2Proof.Machine
end

