-- ==== Sys2Proof/Machine/Packets.lean ====
section
/-! DEFINITION. Packets of the host channels (R343 to R348, R362, R412): how one is taken, and the meaning of each kind but
CHANNEL_RESYNC. -/

namespace Sys2Proof.Machine

/-! Taking packets (R344, R412). -/

def pkWord (p : Packet) (i : Nat) : Nat := (p.words.getD i 0).toNat
def pkKind (p : Packet) : Nat := bitsN (pkWord p 0) 63 56
def pkAbort (p : Packet) : Bool := bitN (pkWord p 0) 51
def pkModify (p : Packet) : Bool := bitN (pkWord p 0) 50
def pkOrd (p : Packet) : Bool := bitN (pkWord p 0) 49
def pkQnum (p : Packet) : Nat := bitsN (pkWord p 0) 47 32

/-- The packet kinds that R345 assigns. -/
def pkAssigned (kind : Nat) : Bool := decide (1 ≤ kind) && decide (kind ≤ 9)

/-- The next packet of a channel, with its index; none while the channel takes nothing (R412, R413). -/
def nextPacket (s : State) (n : Nat) : Option Packet :=
  let ch := chanOf s n
  let a := ch.rbase.toNat + 64 * (ch.dci.toNat % 2 ^ ch.rlog2.toNat)
  if !(ch.en && ch.mapped && s.boot.ready && !s.pkg.pause) || ch.dci == ch.pidx || spanPoisoned s a 64 then none
  else
    let p : Packet := { words := wordsOf 8 (readAt s a 64), idx := ch.dci.toNat }
    if ch.paused && pkKind p != 9 then none else some p

/-- The packet that a channel works on, of a kind that the caller handles: the one in progress, or else the next, which is
then taken and mirrored (R412). -/
def takePacket (s : State) (n : Nat) (kinds : Nat → Bool) : Option (State × Packet) :=
  let ch := chanOf s n
  match ch.packet with
  | some p => if kinds (pkKind p) then some (s, p) else none
  | none =>
    match nextPacket s n with
    | none => none
    | some p =>
      if kinds (pkKind p) then
        let s1 := setChan s n { ch with dci := ch.dci + 1, packet := some p }
        some (writeNat s1 (feAgent channelStrip) ch.dciaddr.toNat 8 (indexWord ch.chid (ch.dci + 1)), p)
      else none

/-- What a packet's completion record is written from. -/
def pktNode (n : Nat) (p : Packet) : PktNode :=
  { chan := n, idx := p.idx, pkind := pkKind p, ptag := bitsN (pkWord p 0) 15 0, cmpl := bitN (pkWord p 0) 48 }

/-- A channel's packet handled: f gives the state once the packet is finished, or none while it still waits. -/
def runPacket (s : State) (n : Nat) (kinds : Nat → Bool) (f : State → PktNode → Packet → Option State) : Out :=
  match takePacket s n kinds with
  | none => .next s
  | some (s1, p) =>
    match f s1 (pktNode n p) p with
    | none => .next s1
    | some s2 => .next (setChan s2 n { chanOf s2 n with packet := none })

/-- Reserved and unused fields are zero (R344, R345): the flags that the kind has, and the bits of its words p1 to p7. -/
def pkFields (p : Packet) (abort modify ord : Bool) (used : List (Nat × Nat)) : Bool :=
  bitsN (pkWord p 0) 55 52 == 0 && bitsN (pkWord p 0) 31 16 == 0 && (abort || !pkAbort p) && (modify || !pkModify p)
    && (ord || !pkOrd p) && (List.range 7).all fun i =>
      let m := (used.find? fun u => u.1 == i + 1).elim 0 (·.2)
      (pkWord p (i + 1)).land m == pkWord p (i + 1)

def word64 : Nat := 2 ^ 64 - 1

/-- The queue that a packet names (R343, R346). -/
def pkQueue (s : State) (n : Nat) (p : Packet) : Option (Nat × Qcb) := findQueue s (chanOf s n).pasid.toNat (pkQnum p)

/-- The context of a packet's addresses: that of the queue it names, or else the one that receives the channel's events. -/
def pkCtx (s : State) (n : Nat) (p : Packet) : Nat :=
  match pkQueue s n p with
  | some (_, q) => q.ctxn
  | none => (chanOf s n).ectxn.toNat

/-! Graphs (R345, R355). -/

/-- LAUNCH_GRAPH (R345, R355); a packet of an unassigned kind ends with BADKIND here (R346). -/
def execLaunchGraph (chan : Nat) (s : State) : Out :=
  runPacket s chan (fun k => k == 1 || !pkAssigned k) fun s pn p =>
    if !pkAssigned (pkKind p) then some (completion s pn 1)
    else if !pkFields p false false true [(1, word64)] then some (completion s pn 6)
    else
      match pkQueue s chan p with
      | none => some (completion s pn 2)
      | some (key, q) => some (askLaunch s (pkWord p 1) q.ctxn key (pkOrd p) (some pn) none)

/-- Whether the record of a BIND packet passes the checks of a launch (R356): a BIND node, alone. -/
def bindRecordOk (s : State) (ctxn a : Nat) : Bool :=
  a % 128 == 0 &&
    match feRecord s ctxn a 16 with
    | none => false
    | some w => bitsN (w.getD 0 0) 63 60 == 1 && nodeBits w && nodeAddrs w && bitsN (w.getD 1 0) 31 0 == 0
        && bitsN (w.getD 1 0) 63 48 == 0

/-- BIND (R345): the node runs as a one-node graph. -/
def execBind (chan : Nat) (s : State) : Out :=
  runPacket s chan (fun k => k == 2) fun s pn p =>
    if !pkFields p false false false [(1, word64)] then some (completion s pn 6)
    else
      match pkQueue s chan p with
      | none => some (completion s pn 2)
      | some (key, q) =>
        if bindRecordOk s q.ctxn (pkWord p 1) then some (launchPkt s q.ctxn key { pn with addr := pkWord p 1 })
        else some (completion s pn 7)

/-- COPY (R345): the template runs as a one-node COPY or GATHER graph. -/
def execCopy (chan : Nat) (s : State) : Out :=
  runPacket s chan (fun k => k == 4) fun s pn p =>
    if !pkFields p false false false [(1, word64), (2, 3), (3, word64)] then some (completion s pn 6)
    else
      match pkQueue s chan p with
      | none => some (completion s pn 2)
      | some (key, q) =>
        some (launchPkt s q.ctxn key { pn with addr := pkWord p 1, die := bitsN (pkWord p 2) 1 0, td := pkWord p 3 })

/-! Words (R345). -/

/-- The value that SIGNAL writes over an old one. -/
def signalValue (op old v : Nat) : Nat :=
  match op with
  | 0 => v
  | 1 => max old v
  | _ => (old + v) % 2 ^ 64

/-- The record of a packet's write that gets no response from another package (R416). -/
def lostWord (s : State) (ctxn a : Nat) (e : AccFault) : State :=
  if isLost e then offer s { ctxn := ctxn, code := feCode e, src := 6, addr := BitVec.ofNat 64 a, resp := true } else s

/-- SIGNAL (R345): one step at the word's port. DESIGN CHOICE (assumption 171): an address of another selector than 0x00
and 0x03 is a FAULT. An atomic that gets no response is lost as a write is (R416). -/
def execSignal (chan : Nat) (s : State) : Out :=
  runPacket s chan (fun k => k == 5) fun s pn p =>
    let a := pkWord p 1
    let op := bitsN (pkWord p 3) 1 0
    if !pkFields p false false false [(1, word64), (2, word64), (3, 3)] || op == 3 || a % 8 != 0 then some (completion s pn 6)
    else
      let ctxn := pkCtx s chan p
      let old : Except AccFault Nat := if op = 0 then .ok 0 else feNat s ctxn a 8
      match old with
      | .error e => some (completion (lostWord s ctxn a (if feLost s ctxn a 8 then .lost a else e)) pn 11)
      | .ok old =>
        match frontWrite s ctxn a (leBytes 8 (signalValue op old (pkWord p 2))) with
        | .ok s1 => some (completion s1 pn 0)
        | .error e => some (completion (lostWord s ctxn a e) pn 11)

/-- The condition codes of WAIT and COND (R345, R351). -/
def ccOf (n : Nat) : Cc :=
  match n with
  | 0 => .eq
  | 1 => .ne
  | 2 => .geu
  | _ => .ltu

/-- Where the watch of a channel's WAIT is held: at no tile. -/
def waitTile (chan : Nat) : Nat := 0x400 + chan

/-- The first test of a WAIT (R345): it ends, or the port watches the word. The Bool tells whether the packet is finished. -/
def beginWait (s : State) (chan : Nat) (pn : PktNode) (p : Packet) : State × Bool :=
  let a := pkWord p 1
  let cc := bitsN (pkWord p 3) 1 0
  let cmp : Word := BitVec.ofNat 64 (pkWord p 2)
  let ctxn := pkCtx s chan p
  if !pkFields p false false false [(1, word64), (2, word64), (3, 3)] || cc == 3 || a % 8 != 0 then (completion s pn 6, true)
  else
    match feNat s ctxn a 8, engSegs s (feWho ctxn) a 8 false false with
    | .ok v, .ok (g :: _) =>
      if ccHolds (ccOf cc) (BitVec.ofNat 64 v) cmp then (completion s pn 0, true)
      else
        let x : Watch :=
          { tile := waitTile chan, strm := .k, addr := g.phys, cc := ccOf cc, cmp := cmp, near := BitVec.ofNat 64 a, ctxn := ctxn }
        ({ s with watches := s.watches ++ [x] }, false)
    | _, _ => (completion s pn 11, true)

/-- A step of a WAIT: the port tests the word again after each write there, as for WAITW (R163, R345). -/
def waitStep (s : State) (chan : Nat) (pn : PktNode) (p : Packet) : State × Bool :=
  match watchOf s (waitTile chan) .k with
  | some x => if x.got.isSome then (completion (dropWatch s (waitTile chan) .k) pn 0, true) else (s, false)
  | none => beginWait s chan pn p

/-- WAIT (R345, R346): later packets of the channel wait until the word satisfies the condition. An address of another selector than 0x00
and 0x03 is a FAULT (assumption 171). -/
def execWait (chan : Nat) (s : State) : Out :=
  match takePacket s chan (fun k => k == 6) with
  | none => .next s
  | some (s1, p) =>
    match waitStep s1 chan (pktNode chan p) p with
    | (s2, true) => .next (setChan s2 chan { chanOf s2 chan with packet := none })
    | (s2, false) => .next s2

/-! Queues (R347, R348). -/

def classOf (n : Nat) : QClass :=
  match n with
  | 0 => .live
  | 1 => .prompt
  | 2 => .bulk
  | _ => .idle

/-- The ceiling of a class (R32), and its rank (R37). -/
def ceilOf : QClass → Nat
  | .live => 127
  | .prompt => 111
  | .bulk => 95
  | .idle => 63

def rankOf : QClass → Nat
  | .live => 3
  | .prompt => 2
  | .bulk => 1
  | .idle => 0

/-- The slot in which Create places a block: the first that is not LIVE among those probed (R347). -/
def freeSlot (s : State) (pasid qnum : Nat) : Option Nat :=
  ((List.range 8).map (probeSlot s pasid qnum)).find? fun i =>
    match mget? s.fe.qslots i with
    | some (some _) => false
    | _ => true

/-- Whether a context is one of a PASID. -/
def ctxOfPasid (s : State) (ctxn pasid : Nat) : Bool := bitN (ctxWord s ctxn 0).toNat 31 && ctxPasid s ctxn == pasid

/-- A new queue (R348): the STATUS, and the state with the queue. -/
def createQueue (s : State) (n : Nat) (p : Packet) : State × Nat :=
  let ch := chanOf s n
  let pasid := ch.pasid.toNat
  let ctxn := bitsN (pkWord p 1) 11 0
  if !ctxOfPasid s ctxn pasid then (s, 10)
  else if 65536 ≤ s.fe.queues.length then (s, 9)
  else
    match freeSlot s pasid (pkQnum p) with
    | none => (s, 3)
    | some slot =>
      let key := queueKey pasid (pkQnum p)
      let q : Qcb :=
        { ctxn := ctxn, base := bitsN (pkWord p 1) 30 24, eff := bitsN (pkWord p 1) 30 24, cls := classOf (bitsN (pkWord p 1) 17 16)
          hsig := BitVec.ofNat 64 (pkWord p 2), sigint := bitN (pkWord p 3) 15, vec := bitsN (pkWord p 3) 10 0, fn := ch.fn }
      ({ s with fe := { s.fe with queues := mset s.fe.queues key q, qslots := mset s.fe.qslots slot (some key) } }, 0)

/-- QUEUE_CREATE (R345, R346, R348). DEDUCED (assumption 71): a class change, which needs the queue, is tested after BADPRIO. -/
def execQueueCreate (chan : Nat) (s : State) : Out :=
  runPacket s chan (fun k => k == 7) fun s pn p =>
    let cls := classOf (bitsN (pkWord p 1) 17 16)
    let base := bitsN (pkWord p 1) 30 24
    if !pkFields p false true false [(1, 0xFFF + 3 * 2 ^ 16 + 0x7F * 2 ^ 24), (2, word64), (3, 0x87FF)] || pkQnum p == 0xFFFF
        || pkWord p 2 % 8 != 0 then some (completion s pn 6)
    else if ceilOf cls < base then some (completion s pn 5)
    else
      match pkQueue s chan p with
      | none =>
        if pkModify p then some (completion s pn 2)
        else
          let (s1, status) := createQueue s chan p
          some (completion s1 pn status)
      | some (key, q) =>
        if !pkModify p then some (completion s pn 4)
        else if q.cls ≠ cls then some (completion s pn 6)
        else
          let q1 := { q with base := base, hsig := BitVec.ofNat 64 (pkWord p 2), sigint := bitN (pkWord p 3) 15
                             vec := bitsN (pkWord p 3) 10 0 }
          some (completion { s with fe := { s.fe with queues := mset s.fe.queues key q1 } } pn 0)

/-- A queue whose graphs have all completed is destroyed (R347, R348): its slot becomes a TOMBSTONE, and every packet that asked for it
gets its record (R345). -/
def destroyQueue (s : State) (key : Nat) (pns : List PktNode) : State :=
  let bury (p : Nat × Option Nat) : Nat × Option Nat := if p.2 = some key then (p.1, none) else p
  let fe := { s.fe with queues := mdel s.fe.queues key, qslots := s.fe.qslots.map bury
                        destroying := s.fe.destroying.filter fun d => d.1 != key }
  pns.foldl (fun s pn => completion s pn 0) { s with fe := fe }

/-- Whether a queue has an active graph, or a launch that still waits. -/
def queueBusy (s : State) (key : Nat) : Bool :=
  !(queueGraphs s key).isEmpty || s.fe.pending.any fun p => p.qkey == key

/-- The queue of a completed graph is destroyed if packets wait for that. -/
def checkDestroy (s : State) (key : Nat) : State :=
  let pns := (s.fe.destroying.filter fun d => d.1 == key).map (·.2)
  if pns.isEmpty || queueBusy s key then s else destroyQueue s key pns

/-- QUEUE_DESTROY (R348): with ABORT every active graph of the queue faults first. -/
def execQueueDestroy (chan : Nat) (s : State) : Out :=
  runPacket s chan (fun k => k == 8) fun s pn p =>
    if !pkFields p true false false [] then some (completion s pn 6)
    else
      match pkQueue s chan p with
      | none => some (completion s pn 2)
      | some (key, _) =>
        let gids := if pkAbort p then queueGraphs s key else []
        let s1 := gids.foldl (fun s g => faultGraph s g (causeByte .graph) 0) s
        if queueBusy s1 key then some { s1 with fe := { s1.fe with destroying := s1.fe.destroying ++ [(key, pn)] } }
        else some (destroyQueue s1 key [pn])

/-! Standing tiles (R362). -/

/-- The image of a CONFIG_REGION packet. -/
def frontImage (s : State) (ctxn a : Nat) : Option (List Word) :=
  match frontRead s ctxn a 64 with
  | .error _ => none
  | .ok hdr =>
    match frontRead s ctxn a (64 * max (wf64 ((allWords hdr).getD 0 0) 31 16) 1) with
    | .error _ => none
    | .ok bs => some (allWords bs)

/-- The regions of a mask that must settle, once all of them are racking and quiescent (R252, R255). -/
def racked (s : State) (tile : Nat) (mask : List Nat) : Bool :=
  mask.all fun n =>
    let r := regionAt s tile n
    r.state != .racking || quiescent s tile n

/-- Regions set racking where the configuration unit would (R252). -/
def beginRack (s : State) (tile : Nat) (mask : List Nat) : State :=
  setTile s tile ((toRack (tileOf s tile) mask).foldl startRack (tileOf s tile))

/-- The tile stops standing when none of its regions stays configured (R362). -/
def endStanding (s : State) (tile : Nat) : State :=
  let t := tileOf s tile
  if t.regions.all fun p => p.2.state == .unconfigured then setTile s tile { t with standing := none } else s

/-- RELEASE = 1 (R362). -/
def releaseTile (s : State) (pn : PktNode) (tile : Nat) (mask : List Nat) : State :=
  let s1 := beginRack s tile mask
  if racked s1 tile mask then completion (endStanding (mask.foldl (fun s n => releaseRegion s tile n) s1) tile) pn 0 else s1

/-- The checked regions of an image, running (R250, R256, R362). -/
def imageRegions (s : State) (tile : Nat) (ws : List Word) (mask : List Nat) : Option (FMap Region) :=
  match checkedRecs false ws mask with
  | .error _ => none
  | .ok recs =>
    let new : FMap Region := recs.map fun r => (rhNum r, { regionOf r with state := .running })
    match chkStates (tileOf s tile) new (fun st => st == .frozen) mask with
    | none => some new
    | some _ => none

/-- RELEASE = 0 (R362): none while the regions that were there still settle. -/
def configTile (s : State) (pn : PktNode) (ctxn tile a : Nat) (mask : List Nat) : Option State × State :=
  match frontImage s ctxn a with
  | none => (some (completion s pn 11), s)
  | some ws =>
    match imageRegions s tile ws mask with
    | none => (some (completion s pn 6), s)
    | some new =>
      let s1 := beginRack s tile mask
      if racked s1 tile mask then
        let t := new.foldl placeRegion (tileOf s1 tile)
        (some (completion (setTile s1 tile { t with standing := some ctxn }) pn 0), s1)
      else (none, s1)

/-- CONFIG_REGION (R362). An image address of another selector than 0x00 and 0x03 is a FAULT (assumption 171).
While it waits the packet stays in progress, and regions that must settle go on settling. -/
def execConfigRegion (chan : Nat) (s : State) : Out :=
  match takePacket s chan (fun k => k == 3) with
  | none => .next s
  | some (s1, p) =>
    let pn := pktNode chan p
    let tile := bitsN (pkWord p 2) 7 0
    let mask := maskBits 8 (bitsN (pkWord p 2) 15 8)
    let ctxn := pkCtx s1 chan p
    let leave (x : State) : Out := .next (setChan x chan { chanOf x chan with packet := none })
    if !pkFields p false false false [(1, word64), (2, 2 ^ 17 - 1)] || decide (Config.tiles ≤ tile) then
      leave (completion s1 pn 6)
    else if bitN (pkWord p 2) 16 then
      if (tileOf s1 tile).standing ≠ some ctxn then leave (completion s1 pn 6)
      else
        let s2 := releaseTile s1 pn tile mask
        if racked s2 tile mask then leave s2 else .next s2
    else if (tileOf s1 tile).job.isSome || !((tileOf s1 tile).standing.all (· == ctxn)) then .next s1
    else
      match configTile s1 pn ctxn tile (pkWord p 1) mask with
      | (some s2, _) => leave s2
      | (none, s2) => .next s2

end Sys2Proof.Machine
end

