-- ==== Sys2Proof/Machine/Jobs.lean ====
section
/-! DEFINITION. Jobs: the job image and its checks (R360), the start of a job (R361) and its completion (R25, R361, R369). -/

namespace Sys2Proof.Machine

/-! Job images (R360). -/

/-- A section of a job image: its tile selector, size, offset, and the entry offsets of K, L, C and W. -/
structure JobSec where
  tsel : Nat
  size : Nat
  off : Nat
  entries : List Nat
  deriving DecidableEq, Repr

/-- A job image: its sections and its span entries as words. -/
structure JobImage where
  secs : List JobSec
  spans : List Nat
  deriving DecidableEq, Repr

/-- The section that a descriptor names. -/
def secOfWords (w : List Nat) : JobSec :=
  let n (i : Nat) : Nat := w.getD i 0
  { tsel := bitsN (n 0) 7 0, size := bitsN (n 0) 51 32, off := n 1
    entries := [bitsN (n 2) 18 0, bitsN (n 2) 50 32, bitsN (n 3) 18 0, bitsN (n 3) 50 32] }

/-- The unnamed bits of a section descriptor are zero and its fields are in range. -/
def secOk (w : List Nat) : Bool :=
  let n (i : Nat) : Nat := w.getD i 0
  let x := secOfWords w
  let pair (x : Nat) : Bool := bitsN x 31 19 == 0 && bitsN x 63 51 == 0
  bitsN (n 0) 31 8 == 0 && bitsN (n 0) 63 52 == 0 && (decide (x.tsel ≤ 7) || x.tsel == 0xFF) && decide (1 ≤ x.size)
    && decide (x.size ≤ 0x80000) && pair (n 2) && pair (n 3)

/-- The section descriptors of an image, from descriptor i on; none where one cannot be read. -/
def readSecs (s : State) (ctxn jimg : Nat) : Nat → Nat → Option (List (List Nat))
  | 0, _ => some []
  | f + 1, i =>
    match feRecord s ctxn (moveAddr jimg (64 + 32 * i : Nat)) 4, readSecs s ctxn jimg f (i + 1) with
    | some w, some rest => some (w :: rest)
    | _, _ => none

/-- The index by which each tile of a block finds its section: its place in the block, or, in a block of whole clusters, its number in
its cluster (R82, R360). -/
def secIdxs (wholeClusters : Bool) (tiles : List Nat) : List Nat :=
  if wholeClusters then tiles.map tileIn else List.range tiles.length

/-- The section that a tile of a section index receives. -/
def secOf (img : JobImage) (i : Nat) : Option JobSec :=
  (img.secs.find? fun x => x.tsel == i && decide (i ≤ 7)).or (img.secs.find? fun x => x.tsel == 0xFF)

/-- The bytes of a section. -/
def secBytes (s : State) (ctxn jimg : Nat) (x : JobSec) : Option (List Byte) :=
  match frontRead s ctxn (moveAddr jimg (x.off : Nat)) x.size with
  | .ok bs => some bs
  | .error _ => none

/-- The unnamed bits of a span entry are zero. -/
def spanOk (w : Nat) : Bool := bitsN w 31 19 == 0 && bitsN w 53 51 == 0

/-- The words of an image's header are in range (R360). -/
def jobHeadOk (h : List Nat) : Bool :=
  let w (i : Nat) : Nat := h.getD i 0
  bitsN (w 0) 63 4 == 0 && bitsN (w 0) 3 0 != 0 && decide (bitsN (w 0) 3 0 ≤ 9) && bitsN (w 2) 63 12 == 0 && (h.drop 3).all (· == 0)

/-- A job image read and checked for a block whose tiles have some section indices (R360). Everything that its header and descriptors
name is read first: a failure to read is sub-reason 8, and one of R360 is 11 (R356). -/
def readJob (s : State) (ctxn jimg : Nat) (idxs : List Nat) : Except Nat JobImage :=
  match feRecord s ctxn jimg 8 with
  | none => .error 8
  | some h =>
    let w (i : Nat) : Nat := h.getD i 0
    match readSecs s ctxn jimg (bitsN (w 0) 3 0) 0, feRecord s ctxn (moveAddr jimg (w 1 : Nat)) (bitsN (w 2) 11 0) with
    | some ws, some spans =>
      let img : JobImage := { secs := ws.map secOfWords, spans := spans }
      if img.secs.any fun x => (secBytes s ctxn jimg x).isNone then .error 8
      else if jimg % 64 = 0 ∧ jobHeadOk h ∧ ws.all secOk ∧ (img.secs.map (·.tsel)).Nodup ∧ spans.all spanOk
          ∧ idxs.all fun i => (secOf img i).isSome then .ok img
      else .error 11
    | _, _ => .error 8

/-- The idempotent spans of a job, each with its tile and stream (R86, R360). -/
def jobSpans (img : JobImage) (tiles idxs : List Nat) : List (Nat × Strm × Nat × Nat) :=
  (tiles.zip idxs).flatMap fun (t, i) =>
    match secOf img i with
    | none => []
    | some x => (img.spans.filter fun w => bitsN w 61 54 == x.tsel).map fun w =>
        (t, strmOf (bitsN w 63 62), bitsN w 18 0, bitsN w 50 32)

/-! Handles (R361). -/

/-- The handle requests of a job; none where the list cannot be read. -/
def readReqs (s : State) (j : Job) : Option (List Nat) :=
  if j.nhreq = 0 then some [] else feRecord s j.ctxn j.hreq j.nhreq

/-- The FREE entries of a cluster's handle table, ascending. -/
def freeHandles (s : State) (cl : Nat) : List Nat :=
  (List.range 256).filter fun i => hState (mget (clusterOf s cl).handles i 0) == 0

/-- The tile in its cluster that a request's block tile index names: within the cluster for a block of whole clusters. -/
def reqTile (j : Job) (i : Nat) : Nat := if j.wholeClusters then i else tileIn (j.tiles.getD i (j.tiles.headD 0))

/-- The HELD entry that a request gives (R165, R361). -/
def reqEntry (j : Job) (old : Word) (r : Nat) : Word :=
  hMake (hGen old) 1 (reqTile j (bitsN r 2 0) * 4 + bitsN r 4 3) 0 (reqTile j (bitsN r 7 5)) (bitsN r 20 8) (bitsN r 34 21) j.ctxn

/-- The requests of a job granted in one cluster, in order, at the given entries: the table and the handles. -/
def grantReqs (j : Job) (m : FMap Word) : List Nat → List Nat → FMap Word × List Nat
  | r :: rs, i :: is =>
    let old := mget m i 0
    let (m1, hs) := grantReqs j (mset m i (reqEntry j old r)) rs is
    (m1, (hGen old * 256 + i) :: hs)
  | _, _ => (m, [])

/-- The handles of a job created in one cluster and written at HDST of each of its tiles there (R361). -/
def createHandles (reqs : List Nat) (jobNo : Nat) (s : State) (cl : Nat) : State :=
  match mget? s.fe.jobs jobNo with
  | none => s
  | some j =>
    let c := clusterOf s cl
    let (m, hs) := grantReqs j c.handles reqs (freeHandles s cl)
    let s1 := setCluster s cl { c with handles := m }
    let bytes := hs.flatMap (leBytes 2)
    let put (s : State) (t : Nat) : State := { s with mem := memWrite s.mem (scratchBase t + j.hdst) bytes }
    let s2 := (j.tiles.filter fun t => tileCluster t == cl).foldl put s1
    { s2 with fe := { s2.fe with jobs := mset s2.fe.jobs jobNo { j with handles := j.handles ++ hs.map (cl, ·) } } }

/-! The start of a job (R361). -/

/-- Whether an address lies in a tile's scratchpad. -/
def inScratch (t a : Nat) : Bool := decide (scratchBase t ≤ a) && decide (a < scratchBase t + Config.scratchBytes)

/-- A tile's scratchpad zeroed, without poison, and its section copied to byte 0. -/
def loadScratch (s : State) (t : Nat) (bs : List Byte) : State :=
  { s with mem := memWrite (s.mem.filter fun c => !inScratch t c.1) (scratchBase t) bs
           poison := s.poison.filter fun g => !inScratch t (g * 8)
           wlog := s.wlog.filter fun w => !inScratch t w.addr }

/-- A stream as a job starts it (R118, R125, R187, R361). -/
def freshStream (s : State) (pc : Nat) (args : List Word) : Stream :=
  { running := true, pc := BitVec.ofNat 64 pc, cycle0 := s.core, lastIssue := s.fab, viewBase := s.wnext
    regs := args.zipIdx.map fun p => (p.2 + 1, { val := p.1 }) }

/-- One tile of a block, with its section index, started: its scratchpad, its four streams. -/
def startTile (img : JobImage) (jobNo : Nat) (j : Job) (s : State) (p : Nat × Nat) : State :=
  match secOf img p.2 with
  | none => s
  | some x =>
    let s1 := loadScratch s p.1 ((secBytes s j.ctxn j.jimg x).getD [])
    let pc (i : Nat) : Nat := x.entries.getD i 0
    let f (i : Nat) : Stream := freshStream s1 (pc i) j.args
    setTile s1 p.1 { k := f 0, l := f 1, c := f 2, w := f 3, job := some jobNo, savedJobs := (tileOf s p.1).savedJobs }

/-- Whether every cluster of a job has entries enough for its requests. -/
def handlesFit (s : State) (j : Job) : Bool :=
  (blockClusters j.tiles).all fun cl => decide (j.nhreq ≤ (freeHandles s cl).length)

/-- A job starts on its block (R361); it waits in the BINDING state while a handle table is short of entries. -/
def startJob (s : State) (jobNo : Nat) (j : Job) : State :=
  if !handlesFit s j then s
  else
    let idxs := secIdxs j.wholeClusters j.tiles
    match readJob s j.ctxn j.jimg idxs, readReqs s j with
    | .ok img, some reqs =>
      let s1 := (j.tiles.zip idxs).foldl (startTile img jobNo j) s
      let j1 := { j with started := true, startedAt := s.fab, spans := jobSpans img j.tiles idxs }
      let s2 := { s1 with fe := { s1.fe with jobs := mset s1.fe.jobs jobNo j1 } }
      (blockClusters j.tiles).foldl (createHandles reqs jobNo) s2
    | _, _ => s

/-! The completion of a job (R25, R361). -/

/-- The GNXT commands of a job that wait in the launch queue, with their places (R429). -/
def isNext (no : Nat) (f : FeCmd) : Bool :=
  match f.kind with
  | .gnxt _ => f.job == no
  | _ => false

/-- The numbers of a job's GNXT commands that have not been applied: the job's completion does not wait for them (R25, R429). -/
def waitingNexts (s : State) (no : Nat) : List Nat :=
  (s.fe.launchq.filter (isNext no)).filterMap fun f => match f.kind with
    | .gnxt c => some c.id
    | _ => none

/-- Whether a stream of a job has ended: it has executed HALT, its landings have landed and its commands, but for some, have
completed. -/
def streamOver (but : List Nat) (x : Stream) : Bool := x.halted && x.landings.isEmpty && x.cmds.all fun r => but.contains r.id

/-- Whether work of a job is still on its way outside its streams: front-end commands but GNXT, replies, completions, atomics. -/
def jobBusy (s : State) (jobNo : Nat) (j : Job) : Bool :=
  s.fe.launchq.any (fun f => f.job == jobNo && !isNext jobNo f) || s.done.any (fun d => d.cmd.job == jobNo && !d.cmd.fromFe)
    || s.replies.any (fun r => r.job == jobNo) || s.ports.any (fun x => j.tiles.contains x.tile && x.path == .core)

/-- Whether a job has completed (R25). -/
def jobOver (s : State) (jobNo : Nat) (j : Job) : Bool :=
  j.started && !jobBusy s jobNo j && j.tiles.all fun t =>
    let x := jobTile s jobNo t
    let ended := streamOver (waitingNexts s jobNo)
    ended x.k && ended x.l && ended x.c && ended x.w

/-- A handle of a job becomes FREE, where it is still the one that was created (R361). -/
def dropHandle (s : State) (h : Nat × Nat) : State :=
  let c := clusterOf s h.1
  let e := mget c.handles (h.2 % 256) 0
  if hState e ≠ 0 ∧ hGen e = h.2 / 256 then setCluster s h.1 { c with handles := mset c.handles (h.2 % 256) (hFree e) } else s

/-- What a job holds is released: its tiles, handles, claims and chains (R226, R262, R280, R361). -/
def releaseJob (s : State) (jobNo : Nat) (j : Job) : State :=
  let s1 := (blockClusters j.tiles).foldl (releaseMatrix · jobNo) s
  let s2 := j.handles.foldl dropHandle s1
  let free (s : State) (t : Nat) : State :=
    let x := tileOf s t
    if x.job = some jobNo then setTile s t { savedJobs := x.savedJobs }
    else setTile s t { x with savedJobs := x.savedJobs.filter (· != jobNo) }
  let s3 := j.tiles.foldl free s2
  let fe := { s3.fe with jobs := mdel s3.fe.jobs jobNo, saves := mdel s3.fe.saves jobNo, savedMx := mdel s3.fe.savedMx jobNo
                         savedMem := mdel s3.fe.savedMem jobNo, savedPoison := mdel s3.fe.savedPoison jobNo
                         savedHandles := mdel s3.fe.savedHandles jobNo, savedCopies := mdel s3.fe.savedCopies jobNo
                         savedGathers := mdel s3.fe.savedGathers jobNo, deferred := s3.fe.deferred.filter (· != jobNo) }
  let mine (r : NodeRef) : Bool := r.gid == j.gid && r.node == j.node
  let queues := fe.queues.map fun p => (p.1, { p.2 with ready := p.2.ready.filter (!mine ·) })
  { s3 with fe := { fe with queues := queues } }

/-- The launches that a completed job of a graph has recorded (R369). -/
def launchNexts (s : State) (gid : Nat) (xs : List (Cmd × Option (Nat × Qcb))) : State :=
  xs.foldl (fun s x =>
    match x.2 with
    | none => launchEnd s none (some x.1) 2 0
    | some (key, q) => askLaunch s (grGaddr x.1.tmpl) q.ctxn key (grOrd x.1.tmpl) none (some x.1) (some gid)) s

/-- The GNXT commands of a job, those recorded and those that still wait in the launch queue, each with its queue. -/
def nextsOf (s : State) (jobNo : Nat) (j : Job) : List (Cmd × Option (Nat × Qcb)) :=
  (j.gnxts ++ s.fe.launchq.filter (isNext jobNo)).filterMap fun f => match f.kind with
    | .gnxt c => some (c, graphQueue s c)
    | _ => none

/-- What an observer of a job's completion observes (R181): its streams' releases, its commands, and the drains of its tasks. -/
def jobKnow (s : State) (jobNo : Nat) (j : Job) : Know :=
  let own (t : Nat) : Know :=
    let x := jobTile s jobNo t
    [x.k, x.l, x.c, x.w].foldl (fun k st => kmerge k (endedAll st)) {}
  let k := j.tiles.foldl (fun k t => kmerge k (own t)) {}
  kmerge k { cmds := ((s.wlog.map (·.key)).filter fun n => n % 2 == 1 && k.cmds.contains (n - 1)).eraseDups }

/-- A completed job: what it held is released, its node signals or faults, and its launches are made, sixteen at most; a GNXT that was
still waiting is applied now (R359, R361, R369, R429). -/
def endJob (s : State) (jobNo : Nat) (j : Job) : State :=
  let all := nextsOf s jobNo j
  let nexts := all.take 16
  let s0 := (all.drop 16).foldl (fun s x => offer s (cmdOffer s x.1 .graph 6 0)) s
  let s1 := releaseJob (noteAccesses { s0 with fe := { s0.fe with launchq := s0.fe.launchq.filter (!isNext jobNo ·) } } j.gid (jobKnow s jobNo j)) jobNo j
  if j.fault ≠ 0 then faultGraph s1 j.gid j.fault j.node
  else
    let s2 := nodeDone s1 j.gid j.node
    if (graphOf s2 j.gid).any (·.faulted) then s2 else launchNexts s2 j.gid nexts

/-- JOB_COMPLETE (R25, R361). -/
def execJobComplete (job : Nat) (s : State) : Out :=
  match mget? s.fe.jobs job with
  | none => .next s
  | some j => if jobOver s job j then .next (endJob s job j) else .next s

end Sys2Proof.Machine
end

