-- ==== Sys2Proof/Machine/Nodes.lean ====
section
/-! DEFINITION. Graph nodes at work (R356 to R359, R363 to R368): the completion step of commands (R72), BIND, COPY and GATHER
nodes, the nodes that run in the front end, and the completion of graphs. -/

namespace Sys2Proof.Machine

/-! The completion of a command (R70, R72). -/

/-- One push in a tile: the tile, and whether the FIFO was full. x happens before the pop of the token (R181). -/
def pushIn (t : Tile) (sk : Strm) (right : Bool) (x : Know) : Tile × Bool :=
  let o := neighbour sk right
  let y := streamIn t o
  if tokens y (!right) < 8 then (withStream t o (addTokens y (!right) 1 x), false) else (t, true)

/-- The completion pushes of a command in its tile, and whether one of them failed. -/
def pushDone (t : Tile) (c : Cmd) : Tile × Bool :=
  let tk := BitVec.ofNat 4 (tf c.tmpl 11 8)
  let (t1, a) := if tkSL tk then pushIn t c.strm false (doneKnow c) else (t, false)
  let (t2, b) := if tkSR tk then pushIn t1 c.strm true (doneKnow c) else (t1, false)
  (t2, a || b)

/-- The tag and the kind of a command, as the TOKEN_OVER of a completion push reports them (R72). -/
def overWord (c : Cmd) : Word := BitVec.ofNat 64 ((cmdTag c).toNat + cmdKind c * 2 ^ 16)

/-- The tokens of a completed command (R72). Where both pushes find their FIFO full, one TOKEN_OVER reports them (assumption 139). A
stream that has executed HALT cannot trap: its job gets the record, with SRC 0 (assumption 19). -/
def completionTokens (s : State) (c : Cmd) : State :=
  let s1 := updTile s c.job c.tile fun t => (pushDone t c).1
  if (pushDone (jobTile s c.job c.tile) c).2 then
    if (streamIn (jobTile s1 c.job c.tile) c.strm).halted then offer s1 { cmdOffer s1 c .tokenOver 0 0 with detail := overWord c }
    else updStrm s1 c.job c.tile c.strm fun st => { st with overDue := st.overDue ++ [overWord c] }
  else s1

/-- The reply word of a command (R70). -/
def replyWord (d : Done) : Word :=
  BitVec.ofNat 64 ((cmdTag d.cmd).toNat * 2 ^ 48 + d.status.toNat * 2 ^ 40 + d.result.toNat)

/-- Whether a job's tiles are in its save area. -/
def jobSaved (s : State) (job : Nat) : Bool := (mget? s.fe.saves job).isSome

/-- Bytes written to the scratchpad of a saved job's tile, as its save area holds it. -/
def writeSaved (s : State) (job p : Nat) (bs : List Byte) : State :=
  let granules := (List.range ((bs.length + 7) / 8)).map fun i => p / 8 + i
  { s with fe := { s.fe with
      savedMem := mset s.fe.savedMem job (memWrite (mget s.fe.savedMem job []) p bs)
      savedPoison := mset s.fe.savedPoison job ((mget s.fe.savedPoison job []).filter fun g => !granules.contains g) } }

/-- The reply of a command to a queue register or to the reply address; who observes it observes the command's completion (R70,
R181). The scratchpad of a saved job is the one in its save area (assumption 140). -/
def sendReply (s : State) (d : Done) : State :=
  let c := d.cmd
  match tf c.tmpl 14 13 with
  | 1 =>
    { s with replies := s.replies ++ [{ tile := c.tile, strm := c.strm, q := tf c.tmpl 17 15, word := replyWord d, job := c.job
                                        know := doneKnow c }] }
  | 2 =>
    let off := tf c.tmpl 63 48 * 8
    let bs := leBytes 8 (replyWord d).toNat
    if c.job ≠ 0 ∧ jobSaved s c.job then writeSaved s c.job (scratchBase c.tile + off) bs
    else
      match engWrite s { whoOf c (kindPath (cmdKind c)) with know := doneKnow c } (ownAddr off) bs false with
      | .ok s1 => s1
      | .error _ => s
  | _ => s

/-- The completion of a command of a bound node (R364, R365): the verdict of a cask query, or the fault that ends the node. -/
def nodeCmdDone (d : Done) (b : BoundNode) : BoundNode :=
  if b.cmds.contains d.cmd.id then
    { b with cmds := b.cmds.filter (· != d.cmd.id)
             fault := if b.fault = 0 then d.status else b.fault
             know := kmerge b.know (doneKnow d.cmd)
             verdict := if cmdKind d.cmd = 5 ∧ cmdSub d.cmd = 0 then bitsN d.result.toNat 37 36 else b.verdict }
  else b

/-- The completion of a stream's command. A job that is no longer there takes nothing. -/
def streamCmdDone (s : State) (d : Done) : State :=
  let c := d.cmd
  if c.job ≠ 0 ∧ (mget? s.fe.jobs c.job).isNone then s
  else
    let s1 := updStrm s c.job c.tile c.strm fun st =>
      { st with cmds := st.cmds.filter (fun r => r.id != c.id), lastIssue := s.fab
                ended := st.ended ++ [(kindPath (cmdKind c), ownKey c.id)] }
    let s2 := sendReply s1 d
    if tf c.tmpl 12 12 = 1 ∧ d.status = 0 then completionTokens s2 c else s2

/-- Whether no earlier command of the same stream has ended and is still to complete: commands complete in the order in which their
engines end them (R72, R158). -/
def doneTurn (s : State) (n : Nat) (c : Cmd) : Bool :=
  !(s.done.take n).any fun d => d.cmd.tile == c.tile && d.cmd.strm == c.strm && d.cmd.job == c.job && d.cmd.fromFe == c.fromFe

/-- COMMAND_COMPLETION (R72): command n of those that have ended completes in its turn. -/
def execCommandCompletion (n : Nat) (s : State) : Out :=
  match s.done[n]? with
  | none => .next s
  | some d =>
    if !doneTurn s n d.cmd then .next s else
    let s1 := { s with done := ldrop s.done n }
    if d.cmd.fromFe then .next { s1 with fe := { s1.fe with bound := s1.fe.bound.map (nodeCmdDone d) } }
    else .next (streamCmdDone s1 d)

/-! Nodes at binding (R354, R356, R363 to R365). -/

/-- Where a node's record lies: in the node array, or at the address of a BIND packet (R345). -/
def recordAt (g : Graph) (n : Nat) : Nat :=
  match g.pkt with
  | some p => p.addr
  | none => nodeAddr g n

/-- Word i of a node. -/
def nodeField (s : State) (g : Graph) (n i : Nat) : Nat := feWord s g.ctxn (recordAt g n + 8 * i)

/-- The template image of a COPY packet, or 0. -/
def feTmpl (s : State) (ctxn a : Nat) : Option (BitVec 256) :=
  match frontRead s ctxn a 32 with
  | .ok bs => some (BitVec.ofNat 256 (leNat bs))
  | .error _ => none

/-- A node's kind. A COPY packet's is told by its template (R345). -/
def nodeKind (s : State) (g : Graph) (n : Nat) : Nat :=
  match g.pkt with
  | some p => if p.pkind = 2 then 1 else if (feTmpl s g.ctxn p.addr).any fun t => tf t 3 0 == 4 then 3 else 2
  | none => bitsN (nodeWord s g n 0) 63 60

/-- The header of a front-end template (R354). -/
def feHead (t : BitVec 256) (kind : Nat) : Bool :=
  tf t 3 0 == kind && headOk t && tf t 17 8 == 0 && tf t 26 20 == 0 && tf t 63 48 == 0

/-- The addresses of a BIND's stream command: virtual or L2, and none of its own in a scratchpad or an operand slot (R354). -/
def feStreamAddrs (t : BitVec 256) : Bool :=
  let far := cmdSel true 0 (scAddr t)
  match tf t 7 4 with
  | 0 => far && !scTgt t
  | 1 => far
  | 2 => far && bitN (scS t 3) 15
  | 3 => far && bitN (scS t 3) 15
  | 6 => far
  | 7 => far && !bitN (scS t 3) 15
  | 10 => false
  | _ => true

/-- Sub-reason 9 for a template: its SLOT is not hosted. -/
def bindUnhosted (s : State) (tile : Nat) (t : BitVec 256) : Bool := tf t 3 0 == 1 && !streamHosted s tile t (tf t 7 4)

/-- Whether a template of a BIND passes R354 and the checks of its kind (R197, R209). -/
def bindTmplOk (t : BitVec 256) (tile : Nat) : Bool :=
  feHead t 1 && tf t 64 64 == 0 && streamFields t (blockMask tile [tile]) (tf t 7 4) && streamAddr t (tf t 7 4) && feStreamAddrs t

/-- A node's guard (R351, R364). -/
def readGuard (s : State) (g : Graph) (n : Nat) : Option Guard :=
  let n4 := nodeField s g n 4
  if bitN n4 63 then
    let epoch := if g.pkt.isSome then 0 else bitsN (headNow s g 0) 47 32
    some { rent := bitsN n4 59 48, lid := bitsN n4 47 32, step := (bitsN n4 31 16 + epoch) % 2 ^ 16, etype := bitsN n4 1 0
           iaddr := nodeField s g n 5, oaddr := nodeField s g n 6 }
  else none

def guardOk (x : Guard) : Bool := x.etype != 3 && x.iaddr % 64 == 0 && x.oaddr % 64 == 0

/-- The template images of a node, none where one cannot be read. -/
def readTmpls (s : State) (ctxn a : Nat) : Nat → Option (List (BitVec 256))
  | 0 => some []
  | n + 1 =>
    match feTmpl s ctxn a, readTmpls s ctxn (moveAddr a 32) n with
    | some t, some ts => some (t :: ts)
    | _, _ => none

/-- Whether a tile stands for the context of a graph. -/
def standsFor (s : State) (g : Graph) (t : Nat) : Bool := decide (t < Config.tiles) && (tileOf s t).standing == some g.ctxn

/-- A BIND node checked at binding (R356): the bound node, or the first sub-reason that fails, in the order of their numbers. -/
def checkBind (s : State) (g : Graph) (r : NodeRef) (prio : Nat) : Except Nat BoundNode :=
  let n2 := nodeField s g r.node 2
  let tile := bitsN n2 7 0
  match readTmpls s g.ctxn (nodeField s g r.node 3) (bitsN n2 10 8 + 1) with
  | none => .error 8
  | some ts =>
    let guard := readGuard s g r.node
    let sink := (ts[bitsN n2 14 12]?).elim 99 fun t => tf t 7 4
    if !standsFor s g tile || ts.any (bindUnhosted s tile) then .error 9
    else if ts.all (bindTmplOk · tile) && (sink == 1 || sink == 3 || sink == 7) && guard.all guardOk then
      .ok { ref := r, ctxn := g.ctxn, qkey := g.qkey, kind := 1, tile := tile, tmpls := ts, guard := guard, prio := prio
            sink := bitsN n2 14 12 }
    else .error 10

/-- A COPY or GATHER node checked at binding (R356). DESIGN CHOICE (assumption 170): a COPY packet with a KIND 3 template and p3 not zero
fails here. -/
def checkMove (s : State) (g : Graph) (r : NodeRef) (kind prio : Nat) : Except Nat BoundNode :=
  let (a, die, td) := match g.pkt with
    | some p => (p.addr, p.die, p.td)
    | none => (nodeWord s g r.node 3, bitsN (nodeWord s g r.node 2) 1 0, nodeWord s g r.node 4)
  match feTmpl s g.ctxn a with
  | none => .error 8
  | some t =>
    let b : BoundNode :=
      { ref := r, ctxn := g.ctxn, qkey := g.qkey, kind := kind, die := die, td := td, tmpls := [t], prio := prio }
    if kind = 2 then if feHead t 3 && tf t 7 4 < 2 && copyFields t true && td == 0 then .ok b else .error 10
    else
      match frontRead s g.ctxn td 64 with
      | .error _ => .error 8
      | .ok _ => if feHead t 4 && gatherFields t true then .ok b else .error 10

/-! Bound nodes at work. -/

def setBound (s : State) (n : Nat) (b : BoundNode) : State := { s with fe := { s.fe with bound := lset s.fe.bound n b } }

/-- A node that the front end gives a fault: its record is posted and its graph faults (R359). -/
def nodeFault (s : State) (gid n : Nat) (e : AccFault) (a : Nat) : State :=
  match graphOf s gid with
  | none => s
  | some g =>
    faultGraph (offer s { ctxn := g.ctxn, code := feCode e, src := 6, sub := (accCause e).2, unit := n, stage := nodeStage s g n
                          resp := isLost e, addr := BitVec.ofNat 64 a, gaddr := BitVec.ofNat 64 g.gaddr }) gid (feCode e) n

/-- A bound node ends: it completes, or its graph faults (R357, R359). -/
def endBound (s : State) (n : Nat) (b : BoundNode) : State :=
  let s1 := noteAccesses { s with fe := { s.fe with bound := ldrop s.fe.bound n } } b.ref.gid b.know
  if b.fault = 0 then nodeDone s1 b.ref.gid b.ref.node else faultGraph s1 b.ref.gid b.fault b.ref.node

/-- A command of the front end for a bound node (R105, R354). The start of its node is an acquire point, as that of a job is
(R181, R187; assumption 6). -/
def feCmd (s : State) (b : BoundNode) (tile : Nat) (t : BitVec 256) : Cmd :=
  { id := s.nextCmd, tmpl := t, rm := 1, fte := 0x200111, tile := tile, strm := .k, ctxn := b.ctxn, fromFe := true, base := s.wnext
    gaddr := ((graphOf s b.ref.gid).map (·.gaddr)).getD 0 }

/-- A bound node with one more command in progress. -/
def withCmd (s : State) (n : Nat) (b : BoundNode) (c : Cmd) : State :=
  setBound { s with nextCmd := s.nextCmd + 1 } n { b with cmds := b.cmds ++ [c.id] }

/-- A cask command of a guard (R312, R364): sub-kind, and the addresses that it names. -/
def guardTmpl (x : Guard) (sub ia oa : Nat) : BitVec 256 :=
  BitVec.ofNat 256 (5 + sub * 2 ^ 4 + oa * 2 ^ 64 + ia * 2 ^ 128 + x.etype * 2 ^ 206 + x.step * 2 ^ 208 + x.lid * 2 ^ 224
    + x.rent * 2 ^ 240)

/-- A guard's cask command issued; the node then waits in the given phase. -/
def issueGuard (s : State) (n : Nat) (b : BoundNode) (x : Guard) (sub phase : Nat) : State :=
  let t := guardTmpl x sub (if sub = 1 then 0 else x.iaddr) (if sub = 0 then 0 else x.oaddr)
  let c := feCmd s b b.tile t
  caskAccept (withCmd s n { b with phase := phase } c) c

/-- One step of a BIND node (R363, R364). Without a guard it completes once its sink has taken its end-of-stream token and its commands
have completed (R25). -/
def bindStep (s : State) (n : Nat) (b : BoundNode) : State :=
  if !b.cmds.isEmpty && !(b.phase == 2 && b.sent < b.tmpls.length && b.fault == 0) then s
  else if b.fault ≠ 0 then endBound s n b
  else
    match b.phase, b.guard with
    | 0, some x => issueGuard s n b x 0 1
    | 0, none => setBound s n { b with phase := 2 }
    | 1, some x => if b.verdict = 1 then issueGuard s n b x 1 3 else setBound s n { b with phase := 2 }
    | 2, g =>
      match b.tmpls[b.sent]? with
      | some t =>
        if streamRoom s b.tile t then
          let c := feCmd s b b.tile t
          streamAccept (withCmd s n { b with sent := b.sent + 1, sinkCmd := if b.sent = b.sink then c.id else b.sinkCmd } c) c
        else s
      | none =>
        match g with
        | some x => issueGuard s n b x 2 3
        | none => if b.sunk then endBound s n b else s
    | _, _ => endBound s n b

/-- Whether a bound node is being pre-empted: it issues nothing then (R374). -/
def preempting (s : State) (b : BoundNode) : Bool := s.fe.preempt.any fun p => p.job.isNone && p.node == b.ref

/-- BIND_NODE (R363, R364): a step of bound node n. -/
def execBindNode (n : Nat) (s : State) : Out :=
  match s.fe.bound[n]? with
  | none => .next s
  | some b => if b.kind = 1 && !preempting s b then .next (bindStep s n b) else .next s

/-- The command of a COPY or GATHER node, placed in its die's queue (R365). -/
def placeMove (s : State) (n : Nat) (b : BoundNode) : State :=
  let c := feCmd s b 0xFF (b.tmpls.headD 0)
  let s1 := withCmd s n { b with phase := 2 } c
  if b.kind = 2 then (if copyRoom s b.die then copyAccept s1 b.die c else s)
  else if gatherRoom s b.die then
    let s2 := gatherAccept s1 b.die c
    let d := dieOf s2 b.die
    setDie s2 b.die { d with descs := mset d.descs c.id b.td }
  else s

/-- A step of a COPY or GATHER node. -/
def moveStep (s : State) (n : Nat) (b : BoundNode) : State :=
  if b.phase = 0 then placeMove s n b else if b.cmds.isEmpty then endBound s n b else s

/-- COPY_NODE (R365). -/
def execCopyNode (n : Nat) (s : State) : Out :=
  match s.fe.bound[n]? with
  | none => .next s
  | some b => if b.kind = 2 then .next (moveStep s n b) else .next s

/-- GATHER_NODE (R365). -/
def execGatherNode (n : Nat) (s : State) : Out :=
  match s.fe.bound[n]? with
  | none => .next s
  | some b => if b.kind = 3 then .next (moveStep s n b) else .next s

/-! COND, HOST and REARM (R366 to R368). -/

/-- The nodes of a REARM's range. -/
def rearmRange (s : State) (g : Graph) (n : Nat) : List Nat :=
  span (bitsN (nodeWord s g n 2) 12 0) (bitsN (nodeWord s g n 2) 28 16)

/-- Whether a READY node of the front end can run now. -/
def runnable (s : State) (g : Graph) (n : Nat) : Bool :=
  match nodeKind s g n with
  | 5 =>
    let n2 := nodeWord s g n 2
    !bitN n2 12 || !ringOwned s (bitsN n2 11 0) g.ctxn || ringRoom s (bitsN n2 11 0)
  | 6 => (rearmRange s g n).all fun i =>
      let st := bitsN (nodeWord s g i 0) 59 58
      st != 1 && st != 2
  | _ => true

/-- Whether a READY node of the front end, by its reference, can run now. -/
def refRuns (s : State) (r : NodeRef) : Bool := (graphOf s r.gid).any fun g => runnable s g r.node

/-- Entry n of the front end's ready nodes, of a kind, where it is the first that can run (R368): the state without it. -/
def takeFeNode (s : State) (n kind : Nat) : Option (State × Graph × Nat) :=
  match s.fe.feReady[n]? with
  | none => none
  | some r =>
    match graphOf s r.gid with
    | none => none
    | some g =>
      if nodeKind s g r.node = kind ∧ runnable s g r.node ∧ !(s.fe.feReady.take n).any (refRuns s) then
        some ({ s with fe := { s.fe with feReady := ldrop s.fe.feReady n } }, g, r.node)
      else none

/-- COND (R366). -/
def execCond (n : Nat) (s : State) : Out :=
  match takeFeNode s n 4 with
  | none => .next s
  | some (s1, g, i) =>
    let a := nodeWord s g i 3
    match feNat s1 g.ctxn a 8 with
    | .error e => .next (nodeFault s1 g.gid i e a)
    | .ok v =>
      let nt := bitsN (nodeWord s g i 1) 47 32
      let s2 := putNstate s1 g i 3
      if ccHolds (ccOf (bitsN (nodeWord s g i 2) 1 0)) (BitVec.ofNat 64 v) (BitVec.ofNat 64 (nodeWord s g i 4)) then
        .next (signalSome s2 g.gid i 0 nt)
      else .next (signalSome s2 g.gid i nt (nsucc s g i))

/-- The signal of a HOST node (R367, R370). -/
def hostSignal (s : State) (g : Graph) (i : Nat) : State :=
  if !bitN (nodeWord s g i 2) 13 then s
  else
    match mget? s.fe.queues g.qkey with
    | none => s
    | some q =>
      match signalHost s q (BitVec.ofNat 64 (nodeWord s g i 3)) with
      | .ok s1 => s1
      | .error e => offer s { ctxn := g.ctxn, code := feCode e, src := 6, sub := (accCause e).2, unit := i, addr := q.hsig
                              resp := isLost e, gaddr := BitVec.ofNat 64 g.gaddr }

/-- HOST (R367). -/
def execHost (n : Nat) (s : State) : Out :=
  match takeFeNode s n 5 with
  | none => .next s
  | some (s1, g, i) =>
    let n2 := nodeWord s g i 2
    let ring := bitsN n2 11 0
    if bitN n2 12 && !ringOwned s ring g.ctxn then .next (faultGraph s1 g.gid (causeByte .graph) i)
    else
      let record := (List.range 8).flatMap fun w => leBytes 8 (nodeWord s g i (8 + w))
      let s2 := if bitN n2 12 then ringPut s1 ring record else s1
      .next (nodeDone (hostSignal s2 g i) g.gid i)

/-- CNT set to INIT and NSTATE to WAITING for a node (R368). -/
def resetNode (s : State) (g : Graph) (i : Nat) : State :=
  putNstate (putCnt s g i (bitsN (nodeWord s g i 0) 55 44)) g i 0

/-- REARM (R368). -/
def execRearm (n : Nat) (s : State) : Out :=
  match takeFeNode s n 6 with
  | none => .next s
  | some (s1, g, i) =>
    let range := rearmRange s g i
    let s2 := range.foldl (fun s m => resetNode s g m) s1
    let s3 := (range.filter fun m => bitsN (nodeWord s2 g m 0) 55 44 == 0).foldl (fun s m => makeReady s g m) s2
    let s4 := graphPut s3 g.gid g.gaddr 47 32 (bitsN (headNow s3 g 0) 47 32 + 1) 0
    .next (signalSome (resetNode s4 g i) g.gid i 0 (nsucc s g i))

/-! The completion of a graph (R358, R359). -/

/-- Whether no node of a graph is READY or RUNNING. -/
def graphQuiet (s : State) (gid : Nat) : Bool :=
  !s.fe.jobs.any (fun p => p.2.gid == gid) && !s.fe.bound.any (fun b => b.ref.gid == gid)
    && !s.fe.feReady.any (fun r => r.gid == gid) && !s.fe.queues.any fun p => p.2.ready.any fun r => r.gid == gid

/-- GSTATE, then the completion word of a completed graph, which is that of a FAULTED one where the write of GSTATE has failed. The
accesses of its nodes happen before that word (R358, R359, R433). -/
def closeGraph (s : State) (g : Graph) : State :=
  let s1 := if g.faulted then s else graphPut s g.gid g.gaddr 63 62 0 0
  let g1 := (graphOf s1 g.gid).getD g
  let a := headWord g 4
  let v := if g1.faulted then 2 ^ 63 + g1.fcode.toNat * 2 ^ 16 + g1.fnode else bitsN (headWord g 5) 62 0
  if a = 0 then s1
  else
    match frontWrite s1 g.ctxn a (leBytes 8 v) g.know with
    | .ok s2 => s2
    | .error e => graphLost s1 g1 a 0 e

/-- The graph leaves its queue; a FAULTED one posts its event (R359). -/
def dropGraph (s : State) (g : Graph) : State :=
  let s1 := { s with fe := { s.fe with graphs := s.fe.graphs.filter fun x => x.gid != g.gid } }
  if g.faulted then
    offer s1 { ctxn := g.ctxn, code := causeByte .graph, src := 6, sub := g.fsub, unit := g.fnode, stage := nodeStage s g g.fnode
               gaddr := BitVec.ofNat 64 g.gaddr }
  else s1

/-- The launches that wait, without those of the GNXTs of a FAULTED graph's jobs (R359). -/
def dropNexts (s : State) (g : Graph) : State :=
  if g.faulted then { s with fe := { s.fe with pending := s.fe.pending.filter fun p => p.from_ != some g.gid } } else s

/-- What follows in the queue: NEXT, the launches that wait, and a QUEUE_DESTROY (R348, R355, R358). -/
def afterGraph (s0 : State) (g : Graph) (next : Nat) : State :=
  let s := dropNexts s0 g
  let s1 := if g.faulted || next == 0 then s else askLaunch s next g.ctxn g.qkey false none none
  checkDestroy (advancePending s1.fe.pending.length s1 g.qkey) g.qkey

/-- GRAPH_COMPLETE (R358, R359): graph n of those that are ACTIVE. A one-node graph answers its packet (R345, R346). -/
def execGraphComplete (n : Nat) (s : State) : Out :=
  match s.fe.graphs[n]? with
  | none => .next s
  | some g =>
    if !graphQuiet s g.gid then .next s
    else
      match g.pkt with
      | some p => .next (afterGraph (completion (dropGraph s g) p (if g.faulted then 12 else 0) g.fcode) g 0)
      | none =>
        let next := headWord g 6
        let s1 := closeGraph s g
        let g1 := (graphOf s1 g.gid).getD g
        .next (afterGraph (dropGraph s1 g1) g1 next)

end Sys2Proof.Machine
end

