-- ==== Sys2Proof/Machine/Preempt.lean ====
section
/-! DEFINITION. Pre-emption (R37, R38, R291, R319, R334, R340, R374, R391): what a job or a BIND node saves, and how it is
brought back. -/

namespace Sys2Proof.Machine

/-! Classes and victims (R37). -/

/-- The rank of a queue's class. -/
def queueRank (s : State) (qkey : Nat) : Nat := ((mget? s.fe.queues qkey).map fun q => rankOf q.cls).getD 0

def sameNode (a b : NodeRef) : Bool := a.gid == b.gid && a.node == b.node

/-- A job that a node of a queue may pre-empt: it runs, its class is lower, and it has not been deferred (R34, R37). -/
def canPreempt (s : State) (qkey no : Nat) : Bool :=
  match mget? s.fe.jobs no with
  | none => false
  | some j => j.started && !j.saved && !j.ending && !s.fe.deferred.contains no && decide (queueRank s j.qkey < queueRank s qkey)

/-- The order in which victims are chosen: lowest class, lowest priority, most recent start (R37). -/
def jobBefore (s : State) (a b : Job) : Bool :=
  let ra := queueRank s a.qkey
  let rb := queueRank s b.qkey
  decide (ra < rb) || (ra == rb && (decide (a.prio < b.prio) || (a.prio == b.prio && decide (b.startedAt < a.startedAt))))

/-- The first victim of some jobs. -/
def firstVictim (s : State) (nos : List Nat) : Option Nat :=
  nos.foldl (fun best no =>
    match best with
    | none => some no
    | some b =>
      match mget? s.fe.jobs no, mget? s.fe.jobs b with
      | some x, some y => if jobBefore s x y then some no else best
      | _, _ => best) none

/-! Coming to rest. -/

/-- Whether an unsaved region of a tile is configured and live. -/
def liveRegions (t : Tile) : List Nat := toRack t (List.range 8)

/-- Whether a region of a tile is on its way to another state. -/
def regionsMoving (t : Tile) : Bool := t.regions.any fun p => p.2.state == .racking || p.2.state == .freezing

/-- The copies of a job at a die's engines, with the engines. -/
def jobCopies (s : State) (no die : Nat) : List (Nat × CopyRun) :=
  (dieOf s die).copyEng.filter fun p => p.2.cmd.job == no && !p.2.cmd.fromFe

def jobGathers (s : State) (no die : Nat) : List (Nat × GatherRun) :=
  (dieOf s die).gatherEng.filter fun p => p.2.cmd.job == no && !p.2.cmd.fromFe

/-- The engines of a die stand at element boundaries of a job's commands (R38): a memmove runs to its end (R331, R334), a gather has no
read, row or reduction on its way, and one of which a reduction has failed has posted its fault and ended (R339, R340). -/
def enginesRest (s : State) (no die : Nat) : Bool :=
  (jobCopies s no die).all (fun p => !isMemmove s p.2) &&
    (jobGathers s no die).all fun p => p.2.bad.isEmpty && p.2.reads.isEmpty && p.2.rows.isEmpty && p.2.issued.all fun r => !rowPending s die p.1 r

/-- The streams of a tile have no landing and no atomic on its way (R391). -/
def streamsRest (s : State) (t : Nat) : Bool :=
  let x := tileOf s t
  [Strm.k, .l, .c, .w].all fun sk => (streamIn x sk).landings.isEmpty && (atomicsOf s t sk).isEmpty

/-- Whether a job can be read out: its matrix work, engines, streams and configuration units have come to rest. -/
def jobRests (s : State) (no : Nat) (j : Job) : Bool :=
  (blockClusters j.tiles).all (matrixRests s no) && (List.range 4).all (enginesRest s no) && j.tiles.all (streamsRest s)

/-! Saving a job. -/

/-- The physical spans that a job saves: its tiles' scratchpads and the operand slots that it claims (R291, R391). -/
def savedSpans (s : State) (no : Nat) (j : Job) : List (Nat × Nat) :=
  j.tiles.map (fun t => (scratchBase t, Config.scratchBytes)) ++ (blockClusters j.tiles).flatMap fun cl =>
    ((clusterOf s cl).slots.filter fun p => p.2.claim.isSome && p.2.job == no).map fun p => (slotByte cl p.1 0, 8192)

def inSpans (spans : List (Nat × Nat)) (a : Nat) : Bool := spans.any fun p => decide (p.1 ≤ a) && decide (a < p.1 + p.2)

/-- A stream as it is saved: its stores published, its wait at a word given up (R163, R391). A stream that waits at a rendezvous has
arrived, and still waits when it comes back (R162). -/
def settleStream (s : State) (t : Nat) (sk : Strm) : State := dropWatch (publish s t sk .system) t sk

/-- A waiter of a unit that no longer holds the command of a saved job: it will meet its fault again. -/
def goneWaiter (tiles : List Nat) (copies gathers : List (Nat × Nat)) (w : Waiter) : Bool :=
  match w with
  | .slot t _ => tiles.contains t
  | .copy d e => copies.contains (d, e)
  | .gather d e => gathers.contains (d, e)
  | .pip _ t _ => tiles.contains t
  | _ => false

/-- Records and waits of units that have been saved are dropped; a pip that waited for a response tries again. -/
def dropWaiters (s : State) (tiles : List Nat) (copies gathers : List (Nat × Nat)) : State :=
  let gone := goneWaiter tiles copies gathers
  { s with fe := { s.fe with offers := s.fe.offers.filter fun o => !gone o.waiter, waits := s.fe.waits.filter fun w => !gone w.waiter }
           mesh := s.mesh.map fun m => if m.pkg.isSome && tiles.contains m.srcTile then { m with halted := false } else m }

/-- The copies and gathers of a job leave a die. -/
def takeEngines (no : Nat) (d : Die) : Die :=
  let mine (c : Cmd) : Bool := c.job == no && !c.fromFe
  { d with copyq := d.copyq.filter (!mine ·), gatherq := d.gatherq.filter (!mine ·)
           copyEng := d.copyEng.filter fun p => !mine p.2.cmd, gatherEng := d.gatherEng.filter fun p => !mine p.2.cmd }

/-- The copies and gathers of a job, in acceptance order, with their progress (R334, R340). -/
def savedRuns (s : State) (no : Nat) : List CopyRun × List GatherRun :=
  let mine (c : Cmd) : Bool := c.job == no && !c.fromFe
  (sortBy (·.cmd.id) ((List.range 4).flatMap fun d => (jobCopies s no d).map (fun p => { p.2 with halt := none, before := [] })
      ++ ((dieOf s d).copyq.filter mine).map fun c => { cmd := c }),
   sortBy (·.cmd.id) ((List.range 4).flatMap fun d => (jobGathers s no d).map (fun p => { settleRows s d p.1 p.2 with halt := none, entries := [] })
      ++ ((dieOf s d).gatherq.filter mine).map fun c => { cmd := c }))

/-- The progress areas of a job's gathers written, as on a fault (R340). -/
def writeProgress (s : State) (no : Nat) : State :=
  (List.range 4).foldl (fun s d => (jobGathers s no d).foldl (fun s p => writeMasks s (settleRows s d p.1 p.2) d p.1) s) s

/-- A tile as it is saved and as it comes back: its streams' cycle counters hold the cycles that have passed, and go on from there
(R125, R391). -/
def turnCycles (core : Nat) (t : Tile) : Tile :=
  let turn (st : Stream) : Stream := { st with cycle0 := core - st.cycle0 }
  { t with k := turn t.k, l := turn t.l, c := turn t.c, w := turn t.w }

/-- The engines that hold commands of a job. -/
def engineNames (s : State) (no : Nat) : List (Nat × Nat) × List (Nat × Nat) :=
  ((List.range 4).flatMap fun d => (jobCopies s no d).map (d, ·.1), (List.range 4).flatMap fun d => (jobGathers s no d).map (d, ·.1))

/-- An entry that keeps its number and generation while its job is saved: it names no buffer. -/
def hParked (e : Word) : Word := hMake (hGen e) (hState e) (hHolder e) (hOffer e) (hHome e) (hBase e) 0 (hCtxn e)

/-- The handle entries of a job that stand. -/
def jobHandles (s : State) (j : Job) : List (Nat × Nat × Word) :=
  (j.handles.filterMap fun h =>
    let e := mget (clusterOf s h.1).handles (h.2 % 256) 0
    if hState e ≠ 0 ∧ hGen e = h.2 / 256 then some (h.1, h.2 % 256, e) else none)

def putHandle (s : State) (p : Nat × Nat × Word) : State :=
  let c := clusterOf s p.1
  setCluster s p.1 { c with handles := mset c.handles p.2.1 p.2.2 }

/-- A pre-empted node goes back to the head of its queue's ready list (R374). -/
def readyAgain (s : State) (qkey : Nat) (r : NodeRef) : State :=
  let s1 := match graphOf s r.gid with
    | some g => putNstate s g r.node 1
    | none => s
  match mget? s1.fe.queues qkey with
  | none => s1
  | some q =>
    let q1 := { q with ready := r :: q.ready, since := if q.ready.isEmpty then s.fab else q.since }
    { s1 with fe := { s1.fe with queues := mset s1.fe.queues qkey q1 } }

/-- The MiB that the save of a job takes (R392). -/
def saveSize (j : Job) : Nat := j.tiles.length + 4 * (blockClusters j.tiles).length

/-- The MiB that the saves of a job's context take with that of the job (R392). -/
def saveUse (s : State) (no : Nat) (j : Job) : Nat :=
  let others := s.fe.jobs.filter fun p => p.2.saved && p.2.ctxn == j.ctxn && p.1 != no
  (others.map fun p => saveSize p.2).foldl (· + ·) 0 + saveSize j

/-- The bytes that a save stores from SAVE on (R391): what they are is open, and they stay within what R392 counts and within the memory
that SAVE lies in (assumption 88). -/
def storeSave (s : State) (no : Nat) (j : Job) : State :=
  let p := (ctxWord s j.ctxn 5).toNat
  let top := if p < 2 ^ 54 then Config.hbmBytes else (p / 2 ^ 54 + 1) * 2 ^ 54
  writeAt { s with free := s.free + 1 } (feAgent bindStrip) p ((Config.saveBytes s.free).take (min (2 ^ 20 * saveUse s no j) (top - p)))

/-- A job at rest is read out and leaves its block (R291, R374, R391); its block is reserved for the node that asked. -/
def saveJob (s0 : State) (no : Nat) (j : Job) (target : NodeRef) : State :=
  let s := storeSave s0 no j
  let spans := savedSpans s no j
  let s1 := j.tiles.foldl (fun s t => [Strm.k, .l, .c, .w].foldl (fun s sk => settleStream s t sk) s) (writeProgress s no)
  let (copies, gathers) := savedRuns s1 no
  let (ce, ge) := engineNames s1 no
  let handles := jobHandles s1 j
  let clusters := blockClusters j.tiles
  let fe := { s1.fe with
                saves := mset s1.fe.saves no (j.tiles.map fun t => (t, turnCycles s.core (tileOf s1 t)))
                savedMx := mset s1.fe.savedMx no (clusters.map (savedCluster s1 no))
                savedMem := mset s1.fe.savedMem no (s1.mem.filter fun c => inSpans spans c.1)
                savedPoison := mset s1.fe.savedPoison no (s1.poison.filter fun g => inSpans spans (g * 8))
                savedHandles := mset s1.fe.savedHandles no handles
                savedCopies := mset s1.fe.savedCopies no copies
                savedGathers := mset s1.fe.savedGathers no gathers
                jobs := mset s1.fe.jobs no { j with saved := true }
                reserved := s1.fe.reserved ++ j.tiles.map (·, target)
                preempt := none }
  let s2 := { s1 with fe := fe, dies := s1.dies.map fun p => (p.1, takeEngines no p.2) }
  let s3 := clusters.foldl (dropCluster · no) s2
  let s4 := handles.foldl (fun s p => putHandle s (p.1, p.2.1, hParked p.2.2)) s3
  let leave (s : State) (t : Nat) : State := setTile s t { savedJobs := (tileOf s t).savedJobs ++ [no] }
  let s5 := dropWaiters (j.tiles.foldl leave s4) j.tiles ce ge
  readyAgain s5 j.qkey { gid := j.gid, node := j.node, since := s.fab }

/-! Bringing a job back (R291, R374, R391). -/

/-- The regions of a tile that a front-end wave has frozen, with their images. -/
def frozenByFe (s : State) (t : Tile) : List (Nat × KilnImage) :=
  (t.regions.filter fun p => p.2.state == .frozen && p.2.waveByFe).filterMap fun p => (mget? s.images p.2.image).map fun m => (p.1, m)

/-- The saved bytes of memory put back. Nothing else of the spans stays. -/
def restoreMem (s : State) (spans : List (Nat × Nat)) (bytes : Mem) (poison : List Nat) : State :=
  { s with mem := bytes.foldl (fun m c => memPut m c.1 c.2) (s.mem.filter fun c => !inSpans spans c.1)
           poison := (s.poison.filter fun g => !inSpans spans (g * 8)) ++ poison
           wlog := s.wlog.filter fun w => !inSpans spans w.addr }

/-- A free copy engine of a die. -/
def idleCopy (d : Die) : Option Nat := (List.range 8).find? fun e => (mget? d.copyEng e).isNone

def idleGather (d : Die) : Option Nat := (List.range 4).find? fun e => (mget? d.gatherEng e).isNone

/-- Saved copies taken again, in order, by the idle engines of their dies (R320, R334); those that find none are left. -/
def takeCopies : List CopyRun → State → State × List CopyRun
  | [], s => (s, [])
  | r :: rest, s =>
    let die := tileDie r.cmd.tile
    let d := dieOf s die
    match idleCopy d with
    | some e => takeCopies rest (setDie s die { d with copyEng := mset d.copyEng e { r with before := s.mem } })
    | none =>
      let (s1, left) := takeCopies rest s
      (s1, r :: left)

/-- The saved copies of a job are accepted again ahead of any new command (R334): those that had started stand in engines, the oldest of
the others are taken by idle engines, and the rest head the queues. -/
def restoreCopies (s : State) (rs : List CopyRun) : State :=
  let (begun, queued) := rs.partition (·.checked)
  let (s1, left) := takeCopies (begun ++ queued) s
  left.foldr (fun r s =>
    let die := tileDie r.cmd.tile
    setDie s die { dieOf s die with copyq := r.cmd :: (dieOf s die).copyq }) s1

/-- Saved gathers taken again, in order, by the idle engines of their dies (R320, R340); those that find none are left. -/
def takeGathers : List GatherRun → State → State × List GatherRun
  | [], s => (s, [])
  | g :: rest, s =>
    let die := tileDie g.cmd.tile
    let d := dieOf s die
    match idleGather d with
    | some e => takeGathers rest (setDie s die { d with gatherEng := mset d.gatherEng e g })
    | none =>
      let (s1, left) := takeGathers rest s
      (s1, g :: left)

/-- The saved gathers of a job are accepted again as its copies are (R340). -/
def restoreGathers (s : State) (gs : List GatherRun) : State :=
  let (begun, queued) := gs.partition (·.desc.isSome)
  let (s1, left) := takeGathers (begun ++ queued) s
  left.foldr (fun g s =>
    let die := tileDie g.cmd.tile
    setDie s die { dieOf s die with gatherq := g.cmd :: (dieOf s die).gatherq }) s1

/-- Whether a saved job can come back to its block now: ring entries for its chains, engines for the copies and gathers that had
started, and engines or places in the queues for the others (R320). -/
def restoreRoom (s : State) (no : Nat) : Bool :=
  let copies (die : Nat) : List CopyRun := (mget s.fe.savedCopies no []).filter fun r => tileDie r.cmd.tile == die
  let gathers (die : Nat) : List GatherRun := (mget s.fe.savedGathers no []).filter fun g => tileDie g.cmd.tile == die
  (mget s.fe.savedMx no []).all (canRestore s) && (List.range 4).all fun die =>
    let d := dieOf s die
    let started := (copies die).filter (·.checked)
    let begun := (gathers die).filter (·.desc.isSome)
    decide (d.copyEng.length + started.length ≤ 8) && decide (d.gatherEng.length + begun.length ≤ 4)
      && decide (d.copyEng.length + d.copyq.length + (copies die).length ≤ 8 + 64)
      && decide (d.gatherEng.length + d.gatherq.length + (gathers die).length ≤ 4 + 32)

/-- A saved tile put back on its tile, its regions thawed, its streams going on. -/
def restoreTile (no : Nat) (s : State) (p : Nat × Tile) : State :=
  let t := turnCycles s.core p.2
  let t1 := { t with k := goOn t.k, l := goOn t.l, c := goOn t.c, w := goOn t.w, job := some no
                     savedJobs := (tileOf s p.1).savedJobs.filter (· != no) }
  (frozenByFe s t).foldl (thawRegion p.1 none) (setTile s p.1 t1)

/-! Cancelled commands (R212, R390). -/

/-- The commands queued in the slots of a tile are cancelled (R212, R390). -/
def cancelSlots (code : BitVec 8) (s : State) (tile : Nat) : State :=
  (tileOf s tile).slots.foldl (fun s p =>
    let x := slotAt s tile p.1
    x.pending.foldl (cancelCmd tile p.1 code) (putSlot s tile p.1 { x with pending := [] })) s

/-- The commands of a tile's mesh ports that are not the first of their port are cancelled. -/
def cancelMesh (code : BitVec 8) (s : State) (tile : Nat) : State :=
  let t := tileOf s tile
  let gone := t.mports.flatMap fun p => (p.2.spip.drop 1).map (·.1) ++ p.2.sprv.drop 1
  let keep := t.mports.map fun p => (p.1, { p.2 with spip := p.2.spip.take 1, sprv := p.2.sprv.take 1 })
  gone.foldl (fun s c => finish (setTile s tile (leavePorts (tileOf s tile) c.id)) c code 0) (setTile s tile { t with mports := keep })

/-- The queued tasks and cask commands of a job in a cluster are cancelled. -/
def cancelCluster (no : Nat) (code : BitVec 8) (s : State) (cl : Nat) : State :=
  let c := clusterOf s cl
  let tasks := c.taskq.filter fun u => u.cmd.job == no
  let queued (x : Cmd) : Bool := x.job == no && !x.fromFe && caskBusy c != some x
  let casks := c.cask.filter queued
  let s1 := setCluster s cl { c with taskq := c.taskq.filter (fun u => u.cmd.job != no), cask := c.cask.filter (!queued ·) }
  let s2 := tasks.foldl (fun s u => settleSlots (endTask s cl u code) cl u) s1
  casks.foldl (fun s x => finish (setTile s x.tile (leavePorts (tileOf s x.tile) x.id)) x code 0) s2

/-- The queued copies and gathers of a job are cancelled. -/
def cancelEngines (no : Nat) (code : BitVec 8) (s : State) : State :=
  let mine (c : Cmd) : Bool := c.job == no && !c.fromFe
  let gone := s.dies.flatMap fun p => (p.2.copyq ++ p.2.gatherq).filter mine
  let keep (d : Die) : Die := { d with copyq := d.copyq.filter (!mine ·), gatherq := d.gatherq.filter (!mine ·) }
  gone.foldl (fun s c => finish s c code 0) { s with dies := s.dies.map fun p => (p.1, keep p.2) }

/-- The queued commands of a job are cancelled (R212, R390). -/
def cancelQueued (s : State) (no : Nat) (tiles : List Nat) (code : BitVec 8) : State :=
  let s1 := tiles.foldl (cancelMesh code) (tiles.foldl (cancelSlots code) s)
  cancelEngines no code ((blockClusters tiles).foldl (cancelCluster no code) s1)

/-- A saved job comes back to its block. DESIGN CHOICE (assumption 150): it counts as started then, for the choice of victims
(R37). Of a job that has been terminated meanwhile nothing queued runs any more (R390). -/
def restoreJob (s : State) (no : Nat) (j : Job) : State :=
  let s1 := (mget s.fe.savedMx no []).foldl restoreCluster s
  let s2 := restoreMem s1 (savedSpans s1 no j) (mget s.fe.savedMem no []) (mget s.fe.savedPoison no [])
  let s3 := (mget s.fe.savedHandles no []).foldl putHandle s2
  let s5 := restoreGathers (restoreCopies s3 (mget s.fe.savedCopies no [])) (mget s.fe.savedGathers no [])
  let s6 := (mget s.fe.saves no []).foldl (restoreTile no) s5
  let fe := { s6.fe with saves := mdel s6.fe.saves no, savedMx := mdel s6.fe.savedMx no, savedMem := mdel s6.fe.savedMem no
                         savedPoison := mdel s6.fe.savedPoison no, savedHandles := mdel s6.fe.savedHandles no
                         savedCopies := mdel s6.fe.savedCopies no, savedGathers := mdel s6.fe.savedGathers no
                         jobs := mset s6.fe.jobs no { j with saved := false, startedAt := s.fab } }
  if j.ending then cancelQueued { s6 with fe := fe } no j.tiles j.fault else { s6 with fe := fe }

/-! BIND nodes (R374). -/

/-- A standing region as it was when it was configured: nothing of a node is left in it. -/
def freshRegion (r : Region) : Region :=
  { r with state := if r.wasRunning then .running else .stopped, groups := [], convs := [], secNext := 0, sections := []
           aligned := [], image := 0, isize := 0 }

/-- A standing tile for the next node: the regions that the wave froze as new, ports, channels and slots empty. -/
def freshTile (t : Tile) : Tile :=
  let empty (m : FMap Fifo) : FMap Fifo := m.map fun p => (p.1, {})
  { t with ips := empty t.ips, ops := empty t.ops, chs := empty t.chs, slots := [], barriers := []
           regions := t.regions.map fun p => if p.2.state == .frozen && p.2.waveByFe then (p.1, freshRegion p.2) else p }

/-- Whether a bound node's cask unit has no command of it in progress (R319). -/
def bindRests (s : State) (b : BoundNode) : Bool :=
  !((caskBusy (clusterOf s (tileCluster b.tile))).any fun c => b.cmds.contains c.id)

/-- A frozen BIND node is put aside with its tile and its queued cask commands (R319). -/
def saveBind (s : State) (b : BoundNode) (target : NodeRef) : State :=
  let t := tileOf s b.tile
  let cl := tileCluster b.tile
  let x := clusterOf s cl
  let casks := x.cask.filter fun c => b.cmds.contains c.id
  let fe := { s.fe with bound := s.fe.bound.filter (fun x => !sameNode x.ref b.ref), savedBinds := s.fe.savedBinds ++ [(b, t, casks)]
                        reserved := s.fe.reserved ++ [(b.tile, target)], preempt := none }
  let s1 := setCluster { s with fe := fe } cl { x with cask := x.cask.filter fun c => !b.cmds.contains c.id }
  readyAgain (dropWaiters (setTile s1 b.tile (freshTile t)) [b.tile] [] []) b.qkey { b.ref with since := s.fab }

/-- A BIND node that was put aside goes on; its cask commands are accepted again ahead of any new one (R319). -/
def restoreBind (s : State) (b : BoundNode) (t : Tile) (casks : List Cmd) : State :=
  let t1 := { t with savedJobs := (tileOf s b.tile).savedJobs, mports := (tileOf s b.tile).mports }
  let cl := tileCluster b.tile
  let x := clusterOf s cl
  let s0 := setCluster s cl (casksAgain x casks)
  let s1 := (frozenByFe s t).foldl (thawRegion b.tile none) (setTile s0 b.tile t1)
  { s1 with fe := { s1.fe with bound := s1.fe.bound ++ [b], savedBinds := s1.fe.savedBinds.filter fun p => !sameNode p.1.ref b.ref } }

/-! A pre-emption in progress (R374). -/

/-- A front-end wave on every live region of some tiles. -/
def waveAll (s : State) (tiles : List Nat) : State :=
  tiles.foldl (fun s t => (liveRegions (tileOf s t)).foldl (fun s n => startWave s t n true) s) s

/-- Whether no cask command of a job is in progress (R319). -/
def casksRest (s : State) (no : Nat) (j : Job) : Bool :=
  (blockClusters j.tiles).all fun cl => !(caskBusy (clusterOf s cl)).any fun k => k.job == no

/-- One step of a pre-emption: waves once no cask command is in progress, then the read-out once every region is frozen and the rest of
the job's work stands (R259, R291, R319). -/
def preemptStep (s : State) : State :=
  match s.fe.preempt with
  | none => s
  | some p =>
    let drop := { s with fe := { s.fe with preempt := none } }
    let moving := p.tiles.any fun t => regionsMoving (tileOf s t)
    let live := p.tiles.any fun t => !(liveRegions (tileOf s t)).isEmpty
    match p.job with
    | some no =>
      match mget? s.fe.jobs no with
      | none => drop
      | some j =>
        if moving then s
        else if live then (if casksRest s no j then waveAll s p.tiles else s)
        else if jobRests s no j then saveJob s no j p.target else s
    | none =>
      match s.fe.bound.find? fun b => sameNode b.ref p.node with
      | none => drop
      | some b => if moving || !bindRests s b then s else if live then waveAll s p.tiles else saveBind s b p.target

/-- The streams of a victim stop; a configuration instruction that waits is given up (R253). -/
def stopTile (s : State) (t : Nat) : State :=
  let x := tileOf s t
  let stop (st : Stream) : Stream := { st with running := false }
  let s1 := setTile s t { x with k := stop x.k, l := stop x.l, c := stop x.c, w := stop x.w }
  [Strm.k, .l, .c, .w].foldl (fun s sk => if cfgCommitted s t sk then s else abandonCfg s t sk) s1

/-- Pre-emption of a job starts for a node of a queue. -/
def preemptJob (s : State) (no : Nat) (target : NodeRef) (qkey : Nat) : State :=
  match mget? s.fe.jobs no with
  | none => s
  | some j =>
    let p : Preempt := { job := some no, node := { gid := j.gid, node := j.node }, tiles := j.tiles, target := target, qkey := qkey }
    j.tiles.foldl stopTile { s with fe := { s.fe with preempt := some p } }

/-- Pre-emption of a BIND node starts. -/
def preemptBind (s : State) (b : BoundNode) (target : NodeRef) (qkey : Nat) : State :=
  { s with fe := { s.fe with preempt := some { node := b.ref, tiles := [b.tile], target := target, qkey := qkey } } }

end Sys2Proof.Machine
end

