-- ==== Sys2Proof/Machine/Select.lean ====
section
/-! DEFINITION. Selection and binding (R32 to R35, R372 to R374): one pass of the distributor, the start of a job, the deadline
of a LIVE start, and the watchdog. -/

namespace Sys2Proof.Machine

/-! Priorities (R32, R372). -/

/-- The effective priority of a queue. -/
def effOf (s : State) (q : Qcb) : Nat := min (ceilOf q.cls) (q.base + (s.fab - q.since) / 2 ^ 16)

/-- Insertion into an ascending list, and the list sorted. -/
def insertNat (x : Nat) : List Nat → List Nat
  | [] => [x]
  | y :: ys => if x ≤ y then x :: y :: ys else y :: insertNat x ys

def sortNats (xs : List Nat) : List Nat := xs.foldr insertNat []

/-- The ready queues of a level in ascending order of key, circularly from after the one served last. -/
def levelQueues (s : State) (lvl : Nat) : List (Nat × Qcb) :=
  let qs := s.fe.queues.filter fun p => !p.2.ready.isEmpty && effOf s p.2 == lvl
  let sorted := sortNats (qs.map (·.1))
  let after := mget s.fe.rr lvl 0
  ((sorted.filter fun i => decide (after ≤ i)) ++ sorted.filter fun i => decide (i < after)).filterMap fun i =>
    (mget? s.fe.queues i).map (i, ·)

/-! Units (R352, R362, R365). -/

/-- Whether a reservation still holds: it ends when its node's graph is gone or FAULTED (R374). -/
def reserveLive (s : State) (r : NodeRef) : Bool := (graphOf s r.gid).any fun g => !g.faulted

/-- Whether a tile is reserved for another node. -/
def heldFor (s : State) (t : Nat) (r : NodeRef) : Bool :=
  s.fe.reserved.any fun p => p.1 == t && !sameNode p.2 r && reserveLive s p.2

/-- Whether a tile is free for a node. -/
def tileFree (s : State) (r : NodeRef) (t : Nat) : Bool :=
  (tileOf s t).job.isNone && (tileOf s t).standing.isNone && !heldFor s t r

/-- The block descriptor of a JOB node, from the stage map where it is placed by stage; none where that is no longer there. -/
def jobBlock (s : State) (g : Graph) (n : Nat) : Option Nat :=
  let n2 := nodeWord s g n 2
  if bitN n2 38 then
    match stageWord s g.ctxn (headWord g 3) (bitsN n2 37 32) with
    | some w => if bitN w 63 && blkOk (bitsN w 31 0) true then some (bitsN w 31 0) else none
    | none => none
  else some (bitsN n2 31 0)

/-- The blocks that a descriptor allows, in the order in which they are taken (R352). -/
def blockWindows (b : Nat) : List (List Nat) :=
  let n := bitsN b 18 16 + 1
  match bitsN b 31 30 with
  | 0 => [span (8 * bitsN b 28 24 + bitsN b 22 20) n]
  | 1 => [(maskBits 24 (bitsN b 23 0)).flatMap fun c => span (8 * c) 8]
  | 2 => (List.range 24).flatMap fun c => (List.range (9 - n)).map fun f => span (8 * c + f) n
  | _ => []

/-- The job of a node that has been bound before. -/
def nodeJob (s : State) (r : NodeRef) : Option (Nat × Job) := s.fe.jobs.find? fun p => p.2.gid == r.gid && p.2.node == r.node

/-- The blocks that a JOB may take: its former one where it is saved (R374). -/
def jobWindows (s : State) (g : Graph) (r : NodeRef) : List (List Nat) :=
  match nodeJob s r with
  | some (_, j) => [j.tiles]
  | none => ((jobBlock s g r.node).map blockWindows).getD [[]]

/-- The block that a JOB takes now. -/
def fitJob (s : State) (g : Graph) (r : NodeRef) : Option (List Nat) :=
  if (nodeJob s r).any fun p => !restoreRoom s p.1 then none else (jobWindows s g r).find? fun w => w.all (tileFree s r)

/-- The tile of a BIND. -/
def bindTile (s : State) (g : Graph) (n : Nat) : Nat := bitsN (nodeField s g n 2) 7 0

/-- The tile that a BIND takes now; one that does not stand for the context is taken, and fails at binding. -/
def fitBind (s : State) (g : Graph) (r : NodeRef) : Option (List Nat) :=
  let t := bindTile s g r.node
  if !standsFor s g t then some [t]
  else if s.fe.bound.any (fun b => b.kind == 1 && b.tile == t) || heldFor s t r then none
  else some [t]

/-- The die of a COPY or GATHER. -/
def moveDie (s : State) (g : Graph) (n : Nat) : Nat :=
  match g.pkt with
  | some p => p.die
  | none => bitsN (nodeWord s g n 2) 1 0

/-- The units that a node takes now. -/
def fitUnits (s : State) (g : Graph) (r : NodeRef) (kind : Nat) : Option (List Nat) :=
  match kind with
  | 0 => fitJob s g r
  | 1 => fitBind s g r
  | 2 => if copyRoom s (moveDie s g r.node) then some [] else none
  | _ => if gatherRoom s (moveDie s g r.node) then some [] else none

/-! Victims (R37, R374). -/

/-- The jobs that stand in the way on a block, where every tile of it is free or held by one that may be pre-empted. -/
def windowJobs (s : State) (r : NodeRef) (qkey : Nat) (w : List Nat) : Option (List Nat) :=
  let busy := w.filter fun t => !tileFree s r t
  if busy.all fun t => (tileOf s t).job.any (canPreempt s qkey) && !heldFor s t r then
    some (busy.filterMap fun t => (tileOf s t).job).eraseDups
  else none

/-- The victim for a JOB. Blocks of which a tile is reserved for the node already come first. -/
def jobVictim (s : State) (g : Graph) (r : NodeRef) (qkey : Nat) : Option Nat :=
  let mine (w : List Nat) : Bool := w.any fun t => s.fe.reserved.any fun p => p.1 == t && sameNode p.2 r
  let ws := (jobWindows s g r).filter fun w => !w.isEmpty
  let jobs (ws : List (List Nat)) : List Nat := ((ws.filterMap (windowJobs s r qkey)).flatMap id).eraseDups
  (firstVictim s (jobs (ws.filter mine))).or (firstVictim s (jobs ws))

/-- The victim for a BIND: the node on its tile. -/
def bindVictim (s : State) (g : Graph) (r : NodeRef) (qkey : Nat) : Option BoundNode :=
  let t := bindTile s g r.node
  s.fe.bound.find? fun b => b.kind == 1 && b.tile == t && !b.deferred && !heldFor s t r
    && decide (queueRank s b.qkey < queueRank s qkey)

/-- Whether the save of a job stays within the save area of its context, beside the saves that stand there (R392). -/
def saveFits (s : State) (no : Nat) : Bool :=
  match mget? s.fe.jobs no with
  | none => true
  | some j => !Config.saveShort j.ctxn (saveUse s no j)

/-- A pre-emption refused because the save area is too small (R392): the refusal is counted and reported, and the job is not
pre-empted before its end. -/
def refuseSave (s : State) (no : Nat) (g : Graph) (r : NodeRef) (qkey : Nat) : State :=
  let s1 := countRefusal { s with fe := { s.fe with deferred := s.fe.deferred ++ [no] } } qkey r
  offer s1 { ctxn := g.ctxn, code := causeByte .kilnTimeout, src := 6, sub := 1, stage := nodeStage s g r.node
             gaddr := BitVec.ofNat 64 g.gaddr }

/-- Pre-emption starts for a head that cannot bind, where victims exist and none is in progress. -/
def startPreempt (s : State) (g : Graph) (r : NodeRef) (qkey kind : Nat) : State :=
  if s.fe.preempt.isSome then s
  else
    match kind with
    | 0 => match jobVictim s g r qkey with
      | some no => if saveFits s no then preemptJob s no r qkey else refuseSave s no g r qkey
      | none => s
    | 1 => match bindVictim s g r qkey with
      | some b => preemptBind s b r qkey
      | none => s
    | _ => s

/-! Binding. -/

/-- The selection instant (R372): the queue moves on, the node is RUNNING, and its reservation is used. -/
def selected (s : State) (qkey lvl : Nat) (r : NodeRef) : State :=
  match mget? s.fe.queues qkey with
  | none => s
  | some q =>
    let q1 := { q with ready := q.ready.filter (fun x => !sameNode x r), sels := q.sels + 1, since := s.fab, eff := q.base }
    let fe := { s.fe with queues := mset s.fe.queues qkey q1, rr := mset s.fe.rr lvl (qkey + 1)
                          reserved := s.fe.reserved.filter fun p => !sameNode p.2 r }
    let s1 := { s with fe := fe }
    match graphOf s1 r.gid with
    | some g => putNstate s1 g r.node 2
    | none => s1

/-- The job of a JOB node, bound to a block (R351, R361). -/
def makeJob (s : State) (g : Graph) (r : NodeRef) (prio : Nat) (tiles : List Nat) : Job :=
  let w (i : Nat) : Nat := nodeWord s g r.node i
  let stage := bitsN (w 2) 37 32
  let blk := (jobBlock s g r.node).getD 0
  { ctxn := g.ctxn, qkey := g.qkey, gid := g.gid, gaddr := g.gaddr, node := r.node, prio := prio, stage := stage, tiles := tiles
    wholeClusters := bitsN blk 31 30 == 1, args := (span 6 4).map fun i => BitVec.ofNat 64 (w i), jimg := w 3, hreq := w 4
    nhreq := bitsN (w 5) 5 0, hdst := bitsN (w 5) 50 32, readySince := r.since }

/-- The sub-reason for which a job fails at binding (R356). -/
def jobFail (s : State) (j : Job) : Option Nat :=
  match readReqs s j, readJob s j.ctxn j.jimg (secIdxs j.wholeClusters j.tiles) with
  | none, _ => some 8
  | _, .error n => some n
  | _, .ok _ => none

/-- A JOB is bound to its block, or comes back to it, or fails (R356, R374). -/
def bindJob (s : State) (g : Graph) (r : NodeRef) (prio : Nat) (tiles : List Nat) : State :=
  match nodeJob s r with
  | some (no, j) => restoreJob s no j
  | none =>
    let j := makeJob s g r prio tiles
    let fail := if tiles.isEmpty then some 8 else jobFail s j
    match fail with
    | some n => bindFail s g.gid r.node n
    | none =>
      let no := s.fe.nextJob
      let s1 := { s with fe := { s.fe with jobs := mset s.fe.jobs no j, nextJob := no + 1 } }
      tiles.foldl (fun s t => setTile s t { tileOf s t with job := some no }) s1

/-- A BIND, COPY or GATHER is bound, or fails; a COPY or GATHER takes its place in the queue at once (R363, R365). -/
def bindOther (s : State) (g : Graph) (r : NodeRef) (kind prio : Nat) : State :=
  match s.fe.savedBinds.find? fun p => sameNode p.1.ref r with
  | some (b, t, casks) =>
    if standsFor s g b.tile then restoreBind s b t casks
    else bindFail { s with fe := { s.fe with savedBinds := s.fe.savedBinds.filter fun p => !sameNode p.1.ref r } } g.gid r.node 9
  | none =>
    let res := if kind = 1 then checkBind s g r prio else checkMove s g r kind prio
    match res with
    | .error n => bindFail s g.gid r.node n
    | .ok b =>
      let n := s.fe.bound.length
      let s1 := { s with fe := { s.fe with bound := s.fe.bound ++ [b] } }
      if kind = 1 then s1 else moveStep s1 n b

/-- bind of R372. -/
def bindNode (s : State) (g : Graph) (r : NodeRef) (kind prio : Nat) (units : List Nat) : State :=
  if kind = 0 then bindJob s g r prio units else bindOther s g r kind prio

/-- What a pass has found so far: the state, the unit kinds held for an earlier head, and whether it has bound a node. -/
structure Pass where
  st : State
  blocked : List Nat := []
  bound : Bool := false
  deriving DecidableEq, Repr

/-- One queue in a pass. -/
def passQueue (lvl : Nat) (p : Pass) (q : Nat × Qcb) : Pass :=
  if p.bound then p
  else
    match q.2.ready.head?, q.2.ready.head?.bind fun r => graphOf p.st r.gid with
    | some r, some g =>
      let kind := nodeKind p.st g r.node
      if p.blocked.contains kind then p
      else
        match fitUnits p.st g r kind with
        | none => { st := startPreempt p.st g r q.1 kind, blocked := kind :: p.blocked }
        | some units => { p with st := bindNode (selected p.st q.1 lvl r) g r kind lvl units, bound := true }
    | _, _ => p

/-- The levels of a pass, from 127 down. -/
def passLevels (s : State) : Pass :=
  (List.range 128).reverse.foldl (fun p lvl => if p.bound then p else (levelQueues p.st lvl).foldl (passQueue lvl) p) { st := s }

/-- The effective priority of every ready queue at a pass, as its block shows it (R348). -/
def noteEff (s : State) : State :=
  let note (p : Nat × Qcb) : Nat × Qcb := if p.2.ready.isEmpty then p else (p.1, { p.2 with eff := effOf s p.2 })
  { s with fe := { s.fe with queues := s.fe.queues.map note } }

/-- SELECTION_PASS (R372 to R374): a pre-emption in progress goes on, then the queues are served. -/
def execSelectionPass (s : State) : Out := .next (passLevels (noteEff (preemptStep s))).st

/-- JOB_START (R361). A saved job starts again when it is bound again. -/
def execJobStart (job : Nat) (s : State) : Out :=
  match mget? s.fe.jobs job with
  | none => .next s
  | some j => if j.started then .next s else .next (startJob s job j)

/-! The LIVE guarantee (R34, R374). -/

/-- The LIVE nodes that have become ready and have not started. -/
def liveWaiting (s : State) : List NodeRef :=
  (s.fe.queues.flatMap fun p => if p.2.cls = .live then p.2.ready else []) ++
    (s.fe.jobs.filter fun p => !p.2.started && queueRank s p.2.qkey == rankOf .live).map fun p =>
      { gid := p.2.gid, node := p.2.node, since := p.2.readySince }

/-- LIVE_START_DEADLINE (R34, R374): LIVE node n of those that wait has waited 40 µs; the miss is counted and reported. -/
def execLiveStartDeadline (n : Nat) (s : State) : Out :=
  match (liveWaiting s)[n]? with
  | none => .next s
  | some r =>
    if s.fab < r.since + 88000 ∨ s.fe.liveMissed.any (sameNode r) then .next s
    else
      match graphOf s r.gid with
      | none => .next s
      | some g =>
        let miss (p : Nat × Qcb) : Nat × Qcb := if p.1 = g.qkey then (p.1, { p.2 with lmiss := p.2.lmiss + 1 }) else p
        let fe := { s.fe with liveMissed := s.fe.liveMissed ++ [r], queues := s.fe.queues.map miss }
        .next (offer { s with fe := fe }
          { ctxn := g.ctxn, code := causeByte .kilnTimeout, src := 6, stage := nodeStage s g r.node, gaddr := BitVec.ofNat 64 g.gaddr })

/-! The watchdog (R35). -/

/-- The interval of a context in fabric cycles. -/
def watchdogInterval (s : State) (ctxn : Nat) : Nat :=
  let w := wf64 (ctxWord s ctxn 4) 52 48
  2 ^ (if w = 0 then 28 else w)

/-- The word that a stream would fetch. -/
def nextWord (s : State) (t : Nat) (sk : Strm) : Nat :=
  leNat (loadBytes s t sk false (scratchBase t + (strmAt s t sk).pc.toNat) 4)

/-- Whether a PIS of a stream waits for the unit of its command (R71). -/
def pisStalled (s : State) (t : Nat) (sk : Strm) (o : FormPatch) : Bool :=
  match amend (mget (strmAt s t sk).staging o.idx.toNat 0) o.sel.toNat o.value.toNat with
  | .ok x => !kindRoom s t x
  | .error _ => false

/-- Whether a stream waits at an instruction for a unit to accept its command (R35). The configuration unit has accepted the one that it
serves. -/
def acceptStalled (s : State) (t : Nat) (sk : Strm) : Bool :=
  let st := strmAt s t sk
  let cfgBusy := (tileOf s t).cfg.any fun u => u.strm != sk
  match decodeWord (nextWord s t sk) with
  | some (.pis o) => pisStalled s t sk o
  | some (.garm _) => !launchRoom s
  | some (.gset _) => !launchRoom s
  | some (.sigh _) => !launchRoom s
  | some (.emit o) => !launchRoom s || !ringRoom s (wf64 (regAt st (physReg st o.a)).val 11 0)
  | some (.cfgld _) => cfgBusy
  | some (.thaw _) => cfgBusy
  | some (.rack _) => cfgBusy
  | some (.rgo _) => cfgBusy
  | some (.kiln _) => cfgBusy
  | _ => false

/-- WATCHDOG (R35): the event is posted once, and the job stays in place. -/
def execWatchdog (t : Nat) (sk : Strm) (s : State) : Out :=
  let st := strmAt s t sk
  if !st.running || st.halted || st.watchdogPosted || st.wait == .response || !st.cmds.isEmpty || (jobOf s t).isNone
      || decide (s.fab < st.lastIssue + watchdogInterval s (ctxnOf s t)) || acceptStalled s t sk then .next s
  else
    .next (offer (setStrm s t sk { st with watchdogPosted := true }) (offerFor s t sk .watchdog 6))

end Sys2Proof.Machine
end

