-- ==== Sys2Proof/Machine/Errors.lean ====
section
/-! DEFINITION. Event records and their responses (R36, R388 to R390), and uncorrectable errors (R403 to R405). -/

namespace Sys2Proof.Machine

/-! The event queue (R388, R389). -/

def ctxOf (s : State) (ctxn : Nat) : Ctx := mget s.fe.ctxs ctxn {}

/-- The size of a context's event queue, and whether it takes one more record. -/
def eqSize (s : State) (ctxn : Nat) : Nat := 2 ^ wf64 (ctxWord s ctxn 7) 4 0

def eqRoom (s : State) (ctxn : Nat) : Bool := decide (((ctxOf s ctxn).eqPidx - (ctxOf s ctxn).eqCi).toNat < eqSize s ctxn)

/-- The words of a record (R389). -/
def recordWord (s : State) (o : Offer) (fid : BitVec 32) : List Nat :=
  [fid.toNat * 2 ^ 32 + o.src * 2 ^ 20 + (if o.inctx then 2 ^ 17 else 0) + (if o.resp then 2 ^ 16 else 0) + o.sub % 256 * 2 ^ 8
      + o.code.toNat,
   o.tag.toNat * 2 ^ 16 + o.tile % 256 * 2 ^ 8 + o.stage % 64 * 4 + sidx o.strm,
   o.die % 4 * 2 ^ 16 + o.unit % 2 ^ 16, o.addr.toNat, o.prog.toNat, o.detail.toNat, o.gaddr.toNat, s.fab % 2 ^ 40]

/-- The source of a record (R189, R389): a stream, a slot, a matrix engine, a copy or gather engine, a cluster's reuse and cask unit, the
front end for a context, a mesh port, a stream's accesses at the memory ports, or a region. -/
def sourceOf (o : Offer) : List Nat :=
  o.src :: match o.src with
    | 1 => [o.tile, o.unit]
    | 2 => [tileCluster o.tile, o.unit]
    | 3 => [o.die, o.unit]
    | 4 => [o.die, o.unit]
    | 5 => [tileCluster o.tile]
    | 6 => [o.ctxn]
    | 7 => [o.tile, o.unit]
    | 9 => [o.tile, o.unit]
    | _ => [o.tile, sidx o.strm]

/-- Whether an earlier record of the same source is still to be accepted: a source's records are accepted in order (R36, R189). -/
def offeredBefore (xs : List Offer) (o : Offer) : Bool := xs.any fun x => sourceOf x == sourceOf o

/-- A record accepted by the arbiter: it is written, then EQPIDX, then the interrupt (R388, R389). -/
def acceptRecord (s : State) (o : Offer) : State :=
  let c := ctxOf s o.ctxn
  let fid := c.eqPidx
  let base := (ctxWord s o.ctxn 6).toNat + 64 * (fid.toNat % eqSize s o.ctxn)
  let s1 := writeAt s (feAgent eventStrip) base ((recordWord s o fid).flatMap (leBytes 8))
  let s2 := writeNat s1 (feAgent eventStrip) (s.pkg.ctxbase.toNat + 256 * o.ctxn + 60) 4 (fid + 1).toNat
  let s3 := setCtx s2 o.ctxn { ctxOf s2 o.ctxn with eqPidx := fid + 1 }
  let s4 := msix s3 (ctxFn s o.ctxn) (wf64 (ctxWord s o.ctxn 7) 15 5)
  if o.resp then
    let w : WaitRec := { ctxn := o.ctxn, fid := fid, code := o.code, resume := o.addr, waiter := o.waiter }
    { s4 with fe := { s4.fe with waits := s4.fe.waits ++ [w] } }
  else s4

/-- EVENT_RECORD_WRITE (R389): offered record n. With the context's queue full its source waits; a context that does not exist
has no queue. -/
def execEventRecordWrite (n : Nat) (s : State) : Out :=
  match s.fe.offers[n]? with
  | none => .next s
  | some o =>
    if offeredBefore (s.fe.offers.take n) o then .next s
    else
      let gone := { s with fe := { s.fe with offers := ldrop s.fe.offers n } }
      if !bitN (ctxWord s o.ctxn 0).toNat 31 then .next gone
      else if eqRoom s o.ctxn then .next (acceptRecord gone o)
      else if s.fe.blockedEq.contains o.ctxn then .next s
      else .next { s with fe := { s.fe with blockedEq := s.fe.blockedEq ++ [o.ctxn] } }

/-- EVENT_QUEUE_REREAD (R388): the host's consumer index is read again for a queue on which a source waits. -/
def execEventQueueReread (ctxn : Nat) (s : State) : Out :=
  if s.fe.blockedEq.contains ctxn then
    let ci : BitVec 32 := BitVec.ofNat 32 (readNat s (ctxWord s ctxn 8).toNat 4)
    let s1 := setCtx s ctxn { ctxOf s ctxn with eqCi := ci }
    .next { s1 with fe := { s1.fe with blockedEq := s1.fe.blockedEq.filter (· != ctxn) } }
  else .next s

/-! The end of a job under TERMINATE (R390). -/

/-- A stream stops. -/
def stopStream (st : Stream) : Stream := { st with halted := true, wait := .none, overDue := [] }

/-- The front-end commands of a job that the launch queue holds are cancelled (R212, R342, R390). -/
def cancelFront (s : State) (no : Nat) (code : BitVec 8) : State :=
  let (gone, kept) := s.fe.launchq.partition (·.job == no)
  gone.foldl (fun s f => match f.kind with
    | .glnc c | .gnxt c => finish s c code 0
    | _ => s) { s with fe := { s.fe with launchq := kept } }

/-- A job ends with a fault (R390): its streams stop, its queued commands are cancelled, and what is in flight runs to its
end. The first fault is the one that it keeps. The commands of a saved job are cancelled where it comes back. -/
def terminateJob (s : State) (no : Nat) (code : BitVec 8) : State :=
  match mget? s.fe.jobs no with
  | none => s
  | some j =>
    let j1 := { j with ending := true, fault := if j.fault = 0 then code else j.fault }
    let s1 := { s with fe := { s.fe with jobs := mset s.fe.jobs no j1 } }
    let stop (s : State) (t : Nat) : State :=
      let s1 := [Strm.k, .l, .c, .w].foldl (fun s sk => abandonCfg (dropWatch s t sk) t sk) s
      updTile s1 no t fun x => { x with k := stopStream x.k, l := stopStream x.l, c := stopStream x.c, w := stopStream x.w }
    let s2 := cancelFront (j.tiles.foldl stop s1) no code
    if j.saved then s2 else cancelQueued s2 no j.tiles code

/-! Responses (R390). -/

/-- The record that a response word names for a function: one of a context whose interrupts go there. -/
def waitFor? (s : State) (fn fid : Nat) : Option WaitRec :=
  s.fe.waits.find? fun w => w.fid.toNat == fid && ctxFn s w.ctxn == fn

def dropWait (s : State) (w : WaitRec) : State := { s with fe := { s.fe with waits := s.fe.waits.erase w } }

/-- Whether a pip is the one on its way to another package from a mesh port of a job's tile. -/
def isPip (m : PipMsg) (job tile port : Nat) : Bool := m.pkg.isSome && m.job == job && m.srcTile == tile && m.srcPort == port

/-- The unit that waits goes on at its progress. -/
def resumeUnit (s : State) (w : WaitRec) : State :=
  match w.waiter with
  | .none => s
  | .trap job t sk =>
    updStrm s job t sk fun st => if st.wait = .response then { st with wait := .none, pc := w.resume, lastIssue := s.fab } else st
  | .slot t n => putSlot s t n { slotAt s t n with halt := none }
  | .copy d e =>
    match engOf s d e with
    | some r => setEng s d e { r with halt := none, before := s.mem }
    | none => s
  | .gather d e =>
    match gatherOf s d e with
    | some g => setGather s d e { g with halt := none }
    | none => s
  | .cask cl => setCluster s cl { clusterOf s cl with caskHalt := none }
  | .pip job t n =>
    { s with mesh := s.mesh.map fun m => if isPip m job t n then { m with halted := false } else m }

/-- The job or the command that waits ends with its fault. -/
def terminateUnit (s : State) (w : WaitRec) : State :=
  match w.waiter with
  | .none => s
  | .trap job t sk =>
    terminateJob (updStrm s job t sk fun st => { st with wait := .none }) job w.code
  | .slot t n =>
    match (slotAt s t n).active with
    | some a => failActive s t n a w.code (actProg a)
    | none => s
  | .copy d e =>
    match engOf s d e with
    | some r => endCopy s d e r.cmd w.code r.k
    | none => s
  | .gather d e =>
    match gatherOf s d e with
    | some g => endGather s d e g.cmd w.code (64 * gaBatch g + (maskBits 64 (gaMask g (gaBatch g))).length)
    | none => s
  | .cask cl =>
    match (clusterOf s cl).cask with
    | c :: _ => endCask s cl c w.code 0
    | [] => s
  | .pip job t n =>
    match s.mesh.find? (isPip · job t n) with
    | some m => endSender { s with mesh := s.mesh.erase m } m w.code
    | none => s

/-- RESUME (R390). A response that names no waiting record is ignored. -/
def execResume (fn fid : Nat) (s : State) : Out :=
  match waitFor? s fn fid with
  | none => .next s
  | some w => .next (resumeUnit (dropWait s w) w)

/-- TERMINATE (R390). -/
def execTerminate (fn fid : Nat) (s : State) : Out :=
  match waitFor? s fn fid with
  | none => .next s
  | some w => .next (terminateUnit (dropWait s w) w)

/-! Errors that cannot be corrected (R404, R405). -/

/-- Granules that become poisoned, counted on their die. -/
def poisonGranules (s : State) (gs : List Nat) (die : Nat) : State :=
  let new := gs.filter fun g => !s.poison.contains g
  let d := mget s.dies die {}
  { s with poison := s.poison ++ new, dies := mset s.dies die { d with uecnt := d.uecnt + BitVec.ofNat 64 new.length } }

/-- An error in memory (R404): a granule, or the whole line of HBM4. -/
def poisonAt (s : State) (p : Nat) : State :=
  if p < Config.hbmBytes then poisonGranules s (span (p / 64 * 8) 8) (dieOfAddr p)
  else if 3 * 2 ^ 54 ≤ p then poisonGranules s [p / 8] (dieOfAddr p)
  else s

/-- An error in a stream's state (R405): its job ends. -/
def poisonStream (s : State) (t : Nat) (sk : Strm) : State :=
  match (tileOf s t).job with
  | none => s
  | some no => terminateJob (offer s (offerFor s t sk .poison 0)) no (causeByte .poison)

/-- An error in a region (R405): it stops. The cell is where the error struck: an open value. -/
def poisonRegion (s : State) (t n : Nat) : State :=
  let r := regionAt s t n
  if r.state = .unconfigured then s
  else
    let (s1, w) := drawFree s
    let v := wf64 w 3 0
    offer (setRegion s1 t n { r with state := .faulted, fcell := v })
      { offerFor s1 t r.spanStrm .poison 9 with unit := n, detail := BitVec.ofNat 64 v }

/-- An error in a ring entry (R281, R286, R405): its chain is FAULTED, or the drain that reads it stops. -/
def poisonRing (s : State) (cl e ent : Nat) : State :=
  let c := clusterOf s cl
  match entryChain c e ent with
  | none => s
  | some x =>
    match (engineOf c e).drain.filter fun d => d.tile == x.tile && d.chn == x.chn && d.gen == x.gen, x.closer with
    | some d, some k => stopDrain s cl e x k .poison 0 0 d.row
    | _, _ =>
      if x.st = .faulted then s
      else
        let s1 := updChain s cl x fun y => faultChain y (causeByte .poison) 0
        sweepChains (offer s1 { offerFor s1 x.tile x.strm .poison 2 with unit := e }) cl

/-- UNCORRECTABLE_ERROR (R404, R405). -/
def execUncorrectableError (at_ : ErrorSite) (s : State) : Out :=
  match at_ with
  | .granule p => .next (poisonAt s p)
  | .stream t sk => .next (poisonStream s t sk)
  | .region t n => .next (poisonRegion s t n)
  | .ring cl e ent => .next (poisonRing s cl e ent)
  | .reuse n => .next (if (entryAt s n).kind = .free then s else dropEntry s n)
  | .queue pasid qnum =>
    .next ((queueGraphs s (queueKey pasid qnum)).foldl (fun s g => faultGraph s g (causeByte .poison) 0) s)

end Sys2Proof.Machine
end

