-- ==== Sys2Proof/Machine/HostIf.lean ====
section
/-! DEFINITION. The host's interface (R407 to R417, R422): channels and their index words, the registers of BAR0, BAR2, accesses
from other packages, and the clock. -/

namespace Sys2Proof.Machine

/-! Functions and registers (R408). -/

def fnRegs (s : State) (fn : Nat) : FnRegs := mget s.pkg.fns fn {}

def setFn (s : State) (fn : Nat) (x : FnRegs) : State := { s with pkg := { s.pkg with fns := mset s.pkg.fns fn x } }

/-- ERR of a function (R408). -/
def fnErr (s : State) (fn : Nat) : State := setFn s fn { fnRegs s fn with err := true }

/-- A context that is another function's: channels of others receive its events and none of this function does. -/
def foreignCtx (s : State) (fn : Nat) (ctxn : BitVec 12) : Bool :=
  let uses := s.fe.channels.filter fun p => p.2.mapped && p.2.ectxn == ctxn
  !uses.isEmpty && uses.all fun p => p.2.fn != fn

/-- A write that the recovery state ignores (R407, R420). -/
def hostOpen (s : State) : Bool := !s.boot.recovery

/-! Channels (R410 to R414). A channel's number here is 256 × function + block. -/

/-- An index word that fails R411 is counted and ignored. -/
def countBad (s : State) (n : Nat) : State :=
  let ch := chanOf s n
  setChan s n { ch with badcrc := if ch.badcrc = BitVec.allOnes 32 then ch.badcrc else ch.badcrc + 1 }

/-- NOTIFY (R411): packets have been written up to an index. -/
def execNotify (chan : Nat) (word : BitVec 64) (s : State) : Out :=
  let ch := chanOf s chan
  if !hostOpen s || !ch.mapped then .next s
  else
    match readIndex ch.chid word.toNat with
    | none => .next (countBad s chan)
    | some i =>
      if 2 ^ 31 ≤ (i - ch.pidx).toNat ∨ 2 ^ ch.rlog2.toNat < (i - ch.dci).toNat then .next (countBad s chan)
      else .next (setChan s chan { ch with pidx := i })

/-- Whether an index lies between HCI and CPIDX (R413). -/
def indexInside (ch : Channel) (a : BitVec 32) : Bool := decide ((a - ch.hci).toNat ≤ (ch.cpidx - ch.hci).toNat)

def countMismatch (ch : Channel) : Channel :=
  { ch with mismatch := if ch.mismatch = BitVec.allOnes 16 then ch.mismatch else ch.mismatch + 1 }

/-- A reconciliation (R413): the host's index is adopted, or the channel pauses with a CHANNEL event. -/
def reconcile (s : State) (n : Nat) : State :=
  let ch := chanOf s n
  let a := readNat s ch.hciaddr.toNat 8
  let fail :=
    offer (setChan s n { countMismatch ch with paused := true, blockedAt := none })
      { ctxn := ch.ectxn.toNat, code := causeByte .channel, src := 6, unit := ch.chid, prog := ch.hci.zeroExtend 64
        detail := BitVec.ofNat 64 a }
  if !channelSound ch then s
  else
    match readIndex ch.chid a with
    | none => fail
    | some i => if indexInside ch i then flushChan (setChan s n { ch with hci := i, blockedAt := none }) n else fail

/-- CRET (R413). -/
def execCret (chan : Nat) (word : BitVec 64) (s : State) : Out :=
  let ch := chanOf s chan
  if !hostOpen s || !ch.mapped then .next s
  else
    match readIndex ch.chid word.toNat with
    | none => .next (countBad s chan)
    | some _ => .next (reconcile s chan)

/-- RECONCILE (R413): after every 1,024 completion records, or 100 µs without space. -/
def execReconcile (chan : Nat) (s : State) : Out :=
  let ch := chanOf s chan
  if !ch.paused then
    if 1024 ≤ ch.sinceRecon then .next (reconcile (setChan s chan { ch with sinceRecon := ch.sinceRecon - 1024 }) chan)
    else if ch.blockedAt.any fun t => decide (t + 220000 ≤ s.fab) then .next (reconcile s chan)
    else .next s
  else .next s

/-- A resynchronisation of a paused channel (R414). -/
def resync (s : State) (n : Nat) (pn : PktNode) (p : Packet) : State :=
  let ch := chanOf s n
  let c : BitVec 32 := BitVec.ofNat 32 (pkWord p 1)
  if pkFields p false false false [(1, 2 ^ 32 - 1)] && pkQnum p == 0 && readIndex ch.chid (readNat s ch.hciaddr.toNat 8) == some c
      && indexInside ch c then
    completion (setChan s n { ch with hci := c, paused := false, blockedAt := none }) { pn with cmpl := true } 0
  else setChan s n (countMismatch ch)

/-- CHANNEL_RESYNC (R414). -/
def execChannelResync (chan : Nat) (s : State) : Out :=
  runPacket s chan (fun k => k == 9) fun s pn p =>
    if (chanOf s chan).paused then some (resync s chan pn p)
    else if pkFields p false false false [(1, 2 ^ 32 - 1)] then some (completion s pn 0)
    else some (completion s pn 6)

/-! Contexts and translations (R408, R409). -/

/-- The checks of words c0 to c20 of a descriptor (R409). -/
def descOk (w : List Word) : Bool :=
  let n (i : Nat) : Nat := (w.getD i 0).toNat
  let wdog := bitsN (n 4) 52 48
  !(decide (1 ≤ wdog) && decide (wdog ≤ 19)) && decide (4 ≤ bitsN (n 7) 4 0) && decide (bitsN (n 7) 4 0 ≤ 16) &&
  decide (4 ≤ bitsN (n 10) 4 0) && decide (bitsN (n 10) 4 0 ≤ 20) && decide (bitsN (n 0) 27 16 ≤ 4096) &&
  bitsN (n 0) 29 28 == 0 && bitsN (n 4) 63 53 == 0 && bitsN (n 7) 31 16 == 0 && bitsN (n 10) 15 5 == 0 &&
  [12, 13, 14, 15].all (fun i => n i == 0) && n 2 % 2 ^ 20 == 0 && localOk (n 2) && n 3 % 64 == 0 && localOk (n 3) &&
  n 6 % 64 == 0 && n 9 % 32 == 0

/-- The context's reuse entries are scrubbed when it stops being VALID (R428). -/
def scrubContext (s : State) (ctxn : Nat) : State :=
  ((s.reuse.filter fun p => p.2.kind != .free && p.2.ctxn.toNat == ctxn).map (·.1)).foldl dropEntry s

/-- A descriptor takes effect; the indices and totals that the device keeps stay (R388). -/
def adoptCtx (s : State) (ctxn : Nat) (w : List Word) : State :=
  let s1 := if bitN (w.getD 0 0).toNat 31 then s else scrubContext s ctxn
  setCtx s1 ctxn { ctxOf s1 ctxn with words := w }

/-- CTXREQ (R408, R409): GO makes the device check and re-read a descriptor. A context of another function sets ERR alone. -/
def execCtxreq (fn : Nat) (ctxn : BitVec 12) (s : State) : Out :=
  if !hostOpen s then .next s
  else if foreignCtx s fn ctxn then .next (setFn s fn { fnRegs s fn with ctxreqErr := true })
  else
      let r := { fnRegs s fn with ctxreqCtxn := ctxn }
      let w := wordsOf 21 (readAt s (s.pkg.ctxbase.toNat + 256 * ctxn.toNat) 168)
      if descOk w then .next (adoptCtx (setFn s fn { r with ctxreqErr := false }) ctxn.toNat w)
      else .next (setFn s fn { r with ctxreqErr := true })

/-- The kind of an invalidation (R384); a kind that R384 does not give removes nothing. -/
def invKind (k : BitVec 3) : Option TlbiKind :=
  match k.toNat with
  | 0 => some .l2page
  | 1 => some .vpage
  | 2 => some .all
  | _ => none

/-- A request of INVREQ made with an address: once every access that used what it names has been performed it removes it, as TLBI does, and
GO reads 0; until then GO reads 1 (R384, R408). -/
def invalidate (s : State) (fn : Nat) (r : FnRegs) (a : Word) : State :=
  match invKind r.invreqKind with
  | none => setFn s fn { r with invreqWait := none }
  | some k =>
    if tlbiPending s r.invreqCtxn.toNat k a then setFn s fn { r with invreqWait := some a }
    else tlbiDrop (setFn s fn { r with invreqWait := none }) r.invreqCtxn.toNat k a

/-- Whether a function's INVREQ waits with a request (R408). -/
def invreqOpen (r : FnRegs) (ctxn : BitVec 12) (kind : BitVec 3) : Bool :=
  r.invreqWait.isSome && r.invreqCtxn == ctxn && r.invreqKind == kind

/-- INVREQ (R408): as TLBI of a context. A context of another function sets ERR alone. The request that waits goes on; DESIGN CHOICE
(assumption 123): no other is taken meanwhile. -/
def execInvreq (fn : Nat) (ctxn : BitVec 12) (kind : BitVec 3) (s : State) : Out :=
  let r := fnRegs s fn
  if !hostOpen s then .next s
  else if invreqOpen r ctxn kind then .next (invalidate s fn r (r.invreqWait.getD 0))
  else if foreignCtx s fn ctxn then .next (setFn s fn { r with invreqErr := true })
  else if r.invreqWait.isSome then .next s
  else .next (invalidate s fn { r with invreqCtxn := ctxn, invreqKind := kind, invreqErr := false } r.invaddr)

/-- A request of INVREQ that waits is tried again (R408). -/
def retryInvreq (fn : Nat) (s : State) : Out := execInvreq fn (fnRegs s fn).invreqCtxn (fnRegs s fn).invreqKind s

/-- CHMAP (R408): a package channel is mapped to a block. -/
def execChmap (fn : Nat) (value : BitVec 64) (s : State) : Out :=
  if !hostOpen s then .next s
  else if fn ≠ 0 then .next (fnErr s fn)
  else
    let chid := wf64 value 11 0
    let f := wf64 value 16 12
    let i := wf64 value 24 17
    let s1 := { s with pkg := { s.pkg with chmap := value &&& 0x1FFFFFF } }
    if !value.getLsbD 31 then .next s1
    else
      let drop (p : Nat × Channel) : Nat × Channel := if p.2.mapped && p.2.chid == chid then (p.1, { p.2 with mapped := false }) else p
      let s2 := { s1 with fe := { s1.fe with channels := s1.fe.channels.map drop } }
      .next (setChan s2 (256 * f + i) { chanOf s2 (256 * f + i) with chid := chid, fn := f, block := i, mapped := true })

/-! The queue table (R347, R348). -/

/-- The block of a queue as the table holds it. -/
def qcbWords (s : State) (key : Nat) (q : Qcb) : List Nat :=
  let cls := 3 - rankOf q.cls
  let gs := s.fe.graphs.filter fun g => g.qkey == key
  let own := s.fe.feReady.filter fun r => gs.any fun g => g.gid == r.gid
  [2 ^ 62 + keyPasid key * 2 ^ 36 + keyQnum key * 2 ^ 20 + q.ctxn, q.base * 2 ^ 56 + q.eff * 2 ^ 48 + cls * 2 ^ 40 + q.since % 2 ^ 40,
   q.hsig.toNat, (if q.sigint then 2 ^ 15 else 0) + q.vec, (gs.head?.map (·.gaddr)).getD 0, q.tailg,
   q.lmiss % 2 ^ 32 * 2 ^ 32 + q.ready.length + own.length, gs.length * 2 ^ 32 + q.sels % 2 ^ 32]

/-- The blocks written back to the table: a TOMBSTONE holds its state alone. -/
def writeBackQcbs (s : State) : State :=
  s.fe.qslots.foldl (fun s p =>
    let ws := match p.2 with
      | none => [2 ^ 63, 0, 0, 0, 0, 0, 0, 0]
      | some key => ((mget? s.fe.queues key).map (qcbWords s key)).getD []
    writeAt s (feAgent channelStrip) (s.pkg.qtbase.toNat + 64 * p.1) (ws.flatMap (leBytes 8))) s

/-- The slots of the table as the driver left it. -/
def readQslots (s : State) : FMap (Option Nat) :=
  (List.range (2 ^ s.pkg.qtS.toNat)).filterMap fun i =>
    let q0 := readNat s (s.pkg.qtbase.toNat + 64 * i) 8
    match bitsN q0 63 62 with
    | 1 => some (i, some (queueKey (bitsN q0 55 36) (bitsN q0 35 20)))
    | 2 => some (i, none)
    | _ => none

/-- QTCTL_PAUSE (R347): the channels pause and the cache is written back; when they go on, the table is read again. -/
def execQtctlPause (fn : Nat) (pause : Bool) (s : State) : Out :=
  if !hostOpen s then .next s
  else if fn ≠ 0 then .next (fnErr s fn)
  else if pause then
    let s1 := if s.pkg.pause then s else writeBackQcbs s
    .next { s1 with pkg := { s1.pkg with pause := true, pauseDone := true } }
  else
    let fe := if s.pkg.pause then { s.fe with qslots := readQslots s } else s.fe
    .next { s with fe := fe, pkg := { s.pkg with pause := false, pauseDone := false } }

/-! The clock (R422). -/

/-- CLKREQ (R422): a multiple of 100 from 1,100 to 3,300; any other value is ignored. -/
def execClkreq (fn : Nat) (mhz : BitVec 12) (s : State) : Out :=
  if !hostOpen s then .next s
  else if fn ≠ 0 then .next (fnErr s fn)
  else if mhz.toNat % 100 = 0 ∧ 1100 ≤ mhz.toNat ∧ mhz.toNat ≤ 3300 then .next { s with pkg := { s.pkg with clkreq := mhz } }
  else .next s

/-- CLOCK_SWITCH (R422): the requested clock takes effect; while CAPPED the clock does not rise. -/
def execClockSwitch (s : State) : Out :=
  let want := if s.pkg.capped ∧ s.pkg.clkcur.toNat < s.pkg.clkreq.toNat then s.pkg.clkcur else s.pkg.clkreq
  .next { s with pkg := { s.pkg with clkcur := want } }

/-- POWER_LIMIT (R422). -/
def execPowerLimit (limit : Nat) (s : State) : Out := .next { s with pkg := { s.pkg with limit := some limit } }

/-- CLOCK_CAP_STEP (R422): the draw is an open value. Above the limit the clock drops by 100 MHz, not below 1,100; below it, it
rises again towards CLKREQ. -/
def execClockCapStep (s : State) : Out :=
  match s.pkg.limit with
  | none => .next s
  | some l =>
    let (s1, draw) := drawFree s
    let now := s1.pkg.clkcur.toNat
    if l < draw.toNat then
      .next { s1 with pkg := { s1.pkg with clkcur := BitVec.ofNat 12 (max 1100 (now - 100)), capped := true } }
    else if s1.pkg.capped && decide (draw.toNat < l) then
      let up := min s1.pkg.clkreq.toNat (now + 100)
      .next { s1 with pkg := { s1.pkg with clkcur := BitVec.ofNat 12 up, capped := decide (up < s1.pkg.clkreq.toNat) } }
    else .next s1

/-! Plain registers (R408, R410). -/

/-- An address word of a channel block. While EN is set, a value outside the range of R410 is not used: the word keeps its own.
DEDUCED (assumption 141). -/
def channelAddr (ch ch1 : Channel) : Channel := if ch.en && !channelSound ch1 then ch else ch1

/-- A write of word i of a channel block; the words and bits that R410 marks RO, WO or reserved keep theirs. -/
def channelWord (ch : Channel) (i : Nat) (v : Word) : Channel :=
  match i with
  | 0 => channelAddr ch { ch with rbase := v }
  | 1 =>
    let c1 := { ch with pasid := BitVec.ofNat 20 (wf64 v 63 44), ectxn := BitVec.ofNat 12 (wf64 v 43 32)
                        clog2 := BitVec.ofNat 5 (wf64 v 9 5), rlog2 := BitVec.ofNat 5 (wf64 v 4 0) }
    { c1 with en := v.getLsbD 31 && channelSound c1 }
  | 2 => channelAddr ch { ch with cbase := v }
  | 3 => channelAddr ch { ch with dciaddr := v }
  | 4 => channelAddr ch { ch with cpiaddr := v }
  | 5 => channelAddr ch { ch with hciaddr := v }
  | 8 => { ch with cien := v.getLsbD 11, cvec := BitVec.ofNat 11 (wf64 v 10 0) }
  | _ => ch

/-- A die's counter written: 0 clears it (R408). -/
def clearCounter (s : State) (d : Nat) (ue : Bool) (v : Word) : State :=
  let x := dieOf s d
  setDie s d (if ue then { x with uecnt := v } else { x with cecnt := v })

/-- A write of word i of block b of a function. NOTIFY and CRET are index words (R410, R411); an ECTXN that is another function's sets
ERR alone (R408). -/
def blockWrite (fn b i : Nat) (v : Word) (s : State) : Out :=
  let n := 256 * fn + b
  if i = 6 then execNotify n v s
  else if i = 7 then execCret n v s
  else if i = 1 && foreignCtx s fn (BitVec.ofNat 12 (wf64 v 43 32)) then .next (fnErr s fn)
  else .next (setChan s n { channelWord (chanOf s n) i v with fn := fn, block := b })

/-- A write to a package register of the PF with no behaviour of its own (R408, R409). A value outside the range that the register
states, a table base outside HBM or a WIN that is no multiple of 4 GiB, is ignored. DEDUCED (assumption 142). -/
def packageWrite (s : State) (off : Nat) (v : Word) : State :=
  let p := s.pkg
  let table (q : PkgRegs) : State := if localOk v.toNat then { s with pkg := q } else s
  if off = 0x10000 then table { p with ctxbase := v }
  else if off = 0x10008 then table { p with qtbase := v }
  else if off = 0x10010 then
    if 10 ≤ wf64 v 4 0 ∧ wf64 v 4 0 ≤ 17 then
      { s with pkg := { p with qtS := BitVec.ofNat 5 (wf64 v 4 0), qtHseed := BitVec.ofNat 28 (wf64 v 59 32) } }
    else s
  else if off = 0x10020 then table { p with rtbase := v }
  else if 0x10048 ≤ off ∧ off < 0x10068 then clearCounter s ((off - 0x10048) / 8) false v
  else if 0x10068 ≤ off ∧ off < 0x10088 then clearCounter s ((off - 0x10068) / 8) true v
  else if 0x10100 ≤ off ∧ off < 0x10200 then
    let f := (off - 0x10100) / 8
    if v.toNat % 2 ^ 32 = 0 then setFn s f { fnRegs s f with win := v } else s
  else s

/-- A write to the staging mailbox in the recovery state (R420). -/
def mailboxWrite (s : State) (off : Nat) (v : Word) : State :=
  let old := s.boot.mailbox ++ List.replicate (65536 - s.boot.mailbox.length) 0
  let new := old.take off ++ leBytes 8 v.toNat ++ old.drop (off + 8)
  { s with boot := { s.boot with mailbox := new.take 65536 } }

/-- A write of CTXREQ: GO makes the request, and a write without it sets CTXN and ERR (R408). -/
def ctxreqWrite (fn : Nat) (v : Word) (s : State) : Out :=
  let c := BitVec.ofNat 12 (wf64 v 11 0)
  if v.getLsbD 31 then execCtxreq fn c s
  else if foreignCtx s fn c then .next (setFn s fn { fnRegs s fn with ctxreqErr := true })
  else .next (setFn s fn { fnRegs s fn with ctxreqCtxn := c, ctxreqErr := v.getLsbD 30 })

/-- A write of INVREQ (R408). -/
def invreqWrite (fn : Nat) (v : Word) (s : State) : Out :=
  let c := BitVec.ofNat 12 (wf64 v 11 0)
  let kind := BitVec.ofNat 3 (wf64 v 14 12)
  if v.getLsbD 31 then execInvreq fn c kind s
  else if foreignCtx s fn c then .next (setFn s fn { fnRegs s fn with invreqErr := true })
  else if (fnRegs s fn).invreqWait.isSome then .next s
  else .next (setFn s fn { fnRegs s fn with invreqCtxn := c, invreqKind := kind, invreqErr := v.getLsbD 30 })

/-- A write of FRESP (R390, R408): ACT 0 and 3 are ignored. -/
def frespWrite (fn : Nat) (v : Word) (s : State) : Out :=
  match wf64 v 33 32 with
  | 1 => execResume fn (wf64 v 31 0) s
  | 2 => execTerminate fn (wf64 v 31 0) s
  | _ => .next s

/-- A write to a package register (R408): those that act have a meaning of their own. -/
def pkgRegWrite (fn off : Nat) (v : Word) (s : State) : Out :=
  if fn ≠ 0 then .next (fnErr s fn)
  else if off = 0x10018 then execQtctlPause fn (v.getLsbD 0) s
  else if off = 0x10028 then execChmap fn v s
  else if off = 0x10038 then execClkreq fn (BitVec.ofNat 12 (wf64 v 11 0)) s
  else .next (packageWrite s off v)

/-! Accesses that carry a physical address (R176, R417). -/

/-- The agent of an access from outside: a MESH agent on the die whose memory it reaches (R176). -/
def outsideAgent (p : Nat) (scope : Scope) : Agent := { tile := 0x100 + dieOfAddr p, strm := .k, path := .mesh, scope := scope }

/-- A write from outside at a physical address; rmw tells that of an atomic, which continues release sequences (R176, R182). The versions
of the entries whose watched regions it changes are raised (R302). -/
def outsideWrite (s : State) (p : Nat) (scope : Scope) (bs : List Byte) (rmw : Bool := false) : State :=
  writeAt (raiseSpan s (changedBy s p bs) none true) { outsideAgent p scope with rmw := rmw } p bs

/-- The poisoned granules that a span touches, each counted on its die (R417). -/
def countPoisoned (s : State) (p n : Nat) : State :=
  (poisonIn s p n).foldl (fun s g =>
    let d := dieOf s (dieOfAddr (8 * g))
    setDie s (dieOfAddr (8 * g)) { d with uecnt := d.uecnt + 1 }) s

/-- Whether an access lies in BAR2's window of 4 GiB (R407). DESIGN CHOICE (assumption 172): one that does not has no effect. -/
def inBar2 (off n : Nat) : Bool := decide (off + n ≤ 2 ^ 32)

/-- BAR2_READ (R407, R417): the poisoned granules are counted, and the completion tells of them. -/
def execBar2Read (fn off len : Nat) (s : State) : Out :=
  let p := (fnRegs s fn).win.toNat + off
  if !s.boot.ready || !inBar2 off len then .next s
  else if Config.hbmBytes < p + len then .fault (.noSuchMemory p)
  else
    let s1 := countPoisoned s p len
    .next { s1 with out := s1.out ++ [.readData fn (readAt s p len) (spanPoisoned s p len)] }

/-- BAR2_WRITE (R407, R417). -/
def execBar2Write (fn off : Nat) (bytes : List (BitVec 8)) (s : State) : Out :=
  let p := (fnRegs s fn).win.toNat + off
  if !s.boot.ready || !inBar2 off bytes.length then .next s
  else if Config.hbmBytes < p + bytes.length then .fault (.noSuchMemory p)
  else .next (outsideWrite s p .system bytes)

/-- INCOMING_READ (R176, R417). -/
def execIncomingRead (src off len : Nat) (s : State) : Out :=
  if !s.boot.ready then .next s
  else if Config.hbmBytes < off + len then .fault (.noSuchMemory off)
  else .next { s with out := s.out ++ [.readData src (readAt s off len) (spanPoisoned s off len)] }

/-- An operation from another package applied at its port with scope DOMAIN (R172, R176): the old value and the new state. -/
def outsideApply (s : State) (off : Nat) (kind : PortKind) : State :=
  match portNew kind (readNat s off (portBytes kind)) with
  | some x => outsideWrite s off .domain (leBytes (portBytes kind) x) true
  | none => s

/-- The pip that a write from another package carries waits for its mesh port as any pip does (R216, R218, R416). -/
def incomingPip (s : State) (src tile port ctxn : Nat) (payload : Option Line) : State :=
  let m : PipMsg := { job := 0, srcTile := src, srcPort := 0, dstTile := tile, dstPort := port, remote := true
                      pip := { ctxn := ctxn, payload := payload } }
  { s with mesh := s.mesh ++ [m] }

/-- The operation of a reduction from another package (R339, R416). -/
def linkReduction (bf16 : Bool) (v : BitVec 32) (rm : BitVec 3) (u : BitVec 32) : PortKind :=
  if bf16 then .fadd16 (v.truncate 16) rm u else .fadd32 v rm u

/-- INCOMING_WRITE (R176, R416, R417): bytes are published at DOMAIN, a pip goes to its mesh port, and a reduction is applied at its
port. off is an offset in HBM, or the tile of a pip. A reduction on a poisoned line fails, and the response says so (R173). -/
def execIncomingWrite (src off : Nat) (w : LinkWrite) (s : State) : Out :=
  if !s.boot.ready then .next s
  else
    match w with
    | .mem bytes =>
      if Config.hbmBytes < off + bytes.length then .fault (.noSuchMemory off) else .next (outsideWrite s off .domain bytes)
    | .pip port ctxn payload => .next (incomingPip s src off port ctxn payload)
    | .reduce bf16 v rm u =>
      let kind := linkReduction bf16 v rm u
      if Config.hbmBytes < off + portBytes kind then .fault (.noSuchMemory off)
      else if spanPoisoned s (lineOf off * 64) 64 then .next { s with out := s.out ++ [.readData src [] true] }
      else .next (outsideApply s off kind)

/-- INCOMING_ATOMIC (R172, R173, R176): applied at its port with scope DOMAIN. On a poisoned line it fails, and the response
says so. -/
def execIncomingAtomic (src off : Nat) (op : AtomicOp) (wide : Bool) (v c : BitVec 64) (s : State) : Out :=
  let kind : PortKind := .atomic op (!wide) v c
  let n := portBytes kind
  if !s.boot.ready then .next s
  else if Config.hbmBytes < off + n then .fault (.noSuchMemory off)
  else if spanPoisoned s (lineOf off * 64) 64 then .next { s with out := s.out ++ [.readData src (List.replicate n 0) true] }
  else
    let s1 := outsideApply s off kind
    .next { s1 with out := s1.out ++ [.readData src (leBytes n (readNat s off n)) false] }

/-! Requests to other packages (R416). -/

/-- Whether an engine's access reaches another package. -/
def reachesRemote (s : State) (w : Who) (a n : Nat) (write : Bool) : Bool :=
  match engSegs s w a n write false with
  | .ok segs => segs.any fun g => g.phys / 2 ^ 54 == 2
  | .error _ => false

/-- A unit with an access to another package before it: a slot, a copy engine, a row of a gather, a cluster's cask unit, or an SPIP with a
pip on its way. -/
inductive RemoteUnit where
  | slot (tile n : Nat)
  | copy (die e : Nat)
  | gather (die e row : Nat)
  | cask (cluster : Nat)
  | pip (n : Nat)
  deriving DecidableEq, Repr

/-- The slots whose next element lies in another package, with its address. -/
def remoteSlots (s : State) : List (RemoteUnit × Nat) :=
  s.tiles.flatMap fun p => p.2.slots.filterMap fun q =>
    match q.2.active, q.2.halt with
    | some a, none =>
      match actElement a a.k with
      | .acc x =>
        if reachesRemote s (whoOf a.cmd .stream) x (actElem a) (subWrites (cmdSub a.cmd)) then some (RemoteUnit.slot p.1 q.1, x) else none
      | _ => none
    | _, _ => none

/-- The copies whose next read or write lies in another package. -/
def remoteCopies (s : State) : List (RemoteUnit × Nat) :=
  s.dies.flatMap fun p => p.2.copyEng.filterMap fun q =>
    let r := q.2
    let w := engWho r.cmd .copy p.1 q.1
    let src := match recSource r.src r.k with
      | .read a => if !r.src.isEmpty && reachesRemote s w a (recElem r.src) false then some a else none
      | _ => none
    let dst := match recDest r.dst r.k with
      | .write a => if reachesRemote s w a (recElem r.dst) true then some a else none
      | _ => none
    if r.checked && r.halt.isNone && decide (r.k < copyCount r) then (src.or dst).map fun a => (RemoteUnit.copy p.1 q.1, a) else none

/-- The accesses that the reads of row j of a gather land with: the row of the table that its entry names, or of the default, and for an
SCTR its row of DATA, each with its length and whether it writes (R338, R339). -/
def rowAccesses (g : GatherRun) (d : List Word) (j : Nat) (x : Option Nat) : List (Nat × Nat × Bool) :=
  match cmdSub g.cmd, x with
  | 1, some x => [(tableRow d x, tdRowBytes d, true), (dataRow g.cmd.tmpl j, tdRowBytes d, false)]
  | 1, none => []
  | _, some x => [(tableRow d x, tdRowBytes d, false)]
  | _, none => if tdMode d = 1 then [(tdDef d, tdRowBytes d, false)] else []

/-- The accesses of the gathers that reach another package: of the index entry to be read next, of the rows whose reads are on their way,
and of those to be written. -/
def remoteGathers (s : State) : List (RemoteUnit × Nat) :=
  s.dies.flatMap fun p => p.2.gatherEng.flatMap fun q =>
    let g := q.2
    match g.halt, g.desc with
    | none, some d =>
      let entries := (if gaGoes s g then (nextRow g).toList else []).map fun j => (j, entryAddr g.cmd.tmpl j, gaEntry g.cmd.tmpl, false)
      let reads := g.reads.flatMap fun r => (rowAccesses g d r.1 r.2).map (r.1, ·)
      let writes := g.rows.map fun r => (r.1, dataRow g.cmd.tmpl r.1, tdRowBytes d, true)
      (entries ++ reads ++ writes).filterMap fun (j, a, n, wr) =>
        if reachesRemote s (engWho g.cmd .gather p.1 q.1) a n wr then some (RemoteUnit.gather p.1 q.1 j, a) else none
    | _, _ => []

/-- The accesses of a cask command: its blocks and its step's bins (R314, R316, R317). -/
def caskAccesses (c : Cmd) (e : REntry) : List (Nat × Nat × Bool) :=
  let b := binOf e (ckStep c)
  let i := 64 * e.ibin.toNat
  let o := 64 * e.obin.toNat
  match cmdSub c with
  | 0 => [(ckIaddr c.tmpl, i, false), (binIn e b, i, false)]
  | 1 => (binOut e b, o, false) :: (if ckTgt c.tmpl then [] else [(ckOaddr c.tmpl, o, true)])
  | _ => [(ckIaddr c.tmpl, i, false), (ckOaddr c.tmpl, o, false), (binIn e b, i, true), (binOut e b, o, true)]

/-- The accesses of the first command of each cask unit that reach another package. -/
def remoteCasks (s : State) : List (RemoteUnit × Nat) :=
  s.clusters.flatMap fun p =>
    match p.2.caskHalt, p.2.cask with
    | none, c :: _ =>
      (caskAccesses c (entryAt s (ckRent c.tmpl))).filterMap fun (a, n, wr) =>
        if reachesRemote s (reuseWho c) a n wr then some (RemoteUnit.cask p.1, a) else none
    | _, _ => []

/-- The pips on their way to another package. -/
def remotePips (s : State) : List (RemoteUnit × Nat) :=
  s.mesh.zipIdx.filterMap fun (m, n) => if m.pkg.isSome && !m.halted then some (RemoteUnit.pip n, 0) else none

/-- The requests to other packages that units have before them. -/
def remoteRequests (s : State) : List (RemoteUnit × Nat) :=
  remoteSlots s ++ remoteCopies s ++ remoteGathers s ++ remoteCasks s ++ remotePips s

/-- A pip that gets no response (R416): its SPIP reports POISON and waits. -/
def pipTimeout (s : State) (n : Nat) : State :=
  match s.mesh[n]? with
  | none => s
  | some m =>
    let wait (o : Offer) : Offer := { o with resp := true, waiter := .pip m.job m.srcTile m.srcPort }
    (senderOffer s m .poison).elim s fun o => offer { s with mesh := lset s.mesh n { m with halted := true } } (wait o)

/-- The access that gets no response is one of a line of another package which a unit makes in this cycle: of the front end, of a reuse
unit, of layout records, or of any other (R416). Which line is open. -/
def lostAccess (s : State) : State :=
  let (s1, w) := drawFree s
  { s1 with pkg := { s1.pkg with linkLost := some (s.fab, 2 ^ 49 + w.toNat % 2 ^ 48) } }

/-- REMOTE_TIMEOUT (R416): request n gets no response, of those that units have before them, or else one that a unit makes in this cycle.
A read returns poison and a write reports POISON: either way the unit halts with POISON at that element and waits for a response, where it
is one that waits. -/
def execRemoteTimeout (n : Nat) (s : State) : Out :=
  match (remoteRequests s)[n]? with
  | some (.slot t k, a) =>
    match (slotAt s t k).active with
    | some x => .next (slotStop s t k x (.fault .poison 0 a 0))
    | none => .next s
  | some (.copy d e, a) =>
    match engOf s d e with
    | some r => .next (copyStop s d e r { cause := .poison, addr := a })
    | none => .next s
  | some (.gather d e j, a) =>
    match gatherOf s d e with
    | some g => .next (gatherHalt s d e (dropRow g j) .poison 0 a)
    | none => .next s
  | some (.cask cl, a) =>
    match (clusterOf s cl).cask with
    | c :: _ => .next (caskFault s cl c a (.poison a))
    | [] => .next s
  | some (.pip k, _) => .next (pipTimeout s k)
  | none => .next (lostAccess s)

end Sys2Proof.Machine
end

