-- ==== Sys2Proof/Machine/Boot.lean ====
section
/-! DEFINITION. Boot, recovery and attestation (R418 to R421). -/

namespace Sys2Proof.Machine

/-! Firmware images (R419). -/

def imgField (img : List Byte) (lo n : Nat) : List Byte := (img.drop lo).take n
def imgSvn (img : List Byte) : Nat := leNat (imgField img 4 4)
def imgBody (img : List Byte) : List Byte := img.drop 256

/-- Whether the header of an image has its form, and its body the size that it names. -/
def imgForm (img : List Byte) : Bool :=
  decide (256 ≤ img.length) && leNat (imgField img 0 4) == 0x4B544657 && leNat (imgField img 8 4) == (imgBody img).length
    && decide ((imgBody img).length ≤ 32 * 2 ^ 20) && (imgField img 12 52).all (· == 0) && (imgField img 192 64).all (· == 0)

/-- Whether the key of an image is the one of the ROM and its signature verifies. -/
def imgSigned (img : List Byte) : Bool :=
  let key := imgField img 64 64
  Config.sha256 key == Config.rootKeyHash &&
    Config.ecdsaVerify key (Config.sha256 (img.take 128 ++ imgBody img)) (imgField img 128 64)

/-- An image is valid (R419). -/
def imgValid (img : List Byte) (counter : Nat) : Bool := imgForm img && imgSigned img && decide (counter ≤ imgSvn img)

/-! Boot (R418). -/

/-- The recovery state with a reason (R418 to R420). -/
def toRecovery (b : Boot) (reason : Nat) : Boot := { b with recovery := true, ready := false, reason := BitVec.ofNat 8 reason, measFw := 0 }

/-- A boot from a valid image (R418). -/
def bootFrom (b : Boot) (img : List Byte) (slotB : Bool) : Boot :=
  { b with ready := true, bootB := slotB, measFw := Config.sha256 img, measStrip := Config.sha256 Config.straps
           counter := BitVec.ofNat 32 (max b.counter.toNat (imgSvn img)) }

/-- The boot sequence of R418 over what the module keeps. -/
def bootSeq (b0 : Boot) : Boot :=
  let b : Boot := { slotA := b0.slotA, slotB := b0.slotB, counter := b0.counter, sealOk := b0.sealOk
                    measRom := Config.sha256 Config.romImage }
  if !b.sealOk then toRecovery b 2
  else if imgValid b.slotA b.counter.toNat then bootFrom b b.slotA false
  else
    let b1 := { b with afail := true }
    if imgValid b1.slotB b1.counter.toNat then bootFrom b1 b1.slotB true else toRecovery b1 1

/-- The machine after a module reset, up to the end of boot. What the model keeps for itself goes on. -/
def afterReset (s : State) : State :=
  { State.reset with boot := bootSeq s.boot, free := s.free, agenda := s.agenda, curTile := s.curTile, curStrm := s.curStrm
                     out := s.out }

/-- MODULE_RESET (R418). -/
def execModuleReset (s : State) : Out := .next (afterReset s)

/-! The recovery commands (R420). -/

def recStatus (s : State) (code : Nat) : State := { s with boot := { s.boot with cmdStatus := BitVec.ofNat 8 code } }

/-- A recovery command: outside the recovery state the window ignores it, and one written while BUSY is ignored with status
4. -/
def recovery (s : State) (f : State → State) : Out :=
  if !s.boot.recovery then .next s else if s.boot.busy then .next (recStatus s 4) else .next (f s)

/-- APPEND (R420). -/
def execAppend (len : BitVec 16) (s : State) : Out :=
  recovery s fun s =>
    let box := s.boot.mailbox ++ List.replicate (65536 - s.boot.mailbox.length) 0
    let new := s.boot.staged ++ box.take len.toNat
    if 256 + 32 * 2 ^ 20 < new.length then recStatus s 3 else recStatus { s with boot := { s.boot with staged := new } } 0

/-- The status of a COMMIT of the staged image (R419, R420). -/
def commitStatus (b : Boot) : Nat :=
  if b.staged.isEmpty then 4
  else if 32 * 2 ^ 20 < (imgBody b.staged).length then 3
  else if !(imgForm b.staged && imgSigned b.staged) then 1
  else if imgSvn b.staged < b.counter.toNat then 2
  else 0

/-- COMMIT (R420): a sound image goes to slot A, and the module resets. -/
def execCommit (s : State) : Out :=
  recovery s fun s =>
    let b := s.boot
    if commitStatus b ≠ 0 then recStatus s (commitStatus b)
    else
      let counter := if b.reason = 2 then BitVec.ofNat 32 (imgSvn b.staged) else b.counter
      afterReset { s with boot := { b with slotA := b.staged, counter := counter, sealOk := true } }

/-- ABORT (R420). -/
def execAbort (s : State) : Out := recovery s fun s => recStatus { s with boot := { s.boot with staged := [] } } 0

/-! The registers of BAR0 (R407, R408, R420). -/

/-- A write of RCMD in the recovery window (R420): the command that it gives, and nothing where it gives none. -/
def rcmdWrite (v : Word) (s : State) : Out :=
  match wf64 v 3 0 with
  | 1 => execAppend (BitVec.ofNat 16 (wf64 v 31 16)) s
  | 2 => execCommit s
  | 3 => execAbort s
  | _ => .next s

/-- REGISTER_WRITE (R407, R408): a 64-bit write at a multiple of 8 of BAR0. Before boot is over it reaches the recovery window alone, and
that as the PF (R420). -/
def execRegisterWrite (fn off : Nat) (value : BitVec 64) (s : State) : Out :=
  if !hostOpen s then
    if fn ≠ 0 then .next s
    else if 0x30000 ≤ off ∧ off < 0x40000 then .next (mailboxWrite s ((off - 0x30000) / 8 * 8) value)
    else if off = 0x20008 then rcmdWrite value s
    else .next s
  else if off % 8 ≠ 0 then .next s
  else if off = 0x0008 then frespWrite fn value s
  else if off = 0x0010 then ctxreqWrite fn value s
  else if off = 0x0018 then invreqWrite fn value s
  else if off = 0x0020 then .next (setFn s fn { fnRegs s fn with invaddr := value })
  else if 0x8000 ≤ off ∧ off < 0x10000 then blockWrite fn ((off - 0x8000) / 128) ((off - 0x8000) % 128 / 8) value s
  else if 0x10000 ≤ off then pkgRegWrite fn off value s
  else .next s

/-! Attestation (R421). Response codes are those of SPDM 1.2. -/

def spdmOut (s : State) (code : Nat) (payload : List Byte) : State := { s with out := s.out ++ [.spdm code payload] }

/-- A request out of sequence gets the ERROR response. -/
def spdmIf (s : State) (ok : Bool) (f : State → State) : Out := if ok then .next (f s) else .next (spdmOut s 0x7F [4])

/-- Whether version, capabilities and algorithms have been settled. -/
def spdmReady (s : State) : Bool := s.boot.spdmVersion && s.boot.spdmCaps && s.boot.spdmAlgs

/-- GET_VERSION (R421): version 1.2, and the sequence begins again. -/
def execGetVersion (s : State) : Out :=
  .next (spdmOut { s with boot := { s.boot with spdmVersion := true, spdmCaps := false, spdmAlgs := false } } 0x04 [0x12])

/-- GET_CAPABILITIES (R421): certificates, challenge and signed measurements. -/
def execGetCapabilities (s : State) : Out :=
  spdmIf s s.boot.spdmVersion fun s => spdmOut { s with boot := { s.boot with spdmCaps := true } } 0x61 [0x16]

/-- NEGOTIATE_ALGORITHMS (R421): ECDSA P-256 and SHA-256 alone. -/
def execNegotiateAlgorithms (ecdsaP256 sha256 : Bool) (s : State) : Out :=
  spdmIf s (s.boot.spdmCaps && ecdsaP256 && sha256) fun s => spdmOut { s with boot := { s.boot with spdmAlgs := true } } 0x63 [1, 1]

def digestBytes (d : BitVec 256) : List Byte := leBytes 32 d.toNat

/-- GET_DIGESTS (R421): the digest of the chain in slot 0. -/
def execGetDigests (s : State) : Out :=
  spdmIf s (spdmReady s) fun s => spdmOut s 0x01 (digestBytes (Config.sha256 Config.certChain))

/-- GET_CERTIFICATE (R421): a portion of the chain in slot 0. -/
def execGetCertificate (slot off len : Nat) (s : State) : Out :=
  spdmIf s (spdmReady s && slot == 0) fun s => spdmOut s 0x02 ((Config.certChain.drop off).take len)

/-- A response that is signed with the identity key, over the request's nonce, a nonce of the device and a body. -/
def signedOut (s : State) (code : Nat) (nonce : BitVec 256) (body : List Byte) : State :=
  let text := digestBytes nonce ++ digestBytes (Config.nonceOf s.free) ++ body
  spdmOut { s with free := s.free + 1 } code (text ++ Config.attestSign text)

/-- CHALLENGE (R421). -/
def execChallenge (nonce : BitVec 256) (s : State) : Out :=
  spdmIf s (spdmReady s) fun s => signedOut s 0x03 nonce (digestBytes (Config.sha256 Config.certChain))

/-- A measurement block (R421). -/
def measBlock (b : Boot) (n : Nat) : List Byte :=
  match n with
  | 1 => digestBytes b.measRom
  | 2 => digestBytes b.measFw
  | 3 => digestBytes b.measStrip
  | 4 => (if b.bootB then 1 else 0) :: leBytes 4 b.counter.toNat
  | _ => []

/-- GET_MEASUREMENTS (R421): one block, or all of them for 0xFF. -/
def execGetMeasurements (block : Nat) (nonce : BitVec 256) (s : State) : Out :=
  spdmIf s (spdmReady s && ((decide (1 ≤ block) && decide (block ≤ 4)) || block == 0xFF)) fun s =>
    signedOut s 0x60 nonce (if block = 0xFF then (span 1 4).flatMap (measBlock s.boot) else measBlock s.boot block)

end Sys2Proof.Machine
end

