-- ==== Sys2Proof/Machine/Float.lean ====
section
/-! DEFINITION. The scalar floating-point instructions (R137 to R139). -/

namespace Sys2Proof.Machine

/-- A rounding instruction of two sources: its result lands after a fixed latency, its flags are added to ss.fe, and under
SR it takes one word of the generator (R129, R137, R139). -/
def fp2 (f : FloatFmt → Nat → Nat → Val → Val → Nat × FFlags) (o : FormF2) (s : State) : Out :=
  issue s do
    let st := cur s
    let a ← readSrc st o.a o.ta
    let b ← readSrc st o.b o.tb
    tokensReady st o.tk
    destReady st o.d
    let fm := fmtOf o.fmt
    let (x, fl) := f fm (feRm st) (scalarSr s st) (fdecode fm (fmtBits o.fmt a)) (fdecode fm (fmtBits o.fmt b))
    let st1 := setFlags (stepSr (popBits st o.tk)) fl
    .ok (retire (setCur s (landLater st1 o.d (BitVec.ofNat 64 x) .fixed)) o.tk .seq)

/-- FFMA's shape: the old destination is the third source (R56). -/
def fp3 (f : FloatFmt → Nat → Nat → Val → Val → Val → Nat × FFlags) (o : FormF2) (s : State) : Out :=
  issue s do
    let st := cur s
    let a ← readSrc st o.a o.ta
    let b ← readSrc st o.b o.tb
    let d ← readSrc st o.d false
    tokensReady st o.tk
    destReady st o.d
    let fm := fmtOf o.fmt
    let v (w : Word) := fdecode fm (fmtBits o.fmt w)
    let (x, fl) := f fm (feRm st) (scalarSr s st) (v a) (v b) (v d)
    let st1 := setFlags (stepSr (popBits st o.tk)) fl
    .ok (retire (setCur s (landLater st1 o.d (BitVec.ofNat 64 x) .fixed)) o.tk .seq)

/-- An instruction of two sources that rounds nothing and sets no flag: FMIN, FMAX and FCMP (R137). -/
def fpCode2 (f : FloatFmt → Nat → Nat → Nat) (o : FormF2) (s : State) : Out :=
  issue s do
    let st := cur s
    let a ← readSrc st o.a o.ta
    let b ← readSrc st o.b o.tb
    tokensReady st o.tk
    destReady st o.d
    let x := f (fmtOf o.fmt) (fmtBits o.fmt a) (fmtBits o.fmt b)
    .ok (retire (setCur s (landLater (popBits st o.tk) o.d (BitVec.ofNat 64 x) .fixed)) o.tk .seq)

/-- FABS and FNEG: their results land after one cycle (R129, R137). -/
def fpCode1 (f : FloatFmt → Nat → Nat) (o : FormF1) (s : State) : Out :=
  issue s do
    let st := cur s
    let a ← readSrc st o.a o.ta
    tokensReady st o.tk
    destReady st o.d
    let x := f (fmtOf o.fmt) (fmtBits o.fmt a)
    .ok (retire (setCur s (putReg (popBits st o.tk) o.d (BitVec.ofNat 64 x))) o.tk .seq)

/-- FRCP and FRSQ (R137). -/
def fp1 (f : FloatFmt → Nat → Nat → Val → Nat × FFlags) (o : FormF1) (s : State) : Out :=
  issue s do
    let st := cur s
    let a ← readSrc st o.a o.ta
    tokensReady st o.tk
    destReady st o.d
    let fm := fmtOf o.fmt
    let (x, fl) := f fm (feRm st) (scalarSr s st) (fdecode fm (fmtBits o.fmt a))
    let st1 := setFlags (stepSr (popBits st o.tk)) fl
    .ok (retire (setCur s (landLater st1 o.d (BitVec.ofNat 64 x) .fixed)) o.tk .seq)

/-- FADD (R137). -/
def execFadd (o : FormF2) (s : State) : Out := fp2 faddOf o s

/-- FSUB (R137): a NaN stays a NaN, so negating the second operand keeps every case. -/
def execFsub (o : FormF2) (s : State) : Out := fp2 (fun f rm u x y => faddOf f rm u x (vneg y)) o s

/-- FMUL (R137). -/
def execFmul (o : FormF2) (s : State) : Out := fp2 fmulOf o s

/-- FFMA (R137). -/
def execFfma (o : FormF2) (s : State) : Out := fp3 ffmaOf o s

/-- FMIN (R137). -/
def execFmin (o : FormF2) (s : State) : Out := fpCode2 (fun f a b => fpick f fless a b) o s

/-- FMAX (R137). -/
def execFmax (o : FormF2) (s : State) : Out := fpCode2 (fun f a b => fpick f (fun x y => fless y x) a b) o s

/-- FABS (R137). -/
def execFabs (o : FormF1) (s : State) : Out := fpCode1 fabsCode o s

/-- FNEG (R137). -/
def execFneg (o : FormF1) (s : State) : Out := fpCode1 fnegCode o s

/-- FCMP (R137). -/
def execFcmp (o : FormF2) (s : State) : Out := fpCode2 (fun f a b => fcmpCode (fdecode f a) (fdecode f b)) o s

/-- FCVT (R138). -/
def execFcvt (o : FormFCvt) (s : State) : Out :=
  issue s do
    let st := cur s
    let a ← readSrc st o.a o.ta
    tokensReady st o.tk
    destReady st o.d
    let (x, fl) := cvtWrite o.dst (feRm st) (scalarSr s st) (cvtRead o.src a)
    let st1 := setFlags (stepSr (popBits st o.tk)) fl
    .ok (retire (setCur s (landLater st1 o.d x .fixed)) o.tk .seq)

/-- FRCP (R137). -/
def execFrcp (o : FormF1) (s : State) : Out := fp1 frcpOf o s

/-- FRSQ (R137). -/
def execFrsq (o : FormF1) (s : State) : Out := fp1 frsqOf o s

end Sys2Proof.Machine
end

