-- ==== Sys2Proof/Machine/Flow.lean ====
section
/-! DEFINITION. Branches, jumps and hardware loops (R146 to R153). -/

namespace Sys2Proof.Machine

/-- Whether a target lies outside the body of an active loop (R151). -/
def leavesLoop (l : LoopRegs) (target : Word) : Bool :=
  l.act && (decide (target.toNat < l.start.toNat) || decide (l.last.toNat < target.toNat))

/-- A taken branch or jump clears the ACT bit of each active loop that its target leaves; in the trap context it clears
none (R151, R378). -/
def clearActs (st : Stream) (target : Word) : Stream :=
  if st.tctx then st
  else
    let a := if leavesLoop st.lca target then { st.lca with act := false } else st.lca
    let b := if leavesLoop st.lcb target then { st.lcb with act := false } else st.lcb
    { st with lca := a, lcb := b }

/-- A conditional branch (R146). -/
def branch (cond : Word → Word → Bool) (o : FormB) (s : State) : Out :=
  issue s do
    let st := cur s
    let a ← readSrc st o.a o.ta
    let b ← readSrc st o.b o.tb
    tokensReady st o.tk
    let st1 := popBits st o.tk
    let target := st.pc + o.off.signExtend 64 * 4
    if cond a b then .ok (retire (setCur s (clearActs st1 target)) o.tk (.jump target))
    else .ok (retire (setCur s st1) o.tk .seq)

/-- BEQ (R146). -/
def execBeq (o : FormB) (s : State) : Out := branch (fun a b => a == b) o s

/-- BNE (R146). -/
def execBne (o : FormB) (s : State) : Out := branch (fun a b => a != b) o s

/-- BLT (R146): signed. -/
def execBlt (o : FormB) (s : State) : Out := branch (fun a b => decide (a.toInt < b.toInt)) o s

/-- BGE (R146): signed. -/
def execBge (o : FormB) (s : State) : Out := branch (fun a b => decide (b.toInt ≤ a.toInt)) o s

/-- BLO (R146): unsigned. -/
def execBlo (o : FormB) (s : State) : Out := branch (fun a b => decide (a.toNat < b.toNat)) o s

/-- BHS (R146): unsigned. -/
def execBhs (o : FormB) (s : State) : Out := branch (fun a b => decide (b.toNat ≤ a.toNat)) o s

/-- J (R147). -/
def execJ (o : FormJ) (s : State) : Out :=
  issue s do
    let st := cur s
    tokensReady st o.tk
    let target := st.pc + o.off.signExtend 64 * 4
    .ok (retire (setCur s (clearActs (popBits st o.tk) target)) o.tk (.jump target))

/-- JL (R147): the link goes to g15; no ACT bit is cleared (R151). -/
def execJl (o : FormJ) (s : State) : Out :=
  issue s do
    let st := cur s
    tokensReady st o.tk
    destReady st 15
    .ok (retire (setCur s (putReg (popBits st o.tk) 15 (st.pc + 4))) o.tk (.jump (st.pc + o.off.signExtend 64 * 4)))

/-- JI (R147). -/
def execJi (o : FormAJ) (s : State) : Out :=
  issue s do
    let st := cur s
    let a ← readSrc st o.a o.ta
    tokensReady st o.tk
    .ok (retire (setCur s (clearActs (popBits st o.tk) a)) o.tk (.jump a))

/-- JLI (R147): the target is read before the link is written; no ACT bit is cleared (R151). -/
def execJli (o : FormA1) (s : State) : Out :=
  issue s do
    let st := cur s
    let a ← readSrc st o.a o.ta
    tokensReady st o.tk
    destReady st o.d
    .ok (retire (setCur s (putReg (popBits st o.tk) o.d (st.pc + 4))) o.tk (.jump a))

/-- The registers of loop lca or lcb. -/
def loopOf (st : Stream) (lcb : Bool) : LoopRegs := if lcb then st.lcb else st.lca

def withLoop (st : Stream) (lcb : Bool) (l : LoopRegs) : Stream := if lcb then { st with lcb := l } else { st with lca := l }

/-- The loop that a LOOP sets up (R149): a count of 0, or an empty body, leaves it inactive. -/
def loopSetup (pc : Word) (n : BitVec 32) (off : Nat) : LoopRegs :=
  let none := decide (n = 0 ∨ off = 0)
  { start := (pc + 4).truncate 20, last := (pc + BitVec.ofNat 64 (4 * off)).truncate 20, idx := 0,
    cnt := if none then 0 else n, act := !none }

/-- LOOP (R149): the body follows, or is skipped. A LOOP that goes on at the following word sets no ss.pc of its own, so an active loop
that ends at it counts its pass; one that skips its body goes where it says (R150). -/
def execLoop (o : FormLoop) (s : State) : Out :=
  issue s do
    let st := cur s
    let a ← readSrc st o.a false
    tokensReady st o.tk
    let l := loopSetup st.pc (a.truncate 32) o.off.toNat
    let flow : Flow := if l.act || o.off == 0 then .seq else .jump (st.pc + BitVec.ofNat 64 (4 * o.off.toNat) + 4)
    .ok (retire (setCur s (withLoop (popBits st o.tk) o.lcb l)) o.tk flow)

/-- BRLOOP's effect on the loop and on RRB (R152). -/
def brloopStep (st : Stream) (lcb : Bool) : Stream :=
  let l := loopOf st lcb
  let c := if l.cnt = 0 then l.cnt else l.cnt - 1
  { withLoop st lcb { l with cnt := c, idx := l.idx + 1 } with rrb := st.rrb - 1 }

/-- BRLOOP (R152): one indivisible step. -/
def execBrloop (o : FormBrLoop) (s : State) : Out :=
  issue s do
    let st := cur s
    tokensReady st o.tk
    let s1 := setCur s (brloopStep (popBits st o.tk) o.lcb)
    if 1 < (loopOf st o.lcb).cnt.toNat then .ok (retire s1 o.tk (.jump (st.pc + o.off.signExtend 64 * 4)))
    else .ok (retire s1 o.tk .seq)

/-- RRBS (R153). -/
def execRrbs (o : FormRrbs) (s : State) : Out :=
  issue s do
    let st := cur s
    tokensReady st o.tk
    .ok (retire (setCur s { popBits st o.tk with rrb := o.n }) o.tk .seq)

end Sys2Proof.Machine
end

