-- ==== Sys2Proof/Machine/Yield.lean ====
section
/-! DEFINITION. Which streams are ready (R29), and YLD, which waits for those of its tile that were (R386). -/

namespace Sys2Proof.Machine

/-- Whether the configuration unit holds up no instruction of a stream (R253): it takes the stream's, or has done with it. -/
def cfgReady (s : State) (t : Nat) (sk : Strm) : Bool :=
  match (tileOf s t).cfg with
  | some u => u.strm == sk && u.settle.all u.settled.contains
  | none => cfgTakes s t sk

/-- Whether what an instruction needs is there (R29). A PIS needs the tokens of its template; QPEEK needs a held word where it does not
trap, a WAITW that waits needs a test that has held (R160, R163), TASKW needs the end of what it waits for (R289), and a division waits on
the landing of the one before it (R130). -/
def needsMet (s : State) (t : Nat) (sk : Strm) (i : Instr) : Bool :=
  let st := strmAt s t sk
  needsHeld st (needsOf i) && (!usesCfg i || cfgReady s t sk)
    && (match i with
      | .pis o =>
        match amend (mget st.staging o.idx.toNat 0) o.sel.toNat o.value.toNat with
        | .ok x => (tokensReady st (BitVec.ofNat 4 (tf x 11 8)) matches .ok _)
        | .error _ => true
      | .qpeek o =>
        let q := qreg st o.q.toNat
        !q.held.isEmpty || o.t || freeOwed q == 0
      | .waitw _ => (watchOf s t sk).all (·.got.isSome)
      | .taskw o =>
        let a := (regAt st (physReg st o.a)).val
        taskwOver s t a (taskwOf st a)
      | .div _ | .divz _ | .rem _ | .remz _ => divisionsLanded st
      | _ => true)

/-- Whether a stream is ready: it may issue, and its next instruction waits for nothing (R29). A word that cannot be fetched or that
decodes to nothing traps at once. -/
def readyNow (s : State) (t : Nat) (sk : Strm) : Bool :=
  canIssue (strmAt s t sk) && (nextInstr s t sk).all (needsMet s t sk)

/-- The streams of a tile that YLD waits for: those that were ready when it issued, with what each had issued (R386). -/
def yldOthers (s : State) (t : Nat) (sk : Strm) : List (Strm × Nat) :=
  ([Strm.k, Strm.l, Strm.c, Strm.w].filter fun j => j != sk && readyNow s t j).map
    fun j => (j, (strmAt s t j).issued)

/-- YLD (R386): the stream becomes not ready until each of the others has issued or 4 core cycles have passed. -/
def execYld (o : FormS0) (s : State) : Out :=
  issue s do
    let st := cur s
    tokensReady st o.tk
    let others := yldOthers s s.curTile s.curStrm
    let s1 := retire (setCur s (popBits st o.tk)) o.tk .seq
    .ok (if (cur s1).wait = .none then setCur s1 { cur s1 with wait := .yld s.core others } else s1)

/-- YLD_EXPIRY (R386). -/
def execYldExpiry (t : Nat) (sk : Strm) (s : State) : Out :=
  let st := strmAt s t sk
  match st.wait with
  | .yld since others =>
    if decide (since + 4 ≤ s.core) || others.all (fun (j, n) => decide (n < (strmAt s t j).issued)) then
      .next (setStrm s t sk { st with wait := .none })
    else .next s
  | _ => .next s

end Sys2Proof.Machine
end

