-- ==== Sys2Proof/Machine/Dispatch.lean ====
section
/-! DEFINITION. One arm per constructor of Instr: each calls the meaning of its instruction. -/

namespace Sys2Proof.Machine

/-- The meaning of an instruction or of an event (spec/opcode_table.json). -/
def exec (i : Instr) (s : State) : Host.Outcome State Fault Refusal :=
  match i with
  | .add o => Sys2Proof.Machine.execAdd o s
  | .sub o => Sys2Proof.Machine.execSub o s
  | .and o => Sys2Proof.Machine.execAnd o s
  | .or o => Sys2Proof.Machine.execOr o s
  | .xor o => Sys2Proof.Machine.execXor o s
  | .andn o => Sys2Proof.Machine.execAndn o s
  | .shl o => Sys2Proof.Machine.execShl o s
  | .shr o => Sys2Proof.Machine.execShr o s
  | .sar o => Sys2Proof.Machine.execSar o s
  | .rot o => Sys2Proof.Machine.execRot o s
  | .mul o => Sys2Proof.Machine.execMul o s
  | .mulh o => Sys2Proof.Machine.execMulh o s
  | .mulhz o => Sys2Proof.Machine.execMulhz o s
  | .div o => Sys2Proof.Machine.execDiv o s
  | .divz o => Sys2Proof.Machine.execDivz o s
  | .rem o => Sys2Proof.Machine.execRem o s
  | .remz o => Sys2Proof.Machine.execRemz o s
  | .min o => Sys2Proof.Machine.execMin o s
  | .max o => Sys2Proof.Machine.execMax o s
  | .minz o => Sys2Proof.Machine.execMinz o s
  | .maxz o => Sys2Proof.Machine.execMaxz o s
  | .slt o => Sys2Proof.Machine.execSlt o s
  | .sltz o => Sys2Proof.Machine.execSltz o s
  | .seq o => Sys2Proof.Machine.execSeq o s
  | .sel o => Sys2Proof.Machine.execSel o s
  | .clz o => Sys2Proof.Machine.execClz o s
  | .popc o => Sys2Proof.Machine.execPopc o s
  | .bext o => Sys2Proof.Machine.execBext o s
  | .bins o => Sys2Proof.Machine.execBins o s
  | .addw o => Sys2Proof.Machine.execAddw o s
  | .lea o => Sys2Proof.Machine.execLea o s
  | .leas o => Sys2Proof.Machine.execLeas o s
  | .ji o => Sys2Proof.Machine.execJi o s
  | .jli o => Sys2Proof.Machine.execJli o s
  | .fadd o => Sys2Proof.Machine.execFadd o s
  | .fsub o => Sys2Proof.Machine.execFsub o s
  | .fmul o => Sys2Proof.Machine.execFmul o s
  | .ffma o => Sys2Proof.Machine.execFfma o s
  | .fmin o => Sys2Proof.Machine.execFmin o s
  | .fmax o => Sys2Proof.Machine.execFmax o s
  | .fabs o => Sys2Proof.Machine.execFabs o s
  | .fneg o => Sys2Proof.Machine.execFneg o s
  | .fcmp o => Sys2Proof.Machine.execFcmp o s
  | .fcvt o => Sys2Proof.Machine.execFcvt o s
  | .frcp o => Sys2Proof.Machine.execFrcp o s
  | .frsq o => Sys2Proof.Machine.execFrsq o s
  | .addi o => Sys2Proof.Machine.execAddi o s
  | .andi o => Sys2Proof.Machine.execAndi o s
  | .ori o => Sys2Proof.Machine.execOri o s
  | .xori o => Sys2Proof.Machine.execXori o s
  | .shli o => Sys2Proof.Machine.execShli o s
  | .shri o => Sys2Proof.Machine.execShri o s
  | .sari o => Sys2Proof.Machine.execSari o s
  | .slti o => Sys2Proof.Machine.execSlti o s
  | .ldb o => Sys2Proof.Machine.execLdb o s
  | .ldbz o => Sys2Proof.Machine.execLdbz o s
  | .ldh o => Sys2Proof.Machine.execLdh o s
  | .ldhz o => Sys2Proof.Machine.execLdhz o s
  | .ldw o => Sys2Proof.Machine.execLdw o s
  | .ldwz o => Sys2Proof.Machine.execLdwz o s
  | .ldd o => Sys2Proof.Machine.execLdd o s
  | .stb o => Sys2Proof.Machine.execStb o s
  | .sth o => Sys2Proof.Machine.execSth o s
  | .stw o => Sys2Proof.Machine.execStw o s
  | .std o => Sys2Proof.Machine.execStd o s
  | .lih o => Sys2Proof.Machine.execLih o s
  | .beq o => Sys2Proof.Machine.execBeq o s
  | .bne o => Sys2Proof.Machine.execBne o s
  | .blt o => Sys2Proof.Machine.execBlt o s
  | .bge o => Sys2Proof.Machine.execBge o s
  | .blo o => Sys2Proof.Machine.execBlo o s
  | .bhs o => Sys2Proof.Machine.execBhs o s
  | .j o => Sys2Proof.Machine.execJ o s
  | .jl o => Sys2Proof.Machine.execJl o s
  | .loop o => Sys2Proof.Machine.execLoop o s
  | .brloop o => Sys2Proof.Machine.execBrloop o s
  | .qpop o => Sys2Proof.Machine.execQpop o s
  | .qpeek o => Sys2Proof.Machine.execQpeek o s
  | .qpush o => Sys2Proof.Machine.execQpush o s
  | .qcnt o => Sys2Proof.Machine.execQcnt o s
  | .tkw o => Sys2Proof.Machine.execTkw o s
  | .tks o => Sys2Proof.Machine.execTks o s
  | .rdvz o => Sys2Proof.Machine.execRdvz o s
  | .rendezvousComplete block tile => Sys2Proof.Machine.execRendezvousComplete block tile s
  | .phase o => Sys2Proof.Machine.execPhase o s
  | .fencx o => Sys2Proof.Machine.execFencx o s
  | .waitw o => Sys2Proof.Machine.execWaitw o s
  | .hgive o => Sys2Proof.Machine.execHgive o s
  | .htake o => Sys2Proof.Machine.execHtake o s
  | .hqry o => Sys2Proof.Machine.execHqry o s
  | .aadd o => Sys2Proof.Machine.execAadd o s
  | .amin o => Sys2Proof.Machine.execAmin o s
  | .amax o => Sys2Proof.Machine.execAmax o s
  | .aminz o => Sys2Proof.Machine.execAminz o s
  | .amaxz o => Sys2Proof.Machine.execAmaxz o s
  | .aand o => Sys2Proof.Machine.execAand o s
  | .aor o => Sys2Proof.Machine.execAor o s
  | .axor o => Sys2Proof.Machine.execAxor o s
  | .axch o => Sys2Proof.Machine.execAxch o s
  | .acas o => Sys2Proof.Machine.execAcas o s
  | .ared o => Sys2Proof.Machine.execAred o s
  | .atomicPortApply n => Sys2Proof.Machine.execAtomicPortApply n s
  | .nearLoadLanding tile strm n => Sys2Proof.Machine.execNearLoadLanding tile strm n s
  | .divisionLands tile strm n => Sys2Proof.Machine.execDivisionLands tile strm n s
  | .trap o => Sys2Proof.Machine.execTrap o s
  | .eret o => Sys2Proof.Machine.execEret o s
  | .ssrd o => Sys2Proof.Machine.execSsrd o s
  | .sswr o => Sys2Proof.Machine.execSswr o s
  | .sleep o => Sys2Proof.Machine.execSleep o s
  | .sleepExpiry tile strm => Sys2Proof.Machine.execSleepExpiry tile strm s
  | .halt o => Sys2Proof.Machine.execHalt o s
  | .yld o => Sys2Proof.Machine.execYld o s
  | .tlbi o => Sys2Proof.Machine.execTlbi o s
  | .ireg o => Sys2Proof.Machine.execIreg o s
  | .brk o => Sys2Proof.Machine.execBrk o s
  | .rrbs o => Sys2Proof.Machine.execRrbs o s
  | .timerCompare tile strm => Sys2Proof.Machine.execTimerCompare tile strm s
  | .intr tile strm => Sys2Proof.Machine.execIntr tile strm s
  | .oclm o => Sys2Proof.Machine.execOclm o s
  | .orel o => Sys2Proof.Machine.execOrel o s
  | .epil o => Sys2Proof.Machine.execEpil o s
  | .accd o => Sys2Proof.Machine.execAccd o s
  | .taskw o => Sys2Proof.Machine.execTaskw o s
  | .rbind o => Sys2Proof.Machine.execRbind o s
  | .rfree o => Sys2Proof.Machine.execRfree o s
  | .rinv o => Sys2Proof.Machine.execRinv o s
  | .rqry o => Sys2Proof.Machine.execRqry o s
  | .rcnt o => Sys2Proof.Machine.execRcnt o s
  | .cfgld o => Sys2Proof.Machine.execCfgld o s
  | .cfgq o => Sys2Proof.Machine.execCfgq o s
  | .rack o => Sys2Proof.Machine.execRack o s
  | .kiln o => Sys2Proof.Machine.execKiln o s
  | .thaw o => Sys2Proof.Machine.execThaw o s
  | .rgo o => Sys2Proof.Machine.execRgo o s
  | .garm o => Sys2Proof.Machine.execGarm o s
  | .gset o => Sys2Proof.Machine.execGset o s
  | .emit o => Sys2Proof.Machine.execEmit o s
  | .sigh o => Sys2Proof.Machine.execSigh o s
  | .tbld o => Sys2Proof.Machine.execTbld o s
  | .tbsv o => Sys2Proof.Machine.execTbsv o s
  | .phd o => Sys2Proof.Machine.execPhd o s
  | .pis o => Sys2Proof.Machine.execPis o s
  | .commandCompletion n => Sys2Proof.Machine.execCommandCompletion n s
  | .replyArrival n => Sys2Proof.Machine.execReplyArrival n s
  | .slotCommandStart tile slot => Sys2Proof.Machine.execSlotCommandStart tile slot s
  | .sld tile slot => Sys2Proof.Machine.execSld tile slot s
  | .sst tile slot => Sys2Proof.Machine.execSst tile slot s
  | .sidx tile slot => Sys2Proof.Machine.execSidx tile slot s
  | .ssct tile slot => Sys2Proof.Machine.execSsct tile slot s
  | .srec tile slot => Sys2Proof.Machine.execSrec tile slot s
  | .scon tile slot => Sys2Proof.Machine.execScon tile slot s
  | .smcl tile slot => Sys2Proof.Machine.execSmcl tile slot s
  | .scmp tile slot => Sys2Proof.Machine.execScmp tile slot s
  | .sbar tile n => Sys2Proof.Machine.execSbar tile n s
  | .scls tile slot => Sys2Proof.Machine.execScls tile slot s
  | .swt tile n => Sys2Proof.Machine.execSwt tile n s
  | .spip tile mport => Sys2Proof.Machine.execSpip tile mport s
  | .sprv tile mport => Sys2Proof.Machine.execSprv tile mport s
  | .pipArrival n => Sys2Proof.Machine.execPipArrival n s
  | .sectionSquash tile region sec => Sys2Proof.Machine.execSectionSquash tile region sec s
  | .sectionCommit tile region => Sys2Proof.Machine.execSectionCommit tile region s
  | .groupFire tile region group => Sys2Proof.Machine.execGroupFire tile region group s
  | .formatMarkerTake tile region group input => Sys2Proof.Machine.execFormatMarkerTake tile region group input s
  | .endOfStream tile region group => Sys2Proof.Machine.execEndOfStream tile region group s
  | .converterConvert tile region cell => Sys2Proof.Machine.execConverterConvert tile region cell s
  | .settleReport tile region => Sys2Proof.Machine.execSettleReport tile region s
  | .kilnWaveComplete tile region => Sys2Proof.Machine.execKilnWaveComplete tile region s
  | .kilnTimeout tile region => Sys2Proof.Machine.execKilnTimeout tile region s
  | .mmd cluster engine => Sys2Proof.Machine.execMmd cluster engine s
  | .mms cluster engine => Sys2Proof.Machine.execMms cluster engine s
  | .mmg cluster engine => Sys2Proof.Machine.execMmg cluster engine s
  | .mmdl cluster engine => Sys2Proof.Machine.execMmdl cluster engine s
  | .taskDispatch cluster => Sys2Proof.Machine.execTaskDispatch cluster s
  | .taskStart cluster engine => Sys2Proof.Machine.execTaskStart cluster engine s
  | .taskComplete cluster engine => Sys2Proof.Machine.execTaskComplete cluster engine s
  | .epilogueDrain cluster engine => Sys2Proof.Machine.execEpilogueDrain cluster engine s
  | .drainComplete cluster engine => Sys2Proof.Machine.execDrainComplete cluster engine s
  | .mmdlWriteback cluster n => Sys2Proof.Machine.execMmdlWriteback cluster n s
  | .cpy die engine => Sys2Proof.Machine.execCpy die engine s
  | .cpyw die engine => Sys2Proof.Machine.execCpyw die engine s
  | .cfil die engine => Sys2Proof.Machine.execCfil die engine s
  | .lrchk die engine => Sys2Proof.Machine.execLrchk die engine s
  | .gthr die engine => Sys2Proof.Machine.execGthr die engine s
  | .sctr die engine => Sys2Proof.Machine.execSctr die engine s
  | .caskq cluster => Sys2Proof.Machine.execCaskq cluster s
  | .caskrp cluster => Sys2Proof.Machine.execCaskrp cluster s
  | .caskcp cluster => Sys2Proof.Machine.execCaskcp cluster s
  | .glnc n => Sys2Proof.Machine.execGlnc n s
  | .gnxt n => Sys2Proof.Machine.execGnxt n s
  | .garmApply n => Sys2Proof.Machine.execGarmApply n s
  | .gsetApply n => Sys2Proof.Machine.execGsetApply n s
  | .emitApply n => Sys2Proof.Machine.execEmitApply n s
  | .sighApply n => Sys2Proof.Machine.execSighApply n s
  | .ringCoalesceTimeout ring => Sys2Proof.Machine.execRingCoalesceTimeout ring s
  | .ringFullReread ring => Sys2Proof.Machine.execRingFullReread ring s
  | .launchGraph chan => Sys2Proof.Machine.execLaunchGraph chan s
  | .bind chan => Sys2Proof.Machine.execBind chan s
  | .configRegion chan => Sys2Proof.Machine.execConfigRegion chan s
  | .copy chan => Sys2Proof.Machine.execCopy chan s
  | .signal chan => Sys2Proof.Machine.execSignal chan s
  | .wait chan => Sys2Proof.Machine.execWait chan s
  | .queueCreate chan => Sys2Proof.Machine.execQueueCreate chan s
  | .queueDestroy chan => Sys2Proof.Machine.execQueueDestroy chan s
  | .channelResync chan => Sys2Proof.Machine.execChannelResync chan s
  | .selectionPass => Sys2Proof.Machine.execSelectionPass s
  | .jobStart job => Sys2Proof.Machine.execJobStart job s
  | .jobComplete job => Sys2Proof.Machine.execJobComplete job s
  | .bindNode n => Sys2Proof.Machine.execBindNode n s
  | .copyNode n => Sys2Proof.Machine.execCopyNode n s
  | .gatherNode n => Sys2Proof.Machine.execGatherNode n s
  | .cond n => Sys2Proof.Machine.execCond n s
  | .host n => Sys2Proof.Machine.execHost n s
  | .rearm n => Sys2Proof.Machine.execRearm n s
  | .graphComplete n => Sys2Proof.Machine.execGraphComplete n s
  | .watchdog tile strm => Sys2Proof.Machine.execWatchdog tile strm s
  | .eventRecordWrite n => Sys2Proof.Machine.execEventRecordWrite n s
  | .resume fn fid => Sys2Proof.Machine.execResume fn fid s
  | .terminate fn fid => Sys2Proof.Machine.execTerminate fn fid s
  | .pageWalk req => Sys2Proof.Machine.execPageWalk req s
  | .collapse n => Sys2Proof.Machine.execCollapse n s
  | .scrubPass die => Sys2Proof.Machine.execScrubPass die s
  | .uncorrectableError at_ => Sys2Proof.Machine.execUncorrectableError at_ s
  | .notify chan word => Sys2Proof.Machine.execNotify chan word s
  | .cret chan word => Sys2Proof.Machine.execCret chan word s
  | .reconcile chan => Sys2Proof.Machine.execReconcile chan s
  | .ctxreq fn ctxn => Sys2Proof.Machine.execCtxreq fn ctxn s
  | .invreq fn ctxn kind => Sys2Proof.Machine.execInvreq fn ctxn kind s
  | .chmap fn value => Sys2Proof.Machine.execChmap fn value s
  | .qtctlPause fn pause => Sys2Proof.Machine.execQtctlPause fn pause s
  | .clkreq fn mhz => Sys2Proof.Machine.execClkreq fn mhz s
  | .clockSwitch => Sys2Proof.Machine.execClockSwitch s
  | .powerLimit limit => Sys2Proof.Machine.execPowerLimit limit s
  | .clockCapStep => Sys2Proof.Machine.execClockCapStep s
  | .registerWrite fn off value => Sys2Proof.Machine.execRegisterWrite fn off value s
  | .bar2Read fn off len => Sys2Proof.Machine.execBar2Read fn off len s
  | .bar2Write fn off bytes => Sys2Proof.Machine.execBar2Write fn off bytes s
  | .incomingRead src off len => Sys2Proof.Machine.execIncomingRead src off len s
  | .incomingWrite src off w => Sys2Proof.Machine.execIncomingWrite src off w s
  | .incomingAtomic src off op wide v c => Sys2Proof.Machine.execIncomingAtomic src off op wide v c s
  | .remoteTimeout n => Sys2Proof.Machine.execRemoteTimeout n s
  | .moduleReset => Sys2Proof.Machine.execModuleReset s
  | .append len => Sys2Proof.Machine.execAppend len s
  | .commit => Sys2Proof.Machine.execCommit s
  | .abort => Sys2Proof.Machine.execAbort s
  | .getVersion => Sys2Proof.Machine.execGetVersion s
  | .getCapabilities => Sys2Proof.Machine.execGetCapabilities s
  | .negotiateAlgorithms ecdsaP256 sha256 => Sys2Proof.Machine.execNegotiateAlgorithms ecdsaP256 sha256 s
  | .getDigests => Sys2Proof.Machine.execGetDigests s
  | .getCertificate slot off len => Sys2Proof.Machine.execGetCertificate slot off len s
  | .challenge nonce => Sys2Proof.Machine.execChallenge nonce s
  | .getMeasurements block nonce => Sys2Proof.Machine.execGetMeasurements block nonce s
  | .illegalInstruction word => Sys2Proof.Machine.execIllegalInstruction word s
  | .fetchFault => Sys2Proof.Machine.execFetchFault s
  | .resultLands tile strm n => Sys2Proof.Machine.execResultLands tile strm n s
  | .postedStorePerformed tile strm n scope => Sys2Proof.Machine.execPostedStorePerformed tile strm n scope s
  | .writeEntersView tile strm id => Sys2Proof.Machine.execWriteEntersView tile strm id s
  | .yldExpiry tile strm => Sys2Proof.Machine.execYldExpiry tile strm s
  | .taskSlotReadEnd cluster engine => Sys2Proof.Machine.execTaskSlotReadEnd cluster engine s
  | .liveStartDeadline n => Sys2Proof.Machine.execLiveStartDeadline n s
  | .eventQueueReread ctxn => Sys2Proof.Machine.execEventQueueReread ctxn s

end Sys2Proof.Machine
end

