-- ==== Sys2Proof/Machine/Schedule.lean ====
section
/-! DEFINITION. Who moves: fetching a word, an instruction boundary of a stream, time, and the order in which the agents of the
model move when nothing outside it has said which (R26, R29, R35, R41, R142, R341). -/

namespace Sys2Proof.Machine

/-! Fetch (R41). -/

/-- The word at ss.pc of a stream. Until the stream's own PHASE has made a store to it certain, the fetch returns the old word or the
new one, which is left open (R41). -/
def fetchNext (s : State) (t : Nat) (sk : Strm) : State × Nat :=
  match fetchVersions s t sk with
  | [] => (s, 0)
  | [w] => (s, w)
  | ws =>
    let (s1, x) := drawFree s
    (s1, ws.getD (x.toNat % ws.length) 0)

/-- The word at ss.pc fetched, decoded and executed; a word that decodes to nothing is illegal (R41, R43). -/
def runWord (s : State) : Out :=
  match fetchCause s s.curTile (cur s).pc with
  | some _ => exec .fetchFault s
  | none =>
    let (s1, w) := fetchNext s s.curTile s.curStrm
    match decodeBytes (bytesOfWord w) with
    | some (i, _) => exec i s1
    | none => exec (.illegalInstruction (BitVec.ofNat 32 w)) s1

/-- Whether a stream takes an interrupt at this boundary (R381). -/
def intrDue (s : State) (t : Nat) (sk : Strm) : Bool :=
  let st := strmAt s t sk
  (takeableLine st).isSome && st.running && !st.halted && st.wait != .response && !cfgCommitted s t sk

/-- The streams of a tile in the order in which its control core looks at them, from the one after that served last (R29). -/
def turnOrder : Strm → List Strm
  | .k => [.l, .c, .w, .k]
  | .l => [.c, .w, .k, .l]
  | .c => [.w, .k, .l, .c]
  | .w => [.k, .l, .c, .w]

/-- A stream becomes the current one; its control core has served it where it was ready (R29). -/
def serve (s : State) (t : Nat) (sk : Strm) : State :=
  let s1 := { s with curTile := t, curStrm := sk }
  if readyNow s t sk then setTile s1 t { tileOf s t with served := sk } else s1

/-- Whether a stream's boundary is to do something other than issue: a TOKEN_OVER or an interrupt (R72, R381). -/
def boundaryDue (s : State) (t : Nat) (sk : Strm) : Bool := !(strmAt s t sk).overDue.isEmpty || intrDue s t sk

/-- The stream of a tile that moves when one is named (R29): where that one has its boundary's own work to do, itself; otherwise the
ready stream whose turn it is. -/
def turnOf (s : State) (t : Nat) (sk : Strm) : Strm :=
  if boundaryDue s t sk then sk else ((turnOrder (tileOf s t).served).find? (readyNow s t)).getD sk

/-- An instruction boundary of a stream: a TOKEN_OVER that is due, an interrupt, or the next word (R72, R381). -/
def runStream (s : State) (t : Nat) (sk : Strm) : Out :=
  let s1 := serve s t sk
  let s2 := takeOverDue s1 t sk
  if (strmAt s2 t sk).overDue ≠ (strmAt s1 t sk).overDue then .next s2
  else if intrDue s1 t sk then exec (.intr t sk) s1
  else runWord s1

/-! Time (R142, R422). -/

/-- n core cycles pass. The fabric runs at 2,200 MHz. -/
def passTime (s : State) (n : Nat) : State :=
  let clk := max 1 s.pkg.clkcur.toNat
  let f := s.fabRem + 2200 * n
  { s with core := s.core + n, fab := s.fab + f / clk, fabRem := f % clk }

/-- One mover moves, and a core cycle passes. -/
def runMover (m : Mover) (s : State) : Out :=
  let after (o : Out) : Out :=
    match o with
    | .next t => .next (passTime t 1)
    | .fault r => .fault r
    | .refused r => .refused r
  match m with
  | .stream t sk => after (runStream s t (turnOf s t sk))
  | .event i => after (exec i s)
  | .inval fn => after (retryInvreq fn s)
  | .tick n => .next (passTime s n)

/-! The events that the machine itself brings about. -/

def allStrms : List Strm := [.k, .l, .c, .w]

/-- Indices of a list. -/
def indices {α : Type} (xs : List α) : List Nat := List.range xs.length

/-- Events of a stream. -/
def streamEvents (s : State) (t : Nat) (sk : Strm) : List Instr :=
  let st := strmAt s t sk
  (indices st.landings).flatMap (fun n => [.resultLands t sk n, .nearLoadLanding t sk n, .divisionLands t sk n])
    ++ (indices st.posted).map (fun n => .postedStorePerformed t sk n .system)
    ++ [.sleepExpiry t sk, .timerCompare t sk, .yldExpiry t sk, .watchdog t sk]

/-- Events of a slot. -/
def slotEvents (t n : Nat) : List Instr :=
  [.slotCommandStart t n, .sld t n, .sst t n, .sidx t n, .ssct t n, .srec t n, .scon t n, .smcl t n, .scmp t n, .scls t n]

/-- Events of a region. -/
def regionEvents (t : Nat) (p : Nat × Region) : List Instr :=
  let groups := (List.range 16).flatMap fun g =>
    [Instr.groupFire t p.1 g, .endOfStream t p.1 g] ++ (List.range 16).map fun i => .formatMarkerTake t p.1 g i
  groups ++ (List.range 16).map (fun v => .converterConvert t p.1 v)
    ++ p.2.sections.map (fun x => .sectionSquash t p.1 (secNum p.2 x))
    ++ [.sectionCommit t p.1, .settleReport t p.1, .kilnWaveComplete t p.1, .kilnTimeout t p.1]

/-- The writes of other agents that are not in a stream's view. -/
def viewEvents (s : State) (t : Nat) (sk : Strm) : List Instr :=
  (s.wlog.filter fun w => w.tile != t || w.strm != sk).map fun w => .writeEntersView t sk w.id

/-- Events of a tile. -/
def tileEvents (s : State) (p : Nat × Tile) : List Instr :=
  let t := p.1
  allStrms.flatMap (streamEvents s t) ++ [.rendezvousComplete false t, .rendezvousComplete true t]
    ++ (p.2.slots.map (·.1)).flatMap (slotEvents t) ++ (indices p.2.barriers).map (fun n => .sbar t n)
    ++ (indices p.2.swts).map (fun n => .swt t n) ++ p.2.mports.flatMap (fun q => [.spip t q.1, .sprv t q.1])
    ++ (p.2.regions.filter fun q => q.2.state != .unconfigured).flatMap (regionEvents t)

/-- Events of a cluster. -/
def clusterEvents (p : Nat × Cluster) : List Instr :=
  let c := p.1
  let engine (e : Nat) : List Instr :=
    [.mmd c e, .mms c e, .mmg c e, .mmdl c e, .taskSlotReadEnd c e, .taskStart c e, .taskComplete c e, .epilogueDrain c e, .drainComplete c e]
  .taskDispatch c :: (List.range 16).flatMap engine ++ (indices p.2.writebacks).map (fun n => .mmdlWriteback c n)
    ++ [.caskq c, .caskrp c, .caskcp c]

/-- Events of a die. -/
def dieEvents (p : Nat × Die) : List Instr :=
  (List.range 8).flatMap (fun e => [.cpy p.1 e, .cpyw p.1 e, .cfil p.1 e, .lrchk p.1 e])
    ++ (List.range 4).flatMap fun e => [.gthr p.1 e, .sctr p.1 e]

/-- Events of a channel. -/
def channelEvents (n : Nat) : List Instr :=
  [.launchGraph n, .bind n, .configRegion n, .copy n, .signal n, .wait n, .queueCreate n, .queueDestroy n, .channelResync n, .reconcile n]

/-- Events of the front end. -/
def frontEvents (s : State) : List Instr :=
  let fe := s.fe
  (indices fe.launchq).flatMap (fun n => [.glnc n, .gnxt n, .garmApply n, .gsetApply n, .emitApply n, .sighApply n])
    ++ fe.rings.flatMap (fun p => [.ringCoalesceTimeout p.1, .ringFullReread p.1]) ++ fe.channels.flatMap (fun p => channelEvents p.1)
    ++ fe.jobs.flatMap (fun p => [.jobStart p.1, .jobComplete p.1])
    ++ (indices fe.bound).flatMap (fun n => [.bindNode n, .copyNode n, .gatherNode n])
    ++ (indices fe.feReady).flatMap (fun n => [.cond n, .host n, .rearm n]) ++ (indices fe.graphs).map .graphComplete
    ++ (indices fe.offers).map .eventRecordWrite ++ fe.blockedEq.map .eventQueueReread
    ++ (indices (liveWaiting s)).map .liveStartDeadline ++ [.selectionPass]

/-- The walks that the slots' next accesses ask for (R219, R398). -/
def slotWalks (s : State) : List Instr :=
  s.tiles.flatMap fun p => p.2.slots.filterMap fun q =>
    match q.2.active with
    | some a =>
      match actElement a a.k with
      | .acc x =>
        let req (l2 : Bool) (addr : Nat) : Instr :=
          .pageWalk { ctxn := a.cmd.ctxn, l2 := l2, addr := addr, write := subWrites (cmdSub a.cmd), unit := .slot p.1 q.1 }
        if x / 2 ^ 56 = 0 then some (req false x)
        else if x / 2 ^ 56 = 3 then some (req true (x % 2 ^ 56 / 2 ^ 16)) else none
      | _ => none
    | none => none

/-- Every event that the machine may bring about now. -/
def events (s : State) : List Instr :=
  (indices s.done).map .commandCompletion ++ (indices s.replies).map .replyArrival ++ (indices s.ports).map .atomicPortApply
    ++ (indices s.mesh).map .pipArrival ++ (indices s.held).map .collapse ++ s.tiles.flatMap (tileEvents s)
    ++ s.clusters.flatMap clusterEvents ++ s.dies.flatMap dieEvents ++ frontEvents s ++ [.clockSwitch] ++ slotWalks s
    ++ s.tiles.flatMap fun p => allStrms.flatMap (viewEvents s p.1)

/-- Whether a step changes anything. -/
def changes (s : State) (o : Out) : Bool :=
  match o with
  | .next t => t != s
  | _ => true

/-- The first request of INVREQ that waits no more (R408). -/
def nextInval (s : State) : Option Mover :=
  ((s.pkg.fns.filter (·.2.invreqWait.isSome)).find? fun p => changes s (retryInvreq p.1 s)).map fun p => .inval p.1

/-- The first event that changes something. -/
def nextEvent (s : State) : Option Mover := (((events s).find? fun i => changes s (exec i s)).map .event).or (nextInval s)

/-- The streams: the tiles from the one after the current on, each with its streams in its core's order (R29). -/
def streamOrder (s : State) : List (Nat × Strm) :=
  let n := (s.tiles.findIdx? fun p => p.1 == s.curTile).elim 0 (· + 1)
  (s.tiles.drop n ++ s.tiles.take n).flatMap fun p => (turnOrder p.2.served).map (p.1, ·)

/-- The next stream whose boundary changes something. -/
def nextStream (s : State) : Option Mover :=
  ((streamOrder s).find? fun p => changes (serve s p.1 p.2) (runStream s p.1 p.2)).map fun p =>
    .stream p.1 p.2

/-- Who moves next where the agenda names nobody: boot first; then events and streams in turn; else time passes. -/
def nextMover (s : State) : Mover :=
  if !s.boot.ready && !s.boot.recovery then .event .moduleReset
  else if s.core % 2 = 0 then ((nextEvent s).or (nextStream s)).getD (.tick 1)
  else ((nextStream s).or (nextEvent s)).getD (.tick 1)

/-- A step: the agenda's first mover, or the one that the machine chooses. -/
def stepOnce (s : State) : Out :=
  match s.agenda with
  | m :: rest => runMover m { s with agenda := rest }
  | [] => runMover (nextMover s) s

/-- The stream after which a stream is served. -/
def strmBefore : Strm → Strm
  | .k => .w
  | .l => .k
  | .c => .l
  | .w => .c

/-- An instruction placed where the current stream fetches next, with that stream as the next mover, and its turn. -/
def placeWord (s : State) (w : Nat) : State :=
  let st := cur s
  let s0 := setCur s { st with running := true, halted := false, wait := .none, overDue := [] }
  let s1 := setTile s0 s.curTile { tileOf s0 s.curTile with served := strmBefore s.curStrm }
  { s1 with mem := memWrite s1.mem (scratchBase s.curTile + st.pc.toNat) (bytesOfWord w)
            agenda := .stream s.curTile s.curStrm :: s1.agenda }

end Sys2Proof.Machine
end

