-- ==== Sys2Proof/Machine/Step.lean ====
section
/-! DEFINITION. The step of the machine, and the placement of one instruction where the step fetches its next one. -/

namespace Sys2Proof.Machine

/-- One step: one agent moves, and time passes. -/
def step (s : State) : Host.Outcome State Fault Refusal := stepOnce s

/-- The state with an instruction stored where the next step fetches it (how programs come to run: assumption 1). -/
def State.withFetchWord (s : State) (nbits w : Nat) : State := placeWord s (w % 2 ^ nbits)

end Sys2Proof.Machine
end

