-- ==== Sys2Proof/Safety.lean ====
section
/-! DEFINITION. What counts as a safe run, the invariants that claims are stated with, and the conditions under which a word
issues. -/

namespace Sys2Proof.Machine

/-- A run of n steps from a state ends in a state: no step of it faults or is refused. -/
def runsFor (s : State) (n : Nat) : Prop := ∃ t, Sys2Proof.core.run n s = .next t

/-- A state from which no run ever stops. -/
def Safe (s : State) : Prop := ∀ n, runsFor s n

/-- Memory is in its canonical form: addresses strictly rise and no listed byte is what an unlisted address reads as. -/
abbrev MemInv (s : State) : Prop := Memory.wf s.mem = true

/-- The fraction of a fabric cycle that has passed is less than one cycle (R142, R422). -/
abbrev ClockInv (s : State) : Prop := s.fabRem < max 1 s.pkg.clkcur.toNat

/-- The stream that acts issues a word with token field tk: it runs, has not halted, no wait holds it, and each FIFO that
the word pops from holds a token (R29, R45). -/
abbrev Issues (s : State) (tk : BitVec 4) : Prop :=
  (cur s).running = true ∧ (cur s).halted = false ∧ (cur s).wait = .none ∧ (tkWL tk = true → 0 < (cur s).fromLeft) ∧
    (tkWR tk = true → 0 < (cur s).fromRight)

/-- A source field reads as a value: g0 as zero, another register when it is full, unmarked, and awaits nothing
(R118 to R122). -/
abbrev Reads (s : State) (r : BitVec 5) (v : Word) : Prop :=
  (physReg (cur s) r = 0 ∧ v = 0) ∨
    (physReg (cur s) r ≠ 0 ∧ regAt (cur s) (physReg (cur s) r) = { val := v } ∧
      landPending (cur s) (physReg (cur s) r) = false)

/-- A destination field can be written: g0 always, another register when it is full and awaits nothing (R119, R121). -/
abbrev Writes (s : State) (r : BitVec 5) : Prop :=
  physReg (cur s) r = 0 ∨
    ((regAt (cur s) (physReg (cur s) r)).full = true ∧ landPending (cur s) (physReg (cur s) r) = false)

/-- Room for the tokens that a word's SL and SR bits push (R155). -/
abbrev PushRoom (s : State) (tk : BitVec 4) : Prop :=
  (tkSL tk = true → pushedTokens s s.curTile s.curStrm false < 8) ∧ (tkSR tk = true → pushedTokens s s.curTile s.curStrm true < 8)

/-- The stream that acts, with a word's WL and WR tokens popped (R45). -/
abbrev popped (s : State) (tk : BitVec 4) : Stream := popBits (cur s) tk

/-- The word retires with its stream changed to x, and goes on at the next word, subject to R150. -/
abbrev goesOn (s : State) (x : Stream) (tk : BitVec 4) : State := retire (setCur s x) tk .seq

/-- The word retires with its stream changed to x, and goes on at a target of its own. -/
abbrev jumpsTo (s : State) (x : Stream) (tk : BitVec 4) (target : Word) : State := retire (setCur s x) tk (.jump target)

/-- No active loop ends at the word that ss.pc names, or the stream is in the trap context, where none goes back (R150,
R378). -/
abbrev NoLoopEnd (st : Stream) : Prop := st.tctx = true ∨ (loopHit st.lca st.pc = false ∧ loopHit st.lcb st.pc = false)

/-- The stream takes this cause in its own trap context (R378). -/
abbrev TakesInContext (st : Stream) (c : Cause) : Prop := st.tctx = false ∧ st.tena.getLsbD (causeCode c) = true

end Sys2Proof.Machine
end

