-- ==== Sys2Proof/Certificates/Slice0/Obligations.lean ====
section
/-! DEFINITION. The statements about the model: what each instruction does where it completes, what it leaves alone, where it
traps, and what every step keeps. -/

open Sys2Proof Sys2Proof.Machine

/-! The terms of the statements. -/

namespace Sys2Proof.Claims

/-- The parts of the machine outside the tiles and the event records that no register word touches. -/
abbrev UnitsKept (s t : State) : Prop :=
  t.mem = s.mem ∧ t.clusters = s.clusters ∧ t.dies = s.dies ∧ t.reuse = s.reuse ∧ t.tlb = s.tlb ∧ t.ports = s.ports ∧ t.poison = s.poison ∧
    t.wlog = s.wlog ∧ t.mesh = s.mesh ∧ t.done = s.done ∧ t.pkg = s.pkg ∧ t.boot = s.boot ∧ t.out = s.out

/-- The state registers of a stream other than the FP environment and the loops. The trap record stays unless the stream enters its trap
context. -/
abbrev RegistersKept (x y : Stream) : Prop :=
  y.rrb = x.rrb ∧ y.ftb = x.ftb ∧ y.tvec = x.tvec ∧ y.tena = x.tena ∧ y.imask = x.imask ∧ y.ipend = x.ipend ∧ y.tcmp = x.tcmp ∧
    y.tsv0 = x.tsv0 ∧ y.tsv1 = x.tsv1 ∧ y.tsv2 = x.tsv2 ∧ y.tsv3 = x.tsv3 ∧ y.q = x.q ∧ y.templates = x.templates ∧ y.staging = x.staging ∧
    y.posted = x.posted ∧ (y.tctx = x.tctx → y.epc = x.epc ∧ y.cause = x.cause ∧ y.tval = x.tval)

/-- The other streams keep their registers and their place. -/
abbrev OthersKept (s t : State) : Prop :=
  ∀ u sk, (u, sk) ≠ (s.curTile, s.curStrm) →
    (strmAt t u sk).regs = (strmAt s u sk).regs ∧ (strmAt t u sk).pc = (strmAt s u sk).pc ∧ (strmAt t u sk).fe = (strmAt s u sk).fe ∧
      RegistersKept (strmAt s u sk) (strmAt t u sk)

/-- The destination of a word that writes one general register and no flag. -/
def plainDest : Instr → Option (BitVec 5)
  | .add o | .sub o | .and o | .or o | .xor o | .andn o | .shl o | .shr o | .sar o | .rot o | .mul o | .mulh o | .mulhz o | .div o | .divz o
  | .rem o | .remz o | .min o | .max o | .minz o | .maxz o | .slt o | .sltz o | .seq o | .sel o | .bext o | .bins o | .addw o => some o.d
  | .clz o | .popc o | .jli o => some o.d
  | .lea o | .leas o => some o.d
  | .addi o | .andi o | .ori o | .xori o | .slti o => some o.d
  | .shli o | .shri o | .sari o => some o.d
  | .lih o => some o.d
  | .jl _ => some 15
  | .fmin o | .fmax o | .fcmp o => some o.d
  | .fabs o | .fneg o => some o.d
  | .ldb o | .ldbz o | .ldh o | .ldhz o | .ldw o | .ldwz o | .ldd o => some o.r
  | .ssrd o => some o.r
  | .hqry o | .cfgq o => some o.d
  | .qpeek o => some o.d
  | .qcnt o => some o.d
  | _ => none

/-- The destination of a word that rounds. -/
def roundingDest : Instr → Option (BitVec 5)
  | .fadd o | .fsub o | .fmul o | .ffma o => some o.d
  | .frcp o | .frsq o => some o.d
  | .fcvt o => some o.d
  | _ => none

/-- The branches, the jumps without a link, LOOP and the token words. -/
def isControl : Instr → Bool
  | .beq _ | .bne _ | .blt _ | .bge _ | .blo _ | .bhs _ | .j _ | .ji _ | .loop _ | .tkw _ | .tks _ => true
  | _ => false

/-- The words that write a register only where unitDest says so, and no flag but SSWR of ss.fe. -/
def isUnitWord : Instr → Bool
  | .brloop _ | .rrbs _ | .sswr _ | .qpop _ | .qpush _ | .htake _ | .waitw _ | .oclm _ | .orel _ | .epil _ | .accd _ | .taskw _ => true
  | .rbind _ | .rfree _ | .rinv _ | .rqry _ | .rcnt _ | .cfgld _ | .rack _ | .rgo _ | .kiln _ | .thaw _ => true
  | .tbld _ | .tbsv _ | .phd _ | .pis _ | .garm _ | .gset _ | .emit _ | .sigh _ | .sleep _ | .yld _ | .eret _ | .tlbi _ => true
  | _ => false

/-- The physical register that such a word writes: its destination, or for QPUSH the register of the oldest claim (R161). -/
def unitDest (s : State) : Instr → Option Nat
  | .qpop o => some (physReg (cur s) o.d)
  | .qpush o => (qreg (cur s) o.q.toNat).claims.head?
  | .htake o | .oclm o | .taskw o | .rqry o => some (physReg (cur s) o.d)
  | .waitw o => some (physReg (cur s) o.d)
  | .rbind o => some (physReg (cur s) o.d)
  | .rcnt o => some (physReg (cur s) o.d)
  | _ => none

/-- The stores, with their form and width. -/
def storeForm : Instr → Option (FormM × Nat)
  | .stb o => some (o, 1)
  | .sth o => some (o, 2)
  | .stw o => some (o, 4)
  | .std o => some (o, 8)
  | _ => none

/-- The destination of a word that takes its result through a port or a fence's publication. -/
def publishingDest : Instr → Option (BitVec 5)
  | .aadd o | .amin o | .amax o | .aminz o | .amaxz o | .aand o | .aor o | .axor o | .axch o | .acas o => some o.d
  | .ared _ | .phase _ | .fencx _ | .rdvz _ | .halt _ | .hgive _ => some 0
  | _ => none

/-- The words that publish posted stores, and the two reuse words that change the watch marks of page-table leaves (R297, R298). -/
def writesMemory : Instr → Bool
  | .aadd _ | .amin _ | .amax _ | .aminz _ | .amaxz _ | .aand _ | .aor _ | .axor _ | .axch _ | .acas _ | .ared _ => true
  | .phase _ | .fencx _ | .rdvz _ | .halt _ | .hgive _ | .rbind _ | .rfree _ => true
  | _ => false

/-- R131, R133: the value that each two-source word writes. -/
def twoSourceResults : List ((FormA2 → Instr) × (Word → Word → Word)) :=
  [(.add, fun a b => a + b), (.sub, fun a b => a - b), (.and, fun a b => a &&& b), (.or, fun a b => a ||| b),
   (.xor, fun a b => a ^^^ b), (.andn, fun a b => a &&& ~~~ b),
   (.shl, fun a b => a <<< (b.toNat % 64)), (.shr, fun a b => a >>> (b.toNat % 64)),
   (.sar, fun a b => a.sshiftRight (b.toNat % 64)),
   (.rot, fun a b => (a >>> (b.toNat % 64)) ||| (a <<< ((64 - b.toNat % 64) % 64))),
   (.min, fun a b => if a.sle b then a else b), (.max, fun a b => if b.slt a then a else b),
   (.minz, fun a b => if a ≤ b then a else b), (.maxz, fun a b => if b < a then a else b),
   (.slt, fun a b => if a.slt b then 1 else 0), (.sltz, fun a b => if a < b then 1 else 0),
   (.seq, fun a b => if a = b then 1 else 0),
   (.bext, fun a b => BitVec.ofNat 64 (a.toNat / 2 ^ (b.toNat % 64) % 2 ^ min (b.toNat / 64 % 128) 64)),
   (.addw, fun a b => (a.truncate 32 + b.truncate 32 : BitVec 32).signExtend 64)]

/-- R132: the quotients and remainders, corners included. -/
def divisionResults : List ((FormA2 → Instr) × (Word → Word → Word)) :=
  [(.div, fun a b => if b = 0 then BitVec.allOnes 64 else if a = BitVec.intMin 64 ∧ b = BitVec.allOnes 64 then a else a.sdiv b),
   (.divz, fun a b => if b = 0 then BitVec.allOnes 64 else a / b),
   (.rem, fun a b => if b = 0 then a else if a = BitVec.intMin 64 ∧ b = BitVec.allOnes 64 then 0 else a.srem b),
   (.remz, fun a b => if b = 0 then a else a % b)]

/-- R134: the words of an immediate. -/
def immediateResults : List ((FormI → Instr) × (Word → Word → Word)) :=
  [(.addi, fun a x => a + x), (.andi, fun a x => a &&& x), (.ori, fun a x => a ||| x), (.xori, fun a x => a ^^^ x),
   (.slti, fun a x => if a.slt x then 1 else 0)]

/-- R134: the shifts by an immediate. -/
def immediateShifts : List ((FormISh → Instr) × (Word → Nat → Word)) :=
  [(.shli, fun a n => a <<< n), (.shri, fun a n => a >>> n), (.sari, fun a n => a.sshiftRight n)]

/-- A rounding word's next state: under SR the counter has stepped, the flags are added, and the result is to land
(R129, R137, R139). -/
def floatNext (s : State) (d : BitVec 5) (tk : BitVec 4) (v : Word) (f : FFlags) : State :=
  goesOn s (landLater (setFlags (stepSr (popped s tk)) f) d v .fixed) tk

/-- The value of a source in its format, and the rounding of an exact value to the format under ss.fe.RM. -/
def floatIn (m : FpFmt) (w : Word) : Val := fdecode (fmtOf m) (fmtBits m w)

def floatOut (s : State) (m : FpFmt) (v : Val) : Nat × FFlags := toFloat (fmtOf m) true (feRm (cur s)) (scalarSr s (cur s)) v

/-- Whether x lies below y, with −0 below +0 (R137). -/
def lessOf (x y : Val) : Bool := vlt x y || (visZero x && visZero y && vneg? x && !vneg? y)

/-- R137: the sign bit of a format of the scalar words. -/
def signOf : FpFmt → Nat
  | .fp32 => 31
  | .bf16 => 15

/-- R146: when each conditional branch is taken. -/
def branchConditions : List ((FormB → Instr) × (Word → Word → Bool)) :=
  [(.beq, fun a b => decide (a = b)), (.bne, fun a b => decide (a ≠ b)), (.blt, fun a b => a.slt b), (.bge, fun a b => b.sle a),
   (.blo, fun a b => decide (a < b)), (.bhs, fun a b => decide (b ≤ a))]

/-- What a retirement leaves alone and what it does besides moving ss.pc: tokens pushed to neighbours with room, and one more
instruction counted (R28, R45, R155). -/
abbrev RetiresTo (s t : State) (tk : BitVec 4) (pc : Word) : Prop :=
  (cur t).pc = pc ∧ (cur t).regs = (cur s).regs ∧ (cur t).issued = (cur s).issued + 1 ∧ (cur t).tctx = (cur s).tctx ∧
    (cur t).wait = (cur s).wait ∧ t.mem = s.mem ∧ t.fe = s.fe ∧
    tokens (strmAt t s.curTile (leftOf s.curStrm)) true =
      tokens (strmAt s s.curTile (leftOf s.curStrm)) true + (if tkSL tk then 1 else 0) ∧
    tokens (strmAt t s.curTile (rightOf s.curStrm)) false =
      tokens (strmAt s s.curTile (rightOf s.curStrm)) false + (if tkSR tk then 1 else 0)

/-- A loop after a pass that is not its last, and after its last one (R150). -/
def onePass (l : LoopRegs) : LoopRegs := { l with idx := l.idx + 1, cnt := l.cnt - 1 }

def lastPass (l : LoopRegs) : LoopRegs := { l with idx := l.idx + 1, cnt := 0, act := false }

/-- The near address of an M-form word: the base plus the offset scaled by the width (R143). -/
def mAddr (o : FormM) (base : Word) (n : Nat) : Word := base + o.off.signExtend 64 * BitVec.ofNat 64 n

/-- R143: the width and the extension of each load, and the width of each store. -/
def nearLoads : List ((FormM → Instr) × Bool × Nat) :=
  [(.ldb, true, 1), (.ldbz, false, 1), (.ldh, true, 2), (.ldhz, false, 2), (.ldw, true, 4), (.ldwz, false, 4), (.ldd, false, 8)]

def nearStores : List ((FormM → Instr) × Nat) := [(.stb, 1), (.sth, 2), (.stw, 4), (.std, 8)]

/-- The value that a load of n bytes returns: a word of the state window, or the bytes that the stream sees, extended. -/
def loadedValue (s : State) (acc : NearAcc) (signed : Bool) (n : Nat) : Word :=
  match acc.win with
  | some off => winRead s s.curTile off
  | none =>
    let w : BitVec (8 * n) := BitVec.ofNat (8 * n) (leNat (segBytes s s.curTile s.curStrm acc.segs))
    if signed then w.signExtend 64 else w.zeroExtend 64

/-- R169, R170: the operation of each atomic word. -/
def atomicWords : List ((FormAtomic → Instr) × AtomicOp) :=
  [(.aadd, .add), (.amin, .min), (.amax, .max), (.aminz, .minz), (.amaxz, .maxz), (.aand, .and), (.aor, .or), (.axor, .xor), (.axch, .xch)]

/-- Whether a posted store has a byte in the line of an address. -/
def onLine (p : Nat) (x : Posted) : Bool := x.bytes.isEmpty || (span x.addr x.bytes.length).any fun a => lineOf a == lineOf p

/-- R170: the value that each atomic writes for the old value of its word, its operand and its compare value; none where ACAS
writes nothing. -/
def atomicNewValue (n : Nat) (old v c : BitVec n) : AtomicOp → Option (BitVec n)
  | .add => some (old + v)
  | .min => some (if old.sle v then old else v)
  | .max => some (if old.sle v then v else old)
  | .minz => some (if old ≤ v then old else v)
  | .maxz => some (if old ≤ v then v else old)
  | .and => some (old &&& v)
  | .or => some (old ||| v)
  | .xor => some (old ^^^ v)
  | .xch => some v
  | .cas => if old = c then some v else none

/-- R185: a state in which the writes of FENCX's first path that happen before it are guaranteed to the stream's later commands on its
second. -/
abbrev onward (s : State) (o : FormFencx) (t : State) : State :=
  setCur t (guarantee (cur t) [o.p2] (certainIds t s.curTile o.scope (cur t).know (some o.p1) none))

/-- R125, R376, R383: the number and the field of each state register that SSRD and SSWR carry whole. -/
def plainRegisters : List (Nat × (Stream → Word)) :=
  [(0x004, fun x => x.fe), (0x005, fun x => x.srctr), (0x040, fun x => x.epc), (0x041, fun x => x.cause), (0x042, fun x => x.tval),
   (0x043, fun x => x.tvec), (0x044, fun x => x.tena), (0x045, fun x => x.imask), (0x046, fun x => x.ipend), (0x047, fun x => x.tcmp),
   (0x048, fun x => x.tsv0), (0x049, fun x => x.tsv1), (0x04A, fun x => x.tsv2), (0x04B, fun x => x.tsv3), (0x000, fun x => x.pc),
   (0x002, fun x => x.rrb.zeroExtend 64), (0x003, fun x => x.ftb.zeroExtend 64), (0x008, fun x => x.lca.cnt.zeroExtend 64),
   (0x009, fun x => x.lca.start.zeroExtend 64), (0x00A, fun x => x.lca.last.zeroExtend 64), (0x00B, fun x => x.lca.idx.zeroExtend 64),
   (0x00C, fun x => x.lcb.cnt.zeroExtend 64), (0x00D, fun x => x.lcb.start.zeroExtend 64), (0x00E, fun x => x.lcb.last.zeroExtend 64),
   (0x00F, fun x => x.lcb.idx.zeroExtend 64)]

/-- R125, R376: state registers that take a written word as it is. -/
def wholeRegisters : List (Nat × (Stream → Word)) :=
  [(0x005, fun x => x.srctr), (0x040, fun x => x.epc), (0x042, fun x => x.tval), (0x044, fun x => x.tena), (0x045, fun x => x.imask),
   (0x047, fun x => x.tcmp), (0x048, fun x => x.tsv0), (0x049, fun x => x.tsv1), (0x04A, fun x => x.tsv2), (0x04B, fun x => x.tsv3)]

/-- A run of n slots of a cluster from f that are FREE (R265). -/
def FreeRun (s : State) (cl f n : Nat) : Prop := ∀ i, f ≤ i → i < f + n → i < 256 ∧ (opSlotOf s cl i).claim = none

/-- An entry's turn for a word of the current stream: no operation is being applied there, and the stream's own earlier commands to it
have reached it (R293). -/
abbrev AtTurn (s : State) (n : Nat) : Prop := entryHeld s n none = false ∧ entryBehind s s.curTile s.curStrm n = false

/-- The three events that land a pending result, each with a kind that it lands. -/
def landingEvents : List ((Nat → Strm → Nat → Instr) × LandKind) :=
  [(.resultLands, .fixed), (.resultLands, .own), (.nearLoadLanding, .load), (.divisionLands, .division)]

/-- R72, R158: no earlier command of a command's stream has ended and is still to complete. -/
abbrev EndsNext (s : State) (n : Nat) (c : Cmd) : Prop :=
  ∀ x ∈ s.done.take n, ¬ (x.cmd.tile = c.tile ∧ x.cmd.strm = c.strm ∧ x.cmd.job = c.job ∧ x.cmd.fromFe = c.fromFe)

/-- Every TLB and every walk cache holds no more than its room (R398). -/
abbrev TlbInv (s : State) : Prop :=
  (∀ u, (s.tlb.filter fun e => e.unit == u).length ≤ unitRoom u) ∧ ∀ d, (s.walks.filter fun e => e.die == d).length ≤ walkRoom

/-- A slot works on a command of a kind: it is the active one, its layout record is loaded, and its region runs (R190, R191, R202). -/
abbrev Works (s : State) (tile slot : Nat) (a : ActiveCmd) (sub : Nat) : Prop :=
  (slotAt s tile slot).active = some a ∧ cmdSub a.cmd = sub ∧ (slotAt s tile slot).halt = none ∧
    slotRuns (tileOf s tile) slot = true ∧ a.finished = false ∧ (scLr a.cmd.tmpl = true → a.record.isSome = true)

/-- The load commands of a slot, each with its KIND code. -/
def feedingEvents : List ((Nat → Nat → Instr) × Nat) := [(.sld, 0), (.sidx, 2), (.smcl, 6)]

/-- The store commands of a slot, each with its KIND code. -/
def storingEvents : List ((Nat → Nat → Instr) × Nat) := [(.sst, 1), (.ssct, 3)]

/-- R203: a command that waits for the token of its port ends with a result at the token, and discards what comes before it. -/
abbrev EndsAtItsToken (s : State) (tile slot : Nat) (a : ActiveCmd) (result : Nat) (e : Nat → Nat → Instr) : Prop :=
  (canTake (tileOf s tile) (scPort a.cmd.tmpl) a.cmd.id = some .eos → exec (e tile slot) s =
    .next (slotDone (takeToken s a.cmd (scPort a.cmd.tmpl)) tile slot { a with limit := some (actCount a) } result)) ∧
  (∀ x, x ≠ .eos → canTake (tileOf s tile) (scPort a.cmd.tmpl) a.cmd.id = some x →
    exec (e tile slot) s = .next (takePort s tile (scPort a.cmd.tmpl)))

/-- A lane of a 32-bit word. -/
abbrev Lane := BitVec 32

/-- A task runs on an engine: it is of a kind, has no result yet, and no slot that it reads is poisoned (R275, R281). -/
abbrev TaskRuns (s : State) (cl e : Nat) (r : Running) (sub : Nat) : Prop :=
  (engineOf (clusterOf s cl) e).run = some r ∧ cmdSub r.task.cmd = sub ∧ r.result = none ∧
    operandPoison s cl r.task.cmd.tmpl r.task.cmd.fte = none

/-- The engine's task with its result, and every other part of the engine and of the cluster as it was. -/
abbrev withResult (s : State) (cl e : Nat) (r : Running) (res : List (BitVec 48) × Bool) : State :=
  setEngine s cl e { engineOf (clusterOf s cl) e with run := some { r with result := some res } }

/-- A cask command of a kind is at the head of its cluster's queue, with no halt, on an idle entry; it has reached its entry, or the entry
is a STEP one that it may use (R293, R312). -/
abbrev CaskRuns (s : State) (cl : Nat) (c : Cmd) (sub : Nat) : Prop :=
  (clusterOf s cl).cask.head? = some c ∧ cmdSub c = sub ∧ (clusterOf s cl).caskHalt = none ∧ (entryAt s (ckRent c.tmpl)).busy = false ∧
    entryHeld s (ckRent c.tmpl) (some cl) = false ∧ ((clusterOf s cl).caskBegun = true ∨
      (cmdSaved s c = false ∧ cmdBehind s c (ckRent c.tmpl) = false ∧ entryFail s c.ctxn (entryAt s (ckRent c.tmpl)) .step (ckLid c.tmpl) = none))

/-- The channel's packet is done with. -/
abbrev packetOver (s : State) (chan : Nat) : State := setChan s chan { chanOf s chan with packet := none }

end Sys2Proof.Claims

open Sys2Proof.Claims

/-! Encoding (R41 to R61). -/

/-- R41 to R61: the decoder gives back every well-formed instruction from the word that the encoder gives it, with every operand at every
value that its field holds, and consumes exactly its four bytes. -/
def Obligations.DecodeGivesBackTheEncodedInstruction : Prop :=
  ∀ (i : Instr) (w : Nat), i.wf = true → encode i = some w → w < 2 ^ 32 ∧ decodeBytes (bytesOfWord w) = some (i, [])

/-- R43: a word that decodes is the encoding of the instruction it decodes to, so no bit of it is ignored, and the instruction is well formed. -/
def Obligations.DecodedWordsAreTheirInstructionsEncoding : Prop :=
  ∀ (w : Nat) (i : Instr), w < 2 ^ 32 → decodeWord w = some i → i.wf = true ∧ encode i = some w

namespace Sys2Proof.Claims

/-- Words that the spec prints with the instruction that they encode, or that its tables give bit by bit. -/
def SampleWordsDecode : Prop :=
  decodeTableWord 32 0x1190A009 = some (.add ⟨3, 4, 5, false, false, 9⟩) ∧
  decodeTableWord 32 0x91908000 = some (.fadd ⟨3, 4, 4, false, false, .fp32, 0⟩) ∧
  decodeTableWord 32 0x31910040 = some (.ldw ⟨3, 4, 4, 0⟩) ∧
  decodeTableWord 32 0x60000721 = some (.phase ⟨.cluster, 1⟩) ∧
  decodeTableWord 32 0x70200000 = some (.eret ⟨0⟩) ∧
  decodeTableWord 32 0xC0100800 = some (.garm ⟨4, 0⟩) ∧
  decodeTableWord 32 0xC018EA00 = some (.emit ⟨6, 7, 0⟩) ∧
  decodeTableWord 32 0xC0140B01 = some (.sigh ⟨5, 1⟩) ∧
  decodeTableWord 32 0x3283D800 = some (.lih ⟨5, 0x180, 0⟩) ∧
  decodeTableWord 32 0x58700040 = some (.loop ⟨false, 7, 4, 0⟩) ∧
  decodeTableWord 32 0x5DFFFFD0 = some (.brloop ⟨false, 0x1FFFFD, 0⟩) ∧
  decodeTableWord 32 0x70B00000 = some (.rrbs ⟨0, 0⟩) ∧
  decodeTableWord 32 0x60080400 = some (.tkw ⟨2, false, 0⟩) ∧
  decodeTableWord 32 0x60000520 = some (.tks ⟨0, true, 0⟩) ∧
  decodeTableWord 32 0x62880010 = some (.qpop ⟨5, 2, true, 0⟩) ∧
  decodeTableWord 32 0x60000620 = some (.rdvz ⟨true, 0⟩) ∧
  decodeTableWord 32 0x6190A900 = some (.waitw ⟨3, 4, 5, .eq, 0⟩) ∧
  decodeTableWord 32 0x6010AA00 = some (.hgive ⟨4, 5, 0⟩) ∧
  decodeTableWord 32 0x6214D030 = some (.aadd ⟨4, 5, 6, .cluster, true, 0⟩) ∧
  decodeTableWord 32 0x6014DA50 = some (.ared ⟨5, 6, .die, 0⟩) ∧
  decodeTableWord 32 0x600C0800 = some (.fencx ⟨.copy, .core, .tile, 0⟩) ∧
  decodeTableWord 32 0xE1610002 = some (.phd ⟨5, 0x21, 2⟩) ∧
  decodeTableWord 32 0xF1600400 = some (.pis ⟨5, 0x20, 0x400⟩) ∧
  decodeTableWord 32 0 = none

/-- R43: the all-zero word and every word of class 0000, 1000 or 1101 decode to nothing. -/
def ReservedClassesAreIllegal : Prop :=
  ∀ w < 2 ^ 32, w / 2 ^ 28 = 0 ∨ w / 2 ^ 28 = 8 ∨ w / 2 ^ 28 = 13 → decodeTableWord 32 w = none

end Sys2Proof.Claims

/-- R43: Twenty-three words that the spec prints or whose fields it gives bit by bit decode to the instruction that it names. The all-zero
word and every word of class 0000, 1000 or 1101 decode to nothing. -/
def Obligations.SampleWordsAndReservedWordsDecode : Prop :=
  SampleWordsDecode ∧ ReservedClassesAreIllegal

/-! Reset and steps (R28, R29, R41, R43, R422). -/

namespace Sys2Proof.Claims

/-- R41, R43: a step that an agenda gives to a tile runs, for the ready stream whose turn it is, the instruction that the word at its
ss.pc decodes to, or takes ILLEGAL for a word that decodes to nothing; the core clock then moves one cycle. -/
def NamedStreamsRunTheDecodedInstruction : Prop :=
  ∀ (s s0 u v : State) (t : Nat) (named sk : Strm) (rest : List Mover) (w : Nat), s.agenda = .stream t named :: rest →
    { s with agenda := rest } = s0 → turnOf s0 t named = sk → boundaryDue s0 t sk = false → serve s0 t sk = u →
      fetchCause u t (cur u).pc = none → fetchNext u t sk = (v, w) →
        (∀ i, decodeBytes (bytesOfWord w) = some (i, []) →
          step s = (match exec i v with
            | .next x => .next (passTime x 1)
            | .fault f => .fault f
            | .refused r => .refused r)) ∧
        (decodeBytes (bytesOfWord w) = none →
          step s = (match exec (.illegalInstruction (BitVec.ofNat 32 w)) v with
            | .next x => .next (passTime x 1)
            | .fault f => .fault f
            | .refused r => .refused r))

/-- R29: of the ready streams of a tile the one that comes first after the stream served last moves; it is then the one served last, so
that it comes last at the next turn. -/
def ReadyStreamsAreServedInTurn : Prop :=
  ∀ (s : State) (t : Nat) (named sk : Strm) (pre post : List Strm), boundaryDue s t named = false →
    turnOrder (tileOf s t).served = pre ++ sk :: post → (∀ x ∈ pre, readyNow s t x = false) → readyNow s t sk = true →
      turnOf s t named = sk ∧ (tileOf (serve s t sk) t).served = sk ∧ turnOrder sk = (turnOrder sk).dropLast ++ [sk] ∧
        ∀ x : Strm, x ∈ turnOrder sk

end Sys2Proof.Claims

/-- R28, R29, R41, R43: When the agenda names a stream at an instruction boundary with no late token and no interrupt due, the ready stream
of its tile that comes first after the one served last moves. Where the fetch at its ss.pc raises nothing, a step is exec of the decoded
instruction, or of ILLEGAL for a word that decodes to nothing, after which the core clock moves one cycle. The stream moved is the one
served last. The agenda and the passing of time are the model's schedule (log entry 1). -/
def Obligations.StepsRunTheDecodedInstruction : Prop :=
  NamedStreamsRunTheDecodedInstruction ∧ ReadyStreamsAreServedInTurn

/-- R118, R376, R418, R422: the state after a module reset. The spec gives CLKCUR, the canonical counters, and that no stream runs or is in
its trap context. That memory lists nothing, so that each byte reads as zero, is the model's choice (assumption 2), and so are the zeros of
the stream registers and the full marks of the g registers before a job has started (assumption 129: R118 and R376 speak of job start). -/
def Obligations.ResetStateIsAsSpecified : Prop :=
  State.reset.mem = [] ∧ State.reset.core = 0 ∧ State.reset.pkg.clkcur = 3300 ∧ MemInv State.reset ∧ ClockInv State.reset ∧
    ∀ t sk, (strmAt State.reset t sk).running = false ∧ (strmAt State.reset t sk).tctx = false ∧ (strmAt State.reset t sk).tena = 0 ∧
      (strmAt State.reset t sk).pc = 0 ∧ ∀ r, regAt (strmAt State.reset t sk) r = { val := 0 }

/-- R142, R422: after every step less than one fabric cycle has passed beyond those counted. -/
def Obligations.EveryStepKeepsTheClockFraction : Prop :=
  ∀ s t : State, ClockInv s → step s = .next t → ClockInv t

/-- Every step of a stream leaves memory in its canonical form: addresses strictly rise and no listed byte is the default. -/
def Obligations.StreamStepsKeepMemoryCanonical : Prop :=
  ∀ (s t : State) (u : Nat) (sk : Strm) (rest : List Mover), s.agenda = .stream u sk :: rest → MemInv s → step s = .next t → MemInv t

/-! Frames. -/

/-- A word that writes one general register changes no other register, no flag, no state register, no unit, no other stream and no byte
of memory. -/
def Obligations.RegisterWordsChangeOnlyTheirDestination : Prop :=
  ∀ (i : Instr) (d : BitVec 5) (s t : State), plainDest i = some d → exec i s = .next t →
    (∀ q, q ≠ physReg (cur s) d → regAt (cur t) q = regAt (cur s) q) ∧ (cur t).fe = (cur s).fe ∧ (cur t).srctr = (cur s).srctr ∧
      RegistersKept (cur s) (cur t) ∧ OthersKept s t ∧ UnitsKept s t

/-- R101, R137, R139: a rounding word changes its destination, adds flags to ss.fe bits [13:8], and may step ss.srctr; the rounding mode and
every other register stay. -/
def Obligations.RoundingWordsOnlyAddFlags : Prop :=
  ∀ (i : Instr) (d : BitVec 5) (s t : State), roundingDest i = some d → exec i s = .next t →
    (∀ q, q ≠ physReg (cur s) d → regAt (cur t) q = regAt (cur s) q) ∧
      (∀ n < 64, (n < 8 ∨ 13 < n) → (cur t).fe.getLsbD n = (cur s).fe.getLsbD n) ∧
      (∀ n < 64, (cur s).fe.getLsbD n = true → (cur t).fe.getLsbD n = true) ∧
      ((cur t).srctr = (cur s).srctr ∨ (feRm (cur s) = 5 ∧ (cur t).srctr = (cur s).srctr + 1)) ∧
      RegistersKept (cur s) (cur t) ∧ OthersKept s t ∧ UnitsKept s t

namespace Sys2Proof.Claims

/-- A branch, a jump without a link, LOOP and a token word write no general register, no flag and no byte of memory. -/
def ControlWordsChangeNoRegister : Prop :=
  ∀ (i : Instr) (s t : State), isControl i = true → exec i s = .next t →
    (cur t).regs = (cur s).regs ∧ (cur t).fe = (cur s).fe ∧ (cur t).srctr = (cur s).srctr ∧ RegistersKept (cur s) (cur t) ∧ OthersKept s t ∧
      UnitsKept s t

/-- Such a word changes no other register of its stream, ss.fe only as SSWR of it, ss.srctr only as SSWR of it or as a PIS in mode SR,
and nothing of the other streams. -/
def UnitWordsChangeNoOtherRegister : Prop :=
  ∀ (i : Instr) (s t : State), isUnitWord i = true → exec i s = .next t →
    (∀ q, some q ≠ unitDest s i → regAt (cur t) q = regAt (cur s) q) ∧
      ((∀ o : FormSReg, i = .sswr o → o.num ≠ 0x004) → (cur t).fe = (cur s).fe) ∧
      ((∀ o : FormSReg, i = .sswr o → o.num ≠ 0x005) → (∀ o, i ≠ .pis o) → (cur t).srctr = (cur s).srctr) ∧ OthersKept s t

/-- R296, R300: RQRY and RCNT change no unit but the reuse-table cache of their cluster. -/
def ReuseQueriesChangeNoUnit : Prop :=
  ∀ (i : Instr) (s t : State), (∃ o, i = .rqry o) ∨ (∃ o, i = .rcnt o) → exec i s = .next t →
    t.mem = s.mem ∧ t.dies = s.dies ∧ t.reuse = s.reuse ∧ t.tlb = s.tlb ∧ t.ports = s.ports ∧ t.poison = s.poison ∧ t.wlog = s.wlog ∧
      t.mesh = s.mesh ∧ t.done = s.done ∧ t.pkg = s.pkg ∧ t.boot = s.boot ∧ t.out = s.out ∧ RegistersKept (cur s) (cur t) ∧
      ∀ cl, { clusterOf t cl with rcache := [] } = { clusterOf s cl with rcache := [] }

end Sys2Proof.Claims

/-- R45, R46, R146, R147, R149, R152, R153, R157, R161, R163, R296, R300: BEQ, BNE, BLT, BGE, BLO, BHS, J, JI, LOOP, TKW and TKS leave every
general register, flag, generator word, the other state registers, the units, the other streams and every byte of memory unchanged. BRLOOP,
RRBS, SSWR, QPOP, QPUSH, HTAKE, WAITW, and the words of operand slots, chains, reuse entries, regions, templates, the front end and waits
change no general register but the one that they name (QPUSH the one of the oldest claim), ss.fe and ss.srctr only as SSWR of them (ss.srctr
also as a PIS under SR), and nothing of the other streams. RQRY and RCNT change no unit but the reuse-table cache of their cluster. -/
def Obligations.ControlAndUnitWordsChangeNoOtherRegister : Prop :=
  ControlWordsChangeNoRegister ∧ UnitWordsChangeNoOtherRegister ∧ ReuseQueriesChangeNoUnit

/-- R143: a store writes no general register and changes no byte of memory until it is published; the stream itself then sees every byte
outside the stored ones as before. -/
def Obligations.StoresChangeOnlyTheirBytes : Prop :=
  ∀ (i : Instr) (o : FormM) (n : Nat) (s t : State) (base : Word) (acc : NearAcc), storeForm i = some (o, n) → exec i s = .next t →
    (cur t).regs = (cur s).regs ∧ (cur t).fe = (cur s).fe ∧ t.mem = s.mem ∧ t.clusters = s.clusters ∧ t.dies = s.dies ∧
      (Reads s o.base base → checkNear s s.curTile s.curStrm (base + o.off.signExtend 64 * BitVec.ofNat 64 n) n true false = .ok acc →
        ∀ q, (∀ g ∈ acc.segs, q < g.phys ∨ g.phys + g.len ≤ q) → poisonedAt s q = false →
          loadByte t s.curTile s.curStrm true q = loadByte s s.curTile s.curStrm true q)

/-- R178: an atomic, a fence, a rendezvous and HALT change memory only in bytes of the stream's own posted stores, where nothing is
poisoned; they change no register but an atomic's destination. -/
def Obligations.PublicationChangesOnlyPostedBytes : Prop :=
  ∀ (i : Instr) (d : BitVec 5) (s t : State), publishingDest i = some d → exec i s = .next t → MemInv s → s.poison = [] →
    (∀ q, q ≠ physReg (cur s) d → regAt (cur t) q = regAt (cur s) q) ∧
      (∀ p, (∀ x ∈ (cur s).posted, p < x.addr ∨ x.addr + x.bytes.length ≤ p) → memGet t.mem p = memGet s.mem p) ∧
      ((cur s).posted = [] → t.mem = s.mem) ∧ t.reuse.length = s.reuse.length

/-- R143, R177, R178: no word other than these, no illegal word and no fetch fault changes a byte of memory or its poison. -/
def Obligations.OtherWordsChangeNoByteOfMemory : Prop :=
  (∀ (i : Instr) (w : Nat) (s t : State), encode i = some w → writesMemory i = false → exec i s = .next t →
    t.mem = s.mem ∧ t.poison = s.poison) ∧
  (∀ (w : BitVec 32) (s t : State), exec (.illegalInstruction w) s = .next t → t.mem = s.mem ∧ t.poison = s.poison) ∧
  (∀ s t : State, exec .fetchFault s = .next t → t.mem = s.mem ∧ t.poison = s.poison)

/-! Operands (R29, R45, R120 to R122). -/

namespace Sys2Proof.Claims

/-- R120, R122: a word reads its sources in turn. An empty one raises EMPTY_REG under its trap bit, with the field and the physical
register in ss.tval, and is waited for otherwise; one with a result still to land is waited for; one marked with poison raises POISON with
the address of its mark. SSWR is left out, whose register number is examined first. -/
def EmptyAndMarkedSourcesStopTheWord : Prop :=
  ∀ (i : Instr) (s : State) (pre post : List (BitVec 5 × Bool)) (r : BitVec 5) (ta : Bool) (p : Nat), (∀ o, i ≠ .sswr o) →
    (needsOf i).srcs = pre ++ (r, ta) :: post → canIssue (cur s) = true → (tileOf s s.curTile).cfg = none →
      (∀ x ∈ pre, ∃ v, Reads s x.1 v) → physReg (cur s) r = p → p ≠ 0 →
        ((regAt (cur s) p).full = false → ta = true →
          exec i s = .next (takeTrap s .emptyReg (BitVec.ofNat 64 (r.toNat + 2 ^ 8 * p)) (cur s).pc)) ∧
        ((regAt (cur s) p).full = false → ta = false → exec i s = .next s) ∧
        ((regAt (cur s) p).full = true → landPending (cur s) p = true → exec i s = .next s) ∧
        (∀ a, (regAt (cur s) p).full = true → landPending (cur s) p = false → (regAt (cur s) p).poison = some a →
          exec i s = .next (takeTrap s .poison a (cur s).pc))

/-- R29, R45, R121: a word whose sources read as values waits, with nothing changed, for the tokens that it pops and for an earlier result
that is still to land in its destination. ERET, SSRD, SSWR, RDVZ and PIS are left out, which have tests of their own first. -/
def WordsWaitForTokensAndDestination : Prop :=
  ∀ (i : Instr) (s : State), (∀ o, i ≠ .eret o) → (∀ o, i ≠ .ssrd o) → (∀ o, i ≠ .sswr o) → (∀ o, i ≠ .rdvz o) → (∀ o, i ≠ .pis o) →
    canIssue (cur s) = true → (tileOf s s.curTile).cfg = none → (∀ x ∈ (needsOf i).srcs, ∃ v, Reads s x.1 v) →
      ((cur s).fromLeft < (needsOf i).left ∨ (cur s).fromRight < (needsOf i).right → exec i s = .next s) ∧
      (∀ d, (needsOf i).dst = some d → ¬ Writes s d → exec i s = .next s)

end Sys2Proof.Claims

/-- R29, R45, R120, R121, R122: A word reads its sources in turn. The first that is empty raises EMPTY_REG under its trap bit, with the
field and the physical register in ss.tval, and is waited for without it; one with a result still to land is waited for; one marked with
poison raises POISON with the address of its mark. A word whose sources read as values waits, with nothing changed, for its tokens and for
an earlier result of its destination. The order of the sources is that of their fields, which is the model's choice (log entry 147). -/
def Obligations.WordsWaitForTheirOperandsOrTrap : Prop :=
  EmptyAndMarkedSourcesStopTheWord ∧ WordsWaitForTokensAndDestination

/-! The scalar words (R131 to R139). -/

namespace Sys2Proof.Claims

/-- R131, R133: each two-source word of one cycle writes the value that the spec gives to g[d], g0 discarding it, and goes on. -/
def TwoSourceWordsWriteTheirResult : Prop :=
  ∀ p ∈ twoSourceResults, ∀ (o : FormA2) (s : State) (a b : Word),
    Issues s o.tk → Reads s o.a a → Reads s o.b b → Writes s o.d →
      exec (p.1 o) s = .next (goesOn s (putReg (popped s o.tk) o.d (p.2 a b)) o.tk)

/-- R131, R133: SEL and BINS also read the old g[d], so they wait while it is empty. -/
def SelAndBinsReadTheOldDestination : Prop :=
  ∀ (o : FormA2) (s : State) (a b d : Word),
    Issues s o.tk → Reads s o.a a → Reads s o.b b → Reads s o.d d → Writes s o.d →
      exec (.sel o) s = .next (goesOn s (putReg (popped s o.tk) o.d (if d = 0 then b else a)) o.tk) ∧
      exec (.bins o) s = .next (goesOn s (putReg (popped s o.tk) o.d (binsOf a b d)) o.tk) ∧
      ∀ i < 64, (binsOf a b d).getLsbD i =
        if b.toNat % 64 ≤ i ∧ i < b.toNat % 64 + min (b.toNat / 64 % 128) 64 then a.getLsbD (i - b.toNat % 64) else d.getLsbD i

/-- R129, R131: the product of each multiplication, which lands after its latency while g[d] stays full. -/
def MultiplicationsLandTheirProduct : Prop :=
  ∀ (o : FormA2) (s : State) (a b : Word),
    Issues s o.tk → Reads s o.a a → Reads s o.b b → Writes s o.d →
      exec (.mul o) s = .next (goesOn s (landLater (popped s o.tk) o.d (a * b) .fixed) o.tk) ∧
      exec (.mulh o) s = .next (goesOn s (landLater (popped s o.tk) o.d
        (((a.signExtend 128 * b.signExtend 128) >>> 64).truncate 64) .fixed) o.tk) ∧
      exec (.mulhz o) s = .next (goesOn s (landLater (popped s o.tk) o.d
        (((a.zeroExtend 128 * b.zeroExtend 128) >>> 64).truncate 64) .fixed) o.tk)

/-- R130, R132: each division empties g[d] until its result lands, while no other division of the stream is to land. -/
def DivisionsEmptyTheirRegisterUntilTheyLand : Prop :=
  ∀ p ∈ divisionResults, ∀ (o : FormA2) (s : State) (a b : Word),
    Issues s o.tk → Reads s o.a a → Reads s o.b b → Writes s o.d → (∀ l ∈ (cur s).landings, l.kind ≠ .division) →
      exec (p.1 o) s = .next (goesOn s (landLater (popped s o.tk) o.d (p.2 a b) .division) o.tk) ∧
      ((landLater (popped s o.tk) o.d (p.2 a b) .division).landings =
        (cur s).landings ++ [{ phys := physReg (cur s) o.d, val := p.2 a b, kind := .division }]) ∧
      (physReg (cur s) o.d ≠ 0 →
        (regAt (landLater (popped s o.tk) o.d (p.2 a b) .division) (physReg (cur s) o.d)).full = false)

/-- R131: CLZ counts the zero bits above the highest set bit, POPC the set bits. -/
def CountWordsWriteTheirResult : Prop :=
  ∀ (o : FormA1) (s : State) (a : Word), Issues s o.tk → Reads s o.a a → Writes s o.d →
    (∃ n : Nat, exec (.clz o) s = .next (goesOn s (putReg (popped s o.tk) o.d (BitVec.ofNat 64 n)) o.tk) ∧ n ≤ 64 ∧
      a.toNat < 2 ^ (64 - n) ∧ (n < 64 → 2 ^ (63 - n) ≤ a.toNat)) ∧
    exec (.popc o) s = .next (goesOn s (putReg (popped s o.tk) o.d
      (BitVec.ofNat 64 ((List.range 64).countP fun i => a.getLsbD i))) o.tk)

end Sys2Proof.Claims

/-- R131, R132, R133: Each word of R131 whose sources read as values and whose destination can be written goes on with its result in g[d],
or to land there: the two-source words, SEL and BINS with the old g[d], the three products, the four divisions with their corners, CLZ and
POPC. No flag is set and no trap is raised. -/
def Obligations.IntegerWordsWriteTheirResult : Prop :=
  TwoSourceWordsWriteTheirResult ∧ SelAndBinsReadTheOldDestination ∧ MultiplicationsLandTheirProduct ∧
  DivisionsEmptyTheirRegisterUntilTheyLand ∧ CountWordsWriteTheirResult

namespace Sys2Proof.Claims

/-- R134, R135: the words of a signed immediate, the immediate shifts, and LIH. -/
def ImmediateWordsWriteTheirResult : Prop :=
  (∀ p ∈ immediateResults, ∀ (o : FormI) (s : State) (a : Word), Issues s o.tk → Reads s o.a a → Writes s o.d →
    exec (p.1 o) s = .next (goesOn s (putReg (popped s o.tk) o.d (p.2 a (o.imm.signExtend 64))) o.tk)) ∧
  (∀ p ∈ immediateShifts, ∀ (o : FormISh) (s : State) (a : Word), Issues s o.tk → Reads s o.a a → Writes s o.d →
    exec (p.1 o) s = .next (goesOn s (putReg (popped s o.tk) o.d (p.2 a o.sh.toNat)) o.tk)) ∧
  (∀ (o : FormLih) (s : State), Issues s o.tk → Writes s o.d →
    exec (.lih o) s = .next (goesOn s (putReg (popped s o.tk) o.d (BitVec.ofNat 64 (o.imm.toNat * 2 ^ 49))) o.tk))

/-- R136: LEA adds the scaled index; LEAS does so within 56 bits under the selector of g[a]. -/
def AddressWordsWriteTheirResult : Prop :=
  ∀ (o : FormALea) (s : State) (a b : Word), Issues s o.tk → Reads s o.a a → Reads s o.b b → Writes s o.d →
    exec (.lea o) s = .next (goesOn s (putReg (popped s o.tk) o.d (a + b * BitVec.ofNat 64 (2 ^ o.sc.toNat))) o.tk) ∧
    exec (.leas o) s = .next (goesOn s (putReg (popped s o.tk) o.d
      ((a &&& 0xFF00000000000000) ||| ((a + b * BitVec.ofNat 64 (2 ^ o.sc.toNat)) &&& 0x00FFFFFFFFFFFFFF))) o.tk)

end Sys2Proof.Claims

/-- R134, R135, R136: ADDI, ANDI, ORI, XORI and SLTI use the sign-extended immediate, SHLI, SHRI and SARI shift by theirs, LIH writes its 15
bits at bit 49 over zeros, LEA adds the scaled index and LEAS does so within 56 bits under the selector of g[a]. -/
def Obligations.ImmediateAndAddressWordsWriteTheirResult : Prop :=
  ImmediateWordsWriteTheirResult ∧ AddressWordsWriteTheirResult

namespace Sys2Proof.Claims

/-- R137: FADD, FSUB and FMUL round the exact result once; NV marks ∞ − ∞ and 0 × ∞. -/
def FloatSumsAndProductsRoundOnce : Prop :=
  ∀ (o : FormF2) (s : State) (a b : Word),
    Issues s o.tk → Reads s o.a a → Reads s o.b b → Writes s o.d →
      (∀ r f, floatOut s o.fmt (vadd (floatIn o.fmt a) (floatIn o.fmt b)) = (r, f) →
        exec (.fadd o) s = .next (floatNext s o.d o.tk (BitVec.ofNat 64 r)
          { f with nv := addInvalid (floatIn o.fmt a) (floatIn o.fmt b) })) ∧
      (∀ r f, floatOut s o.fmt (vadd (floatIn o.fmt a) (vneg (floatIn o.fmt b))) = (r, f) →
        exec (.fsub o) s = .next (floatNext s o.d o.tk (BitVec.ofNat 64 r)
          { f with nv := addInvalid (floatIn o.fmt a) (vneg (floatIn o.fmt b)) })) ∧
      (∀ r f, floatOut s o.fmt (vmul (floatIn o.fmt a) (floatIn o.fmt b)) = (r, f) →
        exec (.fmul o) s = .next (floatNext s o.d o.tk (BitVec.ofNat 64 r)
          { f with nv := mulInvalid (floatIn o.fmt a) (floatIn o.fmt b) }))

/-- R137: FFMA rounds x × y + z once, and its NV ignores z for 0 × ∞; FRCP and FRSQ round 1 / x and 1 / √x; FCVT reads its
source by type and rounds to its destination (R138). -/
def FusedReciprocalAndConversionWordsRoundOnce : Prop :=
  (∀ (o : FormF2) (s : State) (a b d : Word) (r : Nat) (f : FFlags),
    Issues s o.tk → Reads s o.a a → Reads s o.b b → Reads s o.d d → Writes s o.d →
      floatOut s o.fmt (vadd (vmul (floatIn o.fmt a) (floatIn o.fmt b)) (floatIn o.fmt d)) = (r, f) →
        exec (.ffma o) s = .next (floatNext s o.d o.tk (BitVec.ofNat 64 r)
          { f with nv := mulInvalid (floatIn o.fmt a) (floatIn o.fmt b) ||
                         addInvalid (vmul (floatIn o.fmt a) (floatIn o.fmt b)) (floatIn o.fmt d) })) ∧
  (∀ (o : FormF1) (s : State) (a : Word), Issues s o.tk → Reads s o.a a → Writes s o.d →
    (∀ r f, frcpOf (fmtOf o.fmt) (feRm (cur s)) (scalarSr s (cur s)) (floatIn o.fmt a) = (r, f) →
      exec (.frcp o) s = .next (floatNext s o.d o.tk (BitVec.ofNat 64 r) f) ∧
        (∀ n e, floatIn o.fmt a = .fin n 0 e → f = { dz := true })) ∧
    (∀ r f, frsqOf (fmtOf o.fmt) (feRm (cur s)) (scalarSr s (cur s)) (floatIn o.fmt a) = (r, f) →
      exec (.frsq o) s = .next (floatNext s o.d o.tk (BitVec.ofNat 64 r) f) ∧
        (∀ m e, floatIn o.fmt a = .fin true m e → m ≠ 0 → r = fnanCode (fmtOf o.fmt) ∧ f = { nv := true }))) ∧
  (∀ (o : FormFCvt) (s : State) (a w : Word) (f : FFlags), Issues s o.tk → Reads s o.a a → Writes s o.d →
    cvtWrite o.dst (feRm (cur s)) (scalarSr s (cur s)) (cvtRead o.src a) = (w, f) →
      exec (.fcvt o) s = .next (floatNext s o.d o.tk w f))

end Sys2Proof.Claims

/-- R98, R101, R129, R137, R138, R139: FADD, FSUB and FMUL round the exact sum, difference or product, FFMA the exact x × y + z, FRCP and
FRSQ 1 / x and 1 / √x, and FCVT its source, once, under ss.fe.RM; NV is set for ∞ − ∞ and 0 × ∞, DZ for ±0, NV for the root of a negative.
The result lands after its latency. The rounding itself is the model's function toFloat. -/
def Obligations.FloatWordsRoundTheirExactResultOnce : Prop :=
  FloatSumsAndProductsRoundOnce ∧ FusedReciprocalAndConversionWordsRoundOnce

/-- R137: FMIN and FMAX order −0 below +0, answer the other operand for one NaN and the canonical NaN for two; FCMP sets one of four bits;
FABS clears the sign bit and FNEG inverts it, but for a NaN. None of them sets a flag or steps the generator. -/
def Obligations.FloatSelectionsSetNoFlag : Prop :=
  (∀ (o : FormF2) (s : State) (a b : Word), Issues s o.tk → Reads s o.a a → Reads s o.b b → Writes s o.d →
    (∀ x y, floatIn o.fmt a = x → floatIn o.fmt b = y →
      exec (.fmin o) s = .next (goesOn s (landLater (popped s o.tk) o.d (BitVec.ofNat 64
        (if visNan x = true ∧ visNan y = true then fnanCode (fmtOf o.fmt)
         else if visNan x = true then fmtBits o.fmt b
         else if visNan y = true then fmtBits o.fmt a
         else if lessOf x y = true then fmtBits o.fmt a else fmtBits o.fmt b)) .fixed) o.tk) ∧
      exec (.fmax o) s = .next (goesOn s (landLater (popped s o.tk) o.d (BitVec.ofNat 64
        (if visNan x = true ∧ visNan y = true then fnanCode (fmtOf o.fmt)
         else if visNan x = true then fmtBits o.fmt b
         else if visNan y = true then fmtBits o.fmt a
         else if lessOf y x = true then fmtBits o.fmt a else fmtBits o.fmt b)) .fixed) o.tk)) ∧
    exec (.fcmp o) s = .next (goesOn s (landLater (popped s o.tk) o.d
      (if visNan (floatIn o.fmt a) = true ∨ visNan (floatIn o.fmt b) = true then 8
       else if vlt (floatIn o.fmt a) (floatIn o.fmt b) = true then 1
       else if vlt (floatIn o.fmt b) (floatIn o.fmt a) = true then 4 else 2) .fixed) o.tk)) ∧
  (∀ (o : FormF1) (s : State) (a : Word), Issues s o.tk → Reads s o.a a → Writes s o.d →
    (∃ r : Nat, exec (.fabs o) s = .next (goesOn s (putReg (popped s o.tk) o.d (BitVec.ofNat 64 r)) o.tk) ∧
      (visNan (floatIn o.fmt a) = true → r = fnanCode (fmtOf o.fmt)) ∧
      (visNan (floatIn o.fmt a) = false → ∀ i, r.testBit i = (decide (i < signOf o.fmt) && a.getLsbD i))) ∧
    (∃ r : Nat, exec (.fneg o) s = .next (goesOn s (putReg (popped s o.tk) o.d (BitVec.ofNat 64 r)) o.tk) ∧
      (visNan (floatIn o.fmt a) = true → r = fnanCode (fmtOf o.fmt)) ∧
      (visNan (floatIn o.fmt a) = false → ∀ i, r.testBit i =
        (if i = signOf o.fmt then !a.getLsbD i else decide (i < signOf o.fmt) && a.getLsbD i))))

/-! Control flow (R28, R45, R146 to R156). -/

namespace Sys2Proof.Claims

/-- R146, R151: a taken branch goes to its own offset plus 4 × off and clears the ACT bits that its target leaves; one not taken
goes on. -/
def BranchesGoToTheirTarget : Prop :=
  ∀ p ∈ branchConditions, ∀ (o : FormB) (s : State) (a b : Word), Issues s o.tk → Reads s o.a a → Reads s o.b b →
    exec (p.1 o) s =
      .next (if p.2 a b then jumpsTo s (clearActs (popped s o.tk) ((cur s).pc + 4 * o.off.signExtend 64)) o.tk
               ((cur s).pc + 4 * o.off.signExtend 64)
             else goesOn s (popped s o.tk) o.tk)

/-- R147, R151: the jumps; JL and JLI write the offset of the following word, and only J and JI clear ACT bits. -/
def JumpsGoToTheirTargetAndLink : Prop :=
  (∀ (o : FormJ) (s : State), Issues s o.tk →
    exec (.j o) s = .next (jumpsTo s (clearActs (popped s o.tk) ((cur s).pc + 4 * o.off.signExtend 64)) o.tk
      ((cur s).pc + 4 * o.off.signExtend 64)) ∧
    (Writes s 15 → exec (.jl o) s = .next (jumpsTo s (putReg (popped s o.tk) 15 ((cur s).pc + 4)) o.tk
      ((cur s).pc + 4 * o.off.signExtend 64)))) ∧
  (∀ (o : FormAJ) (s : State) (a : Word), Issues s o.tk → Reads s o.a a →
    exec (.ji o) s = .next (jumpsTo s (clearActs (popped s o.tk) a) o.tk a)) ∧
  (∀ (o : FormA1) (s : State) (a : Word), Issues s o.tk → Reads s o.a a → Writes s o.d →
    exec (.jli o) s = .next (jumpsTo s (putReg (popped s o.tk) o.d ((cur s).pc + 4)) o.tk a))

end Sys2Proof.Claims

/-- R146, R147: A branch whose condition holds goes to its address plus 4 × off9, and another goes on. J, JL, JI and JLI go to their
targets; JL and JLI write the offset of the next word, JLI after reading g[a]. -/
def Obligations.BranchesAndJumpsGoToTheirTarget : Prop :=
  BranchesGoToTheirTarget ∧ JumpsGoToTheirTargetAndLink

/-- R149, R152, R153: LOOP sets up its registers and enters or skips the body; BRLOOP counts, rotates and branches back while
more than one pass was left, and changes no loop register but CNT and IDX; RRBS sets the rotating base. That a LOOP which goes on is looked
at by the loop-end rule of R150, and one which skips its body keeps its own target, is the model's reading (assumption 13). -/
def Obligations.LoopWordsSetTheirRegisters : Prop :=
  (∀ (o : FormLoop) (s : State) (a : Word), Issues s o.tk → Reads s o.a a →
    ∃ l : LoopRegs, exec (.loop o) s = .next
        (if l.act ∨ o.off = 0 then goesOn s (withLoop (popped s o.tk) o.lcb l) o.tk
         else jumpsTo s (withLoop (popped s o.tk) o.lcb l) o.tk ((cur s).pc + 4 * o.off.zeroExtend 64 + 4)) ∧
      l.start = ((cur s).pc + 4).truncate 20 ∧ l.last = ((cur s).pc + 4 * o.off.zeroExtend 64).truncate 20 ∧ l.idx = 0 ∧
      l.act = (decide (a.truncate 32 ≠ (0 : BitVec 32)) && decide (o.off ≠ 0)) ∧
      l.cnt = if l.act then a.truncate 32 else 0) ∧
  (∀ (o : FormBrLoop) (s : State) (l : LoopRegs), Issues s o.tk → loopOf (cur s) o.lcb = l →
    ∃ x : Stream, x = { withLoop (popped s o.tk) o.lcb { l with cnt := if l.cnt = 0 then 0 else l.cnt - 1, idx := l.idx + 1 } with
          rrb := (cur s).rrb - 1 } ∧
      exec (.brloop o) s =
        .next (if 1 < l.cnt.toNat then jumpsTo s x o.tk ((cur s).pc + 4 * o.off.signExtend 64) else goesOn s x o.tk)) ∧
  (∀ (o : FormRrbs) (s : State), Issues s o.tk → exec (.rrbs o) s = .next (goesOn s { popped s o.tk with rrb := o.n } o.tk))

namespace Sys2Proof.Claims

/-- R28, R45, R155: a word that goes on where no loop ends leaves ss.pc at the next word, and one with a target of its own leaves ss.pc
there, with both loops as they were; each pushes its tokens to neighbours with room. -/
def RetirementMovesToTheNextWord : Prop :=
  ∀ (s : State) (tk : BitVec 4), PushRoom s tk →
    (NoLoopEnd (cur s) → RetiresTo s (retire s tk .seq) tk ((cur s).pc + 4)) ∧
    (∀ p : Word, RetiresTo s (retire s tk (.jump p)) tk p ∧ (cur (retire s tk (.jump p))).lca = (cur s).lca ∧
      (cur (retire s tk (.jump p))).lcb = (cur s).lcb)

/-- R151: a taken branch or jump clears the ACT bit of each active loop whose range from START to END its target leaves, and changes
nothing else; in the trap context it clears none (R378). -/
def TakenBranchesLeaveLoops : Prop :=
  ∀ (st : Stream) (target : Word) (lcb : Bool) (l : LoopRegs), loopOf st lcb = l →
    loopOf (clearActs st target) lcb =
      (if st.tctx = false ∧ l.act = true ∧ (target.toNat < l.start.toNat ∨ l.last.toNat < target.toNat) then { l with act := false } else l) ∧
    { clearActs st target with lca := st.lca, lcb := st.lcb } = st

/-- R150: at the END of one active loop, or of both with the inner one first, a loop with more than one pass left goes back to START
with IDX raised and CNT lowered; a loop with one pass left, or none, has CNT 0 and ACT cleared, and where no loop goes back ss.pc goes on.
The inner loop is the one with the greater START, or lca. The trap context takes no part (R378). -/
def HardwareLoopsGoBackAtTheirEnd : Prop :=
  (∀ (st : Stream) (lcb : Bool) (l : LoopRegs), st.tctx = false → loopOf st lcb = l → loopHit l st.pc = true →
    loopHit (loopOf st (!lcb)) st.pc = false →
      (1 < l.cnt.toNat → nextSeq st = { withLoop st lcb (onePass l) with pc := l.start.zeroExtend 64 }) ∧
      (l.cnt.toNat ≤ 1 → nextSeq st = { withLoop st lcb (lastPass l) with pc := st.pc + 4 })) ∧
  (∀ (st : Stream) (lcb : Bool) (l m : LoopRegs), st.tctx = false → lcb = decide (st.lca.start.toNat < st.lcb.start.toNat) →
    loopOf st lcb = l → loopOf st (!lcb) = m → loopHit l st.pc = true → loopHit m st.pc = true →
      (1 < l.cnt.toNat → nextSeq st = { withLoop st lcb (onePass l) with pc := l.start.zeroExtend 64 }) ∧
      (l.cnt.toNat ≤ 1 → 1 < m.cnt.toNat →
        nextSeq st = { withLoop (withLoop st lcb (lastPass l)) (!lcb) (onePass m) with pc := m.start.zeroExtend 64 }) ∧
      (l.cnt.toNat ≤ 1 → m.cnt.toNat ≤ 1 →
        nextSeq st = { withLoop (withLoop st lcb (lastPass l)) (!lcb) (lastPass m) with pc := st.pc + 4 })) ∧
  (∀ st : Stream, st.tctx = true ∨ (loopHit st.lca st.pc = false ∧ loopHit st.lcb st.pc = false) → nextSeq st = { st with pc := st.pc + 4 })

/-- R156, R378: a push to a full FIFO pushes nothing there and raises TOKEN_OVER at the boundary that follows, with the failed sides
in ss.tval, after the instruction's effect; the trap context records the next word. -/
def FullTokenFifoRaisesTokenOver : Prop :=
  ∀ (s : State) (tk : BitVec 4), NoLoopEnd (cur s) → TakesInContext (cur s) .tokenOver → (tileOf s s.curTile).cfg = none →
    tkSR tk = true → tkSL tk = false → pushedTokens s s.curTile s.curStrm true = 8 →
      (cur (retire s tk .seq)).epc = (cur s).pc + 4 ∧ (cur (retire s tk .seq)).cause = 0x0A ∧ (cur (retire s tk .seq)).tval = 1 ∧
      (cur (retire s tk .seq)).tctx = true ∧ (cur (retire s tk .seq)).pc = (cur s).tvec ∧
      (cur (retire s tk .seq)).regs = (cur s).regs ∧
      pushedTokens (retire s tk .seq) s.curTile s.curStrm true = 8

end Sys2Proof.Claims

/-- R28, R45, R150, R151, R155, R156, R378: A word that retires where no loop ends goes on at the next word, one with a target of its own
goes there, and its tokens reach both neighbours. A taken branch clears ACT of each loop whose range its target leaves. At the END of one
active loop, or of both with the inner one first, the loop goes back or ends, and in the trap context it does neither. A push to a full FIFO
pushes nothing and raises TOKEN_OVER after the word's effect. -/
def Obligations.RetirementsGoOnLoopBackOrReportTokens : Prop :=
  RetirementMovesToTheNextWord ∧ TakenBranchesLeaveLoops ∧ HardwareLoopsGoBackAtTheirEnd ∧ FullTokenFifoRaisesTokenOver

/-! Near accesses and atomics (R140 to R145, R163, R169 to R173). -/

/-- R140, R141, R142: the checks of a near address in order: alignment first, then the selector, then for the own scratchpad the bounds
and the ownership, for a handle its holder and the bounds of its buffer, for L2 the bounds and the translation, and for the state window
the width, the kind of access and the words that it has. -/
def Obligations.NearAddressChecksComeInOrder : Prop :=
  ∀ (s : State) (t : Nat) (sk : Strm) (a : Word) (n : Nat) (write atomic : Bool),
    (n ≤ 8 → wf64 a 55 0 % n ≠ 0 → checkNear s t sk a n write atomic = .error (.trap .align a)) ∧
    ((n ≤ 8 → wf64 a 55 0 % n = 0) → (nearSel a = 0 ∨ 4 < nearSel a) →
      checkNear s t sk a n write atomic = .error (.trap .accessPath a)) ∧
    ((n ≤ 8 → wf64 a 55 0 % n = 0) → nearSel a = 1 →
      checkNear s t sk a n write atomic =
        if 2 ^ 19 < wf64 a 55 0 + n then .error (.trap .nearBounds a)
        else if foreignBuffer s t sk (wf64 a 55 0) n = true then .error (.trap .owner a)
        else .ok { segs := [{ phys := scratchBase t + wf64 a 55 0, len := n, at_ := a.toNat }] }) ∧
    (∀ h e off, (n ≤ 8 → wf64 a 55 0 % n = 0) → nearSel a = 2 → wf64 a 55 40 = h → handleAt s t h = e → wf64 a 39 0 = off →
      checkNear s t sk a n write atomic =
        if handleValid s t h = false ∨ heldBy e t sk = false then .error (.trap .owner a)
        else if hSize e * 64 < off + n then .error (.trap .nearBounds a)
        else .ok { segs := [{ phys := scratchBase (tileCluster t * 8 + hHome e) + hBase e * 64 + off, len := n, at_ := a.toNat }]
                   loc := false }) ∧
    ((n ≤ 8 → wf64 a 55 0 % n = 0) → nearSel a = 3 → 2 ^ 32 < wf64 a 55 0 + n →
      checkNear s t sk a n write atomic = .error (.trap .nearBounds a)) ∧
    (n ∈ [1, 2, 4, 8] → wf64 a 55 0 % n = 0 → nearSel a = 3 → wf64 a 55 0 + n ≤ 2 ^ 32 →
      checkNear s t sk a n write atomic =
        match xlL2 s (.core t) (ctxnOf s t) (wf64 a 55 0) write with
        | .ok p w => .ok { segs := [{ phys := p + wf64 a 55 0 % 2 ^ 16, len := n, watch := w, at_ := 3 * 2 ^ 56 + wf64 a 55 0 }], loc := false }
        | .fault sub => .error (.trap .page a sub)
        | .dup _ _ => .error (.trap .page a 3)) ∧
    ((n ≤ 8 → wf64 a 55 0 % n = 0) → nearSel a = 4 →
      checkNear s t sk a n write atomic =
        if n ≠ 8 then .error (.trap .align a)
        else if atomic = true then .error (.trap .accessPath a)
        else if wf64 a 55 0 ∈ [0, 8, 0x10, 0x18] ∨ (0x100 ≤ wf64 a 55 0 ∧ wf64 a 55 0 < 0x180) then .ok { win := some (wf64 a 55 0) }
        else .error (.trap .nearBounds a))

/-- R119, R122, R143, R144: a load whose address passes its checks sends its value to g[r]; a local one lands after a fixed latency,
another leaves g[r] empty until it lands. Poison traps a local load, with nothing in ss.tval (R376), and marks what another returns. A load
of a byte that an atomic of the stream has still to reach waits (R145). -/
def Obligations.NearLoadsReturnTheBytesSeen : Prop :=
  ∀ p ∈ nearLoads, ∀ (o : FormM) (s : State) (base : Word) (acc : NearAcc) (x : Stream),
    Issues s o.tk → Reads s o.base base → Writes s o.r →
      checkNear s s.curTile s.curStrm (mAddr o base p.2.2) p.2.2 false false = .ok acc →
        segSeen s s.curTile s.curStrm (popped s o.tk) acc.segs = x →
        (segAtomic s s.curTile s.curStrm acc.segs = true → exec (p.1 o) s = .next s) ∧
        (segAtomic s s.curTile s.curStrm acc.segs = false →
          (segPoison s s.curTile s.curStrm acc.segs = false →
            exec (p.1 o) s = .next (goesOn s (landLater x o.r (loadedValue s acc p.2.1 p.2.2)
              (if acc.loc then .own else .load)) o.tk)) ∧
          (segPoison s s.curTile s.curStrm acc.segs = true → acc.loc = false →
            exec (p.1 o) s = .next (goesOn s (landLater x o.r (loadedValue s acc p.2.1 p.2.2) .load
              (some (mAddr o base p.2.2))) o.tk)) ∧
          (segPoison s s.curTile s.curStrm acc.segs = true → acc.loc = true →
            exec (p.1 o) s = .next (takeTrap s .poison 0 (cur s).pc)))

namespace Sys2Proof.Claims

/-- R143: a store whose address passes its checks is posted: its bytes join the stream's unpublished stores, and no byte of memory
changes yet. -/
def NearStoresArePosted : Prop :=
  ∀ p ∈ nearStores, ∀ (o : FormM) (s : State) (base v : Word) (g : Seg),
    Issues s o.tk → Reads s o.base base → Reads s o.r v → NoLoopEnd (cur s) → PushRoom s o.tk →
      checkNear s s.curTile s.curStrm (mAddr o base p.2) p.2 true false = .ok { segs := [g], loc := (nearSel (mAddr o base p.2) == 1) } →
        g.len = p.2 →
        ∃ t w, exec (p.1 o) s = .next t ∧ t.mem = s.mem ∧ (cur t).regs = (cur s).regs ∧ (cur t).pc = (cur s).pc + 4 ∧
          (cur t).posted = (cur s).posted ++
            [{ addr := g.phys, bytes := leBytes p.2 v.toNat, watch := w, heads := (cur s).rels, near := g.at_ }]

/-- R107, R142: a store to a format-table word of the state window writes the entry of the stream's tile at once; a store to another
word of the window changes nothing. -/
def WindowStoresWriteTheFormatTable : Prop :=
  ∀ (o : FormM) (s : State) (base v : Word) (off : Nat),
    Issues s o.tk → Reads s o.base base → Reads s o.r v → NoLoopEnd (cur s) → PushRoom s o.tk →
      checkNear s s.curTile s.curStrm (mAddr o base 8) 8 true false = .ok { win := some off } →
        ∃ t, exec (.std o) s = .next t ∧ t.mem = s.mem ∧ (cur t).posted = (cur s).posted ∧
          (0x100 ≤ off → off < 0x180 → ftAt t s.curTile ((off - 0x100) / 8) = v) ∧
          (off < 0x100 → (tileOf t s.curTile).ft = (tileOf s s.curTile).ft)

/-- R145, R180: a stream's own near load sees its own posted bytes at once, and every byte outside them as before. -/
def OwnLoadsSeeOwnStores : Prop :=
  ∀ (s : State) (t : Nat) (sk : Strm) (g : Seg) (bs : List Byte) (p : Nat), bs.length = g.len → poisonedAt s p = false →
    (∀ i (h : i < bs.length), p = g.phys + i → loadByte (postSegs s t sk [g] bs) t sk true p = bs[i]) ∧
    ((p < g.phys ∨ g.phys + g.len ≤ p) → loadByte (postSegs s t sk [g] bs) t sk true p = loadByte s t sk true p) ∧
    (∀ u j q, (u, j) ≠ (t, sk) → loadByte (postSegs s t sk [g] bs) u j true q = loadByte s u j true q)

end Sys2Proof.Claims

/-- R106, R107, R142, R143, R145, R180: A store to memory joins the posted stores of its stream and changes no byte of memory; the stream's
own loads see its bytes at once, and no other stream does. A store to the state window writes a format-table word, or nothing elsewhere in
the window. -/
def Obligations.NearStoresArePostedOrWriteTheWindow : Prop :=
  NearStoresArePosted ∧ WindowStoresWriteTheFormatTable ∧ OwnLoadsSeeOwnStores

namespace Sys2Proof.Claims

/-- R169, R171: an atomic whose address passes its checks enters its port's queue after the stream's own stores to the line have
been published; its register stays empty until the old value returns. ACAS also reads the old g[d], and ARED captures its mode and
random word. While the stream has both an unpublished store to the line and an earlier atomic to it at the port, the atomic waits. -/
def AtomicsWaitForTheirLineAndIssue : Prop :=
  (∀ p ∈ atomicWords, ∀ (o : FormAtomic) (s : State) (a b : Word) (acc : NearAcc),
    Issues s o.tk → Reads s o.a a → Reads s o.b b → Writes s o.d →
      checkNear s s.curTile s.curStrm a (if o.narrow then 4 else 8) true true = .ok acc →
        exec (p.1 o) s = .next
          (if lineReady s (accAddr acc).1 then
            retire (sendAtomic (setCur s (clearFull (popped s o.tk) (physReg (cur s) o.d)))
              (.atomic p.2 o.narrow b 0) acc a o.scope (if physReg (cur s) o.d = 0 then none else some (physReg (cur s) o.d))) o.tk .seq
           else s)) ∧
  (∀ (o : FormAtomic) (s : State) (a b c : Word) (acc : NearAcc),
    Issues s o.tk → Reads s o.a a → Reads s o.b b → Reads s o.d c → Writes s o.d →
      checkNear s s.curTile s.curStrm a (if o.narrow then 4 else 8) true true = .ok acc →
        exec (.acas o) s = .next
          (if lineReady s (accAddr acc).1 then
            retire (sendAtomic (setCur s (clearFull (popped s o.tk) (physReg (cur s) o.d)))
              (.atomic .cas o.narrow b c) acc a o.scope (if physReg (cur s) o.d = 0 then none else some (physReg (cur s) o.d))) o.tk .seq
           else s)) ∧
  (∀ (o : FormAred) (s : State) (a b : Word) (acc : NearAcc),
    Issues s o.tk → Reads s o.a a → Reads s o.b b →
      checkNear s s.curTile s.curStrm a 4 true true = .ok acc →
        exec (.ared o) s = .next
          (if lineReady s (accAddr acc).1 then
            retire (sendAtomic (setCur s (stepSr (popped s o.tk)))
              (.fadd32 (b.truncate 32) (BitVec.ofNat 3 (feRm (cur s))) (BitVec.ofNat 32 (scalarSr s (cur s)))) acc a o.scope none) o.tk .seq
           else s)) ∧
  (∀ (s : State) (p : Nat), ((∀ x ∈ (cur s).posted, ∀ i < x.bytes.length, lineOf (x.addr + i) ≠ lineOf p) ∨
      (∀ y ∈ atomicsOf s s.curTile s.curStrm, lineOf y.addr ≠ lineOf p)) → lineReady s p = true)

/-- R169, R172, R177: what reaching the port does: the stream's unpublished stores to the line stand in memory and are no longer posted,
its other stores stay posted, the stream's writes to the line are published at the atomic's scope, and the request joins the port's
queue last, with the release points before it. -/
def SendingAnAtomicPublishesItsLine : Prop :=
  ∀ (s t : State) (kind : PortKind) (acc : NearAcc) (near : Word) (sc : Scope) (dest : Option Nat) (p : Nat) (w : Bool),
    accAddr acc = (p, w) → sendAtomic s kind acc near sc dest = t →
      t.ports = s.ports ++ [{ kind := kind, addr := p, near := near, tile := s.curTile, strm := s.curStrm, scope := sc, path := .core
                              dest := dest, watch := w, heads := (cur s).rels, ctxn := ctxnOf s s.curTile }] ∧
      (cur t).posted = (cur s).posted.filter (fun x => !onLine p x) ∧ (cur t).regs = (cur s).regs ∧
      (∀ x ∈ t.wlog, ownWrite s.curTile s.curStrm x = true → lineOf x.addr = lineOf p → scopeGe x.scope sc = true) ∧
      (MemInv s → s.poison = [] → (∀ x ∈ (cur s).posted, x.placed = none) →
        ∀ q, memGet t.mem q = (postedByte ((cur s).posted.filter (onLine p)) q).getD (memGet s.mem q))

end Sys2Proof.Claims

/-- R137, R169, R171, R172, R177: Each atomic and ARED waits while the stream has both an unpublished store to its line and an earlier
atomic to it at the port. It then puts the stream's unpublished stores to the line in memory, publishes the stream's writes to the line at
its scope, joins its port's queue last and goes on; its destination, unless g0, stays empty until the old value returns. ACAS captures the
old g[d], and ARED its rounding mode and random word. -/
def Obligations.AtomicsEnterTheirPort : Prop :=
  AtomicsWaitForTheirLineAndIssue ∧ SendingAnAtomicPublishesItsLine

namespace Sys2Proof.Claims

/-- R170: what a port writes and returns for each atomic, in both widths. -/
def AtomicsReplaceTheirWord : Prop :=
  (∀ (op : AtomicOp) (old b c : Word),
    portNew (.atomic op false b c) old.toNat = (atomicNewValue 64 old b c op).map BitVec.toNat ∧
    portReturn (.atomic op false b c) old.toNat = old) ∧
  (∀ (op : AtomicOp) (old : BitVec 32) (b c : Word),
    portNew (.atomic op true b c) old.toNat = (atomicNewValue 32 old (b.truncate 32) (c.truncate 32) op).map BitVec.toNat ∧
    portReturn (.atomic op true b c) old.toNat = if op = .minz ∨ op = .maxz then old.zeroExtend 64 else old.signExtend 64)

/-- R172, R173: an atomic at the head of its line, on a line that is not poisoned, replaces the word and leaves every other byte; the value
it returns is the one replaced. An atomic on a poisoned line leaves memory as it was. Which stream's request is applied next is open
(assumption 59). -/
def AtomicPortAppliesOneWord : Prop :=
  ∀ (s : State) (n : Nat) (x : PortOp), MemInv s → s.ports[n]? = some x →
    (∀ y ∈ s.ports.take n, ¬ (y.tile = x.tile ∧ y.strm = x.strm ∧ y.path = x.path ∧ lineOf y.addr = lineOf x.addr)) →
      (spanPoisoned s (lineOf x.addr * 64) 64 = false → portBytes x.kind ∣ 64 → x.addr % portBytes x.kind = 0 →
        ∃ t, exec (.atomicPortApply n) s = .next t ∧ t.ports = ldrop s.ports n ∧
          (∀ v, portNew x.kind (readNat s x.addr (portBytes x.kind)) = some v →
            readNat t x.addr (portBytes x.kind) = v % 2 ^ (8 * portBytes x.kind)) ∧
          (portNew x.kind (readNat s x.addr (portBytes x.kind)) = none → t.mem = s.mem) ∧
          (∀ q, (q < x.addr ∨ x.addr + portBytes x.kind ≤ q) → memGet t.mem q = memGet s.mem q) ∧
          (∀ r, x.dest = some r →
            (strmAt t x.tile x.strm).landings = (strmAt s x.tile x.strm).landings ++
              [{ phys := r, val := portReturn x.kind (readNat s x.addr (portBytes x.kind)), kind := .load }])) ∧
      (spanPoisoned s (lineOf x.addr * 64) 64 = true →
        ∃ t, exec (.atomicPortApply n) s = .next t ∧ t.mem = s.mem ∧ ∀ y ∈ t.ports, lineOf y.addr ≠ lineOf x.addr)

end Sys2Proof.Claims

/-- R170, R172, R173: Each of the ten operations, in both widths, writes the value of R170's table and returns the old word, extended as its
width asks. The port replaces exactly that word, changes no other byte, and lands the old value; on a poisoned line nothing changes. The
oldest request of a stream to a line is applied first, and which of the streams' is open (log entry 59). -/
def Obligations.AtomicsReplaceTheirWordAndReturnTheOld : Prop :=
  AtomicsReplaceTheirWord ∧ AtomicPortAppliesOneWord

namespace Sys2Proof.Claims

/-- R145, R163: WAITW on a word that meets its condition, with the stream's own unpublished bytes in it, writes it to g[d] and goes on; on
one that does not, the stream waits and its port holds the comparison. Poison traps the first test, and an atomic of the stream to the
line is waited for. A WAITW that waits goes on once a test has held, with the value of that test. -/
def WaitwReturnsTheWordThatMeetsItsCondition : Prop :=
  (∀ (o : FormWaitw) (s : State) (a b v : Word) (g : Seg),
    Issues s o.tk → Reads s o.a a → Reads s o.b b → Writes s o.d → watchOf s s.curTile s.curStrm = none →
      checkNear s s.curTile s.curStrm a 8 false true = .ok { segs := [g], loc := (nearSel a == 1) } →
      watchWord s.mem (ownBytes (cur s) g.phys) g.phys = v →
        ((∃ x ∈ atomicsOf s s.curTile s.curStrm, lineOf x.addr = lineOf g.phys) → exec (.waitw o) s = .next s) ∧
        ((∀ x ∈ atomicsOf s s.curTile s.curStrm, lineOf x.addr ≠ lineOf g.phys) →
          (spanPoisoned s g.phys 8 = true → exec (.waitw o) s = .next (takeTrap s .poison a (cur s).pc)) ∧
          (spanPoisoned s g.phys 8 = false → ccHolds o.cc v b = true → NoLoopEnd (cur s) → PushRoom s o.tk →
            ∃ t, exec (.waitw o) s = .next t ∧ (cur t).pc = (cur s).pc + 4 ∧ t.mem = s.mem ∧
              (physReg (cur s) o.d ≠ 0 → regAt (cur t) (physReg (cur s) o.d) = { val := v })) ∧
          (spanPoisoned s g.phys 8 = false → ccHolds o.cc v b = false →
            exec (.waitw o) s = .next { s with watches := s.watches ++
              [{ tile := s.curTile, strm := s.curStrm, addr := g.phys, cc := o.cc, cmp := b, own := ownBytes (cur s) g.phys
                 near := a, ctxn := ctxnOf s s.curTile }] }))) ∧
  (∀ (o : FormWaitw) (s : State) (a b : Word) (x : Watch),
    Issues s o.tk → Reads s o.a a → Reads s o.b b → Writes s o.d → watchOf s s.curTile s.curStrm = some x →
      (x.got = none → exec (.waitw o) s = .next s) ∧
      (∀ v, x.got = some v → NoLoopEnd (cur s) → PushRoom s o.tk →
        ∃ t, exec (.waitw o) s = .next t ∧ (cur t).pc = (cur s).pc + 4 ∧ t.mem = s.mem ∧ watchOf t s.curTile s.curStrm = none ∧
          (physReg (cur s) o.d ≠ 0 → regAt (cur t) (physReg (cur s) o.d) = { val := v })))

/-- R163: every write that meets the word of a WAITW that waits is followed by a test of it: the word as the port then holds it, with the
stream's own unpublished bytes, is kept where it meets the condition. -/
def WritesTestTheWaitingComparisons : Prop :=
  ∀ (s t : State) (g : Agent) (p : Nat) (bs : List Byte) (x : Watch) (v : Word), writeAt s g p bs = t → x ∈ s.watches →
    watchWord t.mem x.own x.addr = v →
      (x.got = none → x.addr < p + bs.length → p < x.addr + 8 →
        (if ccHolds x.cc v x.cmp then { x with got := some v, gotAt := t.wnext } else x) ∈ t.watches) ∧
      (x.got ≠ none ∨ p + bs.length ≤ x.addr ∨ x.addr + 8 ≤ p → x ∈ t.watches)

end Sys2Proof.Claims

/-- R145, R163: With no comparison of its own outstanding, WAITW writes a word that meets its condition to g[d] and goes on, leaves its
comparison at the port for one that does not, traps POISON where its first test finds poison, and waits for an earlier atomic of the stream
to the line. A write of a byte of the word tests the comparison again, and a test that holds lets the stream go on with the value of that
test. -/
def Obligations.WaitwWaitsForItsCondition : Prop :=
  WaitwReturnsTheWordThatMeetsItsCondition ∧ WritesTestTheWaitingComparisons

/-! Tokens, queues, rendezvous, fences and handles (R154 to R187). -/

/-- R157: TKW pops its tokens together and TKS pushes them together; a TKS without room for all pushes none and raises TOKEN_OVER with
the count in ss.tval. -/
def Obligations.TokenWordsMoveTheirTokensTogether : Prop :=
  (∀ (o : FormTk) (s : State), Issues s o.tk →
    o.n1.toNat + 1 + (if (if o.right then tkWR o.tk else tkWL o.tk) then 1 else 0) ≤ tokens (cur s) o.right →
      exec (.tkw o) s = .next (goesOn s (popTokens (popped s o.tk) o.right (o.n1.toNat + 1)) o.tk) ∧
      tokens (popTokens (popped s o.tk) o.right (o.n1.toNat + 1)) o.right =
        tokens (cur s) o.right - (o.n1.toNat + 1 + (if (if o.right then tkWR o.tk else tkWL o.tk) then 1 else 0))) ∧
  (∀ (o : FormTk) (s : State), Issues s o.tk →
    pushedTokens s s.curTile s.curStrm o.right + (o.n1.toNat + 1) + (if (if o.right then tkSR o.tk else tkSL o.tk) then 1 else 0) ≤ 8 →
      exec (.tks o) s =
        .next (retire (pushN (setCur s (popped s o.tk)) s.curTile s.curStrm o.right (o.n1.toNat + 1)) o.tk .seq) ∧
      pushedTokens (pushN (setCur s (popped s o.tk)) s.curTile s.curStrm o.right (o.n1.toNat + 1)) s.curTile s.curStrm o.right =
        pushedTokens s s.curTile s.curStrm o.right + (o.n1.toNat + 1)) ∧
  (∀ (o : FormTk) (s : State), Issues s o.tk →
    8 < pushedTokens s s.curTile s.curStrm o.right + (o.n1.toNat + 1) + (if (if o.right then tkSR o.tk else tkSL o.tk) then 1 else 0) →
      exec (.tks o) s = .next (takeTrap s .tokenOver (BitVec.ofNat 64 (o.n1.toNat + 1)) (cur s).pc))

namespace Sys2Proof.Claims

/-- R158 to R161: QPOP takes the first held word, or claims the next reply and leaves g[d] empty; QPEEK leaves the word; QPUSH appends a
word or fills the oldest claim; QCNT counts. QUNDER and QOVER name the two misuses. -/
def QueueWordsFollowTheirQueue : Prop :=
  (∀ (o : FormQPop) (s : State) (w : Word) (rest : List Word), Issues s o.tk → Writes s o.d →
    (qreg (cur s) o.q.toNat).held = w :: rest →
      exec (.qpop o) s = .next (goesOn s (putReg (setQreg (learn (popped s o.tk) (headKnow (qreg (cur s) o.q.toNat))) o.q.toNat
        { qreg (cur s) o.q.toNat with held := rest, know := (qreg (cur s) o.q.toNat).know.drop 1 }) o.d w) o.tk) ∧
      exec (.qpeek o) s =
        .next (goesOn s (putReg (learn (popped s o.tk) (headKnow (qreg (cur s) o.q.toNat))) o.d w) o.tk)) ∧
  (∀ (o : FormQPop) (s : State), Issues s o.tk → Writes s o.d → (qreg (cur s) o.q.toNat).held = [] →
    (o.t = true ∨ freeOwed (qreg (cur s) o.q.toNat) = 0 →
      exec (.qpeek o) s = .next (takeTrap s .qunder 0 (cur s).pc) ∧ exec (.qpop o) s = .next (takeTrap s .qunder 0 (cur s).pc)) ∧
    (o.t = false → 0 < freeOwed (qreg (cur s) o.q.toNat) →
      exec (.qpeek o) s = .next s ∧
      exec (.qpop o) s = .next (goesOn s (clearFull (setQreg (popped s o.tk) o.q.toNat
        { qreg (cur s) o.q.toNat with claims := (qreg (cur s) o.q.toNat).claims ++ [physReg (cur s) o.d] }) (physReg (cur s) o.d)) o.tk))) ∧
  (∀ (o : FormQPush) (s : State) (b : Word), Issues s o.tk → Reads s o.b b →
    ((qreg (cur s) o.q.toNat).held.length + (qreg (cur s) o.q.toNat).owed < 4 → (qreg (cur s) o.q.toNat).claims = [] →
      exec (.qpush o) s = .next (goesOn s (setQreg (popped s o.tk) o.q.toNat
        { qreg (cur s) o.q.toNat with held := (qreg (cur s) o.q.toNat).held ++ [b], know := (qreg (cur s) o.q.toNat).know ++ [{}] }) o.tk)) ∧
    (∀ p rest, (qreg (cur s) o.q.toNat).held.length + (qreg (cur s) o.q.toNat).owed < 4 → (qreg (cur s) o.q.toNat).claims = p :: rest →
      exec (.qpush o) s = .next (goesOn s (putPhys (setQreg (popped s o.tk) o.q.toNat
        { qreg (cur s) o.q.toNat with claims := rest }) p b) o.tk)) ∧
    (4 ≤ (qreg (cur s) o.q.toNat).held.length + (qreg (cur s) o.q.toNat).owed →
      exec (.qpush o) s = .next (takeTrap s .qover 0 (cur s).pc))) ∧
  (∀ (o : FormQCnt) (s : State), Issues s o.tk → Writes s o.d →
    exec (.qcnt o) s = .next (goesOn s (putReg (popped s o.tk) o.d (BitVec.ofNat 64 ((qreg (cur s) o.q.toNat).held.length
      + freeOwed (qreg (cur s) o.q.toNat) * 2 ^ 8 + (qreg (cur s) o.q.toNat).claims.length * 2 ^ 16))) o.tk))

/-- R70, R158: a reply that no earlier one to its queue register is before appends its word to the register's held words, or fills the
register of the oldest claim; another waits for its turn. -/
def RepliesReachTheirQueueRegister : Prop :=
  ∀ (s : State) (n : Nat) (r : Reply), s.replies[n]? = some r →
    ((∃ x ∈ s.replies.take n, x.tile = r.tile ∧ x.strm = r.strm ∧ x.q = r.q ∧ x.job = r.job) → exec (.replyArrival n) s = .next s) ∧
    ((∀ x ∈ s.replies.take n, ¬ (x.tile = r.tile ∧ x.strm = r.strm ∧ x.q = r.q ∧ x.job = r.job)) → (tileOf s r.tile).job = some r.job →
    ∃ t, exec (.replyArrival n) s = .next t ∧ t.replies = ldrop s.replies n ∧ t.mem = s.mem ∧
      ((qreg (strmAt s r.tile r.strm) r.q).claims = [] →
        (qreg (strmAt t r.tile r.strm) r.q).held = (qreg (strmAt s r.tile r.strm) r.q).held ++ [r.word] ∧
        (qreg (strmAt t r.tile r.strm) r.q).owed = (qreg (strmAt s r.tile r.strm) r.q).owed - 1) ∧
      (∀ p rest, (qreg (strmAt s r.tile r.strm) r.q).claims = p :: rest →
        (p ≠ 0 → regAt (strmAt t r.tile r.strm) p = { val := r.word }) ∧ (qreg (strmAt t r.tile r.strm) r.q).claims = rest ∧
        (qreg (strmAt t r.tile r.strm) r.q).held = (qreg (strmAt s r.tile r.strm) r.q).held))

end Sys2Proof.Claims

/-- R159, R160, R161: QPOP takes the first held word, claims a reply or traps QUNDER; QPEEK copies it, waits or traps; QPUSH appends, fills
the oldest claim or traps QOVER; QCNT counts. A reply fills the oldest claim, or is appended, in its turn. -/
def Obligations.QueueWordsKeepFirstInFirstOut : Prop :=
  QueueWordsFollowTheirQueue ∧ RepliesReachTheirQueueRegister

namespace Sys2Proof.Claims

/-- R178, R179, R185, R186: PHASE and FENCX from the core wait until every earlier load has landed and every earlier store and atomic of the
stream is performed; then every posted store is published, in order, and the stream's view takes what an acquire point makes certain.
FENCX from another path waits for the stream's commands of the path, which then happen before it. With a second path other than the core,
the writes of the first that happen before it are guaranteed from now on to the stream's commands on the second. -/
def FencesPublishAndAcquire : Prop :=
  (∀ (o : FormPhase) (s : State), Issues s o.tk → loadsLanded (cur s) = true → performed s s.curTile s.curStrm o.scope = true →
    exec (.phase o) s = .next (retire (syncFetch (acquire (publish (setCur s (popped s o.tk)) s.curTile s.curStrm o.scope)
      s.curTile s.curStrm o.scope .core)) o.tk .seq)) ∧
  (∀ (o : FormPhase) (s : State), Issues s o.tk → (loadsLanded (cur s) = false ∨ performed s s.curTile s.curStrm o.scope = false) →
    exec (.phase o) s = .next s) ∧
  (∀ (o : FormFencx) (s : State), Issues s o.tk →
    (o.p1 = .core → loadsLanded (cur s) = true → performed s s.curTile s.curStrm o.scope = true →
      exec (.fencx o) s = .next (retire (let t := publish (setCur s (popped s o.tk)) s.curTile s.curStrm o.scope (some o.p2)
        if o.p2 = .core then syncFetch (acquire t s.curTile s.curStrm o.scope .core) else onward s o t) o.tk .seq)) ∧
    (o.p1 ≠ .core → (∀ c ∈ (cur s).cmds, c.path ≠ o.p1) → (o.p1 = .front → feAhead s s.curTile s.curStrm = false) → (o.p2 = .core → atomicsOf s s.curTile s.curStrm = []) →
      exec (.fencx o) s = .next (retire (let u := setCur s (popped s o.tk)
        let t := setCur u (learn (cur u) { cmds := ((cur s).ended.filter (·.1 == o.p1)).map (·.2) })
        if o.p2 = .core then acquire t s.curTile s.curStrm o.scope o.p1 else onward s o t) o.tk .seq)) ∧
    ((o.p1 = .core ∧ (loadsLanded (cur s) = false ∨ performed s s.curTile s.curStrm o.scope = false)) ∨
      (o.p1 ≠ .core ∧ ∃ c ∈ (cur s).cmds, c.path = o.p1) ∨ (o.p1 = .front ∧ feAhead s s.curTile s.curStrm = true) ∨ (o.p2 = .core ∧ atomicsOf s s.curTile s.curStrm ≠ []) →
        exec (.fencx o) s = .next s)) ∧
  (∀ (s : State) (t : Nat) (sk : Strm), feAhead s t sk = true ↔ ∃ f ∈ s.fe.launchq, f.tile = t ∧ f.strm = sk)

/-- R177, R184, R185: what the engines of a stream's commands read: the port's bytes where every write of the piece is of their own path or
guaranteed to them, and otherwise, for each byte, no write older than one that is. The writes guaranteed at the issue are those that a
FENCX has noted for the path. From when on another write is seen too is open (assumption 6). -/
def EnginesReadWhatIsGuaranteed : Prop :=
  (∀ (s : State) (w : Who) (g : Seg), (∀ x ∈ s.wlog, g.phys ≤ x.addr → x.addr < g.phys + g.len → surelySeen w x = true) →
    segRead s w g = readAt s g.phys g.len) ∧
  (∀ (s : State) (w : Who) (g : Seg) (i : Nat) (pre post : List WriteRec) (x y : WriteRec), i < g.len →
    s.wlog.filter (fun z => z.addr == g.phys + i) = pre ++ x :: post → surelySeen w x = true →
      y ∈ s.wlog → g.phys ≤ y.addr → y.addr < g.phys + g.len → surelySeen w y = false →
        ∃ z ∈ x :: post, (segRead s w g)[i]? = some z.new) ∧
  (∀ (w : Who) (x : WriteRec) (b : Nat) (ids : List Nat), w.sees = some (b, ids) →
    (surelySeen w x = true ↔ x.path = w.path ∨ x.id < b ∨ x.id ∈ ids)) ∧
  (∀ (s : State) (t : Nat) (st : Stream) (k : Know) (p q : Path) (ids : List Nat) (i : Nat), i ∈ ids →
    i ∈ reachOf s t (guarantee st [p] ids) k p ∧ (p ≠ q → (i ∈ reachOf s t (guarantee st [p] ids) k q ↔ i ∈ reachOf s t st k q)))

/-- R178: a release point of a scope: every store that the stream had posted stands in memory and none is posted any more, every earlier
write of the stream is published at the scope at least, and the point, which covers every write made so far, happens before what follows
it in the stream. -/
def ReleasesPublishEveryEarlierWrite : Prop :=
  ∀ (s u : State) (t : Nat) (sk : Strm) (sc : Scope) (q : Option Path), publish s t sk sc q = u →
    (strmAt u t sk).posted = [] ∧ (strmAt u t sk).regs = (strmAt s t sk).regs ∧
    (∀ w ∈ u.wlog, ownWrite t sk w = true → scopeGe w.scope sc = true) ∧
    (MemInv s → s.poison = [] → (∀ x ∈ (strmAt s t sk).posted, x.placed = none) →
      ∀ a, memGet u.mem a = (postedByte (strmAt s t sk).posted a).getD (memGet s.mem a)) ∧
    s.nextRel ∈ (strmAt u t sk).know.rels ∧
    ∃ r, mget? u.rels s.nextRel = some r ∧ r.tile = t ∧ r.strm = sk ∧ r.scope = sc ∧ r.upto = u.wnext ∧ r.span = none ∧
      r.toPath = q ∧ r.know = (strmAt u t sk).know

/-- R183: a CORE write is certain at an acquire point of a scope when a release point of its stream that happens before covers it, and
each of the two scopes contains both streams. -/
def ReleasedWritesAreCertain : Prop :=
  ∀ (s : State) (t : Nat) (sc : Scope) (x : Know) (w : WriteRec) (path : Option Path), w.path = .core → (path = none ∨ path = some .core) →
    (acquirable s t sc x path w = true ↔
      ∃ i ∈ x.rels, ∃ r, mget? s.rels i = some r ∧ r.tile = w.tile ∧ r.strm = w.strm ∧ w.id < r.upto ∧
        sameInst r.scope r.tile t = true ∧ sameInst sc r.tile t = true ∧ (∀ b n, r.span = some (b, n) → b ≤ w.addr ∧ w.addr < b + n))

/-- R180, R183: after an acquire point a near load of the stream returns, for a byte of which it has posted no store, no write older in
coherence order than one that the point makes certain. -/
def AcquiredWritesAreReturned : Prop :=
  ∀ (s : State) (t : Nat) (sk : Strm) (sc : Scope) (path : Path) (q : Nat) (pre post : List WriteRec) (w : WriteRec),
    s.wlog.filter (fun x => x.addr == q) = pre ++ w :: post → acquirable s t sc (knowAt s t sk sc) (some path) w = true →
      postedByte (strmAt s t sk).posted q = none →
        ∃ v ∈ w :: post, loadByte (acquire s t sk sc path) t sk true q = v.new

/-- R162: RDVZ waits for the stream's loads and atomics, publishes its writes, counts its arrival, and waits; an interrupt that abandons
it takes its arrival back (R381), and its tokens where their FIFOs have room, while what the arrival has published stays so, which is the model's reading (assumption
12). Once each of the streams that it joins, of a tile or of a block, has arrived or halted, the waiting ones leave, and every arrival
happens before each departure; one that is stopped keeps its arrival. -/
def RendezvousJoinsTheStreamsOfATile : Prop :=
  (∀ (o : FormRdvz) (s : State), Issues s o.tk → loadsLanded (cur s) = true → atomicsOf s s.curTile s.curStrm = [] →
      ∃ t r, exec (.rdvz o) s = .next t ∧ (cur t).wait = .rdvz o.block o.tk ∧ (cur t).posted = [] ∧ (cur t).pc = (cur s).pc ∧
        rdvzCount (cur t) o.block = rdvzCount (cur s) o.block + 1 ∧ rdvzCount (cur t) (!o.block) = rdvzCount (cur s) (!o.block) ∧
        (cur t).rdvzKnow = (cur t).know ∧ (cur t).rdvzPrior = (cur s).know ∧ s.nextRel ∈ (cur t).know.rels ∧ mget? t.rels s.nextRel = some r ∧
        r.scope = rdvzScope s o.block s.curTile ∧ r.upto = t.wnext) ∧
  (∀ (x : Stream) (b : Bool) (tk : BitVec 4), x.wait = .rdvz b tk → 0 < rdvzCount x b →
    (abandon x).wait = .none ∧ rdvzCount (abandon x) b = rdvzCount x b - 1 ∧ rdvzCount (abandon x) (!b) = rdvzCount x (!b) ∧
    (abandon x).fromLeft = x.fromLeft + (if tkWL tk ∧ x.fromLeft < 8 then 1 else 0) ∧
    (abandon x).fromRight = x.fromRight + (if tkWR tk ∧ x.fromRight < 8 then 1 else 0) ∧
    (abandon x).know = x.rdvzPrior ∧ (abandon x).regs = x.regs ∧ (abandon x).pc = x.pc) ∧
  (∀ (o : FormRdvz) (s : State), Issues s o.tk →
    (loadsLanded (cur s) = false ∨ atomicsOf s s.curTile s.curStrm ≠ []) → exec (.rdvz o) s = .next s) ∧
  (∀ (s : State) (b : Bool) (t : Nat) (x : Know),
    (∀ u ∈ (if b then blockOf s t else [t]), ∀ sk, allArrived s b t (rdvzCount (strmAt s u sk) b) = true) → arrivalsKnow s b t = x →
      exec (.rendezvousComplete b t) s = .next ((rdvzParties s b t).foldl (leaveRdvz b x) s) ∧
      ∀ u ∈ (if b then blockOf s t else [t]), ∀ sk, (u, sk) ∈ rdvzParties s b t ∧ ∀ i ∈ (strmAt s u sk).rdvzKnow.rels, i ∈ x.rels) ∧
  (∀ (s : State) (b : Bool) (t : Nat) (n : Nat), allArrived s b t n = true ↔
    ∀ u ∈ (if b then blockOf s t else [t]), ∀ sk, (strmAt s u sk).halted = true ∨ n ≤ rdvzCount (strmAt s u sk) b) ∧
  (∀ (s : State) (b : Bool) (t : Nat) (sk : Strm) (tk : BitVec 4) (x : Know), (strmAt s t sk).wait = .rdvz b tk →
    ((strmAt s t sk).running = false → leaveRdvz b x s (t, sk) = s) ∧
    ((strmAt s t sk).running = true → tkSL tk = false → tkSR tk = false → NoLoopEnd (strmAt s t sk) →
      (strmAt (leaveRdvz b x s (t, sk)) t sk).wait = .none ∧
      (strmAt (leaveRdvz b x s (t, sk)) t sk).pc = (strmAt s t sk).pc + 4 ∧
      ∀ i ∈ x.rels, i ∈ (strmAt (leaveRdvz b x s (t, sk)) t sk).know.rels))

end Sys2Proof.Claims

/-- R162, R178, R179, R180, R183, R184, R185, R186, R187, R381: PHASE and a FENCX from the core wait until earlier loads have landed and
stores are performed, publish and acquire; another FENCX waits for its path. A FENCX to another path guarantees what happens before it to
the reads of the later commands there, and from when on an engine sees a write that nothing guarantees is open (log entry 6). A release
point puts every posted store of the stream in memory and publishes every earlier write of the stream, or before a point that it knows, at
its scope. A write of the core before a release that an acquiring stream reached is certain in that stream's view, and a byte whose latest
certain write is known is returned by its loads. RDVZ publishes, counts its arrival and waits; when every stream of the tile, or of the
block, has arrived or halted, the waiting ones go on and know the releases of all. An RDVZ that an interrupt abandons takes back its
arrival, what it acquired and, where there is room, its tokens, while what it has published stays published, which is the model's reading
(log entry 12). -/
def Obligations.FencesAndRendezvousPublish : Prop :=
  FencesPublishAndAcquire ∧ EnginesReadWhatIsGuaranteed ∧ ReleasesPublishEveryEarlierWrite ∧ ReleasedWritesAreCertain ∧
  AcquiredWritesAreReturned ∧ RendezvousJoinsTheStreamsOfATile

/-- R164 to R168: HGIVE of a buffer that the stream holds, with no access to it outstanding, offers it to the named stream or frees the
entry with the next generation; HTAKE of an offer to the stream makes it the holder; HQRY reads the entry. -/
def Obligations.HandlesPassFromStreamToStream : Prop :=
  (∀ (o : FormAB) (s : State) (a b : Word),
    Issues s o.tk → Reads s o.a a → Reads s o.b b → NoLoopEnd (cur s) → PushRoom s o.tk →
      handleValid s s.curTile (wf64 a 15 0) = true → heldBy (handleAt s s.curTile (wf64 a 15 0)) s.curTile s.curStrm = true →
        (cur s).posted = [] → loadsLanded (cur s) = true → (cur s).cmds = [] → atomicsOf s s.curTile s.curStrm = [] →
          ∃ t, exec (.hgive o) s = .next t ∧ t.mem = s.mem ∧
            (b.getLsbD 5 = false → hState (handleAt t s.curTile (wf64 a 15 0)) = 2 ∧
              hOffer (handleAt t s.curTile (wf64 a 15 0)) = wf64 b 4 0 ∧
              hGen (handleAt t s.curTile (wf64 a 15 0)) = hGen (handleAt s s.curTile (wf64 a 15 0))) ∧
            (b.getLsbD 5 = true → hState (handleAt t s.curTile (wf64 a 15 0)) = 0 ∧
              hGen (handleAt t s.curTile (wf64 a 15 0)) = (hGen (handleAt s s.curTile (wf64 a 15 0)) + 1) % 256)) ∧
  (∀ (o : FormAB) (s : State) (a b : Word), Issues s o.tk → Reads s o.a a → Reads s o.b b →
    (handleValid s s.curTile (wf64 a 15 0) && heldBy (handleAt s s.curTile (wf64 a 15 0)) s.curTile s.curStrm) = false →
      exec (.hgive o) s = .next (takeTrap s .owner a (cur s).pc)) ∧
  (∀ (o : FormDA) (s : State) (a : Word), Issues s o.tk → Reads s o.a a → Writes s o.d →
    exec (.hqry o) s = .next (goesOn s (landLater (popped s o.tk) o.d
      (if handleValid s s.curTile (wf64 a 15 0) then handleAt s s.curTile (wf64 a 15 0) else 0) .fixed) o.tk) ∧
    (atomicsOf s s.curTile s.curStrm ≠ [] → exec (.htake o) s = .next s) ∧
    (∀ e, handleAt s s.curTile (wf64 a 15 0) = e → atomicsOf s s.curTile s.curStrm = [] →
      (handleValid s s.curTile (wf64 a 15 0) = true → hState e = 2 → hOffer e = holderCode s.curTile s.curStrm →
        ∃ t, exec (.htake o) s = .next t ∧ heldBy (handleAt t s.curTile (wf64 a 15 0)) s.curTile s.curStrm = true ∧ t.mem = s.mem ∧
          (cur t).landings = (cur s).landings ++ [{ phys := physReg (cur s) o.d, val := 0, kind := .fixed }]) ∧
      (handleValid s s.curTile (wf64 a 15 0) = false →
        exec (.htake o) s = .next (goesOn s (landLater (popped s o.tk) o.d 2 .fixed) o.tk)) ∧
      (handleValid s s.curTile (wf64 a 15 0) = true → heldBy e s.curTile s.curStrm = true →
        exec (.htake o) s = .next (goesOn s (landLater (popped s o.tk) o.d 3 .fixed) o.tk)) ∧
      (handleValid s s.curTile (wf64 a 15 0) = true → heldBy e s.curTile s.curStrm = false →
        ¬ (hState e = 2 ∧ hOffer e = holderCode s.curTile s.curStrm) →
          exec (.htake o) s = .next (goesOn s (landLater (popped s o.tk) o.d 1 .fixed) o.tk))))

/-! Traps, interrupts, state registers and waits (R375 to R387). -/

namespace Sys2Proof.Claims

/-- R378: a cause enabled in user mode is taken in the trap context: ss.epc, ss.cause and ss.tval are written, the handler's offset is
next, and nothing else of the stream, no register and no byte of memory changes. -/
def EnabledTrapsAreTakenInContext : Prop :=
  ∀ (s : State) (c : Cause) (tval resume : Word), (tileOf s s.curTile).cfg = none → TakesInContext (cur s) c →
    ∀ sub, cur (takeTrap s c tval resume sub) =
      { cur s with epc := resume, cause := BitVec.ofNat 64 (causeCode c), tval := tval, tctx := true, pc := (cur s).tvec, wait := .none } ∧
    (takeTrap s c tval resume sub).mem = s.mem ∧ (takeTrap s c tval resume sub).fe = s.fe ∧
    ∀ u sk, (u, sk) ≠ (s.curTile, s.curStrm) → strmAt (takeTrap s c tval resume sub) u sk = strmAt s u sk

/-- R378, R380, R389: a cause that is not enabled, or met in the trap context, stops the stream at the boundary and offers a record that
asks for a response, with the resume offset, the value, INCTX and the sub-reason: that of the walk for PAGE, and bits 7:0 of the value for
CONFIG and REUSE. -/
def OtherTrapsGoToTheSystem : Prop :=
  ∀ (s : State) (c : Cause) (tval resume : Word), (tileOf s s.curTile).cfg = none →
    ((cur s).tctx = true ∨ (cur s).tena.getLsbD (causeCode c) = false) →
      ∀ sub, cur (takeTrap s c tval resume sub) = { cur s with pc := resume, wait := .response } ∧
      (takeTrap s c tval resume sub).mem = s.mem ∧
      ∃ r : Offer, (takeTrap s c tval resume sub).fe.offers = s.fe.offers ++ [r] ∧ r.resp = true ∧ r.inctx = (cur s).tctx ∧
        r.code = causeByte c ∧ r.addr = resume ∧ r.detail = tval ∧ r.tile = s.curTile ∧ r.strm = s.curStrm ∧
        (c = .page → r.sub = sub) ∧ (c = .config ∨ c = .reuse → r.sub = wf64 tval 7 0)

end Sys2Proof.Claims

/-- R378, R380: A cause enabled in user mode writes ss.epc, ss.cause and ss.tval, sets TCTX and goes to ss.tvec, and changes nothing else. A
cause not enabled, or met in the trap context, stops the stream and offers one record with the resume offset, the value and INCTX. -/
def Obligations.TrapsAreTakenInContextOrDelivered : Prop :=
  EnabledTrapsAreTakenInContext ∧ OtherTrapsGoToTheSystem

/-- R28, R44, R382: TRAP takes cause 0x20 with its code and resumes at the following word; BRK takes cause 0x21 and resumes at itself.
Neither pops or pushes a token: the trap is taken in place of the issue. Each waits, with nothing changed, while a FIFO that it names holds
no token. -/
def Obligations.TrapWordsTakeTheirCause : Prop :=
  (∀ (o : FormS16) (s : State), Issues s o.tk →
    exec (.trap o) s = .next (takeTrap s .trap (o.code.zeroExtend 64) ((cur s).pc + 4)) ∧
    exec (.brk o) s = .next (takeTrap s .brk (o.code.zeroExtend 64) (cur s).pc) ∧
    causeCode .trap = 0x20 ∧ causeCode .brk = 0x21) ∧
  (∀ (o : FormS16) (s : State), (tkWL o.tk = true ∧ (cur s).fromLeft = 0) ∨ (tkWR o.tk = true ∧ (cur s).fromRight = 0) →
    exec (.trap o) s = .next s ∧ exec (.brk o) s = .next s)

namespace Sys2Proof.Claims

/-- R41, R148: a fetch at an offset that is not a multiple of 4 raises ALIGN, and one beyond the scratchpad NEAR_BOUNDS, with the offset
in ss.tval, which is the model's reading (assumption 16), and ALIGN first where both hold, which is its choice (assumption 149); a poisoned
word raises POISON, and a word that decodes to nothing ILLEGAL (R43) with the word in ss.tval. -/
def FetchFaultsNameTheirOffset : Prop :=
  ∀ s : State, canIssue (cur s) = true →
    ((cur s).pc.toNat % 4 ≠ 0 → exec .fetchFault s = .next (takeTrap s .align (cur s).pc (cur s).pc)) ∧
    ((cur s).pc.toNat % 4 = 0 → 2 ^ 19 < (cur s).pc.toNat + 4 →
      exec .fetchFault s = .next (takeTrap s .nearBounds (cur s).pc (cur s).pc)) ∧
    ((cur s).pc.toNat % 4 = 0 → (cur s).pc.toNat + 4 ≤ 2 ^ 19 → poisonedAt s (scratchBase s.curTile + (cur s).pc.toNat) = true →
      exec .fetchFault s = .next (takeTrap s .poison 0 (cur s).pc)) ∧
    ∀ w : BitVec 32, exec (.illegalInstruction w) s = .next (takeTrap s .illegal (w.zeroExtend 64) (cur s).pc)

/-- R375, R379: ERET in the trap context restores ss.pc from ss.epc and clears TCTX; in user mode it raises PRIV. -/
def EretReturnsFromTheTrapContext : Prop :=
  ∀ (o : FormS0) (s : State), Issues s o.tk →
    ((cur s).tctx = true → PushRoom s o.tk →
      ∃ t, exec (.eret o) s = .next t ∧ (cur t).pc = (cur s).epc ∧ (cur t).tctx = false ∧ (cur t).regs = (cur s).regs ∧
        (cur t).epc = (cur s).epc ∧ (cur t).cause = (cur s).cause ∧ t.mem = s.mem) ∧
    ((cur s).tctx = false → exec (.eret o) s = .next (takeTrap s .priv 0 (cur s).pc))

end Sys2Proof.Claims

/-- R41, R43, R144, R148, R375, R379: A misaligned fetch, a fetch beyond the scratchpad, a poisoned word and a word that decodes to nothing
take their causes. That ss.tval holds the offset fetched from is the model's reading (log entry 16), and that ALIGN comes before NEAR_BOUNDS
its choice (log entry 149). ERET in the trap context restores ss.pc from ss.epc and clears TCTX; in user mode it raises PRIV. -/
def Obligations.FetchFaultsAndEretChangeContext : Prop :=
  FetchFaultsNameTheirOffset ∧ EretReturnsFromTheTrapContext

namespace Sys2Proof.Claims

/-- R125, R376, R383: SSRD reads each register that is held whole; SSWR writes those that take a word whole, raises PRIV for the trap
record in user mode, and clears the bits of ss.ipend written as one; a number that is not assigned raises ILLEGAL. -/
def WholeRegistersReadAndWrite : Prop :=
  (∀ p ∈ plainRegisters, ∀ (o : FormSReg) (s : State), Issues s o.tk → Writes s o.r → o.num.toNat = p.1 →
    exec (.ssrd o) s = .next (goesOn s (putReg (popped s o.tk) o.r (p.2 (cur s))) o.tk)) ∧
  (∀ p ∈ wholeRegisters, ∀ (o : FormSReg) (s : State) (v : Word), Issues s o.tk → Reads s o.r v → o.num.toNat = p.1 →
    ((cur s).tctx = true ∨ ¬ (0x040 ≤ p.1 ∧ p.1 ≤ 0x042)) →
      ∃ x : Stream, exec (.sswr o) s = .next (goesOn s x o.tk) ∧ p.2 x = v ∧ x.regs = (cur s).regs ∧ x.pc = (cur s).pc) ∧
  (∀ (o : FormSReg) (s : State), Issues s o.tk → 0x040 ≤ o.num.toNat → o.num.toNat ≤ 0x042 → (cur s).tctx = false →
    exec (.sswr o) s = .next (takeTrap s .priv 0 (cur s).pc)) ∧
  (∀ (o : FormSReg) (s : State) (v : Word), Issues s o.tk → Reads s o.r v → o.num.toNat = 0x046 →
    exec (.sswr o) s = .next (goesOn s { popped s o.tk with ipend := (cur s).ipend &&& ~~~ v } o.tk)) ∧
  (∀ (o : FormSReg) (s : State), Issues s o.tk →
    (0x010 ≤ o.num.toNat ∧ o.num.toNat < 0x040) ∨ 0x04C < o.num.toNat →
      (∀ w, encode (.ssrd o) = some w → exec (.ssrd o) s = .next (takeTrap s .illegal (BitVec.ofNat 64 w) (cur s).pc)) ∧
      (∀ w, encode (.sswr o) = some w → exec (.sswr o) s = .next (takeTrap s .illegal (BitVec.ofNat 64 w) (cur s).pc)))

/-- R125, R126, R376, R383: SSRD of the registers that are composed: ss.status has the stream, TCTX, whether ss.pc lies in an idempotent
region, and ACT of both loops; ss.full has a bit for each full physical register, bit 0 always one; ss.cycle counts core cycles from the
start of the job; ss.ctx has the context number, the PASID, the tile and the stream. -/
def ComposedRegistersRead : Prop :=
  ∀ (o : FormSReg) (s : State), Issues s o.tk → Writes s o.r →
    (o.num = 0x001 → ∃ v : Word, exec (.ssrd o) s = .next (goesOn s (putReg (popped s o.tk) o.r v) o.tk) ∧
      wf64 v 3 0 = sidx s.curStrm ∧ v.getLsbD 4 = (cur s).tctx ∧ v.getLsbD 5 = (inIdem s s.curTile s.curStrm (cur s).pc.toNat).isSome ∧
      v.getLsbD 6 = (cur s).lca.act ∧ v.getLsbD 7 = (cur s).lcb.act ∧ wf64 v 63 8 = 0) ∧
    (o.num = 0x006 → ∃ v : Word, exec (.ssrd o) s = .next (goesOn s (putReg (popped s o.tk) o.r v) o.tk) ∧
      v.getLsbD 0 = true ∧ (∀ p, 0 < p → p < 32 → v.getLsbD p = (regAt (cur s) p).full) ∧ wf64 v 63 32 = 0) ∧
    (o.num = 0x007 → exec (.ssrd o) s =
      .next (goesOn s (putReg (popped s o.tk) o.r (BitVec.ofNat 64 (s.core - (cur s).cycle0))) o.tk)) ∧
    (o.num = 0x04C → ctxnOf s s.curTile < 2 ^ 12 → ctxPasid s (ctxnOf s s.curTile) < 2 ^ 20 → s.curTile < 2 ^ 8 →
      ∃ v : Word, exec (.ssrd o) s = .next (goesOn s (putReg (popped s o.tk) o.r v) o.tk) ∧ wf64 v 11 0 = ctxnOf s s.curTile ∧
        wf64 v 31 12 = ctxPasid s (ctxnOf s s.curTile) ∧ wf64 v 39 32 = s.curTile ∧ wf64 v 41 40 = sidx s.curStrm ∧ wf64 v 63 42 = 0)

/-- R101, R108, R124, R125, R376, R383: SSWR of the registers that keep fields of the written word: the flags of ss.fe and its mode, which
stays for 0, 6 and 7; the rotating base; the format-table base; bits [18:2] of ss.tvec; the cause in the trap context; and CNT, which
clears ACT at 0, START and END, whose bits [1:0] stay zero, and IDX of each loop. An SSWR to a read-only register changes nothing. -/
def FieldRegistersTakeTheirFields : Prop :=
  ∀ (o : FormSReg) (s : State) (v : Word), Issues s o.tk → Reads s o.r v →
    (o.num = 0x002 → exec (.sswr o) s = .next (goesOn s { popped s o.tk with rrb := v.truncate 4 } o.tk)) ∧
    (o.num = 0x003 → exec (.sswr o) s = .next (goesOn s { popped s o.tk with ftb := v.truncate 4 } o.tk)) ∧
    (o.num = 0x004 → ∃ x : Stream, exec (.sswr o) s = .next (goesOn s x o.tk) ∧ x = { popped s o.tk with fe := x.fe } ∧
      wf64 x.fe 13 8 = wf64 v 13 8 ∧ wf64 x.fe 63 14 = 0 ∧ wf64 x.fe 7 3 = 0 ∧
      wf64 x.fe 2 0 = (if wf64 v 2 0 ∈ [0, 6, 7] then wf64 (cur s).fe 2 0 else wf64 v 2 0)) ∧
    (o.num = 0x041 → (cur s).tctx = true →
      exec (.sswr o) s = .next (goesOn s { popped s o.tk with cause := (v.truncate 8).zeroExtend 64 } o.tk)) ∧
    (o.num = 0x043 → ∃ x : Stream, exec (.sswr o) s = .next (goesOn s x o.tk) ∧ x = { popped s o.tk with tvec := x.tvec } ∧
      wf64 x.tvec 18 2 = wf64 v 18 2 ∧ wf64 x.tvec 1 0 = 0 ∧ wf64 x.tvec 63 19 = 0) ∧
    (∀ (lcb : Bool) (base : BitVec 11), base = (if lcb then 0x00C else 0x008) →
      (o.num = base → exec (.sswr o) s = .next (goesOn s (withLoop (popped s o.tk) lcb { loopOf (cur s) lcb with
        cnt := v.truncate 32, act := (loopOf (cur s) lcb).act && decide (v.truncate 32 ≠ (0 : BitVec 32)) }) o.tk)) ∧
      (o.num = base + 1 → exec (.sswr o) s = .next (goesOn s (withLoop (popped s o.tk) lcb { loopOf (cur s) lcb with
        start := v.truncate 20 &&& 0xFFFFC }) o.tk)) ∧
      (o.num = base + 2 → exec (.sswr o) s = .next (goesOn s (withLoop (popped s o.tk) lcb { loopOf (cur s) lcb with
        last := v.truncate 20 &&& 0xFFFFC }) o.tk)) ∧
      (o.num = base + 3 → exec (.sswr o) s = .next (goesOn s (withLoop (popped s o.tk) lcb { loopOf (cur s) lcb with
        idx := v.truncate 32 }) o.tk))) ∧
    (o.num = 0x000 ∨ o.num = 0x001 ∨ o.num = 0x006 ∨ o.num = 0x007 ∨ o.num = 0x04C →
      exec (.sswr o) s = .next (goesOn s (popped s o.tk) o.tk))

end Sys2Proof.Claims

/-- R101, R108, R124, R125, R126, R376, R383: SSRD of each register that is held whole answers it, and of ss.status, ss.full, ss.cycle and
ss.ctx what they are composed of. SSWR of a register held whole changes it to the word written; of ss.fe, ss.rrb, ss.ftb, ss.tvec, ss.cause
and the loop registers it changes their fields, with bits [1:0] of START and END staying zero and a CNT of 0 clearing ACT; of a read-only
register it changes nothing; of ss.ipend it clears the bits written as one. SSWR of ss.epc, ss.cause or ss.tval in user mode raises PRIV,
and a number that names no register ILLEGAL. -/
def Obligations.StateRegistersReadAndWrite : Prop :=
  WholeRegistersReadAndWrite ∧ ComposedRegistersRead ∧ FieldRegistersTakeTheirFields

namespace Sys2Proof.Claims

/-- R381, R385: IREG makes an interrupt line of a stream of the block pending; a pending line that is enabled, in a stream that can be
interrupted, is taken at the boundary with cause 0x22 and its number in ss.tval; the timer makes line 63 pending. -/
def InterruptLinesAreRaisedAndTaken : Prop :=
  (∀ (o : FormIreg) (s : State) (a : Word) (t : Nat), Issues s o.tk → Reads s o.a a → NoLoopEnd (cur s) → PushRoom s o.tk →
    (blockOf s s.curTile)[wf64 a 9 2]? = some t → (strmAt s t (strmOf (wf64 a 1 0))).halted = false →
      ∃ x, exec (.ireg o) s = .next x ∧
        (strmAt x t (strmOf (wf64 a 1 0))).ipend = (strmAt s t (strmOf (wf64 a 1 0))).ipend ||| (1#64 <<< o.vec.toNat)) ∧
  (∀ (s : State) (t : Nat) (sk : Strm) (l : Nat), takeableLine (strmAt s t sk) = some l → (strmAt s t sk).running = true →
    (strmAt s t sk).halted = false → (strmAt s t sk).wait = .none → (tileOf s t).cfg = none →
      ∃ x, exec (.intr t sk) s = .next x ∧ (strmAt x t sk).tctx = true ∧ (strmAt x t sk).cause = 0x22 ∧
        (strmAt x t sk).tval = BitVec.ofNat 64 l ∧ (strmAt x t sk).epc = (strmAt s t sk).pc ∧
        (strmAt x t sk).pc = (strmAt s t sk).tvec ∧ (strmAt x t sk).regs = (strmAt s t sk).regs ∧ x.mem = s.mem) ∧
  (∀ (s : State) (t : Nat) (sk : Strm), (strmAt s t sk).tcmp ≠ 0 → (strmAt s t sk).tcmpFrom < (strmAt s t sk).tcmp.toNat →
    (strmAt s t sk).tcmp.toNat ≤ (cycleOf s (strmAt s t sk)).toNat → (strmAt s t sk).halted = false →
      ∃ x, exec (.timerCompare t sk) s = .next x ∧ (strmAt x t sk).ipend.getLsbD 63 = true ∧
        (strmAt x t sk).regs = (strmAt s t sk).regs)

/-- R386, R387: SLEEP waits for its time and then retires; YLD retires and gives way; HALT publishes every store, and the stream ends. -/
def WaitsEndAndHaltPublishes : Prop :=
  (∀ (o : FormS16) (s : State), Issues s o.tk →
    ∃ t, exec (.sleep o) s = .next t ∧ (cur t).pc = (cur s).pc ∧ (cur t).regs = (cur s).regs ∧
      (cur t).wait = if o.code = 0 then .sleepIntr o.tk else .sleepUntil (s.fab + 64 * o.code.toNat) o.tk) ∧
  (∀ (s : State) (t : Nat) (sk : Strm) (l : Nat) (tk : BitVec 4),
    (strmAt s t sk).wait = .sleepIntr tk ∨ (∃ f, (strmAt s t sk).wait = .sleepUntil f tk) → takeableLine (strmAt s t sk) = some l →
      (strmAt s t sk).running = true → (strmAt s t sk).halted = false → (tileOf s t).cfg = none → (strmAt s t sk).overDue = [] →
        NoLoopEnd (strmAt s t sk) → tkSL tk = false → tkSR tk = false →
          ∃ x, exec (.intr t sk) s = .next x ∧ (strmAt x t sk).tctx = true ∧ (strmAt x t sk).epc = (strmAt s t sk).pc + 4 ∧
            (strmAt x t sk).pc = (strmAt s t sk).tvec ∧ (strmAt x t sk).tval = BitVec.ofNat 64 l) ∧
  (∀ (s : State) (t : Nat) (sk : Strm) (f : Nat) (tk : BitVec 4), (strmAt s t sk).wait = .sleepUntil f tk → f ≤ s.fab →
    (strmAt s t sk).overDue = [] → NoLoopEnd (strmAt s t sk) → tkSL tk = false → tkSR tk = false →
      ∃ x, exec (.sleepExpiry t sk) s = .next x ∧ (strmAt x t sk).wait = .none ∧ (strmAt x t sk).pc = (strmAt s t sk).pc + 4) ∧
  (∀ (o : FormS0) (s : State), Issues s o.tk → NoLoopEnd (cur s) → PushRoom s o.tk →
    ∃ t, exec (.yld o) s = .next t ∧ (cur t).pc = (cur s).pc + 4 ∧
      (cur t).wait = .yld s.core (yldOthers s s.curTile s.curStrm) ∧ (cur t).regs = (cur s).regs) ∧
  (∀ (s : State) (t : Nat) (sk j : Strm) (n : Nat), (j, n) ∈ yldOthers s t sk ↔
    j ≠ sk ∧ readyNow s t j = true ∧ n = (strmAt s t j).issued) ∧
  (∀ (s : State) (t : Nat) (sk : Strm) (c : Nat) (xs : List (Strm × Nat)), (strmAt s t sk).wait = .yld c xs →
    (c + 4 ≤ s.core ∨ ∀ p ∈ xs, p.2 < (strmAt s t p.1).issued) →
      ∃ x, exec (.yldExpiry t sk) s = .next x ∧ strmAt x t sk = { strmAt s t sk with wait := .none }) ∧
  (∀ (o : FormS0) (s : State), Issues s o.tk → loadsLanded (cur s) = true → atomicsOf s s.curTile s.curStrm = [] → PushRoom s o.tk →
    ∃ t r, exec (.halt o) s = .next t ∧ (cur t).halted = true ∧ (cur t).posted = [] ∧ (cur t).regs = (cur s).regs ∧
      (cur t).rdvzKnow = (cur t).know ∧ s.nextRel ∈ (cur t).know.rels ∧ mget? t.rels s.nextRel = some r ∧ r.scope = .system ∧
      r.upto = t.wnext) ∧
  (∀ (o : FormS0) (s : State), Issues s o.tk → (loadsLanded (cur s) = false ∨ atomicsOf s s.curTile s.curStrm ≠ []) →
    exec (.halt o) s = .next s)

end Sys2Proof.Claims

/-- R29, R178, R381, R385, R386, R387: IREG raises a line of a stream, an enabled pending line is taken as an interrupt, also by a stream in
SLEEP, which then retires first, and the timer raises its line. SLEEP and YLD retire when their time or turn has come, YLD after each stream
that was ready has issued or four cycles. That the timer rings once ss.cycle has reached ss.tcmp, since cycles pass between steps, and that
the streams let past by YLD are those ready as it issues, are the model's readings (log entries 18 and 17). HALT waits for earlier loads and
atomics, publishes every earlier write at SYSTEM and ends its stream. -/
def Obligations.InterruptsAndWaitsActOnTheirStream : Prop :=
  InterruptLinesAreRaisedAndTaken ∧ WaitsEndAndHaltPublishes

/-! The words of the units (R66 to R77, R253 to R301, R342, R370). -/

namespace Sys2Proof.Claims

/-- R74, R75: TBLD replaces the addressed templates and their staging copies; TBSV stores template images; neither moves the other
templates. -/
def TemplateWordsMoveImages : Prop :=
  (∀ (o : FormAB) (s : State) (a b : Word) (bs : List Byte), Issues s o.tk → Reads s o.a a → Reads s o.b b →
    wf64 b 14 8 ≠ 0 → wf64 b 5 0 + wf64 b 14 8 ≤ 64 → wf64 a 4 0 = 0 → (nearSel a = 1 ∨ nearSel a = 2 ∨ nearSel a = 3) →
      nearSpan s a (32 * wf64 b 14 8) = .ok bs →
        ∃ x : Stream, exec (.tbld o) s = .next (goesOn s x o.tk) ∧ x.regs = (cur s).regs ∧ x.pc = (cur s).pc ∧
          (∀ i < wf64 b 14 8, mget x.templates (wf64 b 5 0 + i) 0 = BitVec.ofNat 256 (leNat ((bs.drop (32 * i)).take 32)) ∧
            mget x.staging (wf64 b 5 0 + i) 0 = mget x.templates (wf64 b 5 0 + i) 0) ∧
          (∀ j, (j < wf64 b 5 0 ∨ wf64 b 5 0 + wf64 b 14 8 ≤ j) → mget x.templates j 0 = mget (cur s).templates j 0 ∧
            mget x.staging j 0 = mget (cur s).staging j 0)) ∧
  (∀ (o : FormAB) (s : State) (a b : Word) (acc : NearAcc), Issues s o.tk → Reads s o.a a → Reads s o.b b →
    wf64 b 14 8 ≠ 0 → wf64 b 5 0 + wf64 b 14 8 ≤ 64 → wf64 a 4 0 = 0 → (nearSel a = 1 ∨ nearSel a = 2 ∨ nearSel a = 3) →
      checkNear s s.curTile s.curStrm a (32 * wf64 b 14 8) true false = .ok acc →
        exec (.tbsv o) s = .next (retire (postSegs (setCur s (popped s o.tk)) s.curTile s.curStrm acc.segs
          ((span (wf64 b 5 0) (wf64 b 14 8)).flatMap fun i => leBytes 32 (mget (cur s).templates i 0).toNat)) o.tk .seq)) ∧
  (∀ (o : FormAB) (s : State) (a b : Word), Issues s o.tk → Reads s o.a a → Reads s o.b b →
    (wf64 b 14 8 = 0 ∨ 64 < wf64 b 5 0 + wf64 b 14 8) →
      exec (.tbld o) s = .next (takeTrap s .template 0 (cur s).pc) ∧ exec (.tbsv o) s = .next (takeTrap s .template 0 (cur s).pc))

/-- R66, R76: PHD writes its field into the staging copy and touches nothing else; selector 63 changes nothing. -/
def PhdPatchesTheStagingCopy : Prop :=
  ∀ (o : FormPatch) (s : State) (t : BitVec 256), canIssue (cur s) = true →
    amend (mget (cur s).staging o.idx.toNat 0) o.sel.toNat o.value.toNat = .ok t →
      exec (.phd o) s = .next (if o.sel = 63 then retire s 0 .seq
        else goesOn s { cur s with staging := mset (cur s).staging o.idx.toNat t } 0)

/-- R67 to R69, R71, R77, R270, R271: a PIS takes its traps in their order: TEMPLATE for a patch or a header that is not that of a command,
the trap of its kind's check, QOVER where its queue register has no room for one more reply, OWNER where the reply word lies in another's
buffer; it waits for its tokens and for room in its unit; and a matrix command that fails its captured check or its chain check traps. -/
def PisTrapsAndWaitsInOrder : Prop :=
  ∀ (o : FormPatch) (s : State) (t : BitVec 256), canIssue (cur s) = true →
    (∀ v, amend (mget (cur s).staging o.idx.toNat 0) o.sel.toNat o.value.toNat = .error (.trap .template v) →
      exec (.pis o) s = .next (takeTrap s .template v (cur s).pc)) ∧
    (amend (mget (cur s).staging o.idx.toNat 0) o.sel.toNat o.value.toNat = .ok t →
      (headOk t = false → exec (.pis o) s = .next (takeTrap s .template 0 (cur s).pc)) ∧
      (headOk t = true →
        (kindCheck s s.curTile s.curStrm t = .error .stall → exec (.pis o) s = .next s) ∧
        (∀ c v sub, kindCheck s s.curTile s.curStrm t = .error (.trap c v sub) →
          exec (.pis o) s = .next (takeTrap s c v (cur s).pc sub)) ∧
        (kindCheck s s.curTile s.curStrm t = .ok () →
          (tf t 14 13 = 1 → 4 ≤ (qreg (cur s) (tf t 17 15)).held.length + (qreg (cur s) (tf t 17 15)).owed →
            exec (.pis o) s = .next (takeTrap s .qover 0 (cur s).pc)) ∧
          (tf t 14 13 = 2 → ownSpanOk s s.curTile s.curStrm (tf t 63 48 * 8) 8 = false →
            exec (.pis o) s = .next (takeTrap s .owner 0 (cur s).pc)) ∧
          ((tf t 14 13 = 1 → (qreg (cur s) (tf t 17 15)).held.length + (qreg (cur s) (tf t 17 15)).owed < 4) →
            (tf t 14 13 = 2 → ownSpanOk s s.curTile s.curStrm (tf t 63 48 * 8) 8 = true) →
            (tokensReady (cur s) (BitVec.ofNat 4 (tf t 11 8)) = .error .stall ∨ kindRoom s s.curTile t = false →
              exec (.pis o) s = .next s) ∧
            (tf t 3 0 = 2 → tokensReady (cur s) (BitVec.ofNat 4 (tf t 11 8)) = .ok () → kindRoom s s.curTile t = true →
              (∀ c v sub, matrixCheck s s.curTile s.curStrm t (captureFte s s.curTile (cur s) t) = .error (.trap c v sub) →
                exec (.pis o) s = .next (takeTrap s c v (cur s).pc sub)) ∧
              (∀ c v sub, matrixCheck s s.curTile s.curStrm t (captureFte s s.curTile (cur s) t) = .ok () →
                chainCheck s s.curTile t (captureFte s s.curTile (cur s) t) = .error (.trap c v sub) →
                  exec (.pis o) s = .next (takeTrap s c v (cur s).pc sub)))))))

/-- R69, R71, R72, R77: a PIS of any kind and reply mode whose patched template passes every check sends its command to its unit and
goes on, with its pushes made at once where TKON is 0. -/
def PisIssuesItsCommand : Prop :=
  ∀ (o : FormPatch) (s : State) (t : BitVec 256) (c : Cmd), canIssue (cur s) = true →
    amend (mget (cur s).staging o.idx.toNat 0) o.sel.toNat o.value.toNat = .ok t → headOk t = true →
      kindCheck s s.curTile s.curStrm t = .ok () → tokensReady (cur s) (BitVec.ofNat 4 (tf t 11 8)) = .ok () →
        kindRoom s s.curTile t = true →
          (tf t 14 13 = 1 → (qreg (cur s) (tf t 17 15)).held.length + (qreg (cur s) (tf t 17 15)).owed < 4) →
          (tf t 14 13 = 2 → ownSpanOk s s.curTile s.curStrm (tf t 63 48 * 8) 8 = true) →
          makeCmd s s.curTile s.curStrm t = c →
          (tf t 3 0 = 2 → matrixCheck s s.curTile s.curStrm t c.fte = .ok () ∧ chainCheck s s.curTile t c.fte = .ok ()) →
            exec (.pis o) s = .next (retire (kindAccept (setCur { s with nextCmd := s.nextCmd + 1 }
              (issued s s.curTile (cur s) c o.idx.toNat)) c) (pisPushes t) .seq) ∧
            (tf t 12 12 = 0 → pisPushes t = BitVec.ofNat 4 (tf t 9 8)) ∧ (tf t 12 12 ≠ 0 → pisPushes t = 0)

/-- R73, R100: what a command captures at issue: the amended template, the rounding mode, the entry of the format table that the base,
the offset and the loop index select, the generator word under mode SR, and whose command it is. -/
def CommandsCaptureTheirSettings : Prop :=
  ∀ (s : State) (tile : Nat) (sk : Strm) (t : BitVec 256) (c : Cmd) (st : Stream), strmAt s tile sk = st → makeCmd s tile sk t = c →
    c.tmpl = t ∧ c.id = s.nextCmd ∧ c.tile = tile ∧ c.strm = sk ∧ c.ctxn = ctxnOf s tile ∧ c.fromFe = false ∧
      c.rm = BitVec.ofNat 3 (if tf t 26 24 = 0 then feRm st else tf t 26 24) ∧
      c.fte = ftAt s tile (st.ftb.toNat + tf t 23 20 + st.lca.idx.toNat) ∧ c.lcaIdx = st.lca.idx ∧ (c.rm = 5 → c.srBase = st.srctr)

/-- R69, R72, R77, R100: what issuing does to the stream: its tokens are popped, one more reply is owed to the queue register of reply
mode 1, the generator steps under mode SR, the staging copy is the template again, and the command is outstanding. -/
def IssuingUpdatesTheStream : Prop :=
  ∀ (s : State) (tile idx : Nat) (st x : Stream) (c : Cmd), issued s tile st c idx = x →
    mget x.staging idx 0 = mget st.templates idx 0 ∧ (∀ j, j ≠ idx → mget x.staging j 0 = mget st.staging j 0) ∧
      x.templates = st.templates ∧ x.regs = st.regs ∧ x.pc = st.pc ∧ x.fe = st.fe ∧
      (∀ r : Bool, tokens x r = tokens st r - (if (if r then tkWR else tkWL) (BitVec.ofNat 4 (tf c.tmpl 11 8)) then 1 else 0)) ∧
      (tf c.tmpl 14 13 = 1 → (qreg x (tf c.tmpl 17 15)).owed = (qreg st (tf c.tmpl 17 15)).owed + 1 ∧
        (qreg x (tf c.tmpl 17 15)).held = (qreg st (tf c.tmpl 17 15)).held) ∧
      (tf c.tmpl 14 13 ≠ 1 → x.q = st.q) ∧ x.srctr = (if c.rm = 5 then st.srctr + 1 else st.srctr) ∧
      ∃ r, x.cmds = st.cmds ++ [r] ∧ r.id = c.id ∧ r.path = kindPath (cmdKind c)

/-- R71: an accepted command stands last in the input of its unit: a slot of its tile, its cluster's task queue or cask unit, its die's
copy or gather queue, a mesh port of its tile, or the launch queue. -/
def AcceptedCommandsJoinTheirUnit : Prop :=
  ∀ (s u : State) (c : Cmd), kindAccept s c = u →
    (cmdKind c = 1 → cmdSub c ≠ 8 → cmdSub c ≠ 10 → ∃ d, (slotOf (tileOf u c.tile) (scSlot c.tmpl)).pending =
      (slotOf (tileOf s c.tile) (scSlot c.tmpl)).pending ++ [d] ∧ d.id = c.id ∧ d.tmpl = c.tmpl ∧ d.rm = c.rm ∧ d.fte = c.fte) ∧
    (cmdKind c = 2 → ∃ k, (clusterOf u (tileCluster c.tile)).taskq = (clusterOf s (tileCluster c.tile)).taskq ++ [k] ∧ k.cmd = c ∧
      k.tile = c.tile ∧ k.chn = mtChn c.tmpl) ∧
    (cmdKind c = 3 → (dieOf u (tileDie c.tile)).copyq = (dieOf s (tileDie c.tile)).copyq ++ [c]) ∧
    (cmdKind c = 4 → (dieOf u (tileDie c.tile)).gatherq = (dieOf s (tileDie c.tile)).gatherq ++ [c]) ∧
    (cmdKind c = 5 → (clusterOf u (tileCluster c.tile)).cask = (clusterOf s (tileCluster c.tile)).cask ++ [c]) ∧
    (cmdKind c = 6 → cmdSub c ≠ 0 →
      (mportOf (tileOf u c.tile) (mpPort c.tmpl)).sprv = (mportOf (tileOf s c.tile) (mpPort c.tmpl)).sprv ++ [c]) ∧
    (cmdKind c = 6 → cmdSub c = 0 → ∃ d, (mportOf (tileOf u c.tile) (mpPort c.tmpl)).spip =
      (mportOf (tileOf s c.tile) (mpPort c.tmpl)).spip ++ [d] ∧ d.1.id = c.id ∧ d.1.tmpl = c.tmpl) ∧
    (cmdKind c = 7 → ∃ f, u.fe.launchq = s.fe.launchq ++ [f] ∧ f.kind = (if cmdSub c = 0 then .glnc c else .gnxt c) ∧
      f.tile = c.tile ∧ f.strm = c.strm)

end Sys2Proof.Claims

/-- R66, R67, R68, R69, R71, R72, R73, R74, R75, R76, R77, R100: TBLD replaces the addressed templates and their staging copies, TBSV stores
their images, and PHD writes its field of the staging copy. A PIS takes its traps in their order and waits for its tokens and for room in
its unit. One that passes, of any kind and reply mode, captures its rounding mode, format entry, index and generator word, pops its tokens,
owes one more reply to its queue register under reply mode 1, restores the staging copy, and joins its unit's input last. Its pushes are
made at once only where TKON is 0. -/
def Obligations.TemplateWordsMovePatchAndIssue : Prop :=
  TemplateWordsMoveImages ∧ PhdPatchesTheStagingCopy ∧ PisTrapsAndWaitsInOrder ∧ PisIssuesItsCommand ∧ CommandsCaptureTheirSettings
  ∧ IssuingUpdatesTheStream ∧ AcceptedCommandsJoinTheirUnit

namespace Sys2Proof.Claims

/-- R265, R266: OCLM claims the lowest free run, or the run that an exact request names, and answers its first slot and its length with
status 0; it answers status 1 where no such run is free, and status 2 for a bad request. OREL frees a slot of the tile's own, or leaves it
DRAINING while it is referenced, and raises SLOT for a bad range. That the answers of an OCLM that fails hold FIRST and N of 0 is the
model's choice (assumption 157). -/
def OperandSlotsAreClaimedAndReleased : Prop :=
  (∀ (o : FormDA) (s : State) (a : Word) (n first cl : Nat), Issues s o.tk → Reads s o.a a → Writes s o.d →
    wf64 a 6 0 = n → wf64 a 15 8 = first → tileCluster s.curTile = cl →
      (n = 0 ∨ 64 < n ∨ (a.getLsbD 16 = true ∧ 256 < first + n) →
        exec (.oclm o) s = .next (goesOn s (landLater (popped s o.tk) o.d (2 * 2 ^ 16) .fixed) o.tk)) ∧
      (n ≠ 0 → n ≤ 64 → (if a.getLsbD 16 then first + n ≤ 256 ∧ ¬ FreeRun s cl first n else ∀ f, ¬ FreeRun s cl f n) →
        exec (.oclm o) s = .next (goesOn s (landLater (popped s o.tk) o.d (1 * 2 ^ 16) .fixed) o.tk)) ∧
      (∀ f, n ≠ 0 → n ≤ 64 → FreeRun s cl f n → (if a.getLsbD 16 then f = first else ∀ g < f, ¬ FreeRun s cl g n) →
        ∃ t, exec (.oclm o) s = .next t ∧ t.mem = s.mem ∧
          (cur t).landings = (cur s).landings ++ [{ phys := physReg (cur s) o.d, val := BitVec.ofNat 64 (f + n * 2 ^ 8), kind := .fixed }] ∧
          (∀ i, f ≤ i → i < f + n →
            opSlotOf t cl i = { claim := some s.curTile, job := (tileOf s s.curTile).job.getD 0 }) ∧
          (∀ i, (i < f ∨ f + n ≤ i) → opSlotOf t cl i = opSlotOf s cl i))) ∧
  (∀ (o : FormAB) (s : State) (a b : Word) (first n cl : Nat), Issues s o.tk → Reads s o.a a → Reads s o.b b →
    wf64 b 6 0 = n → wf64 a 7 0 = first → tileCluster s.curTile = cl →
      (n = 1 → (opSlotOf s cl first).claim = some s.curTile → (opSlotOf s cl first).draining = false →
        ∃ t, exec (.orel o) s = .next t ∧ t.mem = s.mem ∧
          opSlotOf t cl first = (if slotReferenced s cl first then { opSlotOf s cl first with draining := true } else {})) ∧
      (n = 0 ∨ 64 < n ∨ 256 < first + n ∨
          (∃ i, first ≤ i ∧ i < first + n ∧ ((opSlotOf s cl i).claim ≠ some s.curTile ∨ (opSlotOf s cl i).draining = true)) →
        exec (.orel o) s = .next (takeTrap s .slot (BitVec.ofNat 64 (first + n * 2 ^ 8)) (cur s).pc)) ∧
      (n ≠ 0 → n ≤ 64 → first + n ≤ 256 →
        (∀ i, first ≤ i → i < first + n → (opSlotOf s cl i).claim = some s.curTile ∧ (opSlotOf s cl i).draining = false) →
          ∃ t, exec (.orel o) s = .next t ∧ t.mem = s.mem ∧ ∀ i, (i < first ∨ first + n ≤ i) → opSlotOf t cl i = opSlotOf s cl i))

/-- R287 to R289: EPIL attaches the record that its span holds to the live chain that g[b] names, or traps RING; ACCD marks the chain for
discard and unbinds its number, or traps RING; TASKW waits for the observed tasks of its tag, and with DRAIN for the drains of those that
close a chain, then forgets them and writes their count and first fault. -/
def ChainWordsNameTheirChain : Prop :=
  (∀ (o : FormAB) (s : State) (a b : Word) (bs : List Byte), Issues s o.tk → Reads s o.a a → Reads s o.b b →
    (wf64 a 55 0 % 64 ≠ 0 → exec (.epil o) s = .next (takeTrap s .align a (cur s).pc)) ∧
    (wf64 a 55 0 % 64 = 0 → (nearSel a = 1 ∨ nearSel a = 2 ∨ nearSel a = 3) → nearSpan s a 64 = .ok bs →
      (∀ off, epTemplate (wordsOf 8 bs) = some off → exec (.epil o) s = .next (takeTrap s .template (BitVec.ofNat 64 off) (cur s).pc)) ∧
      (epTemplate (wordsOf 8 bs) = none → epChecks s s.curTile s.curStrm (wordsOf 8 bs) = .ok () →
        ((namedChain s s.curTile b).filter chainLive = none → exec (.epil o) s = .next (takeTrap s .ring b (cur s).pc)) ∧
        (∀ x, (namedChain s s.curTile b).filter chainLive = some x →
          exec (.epil o) s = .next (let t := updChain s (tileCluster s.curTile) x fun y =>
              { y with epi := some { words := wordsOf 8 bs, tile := s.curTile, strm := s.curStrm } }
            goesOn t (popBits (cur t) o.tk) o.tk))))) ∧
  (∀ (o : FormA) (s : State) (a : Word) (b : ChnSt), Issues s o.tk → Reads s o.a a →
    (namedChain s s.curTile a = none → exec (.accd o) s = .next (takeTrap s .ring a (cur s).pc)) ∧
    (∀ x, namedChain s s.curTile a = some x → chnOf (tileOf s s.curTile) x.chn = b →
      exec (.accd o) s = .next (
        let u := setTile s s.curTile (if b.bindings = x.gen + 1 then
          { tileOf s s.curTile with chns := mset (tileOf s s.curTile).chns x.chn { b with bound := false } } else tileOf s s.curTile)
        let t := sweepChains (updChain u (tileCluster s.curTile) x fun y => { y with discard := true }) (tileCluster s.curTile);
        goesOn t (popBits (cur t) o.tk) o.tk))) ∧
  (∀ (o : FormDA) (s : State) (a : Word) (os : List TaskObs), Issues s o.tk → Reads s o.a a → Writes s o.d →
    (cur s).tasks.filter (fun x => x.tag == a.truncate 16) = os →
      ((∃ x ∈ os, x.ended = none ∨ (a.getLsbD 16 = true ∧ x.closes = true ∧ drainOver s s.curTile x = false)) →
        exec (.taskw o) s = .next s) ∧
      ((∀ x ∈ os, x.ended ≠ none ∧ (a.getLsbD 16 = true → x.closes = true → drainOver s s.curTile x = true)) →
        ∃ y : Stream, exec (.taskw o) s = .next (goesOn s (putReg y o.d (taskwResult os)) o.tk) ∧
          y.tasks = (cur s).tasks.filter (fun x => x.tag != a.truncate 16) ∧ y.regs = (cur s).regs ∧ y.fe = (cur s).fe ∧ y.q = (cur s).q ∧
          ∀ x ∈ os, ownKey x.id ∈ y.know.cmds)) ∧
  (∀ os : List TaskObs, (∀ x ∈ os, x.ended.getD 0 = 0 ∧ x.drained.getD 0 = 0) →
    taskwResult os = BitVec.ofNat 64 (min os.length 255 * 2 ^ 8))

end Sys2Proof.Claims

/-- R265, R266, R287, R288, R289, R427: OCLM claims the lowest free run, or the one an exact request names, and answers its first slot, its
length and status 0, or status 1 or 2; OREL frees the tile's own slots, leaves a referenced one DRAINING or traps SLOT; EPIL attaches the
record of its span to its chain or traps; ACCD marks its chain for discard or traps RING; TASKW waits for the observed tasks of its tag,
answers them and forgets them. The value in ss.tval of EPIL's ALIGN trap is the model's reading (log entry 37). That the answers of an OCLM
that fails hold FIRST and N of 0 is its choice (log entry 157). -/
def Obligations.SlotAndChainWordsNameTheirTarget : Prop :=
  OperandSlotsAreClaimedAndReleased ∧ ChainWordsNameTheirChain

namespace Sys2Proof.Claims

/-- R293, R296 to R301: the reuse words. RINV raises the entry's version and a DELTA entry's VAL falls; RFREE makes the entry FREE once
it is idle and its pages are settled; RQRY and RCNT read; RBIND writes the entry that its descriptor gives. Each waits for its entry's
turn, and traps REUSE on an entry that is FREE or another context's. -/
def ReuseWordsActOnTheirEntry : Prop :=
  (∀ (o : FormA) (s : State) (a : Word) (n : Nat) (e : REntry), Issues s o.tk → Reads s o.a a → wf64 a 11 0 = n → entryAt s n = e →
    (¬ AtTurn s n → exec (.rinv o) s = .next s ∧ exec (.rfree o) s = .next s) ∧
    (AtTurn s n →
      (∀ sub, entryTenant s (ctxnOf s s.curTile) e = some sub →
        exec (.rinv o) s = .next (takeTrap s .reuse (BitVec.ofNat 64 (sub + n * 2 ^ 8)) (cur s).pc) ∧
        (e.busy = false → exec (.rfree o) s = .next (takeTrap s .reuse (BitVec.ofNat 64 (sub + n * 2 ^ 8)) (cur s).pc))) ∧
      (e.busy = true → exec (.rfree o) s = .next s) ∧
      (entryTenant s (ctxnOf s s.curTile) e = none →
        (∃ t, exec (.rinv o) s = .next t ∧ t.mem = s.mem ∧
          entryAt t n = { e with ver := e.ver + 1, valid := if e.kind = .delta then false else e.valid }) ∧
        (e.busy = false → pagesSettled s e.ctxn.toNat (ownLeaves s n) = false → exec (.rfree o) s = .next s) ∧
        (e.busy = false → pagesSettled s e.ctxn.toNat (ownLeaves s n) = true → ∃ t, exec (.rfree o) s = .next t ∧ entryAt t n = {})))) ∧
  (∀ (o : FormDA) (s : State) (a : Word) (n : Nat) (e : REntry), Issues s o.tk → Reads s o.a a → Writes s o.d → wf64 a 11 0 = n →
    entryAt s n = e →
      (¬ AtTurn s n → exec (.rqry o) s = .next s) ∧
      (AtTurn s n → e.kind = .free ∨ entryOwned s (ctxnOf s s.curTile) e = true →
        exec (.rqry o) s = .next (goesOn (atEntry s n) (putReg (popped s o.tk) o.d (queryWord e)) o.tk)) ∧
      (AtTurn s n → e.kind ≠ .free → entryOwned s (ctxnOf s s.curTile) e = false →
        exec (.rqry o) s = .next (takeTrap s .reuse (BitVec.ofNat 64 (2 + n * 2 ^ 8)) (cur s).pc))) ∧
  (∀ (o : FormRcnt) (s : State) (a : Word) (n : Nat) (e : REntry), Issues s o.tk → Reads s o.a a → Writes s o.d → wf64 a 11 0 = n →
    entryAt s n = e →
      (a.getLsbD 63 = true → exec (.rcnt o) s = .next (goesOn s (putReg (popped s o.tk) o.d
        ((mget s.fe.ctxs (ctxnOf s s.curTile) {}).totals.getD (counterNum o.ctr) 0)) o.tk)) ∧
      (a.getLsbD 63 = false → ¬ AtTurn s n ∨ e.busy = true → exec (.rcnt o) s = .next s) ∧
      (a.getLsbD 63 = false → AtTurn s n → e.busy = false → entryTenant s (ctxnOf s s.curTile) e = none →
        exec (.rcnt o) s = .next (goesOn (atEntry s n) (putReg (popped s o.tk) o.d
          (BitVec.ofNat 64 (entryCounter e (counterNum o.ctr)))) o.tk)) ∧
      (∀ sub, a.getLsbD 63 = false → AtTurn s n → e.busy = false → entryTenant s (ctxnOf s s.curTile) e = some sub →
        exec (.rcnt o) s = .next (takeTrap s .reuse (BitVec.ofNat 64 (sub + n * 2 ^ 8)) (cur s).pc))) ∧
  (∀ (o : FormDAB) (s : State) (a b : Word) (bs : List Byte) (e : REntry), Issues s o.tk → Reads s o.a a → Reads s o.b b → Writes s o.d →
    (wf64 a 55 0 % 64 ≠ 0 → exec (.rbind o) s = .next (takeTrap s .align a (cur s).pc)) ∧
    (wf64 a 55 0 % 64 = 0 → nearSpan s a 64 = .ok bs →
      descEntry (wordsOf 8 bs) (ctxPasid s (ctxnOf s s.curTile)) (ctxnOf s s.curTile) (wf64 b 15 0) = e →
        (descFields (wordsOf 8 bs) = false → exec (.rbind o) s = .next (takeTrap s .reuse 5 (cur s).pc)) ∧
        (descFields (wordsOf 8 bs) = true → descRegions e = false → exec (.rbind o) s = .next (takeTrap s .reuse 6 (cur s).pc)) ∧
        (descFields (wordsOf 8 bs) = true → descRegions e = true →
          (∀ p sub, ((entryRegions e).flatMap regionPages).findSome? (fun p =>
              (pageFault s (ctxnOf s s.curTile) (tileCluster s.curTile) p).map fun n => (p, n)) = some (p, sub) →
            exec (.rbind o) s = .next (takeTrap s .page (BitVec.ofNat 64 p) (cur s).pc sub)) ∧
          ((∀ p ∈ (entryRegions e).flatMap regionPages, pageFault s (ctxnOf s s.curTile) (tileCluster s.curTile) p = none) →
            ((∃ n, freeEntry s (tileDie s.curTile) = some n ∧ ¬ AtTurn s n) ∨
                pagesSettled s (ctxnOf s s.curTile) (regionLeaves s (ctxnOf s s.curTile) (entryRegions e)) = false →
              exec (.rbind o) s = .next s) ∧
            ((∀ n, freeEntry s (tileDie s.curTile) = some n → AtTurn s n) →
                pagesSettled s (ctxnOf s s.curTile) (regionLeaves s (ctxnOf s s.curTile) (entryRegions e)) = true →
              exec (.rbind o) s = .next (let t := (bindEntry (seeSpan s a 64) s.curTile e).1
                goesOn t (putReg (popBits (cur t) o.tk) o.d (bindEntry (seeSpan s a 64) s.curTile e).2) o.tk))))))

/-- R28, R297, R298: the memory that RBIND and RFREE change: the watch marks in the leaf entries of the pages of the entry's regions, and
no other byte; nothing, where RBIND's descriptor cannot be read. -/
def ReuseWordsChangeOnlyWatchMarks : Prop :=
  (∀ (o : FormDAB) (s t : State) (a b : Word) (bs : List Byte) (e : REntry), MemInv s → s.poison = [] → Reads s o.a a → Reads s o.b b →
    nearSpan s a 64 = .ok bs →
      descEntry (wordsOf 8 bs) (ctxPasid s (ctxnOf s s.curTile)) (ctxnOf s s.curTile) (wf64 b 15 0) = e → exec (.rbind o) s = .next t →
        ∀ q, (∀ l ∈ regionLeaves s (ctxnOf s s.curTile) (entryRegions e), q < l.1 ∨ l.1 + 8 ≤ q) → memGet t.mem q = memGet s.mem q) ∧
  (∀ (o : FormDAB) (s t : State) (a : Word), Reads s o.a a → (∀ bs, nearSpan s a 64 ≠ .ok bs) → exec (.rbind o) s = .next t →
    t.mem = s.mem) ∧
  (∀ (o : FormA) (s t : State) (a : Word), MemInv s → s.poison = [] → Reads s o.a a → exec (.rfree o) s = .next t →
    ∀ q, (∀ l ∈ ownLeaves s (wf64 a 11 0), q < l.1 ∨ l.1 + 8 ≤ q) → memGet t.mem q = memGet s.mem q)

/-- R297: RBIND answers status 2 where the context holds its quota of entries and status 1 where none is FREE; otherwise it fills a FREE
entry, the lowest of the tile's own die where there is one, and answers its number. -/
def BindingTakesAFreeEntry : Prop :=
  ∀ (s t : State) (tile : Nat) (e : REntry) (v : Word), bindEntry s tile e = (t, v) →
    (wf64 (ctxWord s e.ctxn.toNat 0) 27 16 ≤ entriesHeld s e.ctxn.toNat → t = s ∧ v = 2 * 2 ^ 16) ∧
    (entriesHeld s e.ctxn.toNat < wf64 (ctxWord s e.ctxn.toNat 0) 27 16 →
      ((∀ n < Config.reuseEntries, (entryAt s n).kind ≠ .free) → t = s ∧ v = 1 * 2 ^ 16) ∧
      ((∃ n < Config.reuseEntries, (entryAt s n).kind = .free) →
        ∃ n < Config.reuseEntries, v = BitVec.ofNat 64 n ∧ (entryAt s n).kind = .free ∧ entryAt t n = e ∧
          (∀ m < Config.reuseEntries, m % 4 = tileDie tile → (entryAt s m).kind = .free → n % 4 = tileDie tile ∧ n ≤ m)))

/-- R14, R293: an entry that an operation of a cluster reaches is cached there, among at most 64, and in no other cluster. -/
def EntriesAreCachedInOneCluster : Prop :=
  ∀ (s t : State) (cl n : Nat), cacheEntry s cl n = t →
    (clusterOf t cl).rcache = (n :: (clusterOf s cl).rcache.filter (· != n)).take 64 ∧ (∀ d, d ≠ cl → n ∉ (clusterOf t d).rcache) ∧
      t.reuse = s.reuse ∧ t.mem = s.mem

end Sys2Proof.Claims

/-- R14, R28, R293, R296, R297, R298, R299, R300, R301, R302: RINV raises the version of its entry and a DELTA entry falls; RFREE frees an
entry that nothing holds and waits for another; RQRY and RCNT read; RBIND of a well-formed descriptor whose pages are mapped binds a FREE
entry of the home that the context's tile names, or answers why not. RBIND and RFREE change no byte of memory but the watch marks in the
leaf entries of the pages of the entry's regions. That ss.tval of RBIND's PAGE trap holds the first failing page (log entry 57), and what it
holds for ALIGN (log entry 37), are the model's readings. An entry used by a cluster enters its cache of 64 entries and leaves that of every
other cluster. -/
def Obligations.ReuseWordsAndEntriesAct : Prop :=
  ReuseWordsActOnTheirEntry ∧ ReuseWordsChangeOnlyWatchMarks ∧ BindingTakesAFreeEntry ∧ EntriesAreCachedInOneCluster

namespace Sys2Proof.Claims

/-- R253 to R261: CFGQ reads a region's word; a CFGLD, RACK, KILN, THAW or RGO waits while the unit serves another stream; with a register
of zero it retires and changes nothing else; CFGLD, RACK and KILN act at once on regions that need not settle, and otherwise start
their settling and end once every region has settled; THAW restores its regions and RGO starts the STOPPED ones. -/
def ConfigurationWordsActOnTheirRegions : Prop :=
  (∀ (o : FormDA) (s : State) (a : Word), Issues s o.tk → Reads s o.a a → Writes s o.d →
    exec (.cfgq o) s = .next (goesOn s (landLater (popped s o.tk) o.d (cfgqWord (regionAt s s.curTile (wf64 a 2 0))) .fixed) o.tk)) ∧
  (∀ (o : FormAB) (p : FormA) (s : State) (a b : Word) (u : CfgUnit), Issues s o.tk → Issues s p.tk → Reads s o.a a → Reads s o.b b →
    Reads s p.a a → cfgTakes s s.curTile s.curStrm = false → ((tileOf s s.curTile).cfg = some u → u.strm ≠ s.curStrm) →
      ((tileOf s s.curTile).cfg = none ∨ (tileOf s s.curTile).cfg = some u) →
      exec (.cfgld o) s = .next s ∧ exec (.thaw o) s = .next s ∧ exec (.rack p) s = .next s ∧ exec (.kiln p) s = .next s ∧
        exec (.rgo p) s = .next s) ∧
  (∀ (o : FormAB) (s : State) (a : Word), Issues s o.tk → Reads s o.a a → Reads s o.b 0 → cfgTakes s s.curTile s.curStrm = true →
    exec (.cfgld o) s = .next (goesOn s (popped s o.tk) o.tk) ∧ exec (.thaw o) s = .next (goesOn s (popped s o.tk) o.tk)) ∧
  (∀ (o : FormA) (s : State), Issues s o.tk → Reads s o.a 0 → cfgTakes s s.curTile s.curStrm = true →
    exec (.rack o) s = .next (goesOn s (popped s o.tk) o.tk) ∧ exec (.kiln o) s = .next (goesOn s (popped s o.tk) o.tk) ∧
      exec (.rgo o) s = .next (goesOn s (popped s o.tk) o.tk)) ∧
  (∀ (o : FormAB) (s : State) (a b : Word) (new : FMap Region) (rk : List Nat), Issues s o.tk → Reads s o.a a → Reads s o.b b →
    cfgTakes s s.curTile s.curStrm = true → b ≠ 0 → cfgldRegions s a b = .ok new → toRack (tileOf s s.curTile) (maskOf b) = rk →
      exec (.cfgld o) s = .next (if rk = [] then cfgReplace (noteCur s (imageSeen s a)) new o.tk
        else setTile s s.curTile { rk.foldl startRack (tileOf s s.curTile) with
          cfg := some { strm := s.curStrm, settle := rk, image := new, seen := imageSeen s a } })) ∧
  (∀ (o : FormA) (s : State) (a : Word) (rk : List Nat), Issues s o.tk → Reads s o.a a → cfgTakes s s.curTile s.curStrm = true → a ≠ 0 →
    wf64 a 63 8 = 0 → toRack (tileOf s s.curTile) (maskOf a) = rk →
      exec (.rack o) s = .next (if rk = [] then rackRelease s (maskOf a) o.tk
        else setTile s s.curTile { rk.foldl startRack (tileOf s s.curTile) with
          cfg := some { strm := s.curStrm, settle := rk, release := maskOf a } })) ∧
  (∀ (o : FormA) (s : State) (a : Word) (rk : List Nat) (pages : FMap (Nat × Nat × Bool)), Issues s o.tk → Reads s o.a a →
    cfgTakes s s.curTile s.curStrm = true → a ≠ 0 → wf64 a 63 8 = 0 → toRack (tileOf s s.curTile) (maskOf a) = rk → kilnPages s rk = .ok pages →
      (∀ n ∈ maskOf a, (regionAt s s.curTile n).state ≠ .frozen ∧ (regionAt s s.curTile n).state ≠ .faulted) →
        exec (.kiln o) s = .next (if rk = [] then cfgRetire s o.tk
          else rk.foldl (fun s n => startWave s s.curTile n false) (setTile s s.curTile { tileOf s s.curTile with
            cfg := some { strm := s.curStrm, settle := rk, kiln := true, pages := pages } }))) ∧
  (∀ (o : FormAB) (p : FormA) (s : State) (u : CfgUnit), canIssue (cur s) = true → (tileOf s s.curTile).cfg = some u →
    u.strm = s.curStrm →
      ((∃ n ∈ u.settle, n ∉ u.settled) →
        exec (.cfgld o) s = .next s ∧ exec (.rack p) s = .next s ∧ exec (.kiln p) s = .next s) ∧
      ((∀ n ∈ u.settle, n ∈ u.settled) →
        exec (.cfgld o) s = .next (cfgReplace (noteCur s u.seen) u.image o.tk) ∧ exec (.rack p) s = .next (rackRelease s u.release p.tk) ∧
          exec (.kiln p) s = .next (cfgRetire s p.tk))) ∧
  (∀ (o : FormAB) (s : State) (a b : Word) (ws : List Word) (recs : List RecImg) (imgs : List (Nat × KilnImage)),
    Issues s o.tk → Reads s o.a a → Reads s o.b b → cfgTakes s s.curTile s.curStrm = true → b ≠ 0 → wf64 b 63 8 = 0 →
      readImage s a = .ok ws → checkedRecs true ws (maskOf b) = .ok recs → imagesFor s recs = .ok imgs →
        chkStates (tileOf s s.curTile) (imgs.map fun p => (p.1, p.2.region))
          (fun x => x == .stopped || x == .running || x == .faulted) (maskOf b) = none →
          exec (.thaw o) s = .next
            (cfgRetire (thawAll s.curTile (some s.curStrm) (noteCur s (imageSeen s a)) imgs) o.tk)) ∧
  (∀ (o : FormA) (s : State) (a : Word), Issues s o.tk → Reads s o.a a → cfgTakes s s.curTile s.curStrm = true → a ≠ 0 → wf64 a 63 8 = 0 →
    (∀ n ∈ maskOf a, (regionAt s s.curTile n).state ≠ .unconfigured ∧ (regionAt s s.curTile n).state ≠ .frozen ∧
      (regionAt s s.curTile n).state ≠ .faulted) →
        ∃ t, exec (.rgo o) s = .next t ∧ t.mem = s.mem ∧ (tileOf t s.curTile).cfg = none ∧
          (∀ n ∈ maskOf a, (regionAt s s.curTile n).state = .stopped →
            regionAt t s.curTile n = { regionAt s s.curTile n with state := .running }) ∧
          (∀ n, n ∉ maskOf a ∨ (regionAt s s.curTile n).state ≠ .stopped → regionAt t s.curTile n = regionAt s s.curTile n))

/-- R252, R254, R255, R259, R261: a region that CFGLD places holds its new configuration; one that RACK releases is UNCONFIGURED, and a
FROZEN or FAULTED one has lost its slots' commands; a wave begins with the region FREEZING; THAW restores a region's configuration with its
section numbers from 0 and its channels' words ahead of newer ones. That commands held by a FROZEN or FAULTED region go without a reply is
the model's reading (assumption 136). -/
def RegionsArePlacedReleasedAndRestored : Prop :=
  (∀ (s : State) (tk : BitVec 4) (n : Nat) (r : Region), regionAt (cfgReplace s [(n, r)] tk) s.curTile n = r) ∧
  (∀ (s t : State) (tile n : Nat), releaseRegion s tile n = t →
    regionAt t tile n = {} ∧ (∀ m, m ≠ n → regionAt t tile m = regionAt s tile m) ∧
      ((regionAt s tile n).state = .frozen ∨ (regionAt s tile n).state = .faulted →
        ∀ m < 16, (regionAt s tile n).slots.getLsbD m = true →
          (slotAt t tile m).active = none ∧ (slotAt t tile m).pending = [] ∧ (slotAt t tile m).halt = none)) ∧
  (∀ (s : State) (tile n : Nat) (byFe : Bool), regionAt (startWave s tile n byFe) tile n =
    { regionAt s tile n with state := .freezing, wasRunning := (regionAt s tile n).state == .running, aligned := []
                             waveStart := s.fab, waveByFe := byFe }) ∧
  (∀ (s t : State) (tile n : Nat) (sk : Strm) (m : KilnImage), thawRegion tile (some sk) s (n, m) = t →
    regionAt t tile n = { m.region with secNext := 0, spanStrm := sk } ∧ t.mem = s.mem ∧
      (∀ i xs, m.chs = [(i, xs)] → (mget (tileOf t tile).chs i {}).items = xs ++ (mget (tileOf s tile).chs i {}).items) ∧
      ((regionAt s tile n).state = .frozen → m.slots = [] → ∀ j < 16, (regionAt s tile n).slots.getLsbD j = true →
        (slotAt t tile j).active = none ∧ (slotAt t tile j).pending = [] ∧ (slotAt t tile j).halt = none)) ∧
  (∀ (s : State) (t : Nat), ((tileOf s t).cfg ≠ none → ∀ sk, cfgTakes s t sk = false) ∧
    ((tileOf s t).cfg = none → cfgTakes s t .k = true ∧
      (∀ sk, cfgTakes s t sk = true ↔ ∀ j ∈ strmsBefore sk, cfgWaits s t j = false)))

end Sys2Proof.Claims

/-- R252, R253, R254, R255, R256, R257, R258, R259, R261: CFGQ reads a region's word. CFGLD and RACK settle their running regions and then
act at once, KILN starts its waves, THAW of a good image restores its regions, and RGO sets a stopped region running; each waits while the
unit serves another word or an earlier stream of the tile waits for it, and a zero register goes on at once. A region placed holds its
configuration, one released is UNCONFIGURED and, FROZEN or FAULTED, has lost its commands, and a thawed one has section numbers from 0 and
its channels' words ahead of newer ones. That commands held by a FROZEN or FAULTED region that is released or thawed over go without a reply
is the model's reading (log entry 136). -/
def Obligations.ConfigurationWordsAndRegionsAct : Prop :=
  ConfigurationWordsActOnTheirRegions ∧ RegionsArePlacedReleasedAndRestored

/-- R342, R370: GARM, GSET, EMIT and SIGH send their request to the front end, behind those already sent, and go on; they wait while the
launch queue is full, and a misaligned address traps. That EMIT's ALIGN and ACCESS_PATH carry the near address is the model's reading
(assumption 37). -/
def Obligations.FrontEndWordsQueueTheirRequest : Prop :=
  (∀ (o : FormA) (s : State) (a : Word), Issues s o.tk → Reads s o.a a → s.fe.launchq.length < 1024 →
    exec (.sigh o) s = .next (sendFe s o.tk (.sigh a)) ∧
    (a.toNat % 128 = 0 → nearSel a = 0 → exec (.garm o) s = .next (sendFe s o.tk (.garm a)))) ∧
  (∀ (o : FormA) (s : State) (a : Word), Issues s o.tk → Reads s o.a a →
    (a.toNat % 128 ≠ 0 → exec (.garm o) s = .next (takeTrap s .align 0 (cur s).pc)) ∧
    (a.toNat % 128 = 0 → nearSel a ≠ 0 → exec (.garm o) s = .next (takeTrap s .accessPath 0 (cur s).pc)) ∧
    (1024 ≤ s.fe.launchq.length → exec (.sigh o) s = .next s ∧
      (a.toNat % 128 = 0 → nearSel a = 0 → exec (.garm o) s = .next s))) ∧
  (∀ (o : FormAB) (s : State) (a b : Word), Issues s o.tk → Reads s o.a a → Reads s o.b b → s.fe.launchq.length < 1024 →
    (a.toNat % 8 = 0 → (nearSel a = 0 ∨ nearSel a = 3) → exec (.gset o) s = .next (sendFe s o.tk (.gset a b))) ∧
    (∀ bs, b.toNat % 64 = 0 → (nearSel b = 1 ∨ nearSel b = 2 ∨ nearSel b = 3) → nearSpan s b 64 = .ok bs →
      ringOwned s (wf64 a 11 0) (ctxnOf s s.curTile) = true → ringRoom s (wf64 a 11 0) = true →
        exec (.emit o) s = .next (sendFe (seeSpan s b 64) o.tk (.emit (wf64 a 11 0) bs)))) ∧
  (∀ (o : FormAB) (s : State) (a b : Word), Issues s o.tk → Reads s o.a a → Reads s o.b b →
    (a.toNat % 8 ≠ 0 → exec (.gset o) s = .next (takeTrap s .align 0 (cur s).pc)) ∧
    (a.toNat % 8 = 0 → nearSel a ≠ 0 → nearSel a ≠ 3 → exec (.gset o) s = .next (takeTrap s .accessPath 0 (cur s).pc)) ∧
    (a.toNat % 8 = 0 → (nearSel a = 0 ∨ nearSel a = 3) → 1024 ≤ s.fe.launchq.length → exec (.gset o) s = .next s) ∧
    (b.toNat % 64 ≠ 0 → exec (.emit o) s = .next (takeTrap s .align b (cur s).pc)) ∧
    (b.toNat % 64 = 0 → (nearSel b = 0 ∨ 3 < nearSel b) → exec (.emit o) s = .next (takeTrap s .accessPath b (cur s).pc)) ∧
    (b.toNat % 64 = 0 → (nearSel b = 1 ∨ nearSel b = 2 ∨ nearSel b = 3) →
      (∀ c v sub, nearSpan s b 64 = .error (.trap c v sub) → exec (.emit o) s = .next (takeTrap s c v (cur s).pc sub)) ∧
      (nearSpan s b 64 = .error .stall → exec (.emit o) s = .next s) ∧
      (∀ bs, nearSpan s b 64 = .ok bs →
        (ringOwned s (wf64 a 11 0) (ctxnOf s s.curTile) = false →
          exec (.emit o) s = .next (takeTrap s .graph (BitVec.ofNat 64 (wf64 a 11 0)) (cur s).pc)) ∧
        (ringOwned s (wf64 a 11 0) (ctxnOf s s.curTile) = true →
          (1024 ≤ s.fe.launchq.length ∨ ringRoom s (wf64 a 11 0) = false) → exec (.emit o) s = .next s)))) ∧
  (∀ (s : State) (tk : BitVec 4) (k : FeKind), NoLoopEnd (cur s) → PushRoom s tk →
    (sendFe s tk k).fe.launchq = s.fe.launchq ++
        [FeCmd.mk k s.curTile s.curStrm ((tileOf s s.curTile).job.getD 0) (ctxnOf s s.curTile)] ∧
      (sendFe s tk k).mem = s.mem)

/-! Events of the core and of memory (R70 to R72, R119, R177 to R180, R395 to R405). -/

namespace Sys2Proof.Claims

/-- R119, R121, R122, R130: a pending result of its kind lands: the register becomes full with the value and mark, and the others stay. -/
def PendingResultsLandInTheirRegister : Prop :=
  ∀ p ∈ landingEvents, ∀ (s : State) (t : Nat) (sk : Strm) (n : Nat) (l : Landing),
    (strmAt s t sk).landings[n]? = some l → l.kind = p.2 →
      ∃ x, exec (p.1 t sk n) s = .next x ∧ (strmAt x t sk).landings = ldrop (strmAt s t sk).landings n ∧
        (l.phys ≠ 0 → regAt (strmAt x t sk) l.phys = { val := l.val, full := true, poison := l.poison }) ∧
        (∀ q, q ≠ l.phys → regAt (strmAt x t sk) q = regAt (strmAt s t sk) q) ∧ x.mem = s.mem ∧ x.fe = s.fe ∧
        (strmAt x t sk).pc = (strmAt s t sk).pc

/-- R177, R179, R180: a posted store is recorded as performed at a scope, and a published write enters one stream's view; neither changes
memory. -/
def StoresArePerformedAndWritesEnterViews : Prop :=
  (∀ (s : State) (t : Nat) (sk : Strm) (x : Posted) (rest : List Posted) (sc : Scope),
    (strmAt s t sk).posted = x :: rest → performedAt x sc = false →
      ∃ y, exec (.postedStorePerformed t sk 0 sc) s = .next y ∧
        (strmAt y t sk).posted = { x with performed := some sc } :: rest ∧ y.mem = s.mem) ∧
  (∀ (s : State) (t : Nat) (sk : Strm) (w : WriteRec), w ∈ s.wlog → w.id ∉ (strmAt s t sk).entered →
    ∃ y, exec (.writeEntersView t sk w.id) s = .next y ∧ inView t sk (strmAt y t sk) w = true ∧ y.mem = s.mem ∧ y.wlog = s.wlog)

end Sys2Proof.Claims

/-- R119, R121, R122, R130, R178, R179, R180: A landing of each kind fills its register with its value and mark and changes no other
register; a posted store is recorded as performed at a scope; a published write enters one stream's view. None of them changes memory. When
each happens is left open by the spec, and the schedule of the model chooses (log entry 1). -/
def Obligations.PendingResultsLandAndStoresArePerformed : Prop :=
  PendingResultsLandInTheirRegister ∧ StoresArePerformedAndWritesEnterViews

namespace Sys2Proof.Claims

/-- R70, R72: a stream's command that ends pushes no token leaves the stream's list of outstanding commands; its reply word, with its tag,
its status and its result, goes to the queue register that the template names, or to its reply word in own scratchpad. -/
def CompletedCommandsLeaveTheirStream : Prop :=
  ∀ (s : State) (n : Nat) (d : Done), s.done[n]? = some d → d.cmd.fromFe = false → (tileOf s d.cmd.tile).job = some d.cmd.job →
    (mget? s.fe.jobs d.cmd.job).isSome = true → (tf d.cmd.tmpl 12 12 = 0 ∨ d.status ≠ 0) → EndsNext s n d.cmd →
      (tf d.cmd.tmpl 14 13 = 0 → ∃ t, exec (.commandCompletion n) s = .next t ∧ t.done = ldrop s.done n ∧ t.replies = s.replies ∧
        t.mem = s.mem ∧ (strmAt t d.cmd.tile d.cmd.strm).cmds = (strmAt s d.cmd.tile d.cmd.strm).cmds.filter (fun r => r.id != d.cmd.id) ∧
        (∀ u sk r, tokens (strmAt t u sk) r = tokens (strmAt s u sk) r)) ∧
      (tf d.cmd.tmpl 14 13 = 1 → ∃ t r, exec (.commandCompletion n) s = .next t ∧ t.replies = s.replies ++ [r] ∧ r.q = tf d.cmd.tmpl 17 15 ∧
        r.tile = d.cmd.tile ∧ r.strm = d.cmd.strm ∧ wf64 r.word 63 48 = tf d.cmd.tmpl 47 32 ∧ wf64 r.word 47 40 = d.status.toNat ∧
        wf64 r.word 39 0 = d.result.toNat ∧ t.mem = s.mem ∧ ownKey d.cmd.id ∈ r.know.cmds) ∧
      (tf d.cmd.tmpl 14 13 = 2 → mget? s.fe.saves d.cmd.job = none → MemInv s →
        ∃ t, exec (.commandCompletion n) s = .next t ∧ t.replies = s.replies ∧
          readNat t (scratchBase d.cmd.tile + tf d.cmd.tmpl 63 48 * 8) 8 = (replyWord d).toNat)

/-- R72: a command under TKON that completes without fault pushes its tokens then. A push that finds its FIFO full pushes nothing, and
makes TOKEN_OVER due at the next boundary of the stream, with the tag and the kind, or, after HALT, an engine fault of the job. -/
def CompletionPushesTokens : Prop :=
  ∀ (s : State) (n : Nat) (d : Done) (t : State), s.done[n]? = some d → d.cmd.fromFe = false →
    (tileOf s d.cmd.tile).job = some d.cmd.job → (mget? s.fe.jobs d.cmd.job).isSome = true → tf d.cmd.tmpl 12 12 = 1 → d.status = 0 →
      tf d.cmd.tmpl 14 13 = 0 → tf d.cmd.tmpl 9 9 = 0 → tf d.cmd.tmpl 8 8 = 1 → EndsNext s n d.cmd → exec (.commandCompletion n) s = .next t →
        (pushedTokens s d.cmd.tile d.cmd.strm true < 8 →
          pushedTokens t d.cmd.tile d.cmd.strm true = pushedTokens s d.cmd.tile d.cmd.strm true + 1 ∧
          (strmAt t d.cmd.tile d.cmd.strm).overDue = (strmAt s d.cmd.tile d.cmd.strm).overDue) ∧
        (8 ≤ pushedTokens s d.cmd.tile d.cmd.strm true →
          pushedTokens t d.cmd.tile d.cmd.strm true = pushedTokens s d.cmd.tile d.cmd.strm true ∧
          ((strmAt s d.cmd.tile d.cmd.strm).halted = false → (strmAt t d.cmd.tile d.cmd.strm).overDue =
            (strmAt s d.cmd.tile d.cmd.strm).overDue ++ [BitVec.ofNat 64 (tf d.cmd.tmpl 47 32 + tf d.cmd.tmpl 3 0 * 2 ^ 16)]) ∧
          ((strmAt s d.cmd.tile d.cmd.strm).halted = true → ∃ r, t.fe.offers = s.fe.offers ++ [r] ∧ r.code = causeByte .tokenOver ∧
            r.tile = d.cmd.tile ∧ r.strm = d.cmd.strm))

/-- R72: a TOKEN_OVER that is due is taken at the stream's boundary, with its value in ss.tval and ss.epc at the instruction that waits. -/
def DueTokenOversAreTaken : Prop :=
  ∀ (s : State) (t : Nat) (sk : Strm) (v : Word) (rest : List Word), (strmAt s t sk).overDue = v :: rest → (tileOf s t).cfg = none →
    (strmAt s t sk).running = true → (strmAt s t sk).halted = false → (strmAt s t sk).wait = .none →
      TakesInContext (strmAt s t sk) .tokenOver →
        (strmAt (takeOverDue s t sk) t sk).overDue = rest ∧ (strmAt (takeOverDue s t sk) t sk).tval = v ∧
        (strmAt (takeOverDue s t sk) t sk).epc = (strmAt s t sk).pc ∧ (strmAt (takeOverDue s t sk) t sk).tctx = true ∧
        (strmAt (takeOverDue s t sk) t sk).cause = 0x0A ∧ (strmAt (takeOverDue s t sk) t sk).regs = (strmAt s t sk).regs

end Sys2Proof.Claims

/-- R70, R71, R72, R156, R158: In the order in which their engines ended them, a command of a standing job leaves the list of outstanding
commands; under reply mode 1 one reply with its tag, status and result goes to its queue register, under mode 2 to its word in own
scratchpad. Under TKON it pushes its tokens then. A push to a full FIFO pushes nothing and makes TOKEN_OVER due at the next boundary of the
stream, or after HALT offers an engine fault, and a due TOKEN_OVER is taken with its value in ss.tval. -/
def Obligations.CompletedCommandsReplyAndPush : Prop :=
  CompletedCommandsLeaveTheirStream ∧ CompletionPushesTokens ∧ DueTokenOversAreTaken

namespace Sys2Proof.Claims

/-- R384: TLBI removes the context's translations and upper-level walk entries that it names and no other, once every access that used one
of them has been performed. -/
def TlbiRemovesWhatItNames : Prop :=
  ∀ (o : FormTlbi) (s : State) (a : Word), Issues s o.tk → Reads s o.a a →
    (o.kind = .vpage → nearSel a ≠ 0 → exec (.tlbi o) s = .next (takeTrap s .accessPath 0 (cur s).pc)) ∧
    ((o.kind = .vpage → nearSel a = 0) →
      (tlbiPending s (ctxnOf s s.curTile) o.kind a = true → exec (.tlbi o) s = .next s) ∧
      (tlbiPending s (ctxnOf s s.curTile) o.kind a = false → NoLoopEnd (cur s) → PushRoom s o.tk →
        ∃ t, exec (.tlbi o) s = .next t ∧ (∀ e, e ∈ t.tlb ↔ e ∈ s.tlb ∧ tlbiRemoves (ctxnOf s s.curTile) o.kind a e = false) ∧
          (∀ e, e ∈ t.walks ↔ e ∈ s.walks ∧ tlbiRemovesWalk (ctxnOf s s.curTile) o.kind a e = false) ∧
          t.mem = s.mem ∧ (cur t).regs = (cur s).regs ∧ (cur t).pc = (cur s).pc + 4))

/-- R384: which translations each kind of TLBI removes: those of one L2 page, those whose page holds the virtual address, or all of the
context. -/
def TlbiKindsNameTheirTranslations : Prop :=
  ∀ (ctxn : Nat) (a : Word) (e : TlbEntry),
    (tlbiRemoves ctxn .l2page a e = true ↔ e.ctxn = ctxn ∧ e.l2 = true ∧ e.base = wf64 a 15 0) ∧
    (tlbiRemoves ctxn .vpage a e = true ↔ e.ctxn = ctxn ∧ e.l2 = false ∧ e.base ≤ a.toNat ∧ a.toNat < e.base + e.size) ∧
    (tlbiRemoves ctxn .all a e = true ↔ e.ctxn = ctxn)

/-- R398: the rooms of the TLBs: 32 translations of a control core, 8 of a slot, 64 of an engine, 2,048 of a cluster, and 1,024 entries
of a walk cache. A page walk keeps every TLB within its room, and changes no data. -/
def WalksKeepTheRoomOfTheTlbs : Prop :=
  (∀ t n d e c, unitRoom (.core t) = 32 ∧ unitRoom (.slot t n) = 8 ∧ unitRoom (.copy d e) = 64 ∧ unitRoom (.gather d e) = 64 ∧
    unitRoom (.second c) = 2048) ∧ walkRoom = 1024 ∧
  (∀ (s : State) (r : WalkReq), ∃ t, exec (.pageWalk r) s = .next t ∧ t.mem = s.mem ∧ t.fe = s.fe ∧ t.tiles = s.tiles ∧
    t.poison = s.poison ∧ (TlbInv s → TlbInv t))

/-- R401, R402: the collapse of the page of a held write makes the leaf entry name the copy kept, and the record say that it has collapsed,
and changes no other byte; the held write then waits for its unit. A page that has collapsed meanwhile, and a write whose command is
gone, leave the list of held writes. COLLAPSE is posted when the held write has been performed. -/
def CollapsesKeepOneCopy : Prop :=
  (∀ (s t : State) (n : Nat) (h : HeldWrite) (x : Nat × Nat × Nat), s.held[n]? = some h → h.kept = none →
    collapsePage s h.ctxn h.die h.va = some (t, x) → exec (.collapse n) s = .next { t with held := lset t.held n { h with kept := some x } }) ∧
  (∀ (s : State) (n : Nat) (h : HeldWrite), s.held[n]? = some h → h.kept = none → collapsePage s h.ctxn h.die h.va = none →
    exec (.collapse n) s = .next { s with held := ldrop s.held n }) ∧
  (∀ (s : State) (n : Nat) (h : HeldWrite), s.held[n]? = some h → h.kept ≠ none → keyLive s h.key = true →
    exec (.collapse n) s = .next s) ∧
  (∀ (s t : State) (ctxn die va a base size keep w : Nat), MemInv s → s.poison = [] → leafEntry s ctxn va = some (a, base, size) →
    collapsePage s ctxn die va = some (t, keep, base, w) →
      t.tiles = s.tiles ∧ t.fe = s.fe ∧ keep = (if bitN (readNat s (bitsN (readNat s a 8) 55 8 * 2 ^ 8 + 32) 8) die then die
        else bitsN (readNat s (bitsN (readNat s a 8) 55 8 * 2 ^ 8 + 32) 8) 5 4) ∧
      (∀ q, (q < a ∨ a + 8 ≤ q) → (q < bitsN (readNat s a 8) 55 8 * 2 ^ 8 + 32 ∨ bitsN (readNat s a 8) 55 8 * 2 ^ 8 + 40 ≤ q) →
        memGet t.mem q = memGet s.mem q)) ∧
  (∀ (s : State) (g : Agent) (p n keep base w : Nat) (h : HeldWrite), s.held.find? (performsHeld g p n) = some h →
    h.kept = some (keep, base, w) → ∃ r, (noteCollapse s g p n).held = s.held.erase h ∧ (noteCollapse s g p n).mem = s.mem ∧
      (noteCollapse s g p n).fe.offers = s.fe.offers ++ [r] ∧ r.code = causeByte .collapse ∧ r.addr = BitVec.ofNat 64 base ∧
      r.detail = BitVec.ofNat 64 keep ∧ r.die = h.die)

/-- R403, R404: a scrub pass changes no byte and no poison, and only drops translations and walk entries. -/
def ScrubPassesChangeNoData : Prop :=
  ∀ (s : State) (d : Nat), ∃ t, exec (.scrubPass d) s = .next t ∧ t.mem = s.mem ∧ t.poison = s.poison ∧ t.tiles = s.tiles ∧ t.fe = s.fe ∧
    (∀ e ∈ t.tlb, e ∈ s.tlb) ∧ ∀ e ∈ t.walks, e ∈ s.walks

/-- R404, R405: an uncorrectable error poisons the granules it affects and changes no byte; a write of whole granules clears their poison.
An error in a reuse entry makes it FREE, at once or when the operation being applied there is over. -/
def UncorrectableErrorsPoisonMemory : Prop :=
  (∀ (s : State) (p : Nat), p < Config.hbmBytes → ∃ t, exec (.uncorrectableError (.granule p)) s = .next t ∧ t.mem = s.mem ∧
    (∀ q, poisonedAt t q = true ↔ poisonedAt s q = true ∨ q / 64 = p / 64)) ∧
  (∀ (s : State) (g : Agent) (p : Nat) (bs : List Byte), p % 8 = 0 → bs.length = 8 →
    poisonedAt (writeAt s g p bs) p = false ∧ ∀ q, q / 8 ≠ p / 8 → poisonedAt (writeAt s g p bs) q = poisonedAt s q) ∧
  (∀ (s : State) (n : Nat), (entryAt s n).kind ≠ .free →
    ((entryAt s n).busy = false → entryHeld s n none = false →
      ∃ t, exec (.uncorrectableError (.reuse n)) s = .next t ∧ entryAt t n = {}) ∧
    ((entryAt s n).busy = true ∨ entryHeld s n none = true →
      exec (.uncorrectableError (.reuse n)) s = .next (setEntry (unwatch s n) n { entryAt s n with dropping := true })))

end Sys2Proof.Claims

/-- R384, R395, R397, R398, R401, R402, R403, R404, R405: A page walk and a scrub pass change no byte, and a walk keeps every TLB and walk
cache within its room; TLBI waits for the accesses that used a translation it names and removes exactly those; a collapse changes only the
leaf entry and its record, keeps one copy, and posts COLLAPSE once the held write has been performed, where the collapse as one step is the
model's reading (log entry 66); an uncorrectable error poisons exactly the granules of its line and changes no byte, a write of a whole
granule repairs it, and an error in a reuse entry makes it FREE. -/
def Obligations.WalksErrorsAndInvalidationsKeepData : Prop :=
  TlbiRemovesWhatItNames ∧ TlbiKindsNameTheirTranslations ∧ WalksKeepTheRoomOfTheTlbs ∧ CollapsesKeepOneCopy ∧
  ScrubPassesChangeNoData ∧ UncorrectableErrorsPoisonMemory

/-! Stream commands, sections and the mesh (R188 to R218). -/

namespace Sys2Proof.Claims

/-- R190, R191: the first queued command of an idle slot in a running region becomes active. -/
def QueuedCommandsStartInOrder : Prop :=
  ∀ (s : State) (tile slot : Nat) (c : Cmd) (rest : List Cmd),
    (slotAt s tile slot).active = none → (slotAt s tile slot).pending = c :: rest → cmdSub c ≠ 8 → slotRuns (tileOf s tile) slot = true →
      exec (.slotCommandStart tile slot) s =
        .next (putSlot s tile slot { slotAt s tile slot with active := some { cmd := c }, pending := rest })

/-- R201, R202, R203, R204, R205, R112: SLD, SIDX and SMCL send their marker first, then one word of 64 gathered bytes at a time to every
listed port once all have room, and end when all are sent, with a token under EOS; SLD to operand memory fills instead. -/
def LoadCommandsFeedWholeWords : Prop :=
  (∀ p ∈ feedingEvents, ∀ (s : State) (tile slot : Nat) (a : ActiveCmd),
    Works s tile slot a p.2 → (p.2 = 0 → scTgt a.cmd.tmpl = false) →
      (a.markerSent = false → allFeed s a.cmd = true →
        exec (p.1 tile slot) s = .next (putActive (feedAll s a.cmd (cmdMarker a.cmd)) tile slot { a with markerSent := true })) ∧
      (a.markerSent = true → a.buf ≠ [] → actCount a ≤ a.k ∨ 64 ≤ a.buf.length → allFeed s a.cmd = true →
        exec (p.1 tile slot) s =
          .next (putActive (feedAll s a.cmd (.word (lineOfBytes (a.buf.take 64)))) tile slot { a with buf := a.buf.drop 64 })) ∧
      (∀ s1 b, a.markerSent = true → a.buf.length < 64 → a.k < actCount a → mayRead s tile slot a = true →
        gather tile slot 64 64 s a = (s1, b, none) → p.2 ≠ 2 ∨ b.idx ≠ [] →
          exec (p.1 tile slot) s = .next (putActive s1 tile slot b)) ∧
      (a.markerSent = true → actCount a ≤ a.k → a.buf = [] →
        (scEos a.cmd.tmpl = false → exec (p.1 tile slot) s = .next (slotDone s tile slot a a.k)) ∧
        (scEos a.cmd.tmpl = true → allFeed s a.cmd = true →
          exec (p.1 tile slot) s = .next (slotDone (feedAll s a.cmd .eos) tile slot a a.k)))) ∧
  (∀ (s s1 : State) (tile slot : Nat) (a b : ActiveCmd), Works s tile slot a 0 → scTgt a.cmd.tmpl = true → a.cmd.fill ≠ 0 →
    fillReady s a.cmd = true → fillRun tile slot (64 / actElem a) s a = (s1, b, none) →
      exec (.sld tile slot) s = .next (if actCount b ≤ b.k then slotDone s1 tile slot b b.k else putActive s1 tile slot b)) ∧
  (∀ (s : State) (c : Cmd) (x : Item) (u p : Nat), feedTargets c = [(u, p)] → snapDue (tileOf s u) p = false →
    ipOf (tileOf (feedAll s c x) u) p = pushItem (ipOf (tileOf s u) p) x)

/-- R200, R201, R205: a read element's bytes join the word behind those held, an invalid row is zeros without an access, and the elements
that a store command holds are written in order from its first byte on, those of an invalid row dropped. Outside an ORDERED-UPDATE node a
write is performed at once. -/
def ElementsAreHandledInOrder : Prop :=
  (∀ (s : State) (tile slot lim f : Nat) (a : ActiveCmd), a.buf.length < lim → a.k < actCount a → ouNode s tile slot = none →
    (∀ x s1 bs, actElement a a.k = .acc x → slotRead s tile slot a x (actElem a) = .ok (s1, bs) →
      gather tile slot lim (f + 1) s a = gather tile slot lim f s1 (pastElem { a with buf := a.buf ++ bs })) ∧
    (∀ bs, actElement a a.k = .const bs →
      gather tile slot lim (f + 1) s a = gather tile slot lim f s (pastElem { a with buf := a.buf ++ bs }))) ∧
  (∀ (s : State) (tile slot f : Nat) (a : ActiveCmd), actElem a ≤ a.buf.length → a.k < actCount a → ouNode s tile slot = none →
    (∀ x segs, actElement a a.k = .acc x →
      engSegs s (whoOf a.cmd .stream) x (min (actElem a) a.buf.length) true (actOwn a) = .ok segs →
        ∃ t, scatter tile slot (f + 1) s a = scatter tile slot f t (pastElem { a with buf := a.buf.drop (actElem a) }) ∧
          t.mem = (segsWrite s (agentOf (whoOf a.cmd .stream)) none segs (a.buf.take (actElem a))).mem) ∧
    (∀ bs, actElement a a.k = .const bs →
      scatter tile slot (f + 1) s a = scatter tile slot f s (pastElem { a with buf := a.buf.drop (actElem a) }))) ∧
  (∀ (a : ActiveCmd) (i : Nat) (x : BitVec 32) (xs : List (BitVec 32)), cmdSub a.cmd = 2 ∨ cmdSub a.cmd = 3 → a.idx = x :: xs →
    (0 ≤ x.toInt → scS a.cmd.tmpl 2 = 0 ∨ x.toInt < scS a.cmd.tmpl 2 →
      actElement a i = .acc (moveAddr (scAddr a.cmd.tmpl)
        ((2 ^ scEsz a.cmd.tmpl : Nat) * (x.toInt * sextN 16 (scS a.cmd.tmpl 0) + (i % extent (scN a.cmd.tmpl 2) : Nat))))) ∧
    (x.toInt < 0 ∨ (scS a.cmd.tmpl 2 ≠ 0 ∧ scS a.cmd.tmpl 2 ≤ x.toInt) →
      actElement a i = .const (List.replicate (2 ^ scEsz a.cmd.tmpl) 0))) ∧
  (∀ (a : ActiveCmd) (i : Nat), cmdSub a.cmd ≠ 2 → cmdSub a.cmd ≠ 3 → a.record = none →
    actElement a i = .acc (affAddr a.cmd.tmpl i))

/-- R205: the next index comes from own scratchpad at byte S1 × 8, or from the lanes of a word of the index port; a token there ends the
command after the rows before it (the model's reading, log entry 22). -/
def IndicesComeFromMemoryOrAPort : Prop :=
  ∀ (s : State) (tile slot : Nat) (a : ActiveCmd),
    (∀ s1 bs, bitN (scS a.cmd.tmpl 3) 15 = false →
      slotRead s tile slot a (ownAddr (scS a.cmd.tmpl 1 * 8 + 4 * (a.k / extent (scN a.cmd.tmpl 2)))) 4 = .ok (s1, bs) →
        nextIndex s tile slot a = putActive s1 tile slot { a with idx := [BitVec.ofNat 32 (leNat bs)] }) ∧
    (∀ e, bitN (scS a.cmd.tmpl 3) 15 = false →
      slotRead s tile slot a (ownAddr (scS a.cmd.tmpl 1 * 8 + 4 * (a.k / extent (scN a.cmd.tmpl 2)))) 4 = .error e →
        cmdSub a.cmd = 2 → 64 ≤ a.buf.length → nextIndex s tile slot a = putActive s tile slot a) ∧
    (∀ w, bitN (scS a.cmd.tmpl 3) 15 = true → canTake (tileOf s tile) (scS a.cmd.tmpl 3 % 16) a.cmd.id = some (.word w) →
      nextIndex s tile slot a = putActive (takePort s tile (scS a.cmd.tmpl 3 % 16)) tile slot { a with idx := lanes w }) ∧
    (bitN (scS a.cmd.tmpl 3) 15 = true → canTake (tileOf s tile) (scS a.cmd.tmpl 3 % 16) a.cmd.id = some .eos →
      ∃ t, nextIndex s tile slot a = putActive t tile slot { a with limit := some a.k })

/-- R201, R203, R204, R205: SST and SSCT take a word when they hold no whole element, SSCT its row's index first, and write the elements
that they hold; a token ends them, and a count that runs out completes them or, under EOS, makes them wait for their token and discard what
comes before it. -/
def StoreCommandsTakeWordsAndWriteElements : Prop :=
  ∀ p ∈ storingEvents, ∀ (s : State) (tile slot : Nat) (a : ActiveCmd), Works s tile slot a p.2 →
    (a.awaitEos = false → a.k < actCount a →
      (p.2 = 3 → a.idx = [] → exec (p.1 tile slot) s = .next (nextIndex s tile slot a)) ∧
      (a.idx ≠ [] ∨ p.2 = 1 →
        (∀ w, a.buf.length < actElem a → canTake (tileOf s tile) (scPort a.cmd.tmpl) a.cmd.id = some (.word w) →
          exec (p.1 tile slot) s = .next (putActive (takePort s tile (scPort a.cmd.tmpl)) tile slot { a with buf := lineBytes w })) ∧
        (a.buf.length < actElem a → canTake (tileOf s tile) (scPort a.cmd.tmpl) a.cmd.id = some .eos →
          exec (p.1 tile slot) s = .next (slotDone (takeToken s a.cmd (scPort a.cmd.tmpl)) tile slot { a with limit := some a.k } a.k)) ∧
        (∀ s1 b, actElem a ≤ a.buf.length → scatter tile slot 64 s a = (s1, b, none) →
          exec (p.1 tile slot) s = .next (putActive s1 tile slot b)))) ∧
    (a.awaitEos = false → actCount a ≤ a.k →
      (scEos a.cmd.tmpl = false ∨ a.limit ≠ none → exec (p.1 tile slot) s = .next (slotDone s tile slot { a with buf := [] } a.k)) ∧
      (scEos a.cmd.tmpl = true → a.limit = none →
        exec (p.1 tile slot) s = .next (putActive s tile slot { a with buf := [], awaitEos := true }))) ∧
    (a.awaitEos = true →
      (canTake (tileOf s tile) (scPort a.cmd.tmpl) a.cmd.id = some .eos →
        exec (p.1 tile slot) s =
          .next (slotDone (takeToken s a.cmd (scPort a.cmd.tmpl)) tile slot { a with limit := some (actCount a) } a.k)) ∧
      (∀ x, x ≠ .eos → canTake (tileOf s tile) (scPort a.cmd.tmpl) a.cmd.id = some x →
        exec (p.1 tile slot) s = .next (takePort s tile (scPort a.cmd.tmpl))))

end Sys2Proof.Claims

/-- R112, R190, R191, R200, R201, R202, R203, R204, R205: The first pending command of an idle slot starts. SLD, SIDX and SMCL send their
marker and then whole words of 64 bytes to every target with room, and a token under EOS; SLD to operand memory fills. SST and SSCT take
words, SSCT its row's index first, and write their elements until their count runs out or a token ends them. Elements are handled in order,
with an invalid row as zeros or dropped, and an index comes from memory or a port. A token at the index port ends the command after the rows
before it, which is the model's reading (log entry 22). -/
def Obligations.SlotCommandsLoadAndStoreWords : Prop :=
  QueuedCommandsStartInOrder ∧ LoadCommandsFeedWholeWords ∧ ElementsAreHandledInOrder ∧ IndicesComeFromMemoryOrAPort ∧
  StoreCommandsTakeWordsAndWriteElements

/-- R203, R206, R207, R210: SREC passes a word on, SCON feeds its next constant, SCMP takes its predicate, then its words, writes the
rows that it selects one behind the other from ADDR on, with their indices where the list asks for them, and drops the others, and SCLS
writes the record of its range to the context's log, or counts it as lost where the ring is full; a command whose words are through ends,
under EOS with its token sent and, for those that take from a port, with the token of their port taken, before which they discard. -/
def Obligations.OtherSlotCommandsActOnTheirWords : Prop :=
  (∀ (s : State) (tile slot : Nat) (a : ActiveCmd), Works s tile slot a 4 → a.k < actCount a →
    (∀ w s1, canTake (tileOf s tile) (scPort a.cmd.tmpl) a.cmd.id = some (.word w) → allFeed s a.cmd = true →
      openSection s tile slot a a.k = .ok s1 → exec (.srec tile slot) s =
        .next (putActive (feedAll (takePort s1 tile (scPort a.cmd.tmpl)) a.cmd (.word w)) tile slot { a with k := a.k + 1 })) ∧
    (canTake (tileOf s tile) (scPort a.cmd.tmpl) a.cmd.id = some .eos →
      exec (.srec tile slot) s = .next (putActive (takeToken s a.cmd (scPort a.cmd.tmpl)) tile slot { a with limit := some a.k }))) ∧
  (∀ (s : State) (tile slot : Nat) (a : ActiveCmd), Works s tile slot a 4 → actCount a ≤ a.k →
    (scEos a.cmd.tmpl = false → exec (.srec tile slot) s = .next (slotDone s tile slot a a.k)) ∧
    (scEos a.cmd.tmpl = true → a.markerSent = false → allFeed s a.cmd = true →
      exec (.srec tile slot) s = .next (putActive (feedAll s a.cmd .eos) tile slot { a with markerSent := true })) ∧
    (scEos a.cmd.tmpl = true → a.markerSent = true → a.limit ≠ none → exec (.srec tile slot) s = .next (slotDone s tile slot a a.k)) ∧
    (scEos a.cmd.tmpl = true → a.markerSent = true → a.limit = none → EndsAtItsToken s tile slot a a.k .srec)) ∧
  (∀ (s s1 : State) (tile slot : Nat) (a : ActiveCmd), Works s tile slot a 5 → a.markerSent = true → a.k < actCount a →
    allFeed s a.cmd = true → openSection s tile slot a a.k = .ok s1 →
      exec (.scon tile slot) s = .next (putActive (feedAll s1 a.cmd (.word (sconWord a.cmd.tmpl a.k))) tile slot { a with k := a.k + 1 })) ∧
  (∀ (s : State) (tile slot : Nat) (a : ActiveCmd), Works s tile slot a 5 → a.markerSent = true → actCount a ≤ a.k →
    (scEos a.cmd.tmpl = false → exec (.scon tile slot) s = .next (slotDone s tile slot a a.k)) ∧
    (scEos a.cmd.tmpl = true → allFeed s a.cmd = true → exec (.scon tile slot) s = .next (slotDone (feedAll s a.cmd .eos) tile slot a a.k))) ∧
  (∀ (s : State) (tile slot : Nat) (a : ActiveCmd), Works s tile slot a 7 → a.awaitEos = true → EndsAtItsToken s tile slot a a.survivors .scmp) ∧
  (∀ (s : State) (tile slot : Nat) (a : ActiveCmd), Works s tile slot a 7 → a.awaitEos = false →
    (a.k < actCount a →
      (∀ w, a.pred = none → a.preds = [] → canTake (tileOf s tile) (scS a.cmd.tmpl 3 % 16) a.cmd.id = some (.word w) →
        exec (.scmp tile slot) s = .next (putActive (takePort s tile (scS a.cmd.tmpl 3 % 16)) tile slot { a with pred := some w })) ∧
      (∀ w v, a.pred = some w → a.buf.length < 64 * extent (scN a.cmd.tmpl 2) →
        canTake (tileOf s tile) (scPort a.cmd.tmpl) a.cmd.id = some (.word v) →
          exec (.scmp tile slot) s = .next (putActive (takePort s tile (scPort a.cmd.tmpl)) tile slot { a with buf := a.buf ++ lineBytes v })) ∧
      (∀ w, a.pred = some w → 64 * extent (scN a.cmd.tmpl 2) ≤ a.buf.length → ouNode s tile slot = none →
        (lane w (a.k % 16) = 0 → ∃ b, exec (.scmp tile slot) s = .next (putActive s tile slot b) ∧ b.k = a.k + 1 ∧
          b.survivors = a.survivors ∧ b.buf = a.buf.drop (64 * extent (scN a.cmd.tmpl 2))) ∧
        (∀ s1, lane w (a.k % 16) ≠ 0 → (writeRow s tile slot a).1 = .ok s1 → ouNode s1 tile slot = none →
          ∃ b, exec (.scmp tile slot) s = .next (putActive s1 tile slot b) ∧ b.k = a.k + 1 ∧
            b.survivors = a.survivors + 1 ∧ b.buf = a.buf.drop (64 * extent (scN a.cmd.tmpl 2))))) ∧
    (actCount a ≤ a.k → scEos a.cmd.tmpl = false ∨ a.limit ≠ none →
      exec (.scmp tile slot) s = .next (slotDone s tile slot a a.survivors)) ∧
    (actCount a ≤ a.k → scEos a.cmd.tmpl = true → a.limit = none →
      exec (.scmp tile slot) s = .next (putActive s tile slot { a with awaitEos := true }))) ∧
  (∀ (s s1 x : State) (tile slot : Nat) (a : ActiveCmd) (n : Nat), extent (scN a.cmd.tmpl 2) = n →
    (∀ w < n, (moveAddr (scAddr a.cmd.tmpl) ((64 * (a.survivors * n + w) : Nat) : Int), (a.buf.drop (64 * w)).take 64) ∈ survivorWrites a) ∧
    (bitN (scS a.cmd.tmpl 3) 15 = true → (ownAddr (scS a.cmd.tmpl 1 * 8 + 4 * a.survivors), leBytes 4 a.k) ∈ survivorWrites a) ∧
    (survivorWrites a).length = n + (if bitN (scS a.cmd.tmpl 3) 15 then 1 else 0) ∧
    (n = 1 → bitN (scS a.cmd.tmpl 3) 15 = false →
      slotWrite s tile slot a (moveAddr (scAddr a.cmd.tmpl) ((64 * a.survivors : Nat) : Int)) (a.buf.take 64) = (.ok s1, x) →
        (writeRow s tile slot a).1 = .ok s1)) ∧
  (∀ (s : State) (tile slot : Nat) (a : ActiveCmd), Works s tile slot a 9 →
    ((slotAt s tile slot).range = none → exec (.scls tile slot) s = .next (endActive s tile slot a 0)) ∧
    (∀ lo hi c p, (slotAt s tile slot).range = some (lo, hi) → mget s.fe.ctxs a.cmd.ctxn {} = c →
      (c.words.getD 9 0).toNat + 32 * (c.dlPidx.toNat % 2 ^ wf64 (c.words.getD 10 0) 4 0) = p →
        ∃ t, exec (.scls tile slot) s = .next t ∧ (slotAt t tile slot).range = none ∧
          ((c.dlPidx.toNat + 2 ^ 32 - readNat s (c.words.getD 11 0).toNat 4) % 2 ^ 32 < 2 ^ wf64 (c.words.getD 10 0) 4 0 →
            (mget t.fe.ctxs a.cmd.ctxn {}).dlPidx = c.dlPidx + 1 ∧ (mget t.fe.ctxs a.cmd.ctxn {}).dlSeq = c.dlSeq + 1 ∧
            t.done = s.done ++ [{ cmd := a.cmd, status := 0, result := 1 }] ∧
            (MemInv s → s.poison = [] → p + 32 ≤ s.pkg.ctxbase.toNat + 256 * a.cmd.ctxn →
              readAt t p 32 = dirtyRecord a.cmd slot lo hi c.dlSeq.toNat)) ∧
          (2 ^ wf64 (c.words.getD 10 0) 4 0 ≤ (c.dlPidx.toNat + 2 ^ 32 - readNat s (c.words.getD 11 0).toNat 4) % 2 ^ 32 →
            (mget t.fe.ctxs a.cmd.ctxn {}).dlPidx = c.dlPidx ∧
            (mget t.fe.ctxs a.cmd.ctxn {}).dlOvf = (if c.dlOvf = 0xFFFF then c.dlOvf else c.dlOvf + 1) ∧
            t.done = s.done ++ [{ cmd := a.cmd, status := 0, result := 2 }])))

namespace Sys2Proof.Claims

/-- R208, R209: SBAR ends once every listed slot has reached it, and SWT writes its word once the commands before it have ended. -/
def BarriersAndWaitedWritesEndInOrder : Prop :=
  (∀ (s : State) (tile n : Nat) (c : Cmd), (tileOf s tile).barriers[n]? = some c → barrierReady (tileOf s tile) c = true →
    exec (.sbar tile n) s = .next (finish (dropBarrier s tile c.id) c 0 (BitVec.ofNat 40 (barrierCounts s tile c)))) ∧
  (∀ (s s2 : State) (tile n : Nat) (x : SwtWait), (tileOf s tile).swts[n]? = some x →
    (∀ i ∈ x.awaits, (tileCmdIds (tileOf s tile)).contains i = false) →
      engWrite (setTile s tile { tileOf s tile with swts := ldrop (tileOf s tile).swts n })
        { whoOf x.cmd .stream with know := doneKnow x.cmd }
        (ownAddr (scS x.cmd.tmpl 1 * 8)) (leBytes 8 (scAddr x.cmd.tmpl)) false = .ok s2 →
        exec (.swt tile n) s = .next (finish s2 x.cmd 0 0))

/-- R215 to R218: SPIP sends one pip at a time, an arriving pip enters a receiving port with room and frees its sender, and SPRV counts the
pips it takes. A pip to another package waits there, is taken, or is refused, which ends its SPIP with ACCESS_PATH; which of them is open
(assumption 29). That SPRV in MODE 2 writes without a check of the holder is the model's choice (assumption 156). -/
def PipsTravelOneAtATime : Prop :=
  (∀ (s : State) (tile mp : Nat) (c : Cmd) (awaits : List Nat) (rest : List (Cmd × List Nat)),
    (mportOf (tileOf s tile) mp).spip = (c, awaits) :: rest → (mportOf (tileOf s tile) mp).spipInFlight = false →
      (∀ i ∈ awaits, (tileCmdIds (tileOf s tile)).contains i = false) →
        (mpCount c.tmpl ≤ (mportOf (tileOf s tile) mp).spipSent → exec (.spip tile mp) s = .next (endSpip s tile mp c 0)) ∧
        ((mportOf (tileOf s tile) mp).spipSent < mpCount c.tmpl → mpMode c.tmpl = 0 → exec (.spip tile mp) s = .next (sendPip s tile mp c none))) ∧
  (∀ (s : State) (n : Nat) (m : PipMsg), s.mesh[n]? = some m → tileServes s m.dstTile m.pip.ctxn = true →
    m.remote = false → m.pkg = none → m.halted = false → (mportOf (tileOf s m.dstTile) m.dstPort).recv.length < 16 → m.srcTile ≠ m.dstTile → (tileOf s m.srcTile).job = some m.job →
      ∃ t, exec (.pipArrival n) s = .next t ∧ t.mesh = ldrop s.mesh n ∧ t.mem = s.mem ∧
        (mportOf (tileOf t m.dstTile) m.dstPort).recv = (mportOf (tileOf s m.dstTile) m.dstPort).recv ++ [m.pip] ∧
        (mportOf (tileOf t m.srcTile) m.srcPort).spipInFlight = false ∧
        (mportOf (tileOf t m.srcTile) m.srcPort).spipSent = (mportOf (tileOf s m.srcTile) m.srcPort).spipSent + 1) ∧
  (∀ (s : State) (n pkg : Nat) (m : PipMsg), s.mesh[n]? = some m → m.remote = false → m.pkg = some pkg → m.halted = false →
    ∃ t, exec (.pipArrival n) s = .next t ∧ t.mem = s.mem ∧
      ((t.mesh = s.mesh ∧ t.out = s.out ∧ t.done = s.done) ∨
        (t.mesh = ldrop s.mesh n ∧ t.out = s.out ++ [.pip pkg m.dstTile m.dstPort m.pip] ∧ t.done = s.done) ∨
        (t.mesh = ldrop s.mesh n ∧ t.out = s.out ∧ ∀ c, (mportOf (tileOf s m.srcTile) m.srcPort).spip.head? = some c →
          (tileOf s m.srcTile).job = some m.job → ∃ d, t.done = s.done ++ [d] ∧ d.cmd = c.1 ∧ d.status = causeByte .accessPath))) ∧
  (∀ (s : State) (tile mp : Nat) (c : Cmd) (p : Pip) (cs : List Cmd) (ps : List Pip),
    (mportOf (tileOf s tile) mp).sprv = c :: cs → (mportOf (tileOf s tile) mp).recv = p :: ps → mpMode c.tmpl = 0 →
      exec (.sprv tile mp) s = .next (gotPip s tile mp c)) ∧
  (∀ (s : State) (tile mp : Nat) (c : Cmd) (p : Pip) (cs : List Cmd) (ps : List Pip) (w : Line),
    (mportOf (tileOf s tile) mp).sprv = c :: cs → (mportOf (tileOf s tile) mp).recv = p :: ps → p.payload = some w →
      (mpMode c.tmpl = 1 → canFeed (tileOf s tile) (mpArray c.tmpl) c.id = true →
        exec (.sprv tile mp) s = .next (gotPip (setTile s tile (feed (tileOf s tile) (mpArray c.tmpl) (.word w))) tile mp c)) ∧
      (∀ s1, mpMode c.tmpl = 2 → engWrite s (whoOf c .stream)
          (mpAddr c.tmpl + 64 * (mportOf (tileOf s tile) mp).sprvGot) (lineBytes w) false = .ok s1 →
        exec (.sprv tile mp) s = .next (gotPip s1 tile mp c))) ∧
  (∀ (s : State) (tile mp : Nat) (c : Cmd), (mportOf (tileOf s tile) mp).sprvGot + 1 < mpCount c.tmpl →
    (mportOf (tileOf (gotPip s tile mp c) tile) mp).sprvGot = (mportOf (tileOf s tile) mp).sprvGot + 1 ∧
      (mportOf (tileOf (gotPip s tile mp c) tile) mp).recv = (mportOf (tileOf s tile) mp).recv.drop 1)

/-- R188, R193: a section whose next access meets an older one's signature notes the conflict and is squashed with every younger one, which
are counted and start over with nothing buffered, while no older section and no byte of memory changes; and the oldest section commits once
it is sealed and no earlier command of the node has work left: its writes are performed in order, it leaves, and it is counted. How squashes
count is the model's reading (assumption 26). -/
def SectionsCommitInOrder : Prop :=
  (∀ (s : State) (tile region sec : Nat) (x : Section) (a : ActiveCmd) (r : Region), mget (tileOf s tile).regions region {} = r →
    r.mode = 2 → r.sections.find? (fun y => secNum r y == sec && !y.sealed) = some x → (slotAt s tile x.slot).active = some a →
      a.cmd.id = x.owner.id → newHits r x (nextLines s a) (subWrites (cmdSub a.cmd)) ≠ [] →
        ∃ t, exec (.sectionSquash tile region sec) s = .next t ∧ t.mem = s.mem ∧
          (mget (tileOf t tile).regions region {}).squashes =
            (r.squashes + (r.sections.filter fun y => !secBefore y x).length) % 2 ^ 20 ∧
          (mget (tileOf t tile).regions region {}).commits = r.commits ∧
          (∀ y ∈ r.sections, secBefore y x = true → y ∈ (mget (tileOf t tile).regions region {}).sections)) ∧
  (∀ (s : State) (tile region : Nat) (x : Section) (r : Region), mget (tileOf s tile).regions region {} = r → configured r = true →
    nextCommit (tileOf s tile) r = some x →
      ∃ t, exec (.sectionCommit tile region) s = .next t ∧ t.mem = (performWrites s x).mem ∧
        (mget (tileOf t tile).regions region {}).sections =
          r.sections.filter (fun y => !(y.owner.id == x.owner.id && y.firstK == x.firstK)) ∧
        (mget (tileOf t tile).regions region {}).commits = (r.commits + 1) % 2 ^ 20 ∧
        (mget (tileOf t tile).regions region {}).secNext = (r.secNext + 1) % 2 ^ 16) ∧
  (∀ (s : State) (tile region : Nat), nextCommit (tileOf s tile) (mget (tileOf s tile).regions region {}) = none →
    exec (.sectionCommit tile region) s = .next s) ∧
  (∀ (t : Tile) (r : Region) (x : Section), nextCommit t r = some x →
    x ∈ r.sections ∧ x.sealed = true ∧ olderWork t r x.owner.id = false ∧ ∀ y ∈ r.sections, secBefore y x = false)

end Sys2Proof.Claims

/-- R188, R193, R208, R209, R215, R216, R217, R218: SBAR ends when every listed slot has reached it, SWT writes once the commands before it
have ended, SPIP and SPRV move one pip at a time, and how the port of another package answers is a free value (log entry 29). A section
whose next access meets an older one's signature is squashed with every younger one without a write, and the oldest section, once sealed
with no earlier command of the node still at work, commits: its writes are performed and it is counted. That SPRV in MODE 2 writes without a
check of the holder is the model's choice (log entry 156), and how squashes count its reading (log entry 26). -/
def Obligations.BarriersPipsAndSectionsEndInOrder : Prop :=
  BarriersAndWaitedWritesEndInOrder ∧ PipsTravelOneAtATime ∧ SectionsCommitInOrder

/-! The array and the matrix engines (R225 to R309). -/

namespace Sys2Proof.Claims

/-- R110, R117, R238, R240, R241: the steps of a region's cells: each changes its own tile, and where none can be taken nothing changes; a
converter whose marker gives no formats it may use makes its region FAULTED and reports it. -/
def ArrayStepsChangeOnlyTheirTile : Prop :=
  (∀ (s t : State) (tile region g : Nat), fireGroup s tile region g = some t →
    exec (.groupFire tile region g) s = .next t ∧ t.mem = s.mem ∧ t.fe = s.fe ∧ ∀ u, u ≠ tile → tileOf t u = tileOf s u) ∧
  (∀ (s t : State) (tile region g i : Nat), takeMarker s tile region g i = some t →
    exec (.formatMarkerTake tile region g i) s = .next t ∧ t.mem = s.mem ∧ t.fe = s.fe ∧ ∀ u, u ≠ tile → tileOf t u = tileOf s u) ∧
  (∀ (s t : State) (tile region g : Nat), takeEos s tile region g = some t →
    exec (.endOfStream tile region g) s = .next t ∧ t.mem = s.mem ∧ t.fe = s.fe ∧ ∀ u, u ≠ tile → tileOf t u = tileOf s u) ∧
  (∀ (s t : State) (tile region v : Nat), convStep s tile region v = some t →
    exec (.converterConvert tile region v) s = .next t ∧ t.mem = s.mem ∧
      (swOp (cellWord (regionAt s tile region).cellRecs v 0) = 0 ∨
        convResolves (convMarker tile (mget (regionAt s tile region).convs v {})) (cellWord (regionAt s tile region).cellRecs v 0) = true →
          t.fe = s.fe ∧ ∀ u, u ≠ tile → tileOf t u = tileOf s u)) ∧
  (∀ (s : State) (tile region g : Nat), (regionAt s tile region).state ≠ .running → (regionAt s tile region).state ≠ .racking →
    (regionAt s tile region).state ≠ .freezing →
      exec (.groupFire tile region g) s = .next s ∧ exec (.endOfStream tile region g) s = .next s ∧
      exec (.converterConvert tile region g) s = .next s)

/-- R233, R234, R235, R238: a group of one stage that reads one input port and whose inputs and outputs are ready fires: the word leaves the
port, the operator's word of its lanes enters the output port behind those held, becomes the stage's q value, and the firing is counted. -/
def ReadyGroupsFire : Prop :=
  ∀ (s : State) (tile n g p o : Nat) (w : Line) (rest : List Item) (t : Tile) (r : Region) (x : GroupSt) (st : StageRef) (res : List Nat),
    tileOf s tile = t → regionAt s tile n = r → mget r.groups g {} = x → groupStages r.cellRecs g = [st] → r.typ = .compute →
      r.state = .running → r.aligned.contains g = false → p < 16 → o < 16 → groupInputs [st] = [(0x10 + p, 0)] →
        mget? x.held (0x10 + p) = none → (ipOf t p).items = .word w :: rest → groupOutputs [st] = [0x10 + o] → swOut st.w = 0x10 + o →
          swA st.w = 0x10 + p → swB st.w = 0 → swC st.w = 0 → places (opOf t o).items < 4 →
            wordOp st.w (stageRm x st.w) { c0 := x.fires % 2 ^ 32, c3 := stageC3 tile st.v st.j, key := srKey s tile } (laneList w)
              (List.replicate 16 0) (List.replicate 16 0) = res →
              ∃ t', exec (.groupFire tile n g) s = .next t' ∧ (ipOf (tileOf t' tile) p).items = rest ∧
                (opOf (tileOf t' tile) o).items = (opOf t o).items ++ [.word (lineOfLanes res)] ∧
                (mget (regionAt t' tile n).groups g {}).fires = x.fires + 1 ∧
                mget (mget (regionAt t' tile n).groups g {}).q st.j 0 = lineOfLanes res

/-- R255, R259, R260: a region being racked reports once nothing in it can act; a kiln wave that every group and converter has met
reads the region out and freezes it; a wave that does not complete in time marks the region and offers KILN_TIMEOUT. -/
def RegionsSettleFreezeOrTimeOut : Prop :=
  (∀ (s : State) (tile region : Nat) (u : CfgUnit), (tileOf s tile).cfg = some u → (regionAt s tile region).state = .racking →
    u.settle.contains region = true → u.settled.contains region = false → quiescent s tile region = true →
      exec (.settleReport tile region) s =
        .next (setTile s tile { tileOf s tile with cfg := some { u with settled := u.settled ++ [region] } })) ∧
  (∀ (s s1 : State) (tile region : Nat), (regionAt s tile region).state = .freezing → alignAll (insertSnaps s tile region) tile region = s1 →
    waveAligned (regionAt s1 tile region) = true → tasksOver s1 tile (regionAt s1 tile region) = true → (tileOf (readOut s1 tile region).1 tile).cfg = none →
      exec (.kilnWaveComplete tile region) s = .next (readOut s1 tile region).1 ∧
      (regionAt (readOut s1 tile region).1 tile region).state = .frozen ∧
      (mget? (readOut s1 tile region).1.images (readOut s1 tile region).2).isSome = true) ∧
  (∀ (s : State) (tile region : Nat), (regionAt s tile region).state = .freezing → (regionAt s tile region).waveByFe = false →
    (regionAt s tile region).waveStart + kilnLimit s tile ≤ s.fab →
      ∃ t r, exec (.kilnTimeout tile region) s = .next t ∧ (regionAt t tile region).kto = true ∧ (regionAt t tile region).state ≠ .freezing ∧ t.mem = s.mem ∧
        t.fe.offers = s.fe.offers ++ [r] ∧ r.code = causeByte .kilnTimeout ∧ r.unit = region)

end Sys2Proof.Claims

/-- R117, R236, R238, R240, R241, R251, R255, R259, R260: A group that fires, a format marker, an end of stream and a converter change their
own tile and no other, and nothing where no step is possible. A ready group of a running region fires. A racking region reports when
quiescent, an aligned wave freezes its region, and one that does not align in time marks it and offers KILN_TIMEOUT. -/
def Obligations.ArrayRegionsStepSettleAndFreeze : Prop :=
  ArrayStepsChangeOnlyTheirTile ∧ ReadyGroupsFire ∧ RegionsSettleFreezeOrTimeOut

namespace Sys2Proof.Claims

/-- R243: each integer and bit operator, lane by lane, with its wraps and saturations. -/
def IntegerLanesWriteTheirResult : Prop :=
  ∀ (a b c : Lane) (rm u : Nat),
    laneOp 0x00 0 rm u a.toNat b.toNat c.toNat = a.toNat ∧
    laneOp 0x01 0 rm u a.toNat b.toNat c.toNat = (a + b).toNat ∧
    laneOp 0x01 1 rm u a.toNat b.toNat c.toNat = (BitVec.ofInt 32 (max (-2 ^ 31) (min (2 ^ 31 - 1) (a.toInt + b.toInt)))).toNat ∧
    laneOp 0x01 2 rm u a.toNat b.toNat c.toNat = min (2 ^ 32 - 1) (a.toNat + b.toNat) ∧
    laneOp 0x02 0 rm u a.toNat b.toNat c.toNat = (a - b).toNat ∧
    laneOp 0x02 1 rm u a.toNat b.toNat c.toNat = (BitVec.ofInt 32 (max (-2 ^ 31) (min (2 ^ 31 - 1) (a.toInt - b.toInt)))).toNat ∧
    laneOp 0x02 2 rm u a.toNat b.toNat c.toNat = a.toNat - b.toNat ∧
    laneOp 0x03 0 rm u a.toNat b.toNat c.toNat = (a * b).toNat ∧
    laneOp 0x03 1 rm u a.toNat b.toNat c.toNat = (BitVec.ofInt 32 (a.toInt * b.toInt / 2 ^ 32)).toNat ∧
    laneOp 0x03 2 rm u a.toNat b.toNat c.toNat = a.toNat * b.toNat / 2 ^ 32 ∧
    laneOp 0x04 0 rm u a.toNat b.toNat c.toNat = (a * b + c).toNat ∧
    laneOp 0x04 1 rm u a.toNat b.toNat c.toNat =
      (BitVec.ofInt 32 (max (-2 ^ 31) (min (2 ^ 31 - 1) (a.toInt * b.toInt + c.toInt)))).toNat ∧
    laneOp 0x05 0 rm u a.toNat b.toNat c.toNat = (if a.sle b then a else b).toNat ∧
    laneOp 0x05 1 rm u a.toNat b.toNat c.toNat = min a.toNat b.toNat ∧
    laneOp 0x06 0 rm u a.toNat b.toNat c.toNat = (if a.sle b then b else a).toNat ∧
    laneOp 0x06 1 rm u a.toNat b.toNat c.toNat = max a.toNat b.toNat ∧
    laneOp 0x07 0 rm u a.toNat b.toNat c.toNat = (a &&& b).toNat ∧
    laneOp 0x08 0 rm u a.toNat b.toNat c.toNat = (a ||| b).toNat ∧
    laneOp 0x09 0 rm u a.toNat b.toNat c.toNat = (a ^^^ b).toNat ∧
    laneOp 0x0A 0 rm u a.toNat b.toNat c.toNat = (a <<< (b.toNat % 32)).toNat ∧
    laneOp 0x0B 0 rm u a.toNat b.toNat c.toNat = (a >>> (b.toNat % 32)).toNat ∧
    laneOp 0x0C 0 rm u a.toNat b.toNat c.toNat = (a.sshiftRight (b.toNat % 32)).toNat ∧
    laneOp 0x0E 0 rm u a.toNat b.toNat c.toNat = (if c = 0 then b else a).toNat ∧
    laneOp 0x0F 0 rm u a.toNat b.toNat c.toNat = (if a.toInt < 0 then -a else a).toNat ∧
    laneOp 0x0F 1 rm u a.toNat b.toNat c.toNat = min (2 ^ 31 - 1) a.toInt.natAbs ∧
    laneOp 0x20 0 rm u a.toNat b.toNat c.toNat = ((List.range 32).filter fun i => a.getLsbD i).length ∧
    laneOp 0x21 0 rm u a.toNat b.toNat c.toNat = (a.rotateLeft (b.toNat % 32)).toNat

/-- R243, R244: the comparisons answer all ones or zero; with a NaN operand VFCMP's .ne and .un are true and the others false, and −0 equals
+0. VFSEL selects by the sign of c, and VFABS and VFNEG act on the sign of a number. -/
def LaneComparisonsAnswerAllOnesOrZero : Prop :=
  (∀ (a b c : Lane) (rm u : Nat),
    laneOp 0x0D 0 rm u a.toNat b.toNat c.toNat = (if a = b then 0xFFFFFFFF else 0) ∧
    laneOp 0x0D 1 rm u a.toNat b.toNat c.toNat = (if a = b then 0 else 0xFFFFFFFF) ∧
    laneOp 0x0D 2 rm u a.toNat b.toNat c.toNat = (if a.slt b then 0xFFFFFFFF else 0) ∧
    laneOp 0x0D 3 rm u a.toNat b.toNat c.toNat = (if a.slt b then 0 else 0xFFFFFFFF) ∧
    laneOp 0x0D 4 rm u a.toNat b.toNat c.toNat = (if a < b then 0xFFFFFFFF else 0) ∧
    laneOp 0x0D 5 rm u a.toNat b.toNat c.toNat = (if a < b then 0 else 0xFFFFFFFF)) ∧
  (∀ (a b c rm u : Nat), fdecode fp32 a = .nan ∨ fdecode fp32 b = .nan →
    laneOp 0x18 0 rm u a b c = 0 ∧ laneOp 0x18 1 rm u a b c = 0xFFFFFFFF ∧ laneOp 0x18 2 rm u a b c = 0 ∧
      laneOp 0x18 3 rm u a b c = 0 ∧ laneOp 0x18 4 rm u a b c = 0xFFFFFFFF) ∧
  (∀ (c rm u : Nat), laneOp 0x18 0 rm u 0x80000000 0 c = 0xFFFFFFFF ∧ laneOp 0x18 1 rm u 0x80000000 0 c = 0 ∧
    laneOp 0x18 2 rm u 0x80000000 0 c = 0 ∧ laneOp 0x18 3 rm u 0x80000000 0 c = 0xFFFFFFFF ∧ laneOp 0x18 4 rm u 0x80000000 0 c = 0) ∧
  (∀ (a b rm u : Nat) (c : Lane), laneOp 0x19 0 rm u a b c.toNat = if fdecode fp32 c.toNat ≠ .nan ∧ c.msb = false then a else b)

/-- R244: the rounding operators round their exact result once, in the mode and with the random word given, and set nothing else. -/
def FloatLanesRoundOnce : Prop :=
  ∀ (a b c rm u : Nat),
    laneOp 0x10 0 rm u a b c = (faddOf fp32 rm u (fdecode fp32 a) (fdecode fp32 b)).1 ∧
    laneOp 0x11 0 rm u a b c = (faddOf fp32 rm u (fdecode fp32 a) (vneg (fdecode fp32 b))).1 ∧
    laneOp 0x12 0 rm u a b c = (fmulOf fp32 rm u (fdecode fp32 a) (fdecode fp32 b)).1 ∧
    laneOp 0x13 0 rm u a b c = (ffmaOf fp32 rm u (fdecode fp32 a) (fdecode fp32 b) (fdecode fp32 c)).1 ∧
    laneOp 0x1C 0 rm u a b c = (frcpOf fp32 1 0 (fdecode fp32 a)).1 ∧
    laneOp 0x1D 0 rm u a b c = (frsqOf fp32 1 0 (fdecode fp32 a)).1 ∧
    (fdecode fp32 a = .nan ∨ fdecode fp32 b = .nan →
      laneOp 0x10 0 rm u a b c = fnanCode fp32 ∧ laneOp 0x11 0 rm u a b c = fnanCode fp32 ∧ laneOp 0x12 0 rm u a b c = fnanCode fp32)

/-- R245: the exact cases of VEXP2 and VLOG2: NaN, the infinities, the ends of the range, zeros and negatives, and every whole power. -/
def PowersAndLogarithmsHaveTheirExactCases : Prop :=
  (∀ (a : Nat), (fdecode fp32 a = .nan → vexp2Code a = fnanCode fp32 ∧ vlog2Code a = fnanCode fp32) ∧
    (fdecode fp32 a = .inf false → vexp2Code a = finfCode fp32 ∧ vlog2Code a = finfCode fp32) ∧
    (fdecode fp32 a = .inf true → vexp2Code a = 0 ∧ vlog2Code a = fnanCode fp32) ∧
    (∀ n e, fdecode fp32 a = .fin n 0 e → vlog2Code a = fsign fp32 true (finfCode fp32)) ∧
    (∀ m e, fdecode fp32 a = .fin true m e → m ≠ 0 → vlog2Code a = fnanCode fp32)) ∧
  vexp2Code 0x43000000 = finfCode fp32 ∧ vexp2Code 0xC3160001 = 0 ∧
  ∀ i ∈ List.range 277, ∀ x : Int, x = (i : Int) - 149 →
    vexp2Code (rneFp32 (.fin (decide (x < 0)) x.natAbs 0)) = rneFp32 (.fin false 1 x) ∧
    vlog2Code (rneFp32 (.fin false 1 x)) = rneFp32 (.fin (decide (x < 0)) x.natAbs 0)

/-- R246, R247: the operators that move lanes and bits, lane by lane, and VRAND's four words. -/
def LaneMovesPickTheirLanes : Prop :=
  ∀ (w : Word) (rm : Nat) (x : SrCtx) (a b c : List Nat) (l : Nat), l < 16 →
    (swOp w = 0x22 → (wordOp w rm x a b c).getD l 0 = a.getD (swImm w % 16) 0) ∧
    (swOp w = 0x23 → (wordOp w rm x a b c).getD l 0 =
      if (b.getD l 0 / 16) % 2 = 1 then 0 else a.getD (b.getD l 0 % 16) 0) ∧
    (swOp w = 0x24 → swMod w = 0 → (wordOp w rm x a b c).getD l 0 = if l % 2 = 0 then a.getD (l / 2) 0 else b.getD ((l - 1) / 2) 0) ∧
    (swOp w = 0x24 → swMod w = 1 →
      (wordOp w rm x a b c).getD l 0 = if l % 2 = 0 then a.getD (8 + l / 2) 0 else b.getD (8 + (l - 1) / 2) 0) ∧
    (swOp w = 0x24 → swMod w = 2 → (wordOp w rm x a b c).getD l 0 = if swImm w / 2 ^ l % 2 = 1 then b.getD l 0 else a.getD l 0) ∧
    (swOp w = 0x25 → swMod w ≤ 1 →
      (wordOp w rm x a b c).getD l 0 = if l < 8 then a.getD (2 * l + swMod w) 0 else b.getD (2 * (l - 8) + swMod w) 0) ∧
    (swOp w = 0x26 → a.length = 16 → (wordOp w rm x a b c).getD l 0 =
      (a ++ b).getD (2 * l) 0 % 2 ^ 16 + 2 ^ 16 * ((a ++ b).getD (2 * l + 1) 0 % 2 ^ 16)) ∧
    (swOp w = 0x27 → swMod w ≤ 1 → (wordOp w rm x a b c).getD l 0 =
      a.getD ((l + 16 * swMod w) / 2) 0 / 2 ^ (16 * (l % 2)) % 2 ^ 16) ∧
    (swOp w = 0x1E → ∀ w0 w1 w2 w3, philox x.c0 l 0 x.c3 x.key = (w0, w1, w2, w3) →
      (swMod w = 0 → (wordOp w rm x a b c).getD l 0 = w0) ∧ (swMod w = 1 → (wordOp w rm x a b c).getD l 0 = w1) ∧
        (swMod w = 2 → (wordOp w rm x a b c).getD l 0 = w2) ∧ (swMod w = 3 → (wordOp w rm x a b c).getD l 0 = w3))

/-- R248, R249: a reduction over lanes gives every lane the whole sum, least or greatest value, and a run of a reducer gives every lane the
sum of that lane over the words of the run, also where the run is cut short. -/
def ReductionsCombineEveryLaneOrWord : Prop :=
  (∀ (w : Word) (rm : Nat) (x : SrCtx) (a b c : List Nat) (l : Nat), l < 16 → a.length = 16 →
    (swOp w = 0x28 → swMod w = 1 → (wordOp w rm x a b c).getD l 0 = a.sum % 2 ^ 32) ∧
    (swOp w = 0x29 → swMod w = 2 → (wordOp w rm x a b c).getD l 0 = a.foldl max 0) ∧
    (swOp w = 0x2A → swMod w = 2 → (wordOp w rm x a b c).getD l 0 = a.foldl min (a.getD 0 0))) ∧
  (∀ (tile : Nat) (key : Word) (g : GroupSt) (x : StageRef) (fires : Nat) (ws : List Line) (l : Nat), l < 16 → swOp x.w = 0x28 →
    swMod x.w = 1 → ws ≠ [] → ws.length ≤ 2 ^ (swImm x.w % 16) →
      ((laneList (reduceRun tile key g x fires ws)).getD l 0) = (ws.map fun v => (laneList v).getD l 0).sum % 2 ^ 32)

end Sys2Proof.Claims

/-- R243, R244, R245, R246, R247, R248, R249: The integer operators wrap or act bit by bit on every lane; comparisons answer all ones or
zero; the floating-point operators round their exact result once; VEXP2 and VLOG2 have the exact cases of R245; the operators that move
lanes and bits pick theirs, and VRAND writes its word of the generator; a reduction gives every lane the whole result, and a run of a
reducer combines each lane over its words, also where it is cut short. -/
def Obligations.StagesComputeTheirOperator : Prop :=
  IntegerLanesWriteTheirResult ∧ LaneComparisonsAnswerAllOnesOrZero ∧ FloatLanesRoundOnce ∧ PowersAndLogarithmsHaveTheirExactCases ∧
  LaneMovesPickTheirLanes ∧ ReductionsCombineEveryLaneOrWord

namespace Sys2Proof.Claims

/-- R275 to R277, R281, R307: each kind of task computes its 64 × 64 results from its operands and the entry's old values; a compressed
operand whose metadata breaks the rule ends its task with SPMETA; MMDL's new values replace the entry's. -/
def TasksComputeTheirTile : Prop :=
  (∀ (s : State) (cl e : Nat) (r : Running), TaskRuns s cl e r 0 →
    exec (.mmd cl e) s = .next (withResult s cl e r (tileResult (ftAcc r.task.cmd.fte) (entryOf (clusterOf s cl) e r.task).vals
      (rowsA s cl r.task.cmd.tmpl r.task.cmd.fte) (taskCols s cl r.task.cmd.tmpl r.task.cmd.fte)))) ∧
  (∀ (s : State) (cl e : Nat) (r : Running), TaskRuns s cl e r 1 →
    (badGroup (metaBits s cl r.task.cmd.tmpl r.task.cmd.fte) r.task.cmd.fte = none →
      exec (.mms cl e) s = .next (withResult s cl e r (sparseResult (ftAcc r.task.cmd.fte) (entryOf (clusterOf s cl) e r.task).vals
        (metaBits s cl r.task.cmd.tmpl r.task.cmd.fte) r.task.cmd.fte (rowsA s cl r.task.cmd.tmpl r.task.cmd.fte)
        (taskCols s cl r.task.cmd.tmpl r.task.cmd.fte)))) ∧
    (∀ g, badGroup (metaBits s cl r.task.cmd.tmpl r.task.cmd.fte) r.task.cmd.fte = some g →
      exec (.mms cl e) s = .next (engineFault (setEngine s cl e { engineOf (clusterOf s cl) e with run := none }) cl e r.task .spmeta 0 0 g))) ∧
  (∀ (s : State) (cl e : Nat) (r : Running), TaskRuns s cl e r 2 →
    exec (.mmg cl e) s = .next (withResult s cl e r (tileResult (ftAcc r.task.cmd.fte) (entryOf (clusterOf s cl) e r.task).vals
      (r.rows.map fun bs => operandRow (ftA r.task.cmd.fte) (rateOf r.task.cmd.fte) (ftApl r.task.cmd.fte) (ftHlsb r.task.cmd.fte)
        (ftAcc r.task.cmd.fte) (bs.take 128) (bs.drop 128) (mtK r.task.cmd.fte))
      (taskCols s cl r.task.cmd.tmpl r.task.cmd.fte)))) ∧
  (∀ (s : State) (cl e : Nat) (r : Running) (m : MmdlSt), TaskRuns s cl e r 3 → r.mmdl = some m →
    exec (.mmdl cl e) s = .next (withResult s cl e { r with mmdl := some (mmdlCompute s cl r.task.cmd m) }
      ((mmdlCompute s cl r.task.cmd m).yprev, false)))

/-- R103, R104, R275: a 64 × 64 tile result has one element per row and column, and the element of a row and a column starts from the entry's old
value there. -/
def TileResultsAccumulateElementwise : Prop :=
  ∀ (isInt : Bool) (old : List (BitVec 48)) (a b : List (List Val)),
    (tileResult isInt old a b).1.length = a.length * b.length ∧
    ∀ i j, i < a.length → j < b.length → b.length = 64 →
      (tileResult isInt old a b).1.getD (64 * i + j) 0 =
        if isInt then (dotI48 (old.getD (64 * i + j) 0) (a.getD i []) (b.getD j [])).1
        else dotA48 (old.getD (64 * i + j) 0) (a.getD i []) (b.getD j [])

end Sys2Proof.Claims

/-- R95, R96, R103, R104, R275, R276, R277, R281, R307: A running task of each kind gets the tile that its operands and the entry's old
values give; compressed operands that break the metadata rule end it with SPMETA. A tile result has one element per row and column, each
started from the entry's old value. The dot products are the model's functions dotI48 and dotA48. -/
def Obligations.MatrixTasksComputeTheirTile : Prop :=
  TasksComputeTheirTile ∧ TileResultsAccumulateElementwise

namespace Sys2Proof.Claims

/-- R264, R273, R274, R278, R279: a dispatched task leaves the queue for the engine chosen; a started one runs there; one whose slots have
been read frees them; a finished one writes its entry and ends. Which task of a FAULTED chain is cancelled at its start is the model's
reading (assumption 45). -/
def TasksPassThroughTheirEngine : Prop :=
  (∀ (s : State) (cl : Nat) (k : Task) (e : Nat) (st : Option MmdlSt), scanTasks s cl [] (clusterOf s cl).taskq = .send k e st →
    ∃ t d, exec (.taskDispatch cl) s = .next t ∧ (engineOf (clusterOf t cl) e).inbox = (engineOf (clusterOf s cl) e).inbox ++ [d] ∧
      d.cmd = k.cmd ∧ d.tile = k.tile ∧ d.chn = k.chn ∧ d.gen = k.gen ∧ d.eng = e ∧
      (mtCont k.cmd.tmpl = false → d.ent = headEntry (engineOf (clusterOf s cl) e)) ∧
      (∀ x, mtCont k.cmd.tmpl = true → chainOf (clusterOf s cl) k = some x → d.ent = x.ent) ∧
      (clusterOf t cl).taskq = (clusterOf s cl).taskq.filter (fun x => x.cmd.id != k.cmd.id) ∧ t.mem = s.mem ∧
      (mtCont k.cmd.tmpl = false →
        (engineOf (clusterOf t cl) e).alloc = (engineOf (clusterOf s cl) e).alloc ++ [headEntry (engineOf (clusterOf s cl) e)])) ∧
  (∀ (s : State) (cl : Nat) (k : Task) (e : Nat) (st : Option MmdlSt), scanTasks s cl [] (clusterOf s cl).taskq = .send k e st →
    k ∈ (clusterOf s cl).taskq ∧ beingSaved s k.cmd.job = false ∧ slotsReady s cl k = true ∧ badSlot s cl k = none ∧
      (engineOf (clusterOf s cl) e).inbox.length < 2 ∧
      (mtCont k.cmd.tmpl = false → e < 16 ∧ eligible (clusterOf s cl) k.cmd.job e = true ∧
        allocated (engineOf (clusterOf s cl) e) < 4)) ∧
  (∀ (s : State) (cl : Nat), scanTasks s cl [] (clusterOf s cl).taskq = .none → exec (.taskDispatch cl) s = .next s) ∧
  (∀ (s : State) (cl e : Nat) (k : Task) (rest : List Task) (r : Running), (engineOf (clusterOf s cl) e).run = none →
    (engineOf (clusterOf s cl) e).inbox = k :: rest → (∀ x, chainOf (clusterOf s cl) k = some x → x.st = .faulted → k.cmd.id ≤ x.faultId) →
      startTask s cl k (mget? (engineOf (clusterOf s cl) e).inboxMmdl k.cmd.id) = .ok r →
        ∃ t, exec (.taskStart cl e) s = .next t ∧ (engineOf (clusterOf t cl) e).run = some r ∧ (engineOf (clusterOf t cl) e).inbox = rest ∧
          t.mem = s.mem) ∧
  (∀ (s : State) (cl e : Nat) (k : Task) (rest : List Task) (x : Chain), (engineOf (clusterOf s cl) e).run = none →
    (engineOf (clusterOf s cl) e).inbox = k :: rest → chainOf (clusterOf s cl) k = some x → x.st = .faulted → x.faultId < k.cmd.id →
      ∃ t d, exec (.taskStart cl e) s = .next t ∧ (engineOf (clusterOf t cl) e).inbox = rest ∧ (engineOf (clusterOf t cl) e).run = none ∧
        t.done = s.done ++ [d] ∧ d.cmd = k.cmd ∧ d.status = x.fault) ∧
  (∀ (s t : State) (cl : Nat) (k : Task) (st : BitVec 8), endTask s cl k st = t → ∃ d, t.done = s.done ++ [d] ∧ d.cmd = k.cmd ∧
    d.status = st ∧ (∀ x, chainOf (clusterOf s cl) k = some x → d.result = chainToken cl x) ∧
    (chainOf (clusterOf s cl) k = none → d.result = tokenWord cl k.tile k.gen k.chn k.eng k.ent)) ∧
  (∀ (s : State) (cl e : Nat) (r : Running), (engineOf (clusterOf s cl) e).run = some r → r.result.isSome = true → r.readDone = false →
    exec (.taskSlotReadEnd cl e) s =
      .next (settleSlots (setEngine s cl e { engineOf (clusterOf s cl) e with run := some { r with readDone := true } }) cl r.task)) ∧
  (∀ (s : State) (cl e : Nat) (r : Running) (res : List (BitVec 48) × Bool), (engineOf (clusterOf s cl) e).run = some r →
    r.result = some res → r.readDone = true → r.mmdl = none →
      exec (.taskComplete cl e) s =
        .next (endTask (writeEntry (setEngine s cl e { engineOf (clusterOf s cl) e with run := none }) cl e r.task res) cl r.task 0)) ∧
  (∀ (s : State) (cl e : Nat) (k : Task) (x : Chain) (res : List (BitVec 48) × Bool), chainOf (clusterOf s cl) k = some x →
    mget (engineOf (clusterOf (writeEntry s cl e k res) cl) e).ring x.ent {} =
        { vals := res.1, sat := (entryOf (clusterOf s cl) e k).sat || res.2 } ∧
      (mtClose k.cmd.tmpl = true → x.st ≠ .faulted →
        (chainOf (clusterOf (writeEntry s cl e k res) cl) k).map (·.st) = some .full) ∧
      (x.st = .faulted → (chainOf (clusterOf (writeEntry s cl e k res) cl) k).map (·.st) = some .faulted))

/-- R279, R280, R284, R285, R309: the chain at the tail of an engine's ring drains once it is full and its epilogue is attached, one row at a time,
and then leaves; an MMDL write-back writes its rows and settles its entry. -/
def FullChainsDrainAndLeave : Prop :=
  (∀ (s : State) (cl e ent : Nat) (x : Chain) (p : EpiRec) (c : Cmd), (engineOf (clusterOf s cl) e).alloc.head? = some ent →
    entryChain (clusterOf s cl) e ent = some x → x.epi = some p → x.closer = some c →
      ((engineOf (clusterOf s cl) e).drain = none → x.st = .full → x.discard = false → deferred s p c = none →
        exec (.epilogueDrain cl e) s = .next (updChain
          (setEngine s cl e { engineOf (clusterOf s cl) e with drain := some { tile := x.tile, chn := x.chn, gen := x.gen } }) cl x
          fun y => { y with st := .draining })) ∧
      (∀ d, (engineOf (clusterOf s cl) e).drain = some d → d.row < 64 →
        exec (.epilogueDrain cl e) s = .next (drainStep s cl e x p c d.row)) ∧
      (∀ d bs s1, (engineOf (clusterOf s cl) e).drain = some d → d.row < 64 → epSmode p.words = 0 → epBmode p.words = 0 →
        epAct p.words = 0 → rowOut s c (drainFmt p.words c) d.row
          ((((mget (engineOf (clusterOf s cl) e).ring x.ent {}).vals.drop (64 * d.row)).take 64).map (entryVal x)) = (bs, []) →
        engWrite s (drainWho p c) (moveAddr (epWord p.words 3).toNat (d.row * epStride p.words : Nat)) bs
          (drainOwn (moveAddr (epWord p.words 3).toNat (d.row * epStride p.words : Nat))) = .ok s1 →
            ∃ t, exec (.epilogueDrain cl e) s = .next t ∧ t.mem = s1.mem ∧
              (engineOf (clusterOf t cl) e).drain = (engineOf (clusterOf s1 cl) e).drain.map fun d' => { d' with row := d.row + 1 }) ∧
      (∀ d, (engineOf (clusterOf s cl) e).drain = some d → 64 ≤ d.row → epCwe p.words = false →
        exec (.drainComplete cl e) s = .next (endDrain s cl e x 0)) ∧
      (∀ d s1, (engineOf (clusterOf s cl) e).drain = some d → 64 ≤ d.row → epCwe p.words = true →
        engWrite s (drainWho p c) (epWord p.words 6).toNat
          (leBytes 8 (wf64 (epWord p.words 7) 62 0 + if (mget (engineOf (clusterOf s cl) e).ring x.ent {}).sat then 2 ^ 63 else 0))
          (drainOwn (epWord p.words 6).toNat) = .ok s1 →
            exec (.drainComplete cl e) s = .next (endDrain s1 cl e x 0))) ∧
  (∀ (s s1 : State) (cl n rows : Nat) (b : WriteBack), (clusterOf s cl).writebacks[n]? = some b →
    backRows b.task.cmd b.st b.st.rows 0 (cacheEntry s cl (mtRent b.task.cmd.tmpl)) = (s1, rows, none) →
      exec (.mmdlWriteback cl n) s = .next (scrubDropped (settleEntry
        (setCluster s1 cl { clusterOf s1 cl with writebacks := ldrop (clusterOf s1 cl).writebacks n }) b.task.cmd b.st)
        (mtRent b.task.cmd.tmpl)))

/-- R284: the activations of a drain: NaN gives NaN in each, and each has the values of the rule at the infinities; ReLU gives a positive
value back and +0 for every other; GELU saturates its factor at ±1.875. -/
def ActivationsFollowTheirTable : Prop :=
  ∀ (z : Nat),
    (fdecode fp32 z = .nan → ∀ act, epAct32 act z = fnanCode fp32) ∧
    (fdecode fp32 z = .inf false → epAct32 1 z = z ∧ epAct32 2 z = z ∧ epAct32 3 z = z) ∧
    (fdecode fp32 z = .inf true → epAct32 1 z = 0 ∧ epAct32 2 z = 0x80000000 ∧ epAct32 3 z = 0x80000000) ∧
    (∀ m e, fdecode fp32 z = .fin false m e → m ≠ 0 → epAct32 1 z = z) ∧
    (∀ m e, fdecode fp32 z = .fin true m e → epAct32 1 z = 0) ∧
    (∀ n m e, fdecode fp32 z = .fin n m e → vlt (.fin false 15 (-3)) (.fin n m e) = true →
      epAct32 2 z = rneFp32 (vmul (.fin n m e) (fdecode fp32 fp32One))) ∧
    (∀ n m e, fdecode fp32 z = .fin n m e → vlt (.fin n m e) (.fin true 15 (-3)) = true →
      epAct32 2 z = rneFp32 (vmul (.fin n m e) (fdecode fp32 0)))

end Sys2Proof.Claims

/-- R264, R273, R274, R278, R279, R280, R281, R284, R285, R309: A dispatched task goes to its engine, which has room for its entry, a
started one runs there, read slots settle, and a finished one writes its entry and ends; a chain that has faulted stays so. The chain at the
tail of the ring drains when it is full with its epilogue, one row an event, and then leaves; a delta write-back settles its entry. That a
drain's row (log entry 53) and a whole write-back (log entry 54) is one step is the model's choice. The activations of a drain have their
values at NaN, at the infinities and at the ends of their ranges. Which task of a FAULTED chain is cancelled at its start is its reading
(log entry 45). -/
def Obligations.TasksAndChainsPassThroughTheirEngine : Prop :=
  TasksPassThroughTheirEngine ∧ FullChainsDrainAndLeave ∧ ActivationsFollowTheirTable

/-! Copies, gathers and cask commands (R312 to R340). -/

namespace Sys2Proof.Claims

/-- R320, R329, R330, R332, R333: an idle copy engine takes the first command of its die's queue; a checked one moves one element at a time and ends when
all have moved; CPYW then writes its word; LRCHK answers its verdict. -/
def CopyEnginesMoveTheirElements : Prop :=
  (∀ (s : State) (d e : Nat) (c : Cmd) (rest : List Cmd), engOf s d e = none → (dieOf s d).copyq = c :: rest → e < 8 →
    (cmdSub c = 0 → exec (.cpy d e) s = .next (setEng (setDie s d { dieOf s d with copyq := rest }) d e { cmd := c })) ∧
    (cmdSub c = 1 → exec (.cfil d e) s = .next (setEng (setDie s d { dieOf s d with copyq := rest }) d e { cmd := c })) ∧
    (cmdSub c = 2 → exec (.cpyw d e) s = .next (setEng (setDie s d { dieOf s d with copyq := rest }) d e { cmd := c })) ∧
    (cmdSub c = 3 → exec (.lrchk d e) s = .next (setEng (setDie s d { dieOf s d with copyq := rest }) d e { cmd := c }))) ∧
  (∀ (s : State) (d e : Nat) (r : CopyRun), engOf s d e = some r → r.halt = none → r.checked = true → r.k < copyCount r →
    (cmdSub r.cmd = 0 → exec (.cpy d e) s = .next (copyElem s d e r)) ∧
    (cmdSub r.cmd = 2 → exec (.cpyw d e) s = .next (copyElem s d e r)) ∧
    (cmdSub r.cmd = 1 → exec (.cfil d e) s = .next (copyPut s d e r (leBytes (recElem r.dst) (cpFval r.cmd.tmpl))))) ∧
  (∀ (s : State) (d e : Nat) (r : CopyRun), engOf s d e = some r → r.halt = none → r.checked = true → copyCount r ≤ r.k →
    (cmdSub r.cmd = 0 → exec (.cpy d e) s = .next (endCopy s d e r.cmd 0 r.k)) ∧
    (cmdSub r.cmd = 1 → exec (.cfil d e) s = .next (endCopy s d e r.cmd 0 r.k)) ∧
    (∀ s1, cmdSub r.cmd = 2 → engWrite s { engWho r.cmd .copy d e with know := doneKnow r.cmd } (ownAddr (cpCwoff r.cmd.tmpl * 8)) (leBytes 8 (cpCwval r.cmd.tmpl)) false = .ok s1 →
      exec (.cpyw d e) s = .next (endCopy s1 d e r.cmd 0 r.k))) ∧
  (∀ (s : State) (d e : Nat) (r : CopyRun) (a b : List Word), engOf s d e = some r → r.halt = none → cmdSub r.cmd = 3 →
    readRecs s (engWho r.cmd .copy d e) r.cmd.tmpl = .ok (a, b) →
      exec (.lrchk d e) s = .next (endCopy s d e r.cmd 0 (lrchkWord s r.cmd.tile a b))) ∧
  (∀ (s s1 : State) (d e : Nat) (r : CopyRun) (v : List Byte) (a : Nat), recDest r.dst r.k = .write a →
    engWrite s (engWho r.cmd .copy d e) a v false = .ok s1 → copyPut s d e r v = setEng s1 d e { r with k := r.k + 1 }) ∧
  (∀ (s : State) (d e : Nat) (r : CopyRun) (v : List Byte), hullsMeet s r.cmd.tile r.src r.dst = false → r.before = s.mem →
    copySource s (engWho r.cmd .copy d e) r = .ok (some v) → copyElem s d e r = copyPut s d e r v) ∧
  (∀ (s : State) (d e : Nat) (r : CopyRun), isMemmove s r = true →
    (∀ all, r.moved = none → readAll s (engWho r.cmd .copy d e) r (copyCount r) 0 = .ok all →
      copyElem s d e r = setEng s d e { r with moved := some all }) ∧
    (∀ all a, r.moved = some all → recSource r.src r.k = .read a →
      copyElem s d e r = copyPut s d e r ((all.drop (r.k * recElem r.src)).take (recElem r.src)))) ∧
  (∀ (s : State) (w : Who) (fe : Bool) (a b : List Word), windowStop s w fe a b = none → a ≠ [] → b ≠ [] →
    hullsMeet s w.tile a b = true → memmoveOk a b = true) ∧
  (∀ (s : State) (tile : Nat) (a b : List Word), a ≠ [] → b ≠ [] →
    (∀ f dest, layPair a b = some (f, dest) → lrchkWord s tile a b = layWord f dest false) ∧
    (layPair a b = none → (lrchkWord s tile a b / 2 ^ 24 % 2 = 1 ↔
      hullsReach s tile a b = true ∧ hullsMeet s tile a b = true ∧ memmoveOk a b = false)))

/-- R336, R338, R339, R340: a gather engine with its descriptor read reads the index entries and then issues the reads of their rows in
ascending order within its limits; rows land, and those of a GTHR are written, in any order, which the spec leaves open (assumption 64). A row of GTHR that lands is the one that
its entry names, the default row or zeros, and is written to the row of DATA; SCTR drops a row without a valid entry and sends the elements
of another to their ports; the command ends once every row is through. -/
def GatherEnginesMoveTheirRows : Prop :=
  (∀ (s : State) (d e : Nat) (g0 g : GatherRun) (t : List Word), gatherOf s d e = some g0 → settleRows s d e g0 = g →
    g.desc = some t → gaActs s g t ≠ [] →
      (cmdSub g0.cmd = 0 → ∃ x ∈ gaActs s g t, exec (.gthr d e) s =
        .next (gaDo d e { s with free := s.free + 1 } g t (fun s g j x => gthrStep s d e g t j x) x)) ∧
      (cmdSub g0.cmd = 1 → ∃ x ∈ gaActs s g t, exec (.sctr d e) s =
        .next (gaDo d e { s with free := s.free + 1 } g t (fun s g j x => sctrStep s d e g t j x) x))) ∧
  (∀ (s : State) (g : GatherRun) (t : List Word) (x : GaAct), x ∈ gaActs s g t ↔
    (∃ j, x = .entry j ∧ nextRow g = some j ∧ gaGoes s g = true ∧ readRoom g t 1 = true) ∨
    (∃ j y rest, x = .issue j y ∧ g.entries = (j, y) :: rest ∧ gaGoes s g = true ∧ readRoom g t (rowLines g t y) = true) ∨
    (∃ p ∈ g.reads, x = .land p.1 p.2) ∨ (∃ p ∈ g.rows, x = .put p.1 p.2)) ∧
  (∀ (s : State) (g : GatherRun), gaGoes s g = true ↔ g.halt = none ∧ (g.cmd.fromFe = true ∨ beingSaved s g.cmd.job = false)) ∧
  (∀ (g : GatherRun) (j : Nat), nextRow g = some j → rowTaken g j = false ∧ j < gaCount g.cmd.tmpl ∧ j < 64 * (gaBatch g + 64) ∧
    64 * gaBatch g ≤ j ∧ ∀ i, 64 * gaBatch g ≤ i → i < j → rowTaken g i = true) ∧
  (∀ (s : State) (d e : Nat) (g : GatherRun) (t : List Word) (f : State → GatherRun → Nat → Option Nat → State),
    (∀ j bs, gatherRead s d e g (entryAddr g.cmd.tmpl j) (gaEntry g.cmd.tmpl) = .ok bs → gaDo d e s g t f (.entry j) =
      setGather s d e { g with entries := g.entries ++ [(j, entryRow (gaEntry g.cmd.tmpl) (tdRows t) (leNat bs))] }) ∧
    (∀ j x, gaDo d e s g t f (.issue j x) = setGather s d e { g with entries := g.entries.drop 1, reads := g.reads ++ [(j, x)] }) ∧
    (∀ j x, gaDo d e s g t f (.land j x) =
      f s { g with reads := g.reads.filter (·.1 != j), rows := g.rows.filter fun p => p.1 != j } j x) ∧
    (∀ j bs s1, engWrite s (engWho g.cmd .gather d e) (dataRow g.cmd.tmpl j) bs true = .ok s1 → gaDo d e s g t f (.put j bs) =
      setGather s1 d e { dropRow g j with done := g.done ++ [j] })) ∧
  (∀ (s : State) (d e : Nat) (g0 g : GatherRun) (t : List Word), gatherOf s d e = some g0 → settleRows s d e g0 = g → g.halt = none →
    g.desc = some t → nextRow g = none → g.entries = [] → g.reads = [] → g.rows = [] → gaCount g.cmd.tmpl ≤ g.done.length →
      (cmdSub g0.cmd = 0 → exec (.gthr d e) s = .next (endGather s d e g.cmd 0 (gaCount g.cmd.tmpl))) ∧
      (cmdSub g0.cmd = 1 → exec (.sctr d e) s = .next (endGather s d e g.cmd 0 (gaCount g.cmd.tmpl)))) ∧
  (∀ (s : State) (d e : Nat) (g : GatherRun) (t : List Word) (j : Nat),
    (∀ x row, gatherRead s d e g (tableRow t x) (tdRowBytes t) = .ok row →
      gthrStep s d e g t j (some x) = setGather s d e { g with rows := g.rows ++ [(j, row)] }) ∧
    (∀ row, tdMode t = 1 → gatherRead s d e g (tdDef t) (tdRowBytes t) = .ok row →
      gthrStep s d e g t j none = setGather s d e { g with rows := g.rows ++ [(j, row)] }) ∧
    (tdMode t ≠ 1 → gthrStep s d e g t j none = setGather s d e { g with rows := g.rows ++ [(j, List.replicate (tdRowBytes t) 0)] }) ∧
    sctrStep s d e g t j none = setGather s d e { g with done := g.done ++ [j] } ∧
    (∀ x row ops, gatherRead s d e g (dataRow g.cmd.tmpl j) (tdRowBytes t) = .ok row → rowOps s d e g t x j row (tdLen t) 0 = .ok ops →
      sctrStep s d e g t j (some x) = setGather { s with ports := s.ports ++ ops } d e { g with issued := g.issued ++ [j] })) ∧
  (∀ (n rows x : Nat), n = 4 ∨ n = 8 → x < 2 ^ (8 * n) →
    (∀ r, entryRow n rows x = some r ↔ x = r ∧ r < 2 ^ (8 * n - 2) ∧ r < rows))

end Sys2Proof.Claims

/-- R320, R329, R330, R331, R332, R333, R336, R338, R339, R340: An idle copy engine takes the first command of its die; CPY, CPYW and CFIL
move one element, a memmove reads all of its source first, and each ends when all have moved, CPYW with its word; LRCHK answers its verdict,
with OVL only for windows that an access could reach, which is the model's reading (log entry 61). A gather reads its index entries and
issues the reads of their rows in order and writes the rows in any order, one a step (log entry 64): GTHR the row that its entry names, the
default row or zeros; SCTR sends a row's elements to their ports or drops a row without a valid entry; each ends after its last row. -/
def Obligations.CopyAndGatherEnginesMoveTheirElements : Prop :=
  CopyEnginesMoveTheirElements ∧ GatherEnginesMoveTheirRows

namespace Sys2Proof.Claims

/-- R293, R314 to R317: the entry of a cask command is cached in its cluster. A query of a step already judged repeats its reply, one whose
bin holds no values answers MISS, and another is judged by the distance from the bin's values; a replay needs a HIT of that step and
version, and a capture needs a verdict other than HIT and fills both bins. -/
def CaskCommandsFollowTheVerdict : Prop :=
  (∀ (s u : State) (cl : Nat) (c : Cmd) (e : REntry), CaskRuns s cl c 0 → entryAt s (ckRent c.tmpl) = e → cacheEntry s cl (ckRent c.tmpl) = u →
    (e.qseen = true → e.stag.toNat = ckStep c → exec (.caskq cl) s = .next (endCask u cl c 0 (queryReply e))) ∧
    (∀ e1 xs, e.qseen = false ∨ e.stag.toNat ≠ ckStep c → queryEntry e (forceBit u c.ctxn) (ckStep c) = e1 →
      engRead u (reuseWho c) (ckIaddr c.tmpl) (64 * e.ibin.toNat) (ckOwn (ckIaddr c.tmpl)) = .ok xs →
        (e1.bval.getLsbD (binOf e (ckStep c)) = false →
          exec (.caskq cl) s = .next (queryDone u cl c (queryEnd e1 (binOf e (ckStep c)) vMiss e1.hrun (finfCode fp32)))) ∧
        (∀ ys w dist v run, e1.bval.getLsbD (binOf e (ckStep c)) = true →
          engRead u (reuseWho c) (binIn e (binOf e (ckStep c))) (64 * e.ibin.toNat) false = .ok ys →
          ((ckFmt c.tmpl).eb + (ckFmt c.tmpl).fb + 1) / 8 = w →
          caskDist e.metric (List.zipWith absDiff (floatRow (ckFmt c.tmpl) xs (64 * e.ibin.toNat / w))
            (floatRow (ckFmt c.tmpl) ys (64 * e.ibin.toNat / w))) = dist → verdictOf e1 dist = (v, run) →
            exec (.caskq cl) s = .next (queryDone u cl c (queryEnd e1 (binOf e (ckStep c)) v run dist))))) ∧
  (∀ (s u : State) (cl : Nat) (c : Cmd) (e : REntry), CaskRuns s cl c 1 → entryAt s (ckRent c.tmpl) = e → cacheEntry s cl (ckRent c.tmpl) = u →
    (∀ bs s1, queriedStep c e = true → e.lqv = vHit → e.ver = e.verAtQuery → ckTgt c.tmpl = false →
      engRead u (reuseWho c) (binOut e (binOf e (ckStep c))) (64 * e.obin.toNat) false = .ok bs →
      engWrite u (reuseWho c) (ckOaddr c.tmpl) (replayBytes u c 0 bs) (ckOwn (ckOaddr c.tmpl)) = .ok s1 →
        exec (.caskrp cl) s = .next (replayDone s1 cl c e)) ∧
    (queriedStep c e = true → e.lqv = vHit → e.ver = e.verAtQuery → ckTgt c.tmpl = true →
      exec (.caskrp cl) s = .next (replayPort u cl c e)) ∧
    (queriedStep c e = false ∨ e.lqv ≠ vHit ∨ e.ver ≠ e.verAtQuery → (clusterOf s cl).caskSent = 0 →
      exec (.caskrp cl) s = .next (caskRefuse u cl c 7))) ∧
  (∀ (s u s1 s2 : State) (cl : Nat) (c : Cmd) (e : REntry) (xs ys : List Byte), CaskRuns s cl c 2 → entryAt s (ckRent c.tmpl) = e →
    cacheEntry s cl (ckRent c.tmpl) = u →
      (queriedStep c e = true → e.lqv ≠ vHit →
        engRead u (reuseWho c) (ckIaddr c.tmpl) (64 * e.ibin.toNat) (ckOwn (ckIaddr c.tmpl)) = .ok xs →
        engRead u (reuseWho c) (ckOaddr c.tmpl) (64 * e.obin.toNat) (ckOwn (ckOaddr c.tmpl)) = .ok ys →
        engWrite u (reuseWho c) (binIn e (binOf e (ckStep c))) xs false (some (ckRent c.tmpl)) = .ok s1 →
        engWrite s1 (reuseWho c) (binOut e (binOf e (ckStep c))) ys false (some (ckRent c.tmpl)) = .ok s2 →
          ∃ e2, e2.bval = (entryAt s2 (ckRent c.tmpl)).bval ||| (1#4 <<< binOf e (ckStep c)) ∧ ownKey c.id ∈ e2.writers ∧
            (∀ k ∈ (entryAt s2 (ckRent c.tmpl)).writers, k ∈ e2.writers) ∧ e2.kind = (entryAt s2 (ckRent c.tmpl)).kind ∧
            e2.ver = (entryAt s2 (ckRent c.tmpl)).ver ∧
            exec (.caskcp cl) s = .next (endCask (setEntry s2 (ckRent c.tmpl) e2) cl c 0 1)) ∧
      (queriedStep c e = false ∨ e.lqv = vHit → exec (.caskcp cl) s = .next (caskRefuse u cl c 7)))

/-- R314, R315: what a query makes of its entry: a new version or the force bit empties every bin, a jump of the step does so and ends the
run of hits, a distance within THETA is a HIT until MMAX hits in a row force a miss, and a bin that did not hit holds nothing any more. -/
def QueriesJudgeTheirBin : Prop :=
  ∀ (e : REntry) (force : Bool) (st : Nat),
    ((queryEntry e force st).bval =
      if e.ver ≠ e.wseen ∨ force = true ∨ (e.qseen = true ∧ st ≠ (e.stag.toNat + 1) % 2 ^ 16) then 0 else e.bval) ∧
    ((queryEntry e force st).hrun = if e.qseen = true ∧ st ≠ (e.stag.toNat + 1) % 2 ^ 16 then 0 else e.hrun) ∧
    ((queryEntry e force st).wseen = if e.ver ≠ e.wseen ∨ force = true then e.ver else e.wseen) ∧
    (queryEntry e force st).qseen = true ∧ (queryEntry e force st).stag = BitVec.ofNat 16 st ∧
    (∀ dist, fdecode fp32 dist = .nan ∨ fdecode fp32 e.theta.toNat = .nan ∨
      vlt (fdecode fp32 e.theta.toNat) (fdecode fp32 dist) = true → verdictOf e dist = (vMiss, 0)) ∧
    (∀ dist, fdecode fp32 dist ≠ .nan → fdecode fp32 e.theta.toNat ≠ .nan →
      vlt (fdecode fp32 e.theta.toNat) (fdecode fp32 dist) = false →
        (e.mmax.toNat ≤ e.hrun.toNat → verdictOf e dist = (vForced, 0)) ∧
        (e.hrun.toNat < e.mmax.toNat → verdictOf e dist = (vHit, e.hrun + 1))) ∧
    (∀ b v run dist, b < 4 → (queryEnd e b v run dist).bval.getLsbD b = (decide (v = vHit) && e.bval.getLsbD b) ∧
      (queryEnd e b v run dist).lqv = v ∧ (queryEnd e b v run dist).hrun = run ∧
      ∀ i, i < 4 → i ≠ b → (queryEnd e b v run dist).bval.getLsbD i = e.bval.getLsbD i)

end Sys2Proof.Claims

/-- R293, R314, R315, R316, R317, R318: A query of a step already judged repeats its reply, one whose bin holds nothing answers MISS, and
another is judged by the distance of its bin against THETA, with a forced miss after MMAX hits in a row. A new version, the force bit or a
jump of the step empties every bin. A replay after a HIT of the same step and version replays, and one of another step is refused; a capture
after another verdict copies input and output into the bin. -/
def Obligations.CaskCommandsJudgeReplayAndCapture : Prop :=
  CaskCommandsFollowTheVerdict ∧ QueriesJudgeTheirBin

/-! The front end (R343 to R374). -/

namespace Sys2Proof.Claims

/-- R342, R355, R369, R370: the first request of a stream in the launch queue takes effect: GLNC asks for its launch, GNXT joins its job,
GARM signals its node, GSET writes its word, EMIT puts its record in the ring, SIGH writes the queue's signal. -/
def LaunchRequestsTakeEffectInOrder : Prop :=
  ∀ (s : State) (n : Nat) (f : FeCmd), launchAt s n = some f →
    (∀ c key q, f.kind = .glnc c → graphQueue s c = some (key, q) →
      exec (.glnc n) s = .next (askLaunch (dropLaunch s n) (grGaddr c.tmpl) q.ctxn key (grOrd c.tmpl) none (some c))) ∧
    (∀ c j, f.kind = .gnxt c → mget? s.fe.jobs f.job = some j → j.gnxts.length < 16 →
      exec (.gnxt n) s = .next (finish { dropLaunch s n with fe := { (dropLaunch s n).fe with
        jobs := mset s.fe.jobs f.job { j with gnxts := j.gnxts ++ [f] } } } c 0 0)) ∧
    (∀ a gid node, f.kind = .garm a → nodeAt (dropLaunch s n) f.ctxn a.toNat = some (gid, node) →
      exec (.garmApply n) s = .next (signalNode (dropLaunch s n) gid node)) ∧
    (∀ a v s2, f.kind = .gset a v → frontWrite (dropLaunch s n) f.ctxn a.toNat (leBytes 8 v.toNat) = .ok s2 →
      exec (.gsetApply n) s = .next s2) ∧
    (∀ ring bs, f.kind = .emit ring bs → exec (.emitApply n) s = .next (ringPut (dropLaunch s n) ring bs)) ∧
    (∀ v q s2, f.kind = .sigh v → ((mget? s.fe.jobs f.job).bind fun j => mget? s.fe.queues j.qkey) = some q →
      signalHost (dropLaunch s n) q v = .ok s2 → exec (.sighApply n) s = .next s2)

/-- R371: a ring whose coalescing time has passed interrupts; a full ring re-reads the host's consumer index once a microsecond. -/
def RingsInterruptAndReread : Prop :=
  (∀ (s : State) (r t : Nat), (ringOf s r).firstAt = some t → ringTime s r ≠ 0 → t + 2200 * ringTime s r ≤ s.fab →
    exec (.ringCoalesceTimeout r) s = .next (ringIntr s r)) ∧
  (∀ (s : State) (r : Nat), ringRoom s r = false → (ringOf s r).lastReread + 2200 ≤ s.fab →
    ∃ t, exec (.ringFullReread r) s = .next t ∧ t.mem = s.mem ∧ t.tiles = s.tiles ∧
      (ringOf t r).cidx = BitVec.ofNat 32 (readNat s (iova (ringWord s r 4)) 4) ∧ (ringOf t r).pidx = (ringOf s r).pidx) ∧
  (∀ (s : State) (r : Nat) (bs : List Byte), (ringOf (ringPut s r bs) r).pidx = (ringOf s r).pidx + 1 ∧
    (ringPut s r bs).tiles = s.tiles ∧
    (ringCount s r = 1 → (ringOf (ringPut s r bs) r).sinceIntr = 0 ∧ (ringOf (ringPut s r bs) r).firstAt = none))

end Sys2Proof.Claims

/-- R342, R355, R369, R370, R371: GLNC asks for its launch, GNXT joins its job, GARM signals its node, GSET writes its word, EMIT puts its
record in the ring, and SIGH signals the host. A ring whose time has passed interrupts, and a full one reads the consumer index again. -/
def Obligations.LaunchRequestsAndRingsTakeEffect : Prop :=
  LaunchRequestsTakeEffectInOrder ∧ RingsInterruptAndReread

namespace Sys2Proof.Claims

/-- R343 to R347, R362: each packet kind, taken from its channel with good fields, has its effect; a kind that is not assigned answers status 1,
and a queue that does not exist status 2. -/
def PacketKindsTakeEffect : Prop :=
  (∀ (s s1 : State) (ch : Nat) (p : Packet), takePacket s ch (fun k => k == 1 || !pkAssigned k) = some (s1, p) →
    (pkAssigned (pkKind p) = false → exec (.launchGraph ch) s = .next (packetOver (completion s1 (pktNode ch p) 1) ch)) ∧
    (∀ key q, pkAssigned (pkKind p) = true → pkFields p false false true [(1, word64)] = true → pkQueue s1 ch p = some (key, q) →
      exec (.launchGraph ch) s = .next (packetOver (askLaunch s1 (pkWord p 1) q.ctxn key (pkOrd p) (some (pktNode ch p)) none) ch))) ∧
  (∀ (s s1 : State) (ch : Nat) (p : Packet), takePacket s ch (fun k => k == 2) = some (s1, p) →
    pkFields p false false false [(1, word64)] = true →
      (pkQueue s1 ch p = none → exec (.bind ch) s = .next (packetOver (completion s1 (pktNode ch p) 2) ch)) ∧
      (∀ key q, pkQueue s1 ch p = some (key, q) → bindRecordOk s1 q.ctxn (pkWord p 1) = true →
        exec (.bind ch) s = .next (packetOver (launchPkt s1 q.ctxn key { pktNode ch p with addr := pkWord p 1 }) ch))) ∧
  (∀ (s s1 s2 s3 : State) (ch : Nat) (p : Packet), takePacket s ch (fun k => k == 3) = some (s1, p) →
    pkFields p false false false [(1, word64), (2, 2 ^ 17 - 1)] = true → bitsN (pkWord p 2) 7 0 < Config.tiles →
      bitN (pkWord p 2) 16 = false → (tileOf s1 (bitsN (pkWord p 2) 7 0)).job = none → (tileOf s1 (bitsN (pkWord p 2) 7 0)).standing = none →
        configTile s1 (pktNode ch p) (pkCtx s1 ch p) (bitsN (pkWord p 2) 7 0) (pkWord p 1) (maskBits 8 (bitsN (pkWord p 2) 15 8)) = (some s2, s3) →
          exec (.configRegion ch) s = .next (packetOver s2 ch)) ∧
  (∀ (s s1 : State) (ch : Nat) (p : Packet) (key : Nat) (q : Qcb), takePacket s ch (fun k => k == 4) = some (s1, p) →
    pkFields p false false false [(1, word64), (2, 3), (3, word64)] = true → pkQueue s1 ch p = some (key, q) →
      exec (.copy ch) s = .next (packetOver (launchPkt s1 q.ctxn key { pktNode ch p with
        addr := pkWord p 1, die := bitsN (pkWord p 2) 1 0, td := pkWord p 3 }) ch)) ∧
  (∀ (s s1 s2 : State) (ch : Nat) (p : Packet), takePacket s ch (fun k => k == 5) = some (s1, p) →
    pkFields p false false false [(1, word64), (2, word64), (3, 3)] = true → pkWord p 1 % 8 = 0 → bitsN (pkWord p 3) 1 0 = 0 →
      frontWrite s1 (pkCtx s1 ch p) (pkWord p 1) (leBytes 8 (signalValue 0 0 (pkWord p 2))) = .ok s2 →
        exec (.signal ch) s = .next (packetOver (completion s2 (pktNode ch p) 0) ch)) ∧
  (∀ (s s1 : State) (ch v : Nat) (p : Packet), takePacket s ch (fun k => k == 6) = some (s1, p) →
    pkFields p false false false [(1, word64), (2, word64), (3, 3)] = true → pkWord p 1 % 8 = 0 → bitsN (pkWord p 3) 1 0 ≠ 3 →
      watchOf s1 (waitTile ch) .k = none → feNat s1 (pkCtx s1 ch p) (pkWord p 1) 8 = .ok v → ∀ x xs,
        engSegs s1 (feWho (pkCtx s1 ch p)) (pkWord p 1) 8 false false = .ok (x :: xs) →
          exec (.wait ch) s = .next (if ccHolds (Sys2Proof.Machine.ccOf (bitsN (pkWord p 3) 1 0)) (BitVec.ofNat 64 v) (BitVec.ofNat 64 (pkWord p 2))
            then packetOver (completion s1 (pktNode ch p) 0) ch
            else { s1 with watches := s1.watches ++ [{ tile := waitTile ch, strm := .k, addr := x.phys
                                                       cc := Sys2Proof.Machine.ccOf (bitsN (pkWord p 3) 1 0)
                                                       cmp := BitVec.ofNat 64 (pkWord p 2), near := BitVec.ofNat 64 (pkWord p 1)
                                                       ctxn := pkCtx s1 ch p }] })) ∧
  (∀ (s s1 : State) (ch : Nat) (p : Packet) (x : Watch), takePacket s ch (fun k => k == 6) = some (s1, p) →
    watchOf s1 (waitTile ch) .k = some x →
      (x.got = none → exec (.wait ch) s = .next s1) ∧
      (x.got ≠ none → exec (.wait ch) s = .next (packetOver (completion (dropWatch s1 (waitTile ch) .k) (pktNode ch p) 0) ch)))

/-- R345, R347, R348, R414: QUEUE_CREATE makes the queue, QUEUE_DESTROY removes an idle one, and CHANNEL_RESYNC on a channel that is not paused only
answers. -/
def QueuePacketsMakeAndRemoveQueues : Prop :=
  (∀ (s s1 s2 : State) (ch status : Nat) (p : Packet), takePacket s ch (fun k => k == 7) = some (s1, p) →
    pkFields p false true false [(1, 0xFFF + 3 * 2 ^ 16 + 0x7F * 2 ^ 24), (2, word64), (3, 0x87FF)] = true → pkQnum p ≠ 0xFFFF →
      pkWord p 2 % 8 = 0 → bitsN (pkWord p 1) 30 24 ≤ ceilOf (classOf (bitsN (pkWord p 1) 17 16)) → pkQueue s1 ch p = none →
        pkModify p = false → createQueue s1 ch p = (s2, status) →
          exec (.queueCreate ch) s = .next (packetOver (completion s2 (pktNode ch p) status) ch)) ∧
  (∀ (s t : State) (ch status : Nat) (p : Packet), createQueue s ch p = (t, status) →
    (status = 0 → ∃ q, mget? t.fe.queues (queueKey (chanOf s ch).pasid.toNat (pkQnum p)) = some q ∧ q.ctxn = bitsN (pkWord p 1) 11 0 ∧
      q.cls = classOf (bitsN (pkWord p 1) 17 16) ∧ q.base = bitsN (pkWord p 1) 30 24 ∧ q.eff = bitsN (pkWord p 1) 30 24 ∧
      q.hsig = BitVec.ofNat 64 (pkWord p 2) ∧ q.vec = bitsN (pkWord p 3) 10 0 ∧ q.sigint = bitN (pkWord p 3) 15 ∧ t.mem = s.mem) ∧
    (status ≠ 0 → t = s) ∧
    (ctxOfPasid s (bitsN (pkWord p 1) 11 0) (chanOf s ch).pasid.toNat = false → status = 10)) ∧
  (∀ (s s1 : State) (ch : Nat) (p : Packet) (key : Nat) (q : Qcb), takePacket s ch (fun k => k == 8) = some (s1, p) →
    pkFields p true false false [] = true → pkQueue s1 ch p = some (key, q) → pkAbort p = false → queueBusy s1 key = false →
      exec (.queueDestroy ch) s = .next (packetOver (destroyQueue s1 key [pktNode ch p]) ch)) ∧
  (∀ (s s1 : State) (ch : Nat) (p : Packet) (key : Nat) (q : Qcb), takePacket s ch (fun k => k == 8) = some (s1, p) →
    pkFields p true false false [] = true → pkQueue s1 ch p = some (key, q) → pkAbort p = false → queueBusy s1 key = true →
      exec (.queueDestroy ch) s = .next (packetOver { s1 with fe := { s1.fe with
        destroying := s1.fe.destroying ++ [(key, pktNode ch p)] } } ch)) ∧
  (∀ (s : State) (key : Nat) (pns : List PktNode), mget? (destroyQueue s key pns).fe.queues key = none ∧
    ∀ i, (mget? s.fe.qslots i = some (some key) → mget? (destroyQueue s key pns).fe.qslots i = some none) ∧
      (∀ o, o ≠ some key → mget? s.fe.qslots i = some o → mget? (destroyQueue s key pns).fe.qslots i = some o)) ∧
  (∀ (s s1 : State) (ch : Nat) (p : Packet), takePacket s ch (fun k => k == 9) = some (s1, p) →
    ((chanOf s1 ch).paused = true → exec (.channelResync ch) s = .next (packetOver (resync s1 ch (pktNode ch p) p) ch)) ∧
    ((chanOf s1 ch).paused = false → pkFields p false false false [(1, 2 ^ 32 - 1)] = true →
      exec (.channelResync ch) s = .next (packetOver (completion s1 (pktNode ch p) 0) ch)))

end Sys2Proof.Claims

/-- R343, R344, R345, R346, R347, R348, R362, R414: LAUNCH_GRAPH, BIND, CONFIG_REGION, COPY, SIGNAL, WAIT, QUEUE_CREATE, QUEUE_DESTROY and
CHANNEL_RESYNC act when they are taken from their channel with good fields; a WAIT leaves its comparison at the port of the word, which
every write of it tests again; the queue created has the context, class, priority, signal and vector of its packet; a kind that is not
assigned answers status 1, and a queue that does not exist status 2. What a busy QUEUE_DESTROY waits for (log entry 73) and the context in
which a packet's addresses resolve (log entry 69) are the model's readings. -/
def Obligations.PacketsTakeEffect : Prop :=
  PacketKindsTakeEffect ∧ QueuePacketsMakeAndRemoveQueues

namespace Sys2Proof.Claims

/-- R25, R118, R361, R429: a bound job whose images and handle requests can be read, and for whose handles there is room, starts on its
block: each of its tiles has the job and its four streams run from their entries with the node's arguments, and a tile's scratchpad holds
its section from byte 0 and zeros behind it. A job all of whose streams have ended with nothing outstanding completes, and one that is started, or
not over, is left alone. -/
def JobsStartAndComplete : Prop :=
  (∀ (s : State) (no : Nat) (j : Job), mget? s.fe.jobs no = some j →
    (j.started = false → handlesFit s j = false → exec (.jobStart no) s = .next s) ∧
    (j.started = true → exec (.jobStart no) s = .next s) ∧
    (jobOver s no j = true → exec (.jobComplete no) s = .next (endJob s no j)) ∧
    (jobOver s no j = false → exec (.jobComplete no) s = .next s)) ∧
  (∀ (s : State) (no : Nat) (j : Job) (img : JobImage) (reqs : List Nat), mget? s.fe.jobs no = some j → j.started = false →
    handlesFit s j = true → readJob s j.ctxn j.jimg (secIdxs j.wholeClusters j.tiles) = .ok img → readReqs s j = some reqs →
      j.tiles.Nodup → ∃ t, exec (.jobStart no) s = .next t ∧ (mget? t.fe.jobs no).map (·.started) = some true ∧
        ∀ u i x, (u, i) ∈ j.tiles.zip (secIdxs j.wholeClusters j.tiles) → secOf img i = some x →
          (tileOf t u).job = some no ∧ ∀ sk, (strmAt t u sk).running = true ∧ (strmAt t u sk).halted = false ∧
            (strmAt t u sk).pc = BitVec.ofNat 64 (x.entries.getD (sidx sk) 0) ∧ (strmAt t u sk).fe = 1 ∧ (strmAt t u sk).tctx = false ∧
            ∀ m a, j.args[m]? = some a → mget (strmAt t u sk).regs (m + 1) {} = { val := a }) ∧
  (∀ (s : State) (no u : Nat) (j : Job) (img : JobImage) (x : JobSec) (bs : List Byte), mget? s.fe.jobs no = some j → j.started = false →
    j.tiles = [u] → j.wholeClusters = false → j.nhreq = 0 → readJob s j.ctxn j.jimg [0] = .ok img → secOf img 0 = some x →
      secBytes s j.ctxn j.jimg x = some bs → Memory.wf s.mem = true →
        ∃ t, exec (.jobStart no) s = .next t ∧ (∀ m, m < bs.length → memGet t.mem (scratchBase u + m) = bs.getD m 0) ∧
          (∀ m, bs.length ≤ m → m < Config.scratchBytes → memGet t.mem (scratchBase u + m) = 0) ∧
          ∀ q, inScratch u q = false → q < scratchBase u ∨ scratchBase u + bs.length ≤ q → memGet t.mem q = memGet s.mem q) ∧
  (∀ (s : State) (no : Nat) (j : Job) (t : Nat), jobOver s no j = true → t ∈ j.tiles → (tileOf s t).job = some no →
    ∀ sk, (strmAt s t sk).halted = true ∧ (strmAt s t sk).landings = [] ∧
      ∀ c ∈ (strmAt s t sk).cmds, c.id ∈ waitingNexts s no) ∧
  (∀ (s : State) (no : Nat) (j : Job), mget? (releaseJob s no j).fe.jobs no = none ∧
    ∀ t ∈ j.tiles, (tileOf (releaseJob s no j) t).job ≠ some no)

/-- R355, R357, R433: a signal to a WAITING node lowers its count, and at zero the node is READY and waits in its queue or in the front end;
a signal to another node is counted in the graph's overflow field, and one to a node whose record cannot be read faults the graph. A node
that completes becomes DONE and signals its successors. -/
def SignalsCountDownToReady : Prop :=
  (∀ (s : State) (gid n w : Nat) (g : Graph), graphOf s gid = some g → feNat s g.ctxn (nodeAddr g n) 8 = .ok w → bitsN w 59 58 = 0 →
    (1 < bitsN w 43 32 → signalNode s gid n = putCnt s g n (bitsN w 43 32 - 1)) ∧
    (∀ s1 s2 g1, bitsN w 43 32 = 1 → putCnt s g n 0 = s1 → putNstate s1 g n 1 = s2 → graphOf s2 gid = some g1 →
      g1.faulted = false →
        (4 ≤ bitsN (nodeWord s1 g n 0) 63 60 → signalNode s gid n =
          { s2 with fe := { s2.fe with feReady := s2.fe.feReady ++ [{ gid := gid, node := n, since := s1.fab }] } }) ∧
        (bitsN (nodeWord s1 g n 0) 63 60 < 4 → ∀ q, mget? s2.fe.queues g.qkey = some q →
          ∃ q', mget? (signalNode s gid n).fe.queues g.qkey = some q' ∧
            q'.ready = q.ready ++ [{ gid := gid, node := n, since := s1.fab }] ∧
            q'.since = if q.ready = [] then s2.fab else q.since))) ∧
  (∀ (s : State) (gid n : Nat) (g : Graph) (e : AccFault), graphOf s gid = some g → feNat s g.ctxn (nodeAddr g n) 8 = .error e →
    g.lost = false → (graphOf (signalNode s gid n) gid).map (·.faulted) = some true) ∧
  (∀ (s : State) (gid n w : Nat) (g : Graph), graphOf s gid = some g → feNat s g.ctxn (nodeAddr g n) 8 = .ok w →
    bitsN w 59 58 ≠ 0 ∨ bitsN w 43 32 = 0 →
      signalNode s gid n = graphPut s gid (g.gaddr + 56) 15 0 (min (bitsN (headNow s g 7) 15 0 + 1) 65535) 0) ∧
  (∀ (s : State) (gid n : Nat) (g g1 : Graph), graphOf s gid = some g → g.pkt = none → graphOf (putNstate s g n 3) gid = some g1 →
    g1.pkt = none → nodeDone s gid n =
      (successors (putNstate s g n 3) g1 n 0 (nsucc s g n)).foldl (fun s m => signalNode s gid m) (putNstate s g n 3)) ∧
  (∀ (s s1 : State) (gid a hi lo v n : Nat) (g : Graph), graphOf s gid = some g → g.pkt = none → feField s g.ctxn a hi lo v = .ok s1 →
    graphPut s gid a hi lo v n = s1)

/-- R25, R354, R363 to R368: a bound BIND node asks its guard first, issues its stream commands in order, and completes once its sink has
taken its end-of-stream token and they have ended, replaying on a HIT and capturing otherwise; COPY and GATHER nodes place their command and end
with it; COND signals one of its two ranges of successors by its word, HOST puts its record and signal out, and REARM resets its range. -/
def NodesRunByTheirKind : Prop :=
  (∀ (s : State) (n : Nat) (b : BoundNode), s.fe.bound[n]? = some b → b.kind = 1 → preempting s b = false → b.fault = 0 →
    (b.phase = 0 → b.cmds = [] → b.guard = none → exec (.bindNode n) s = .next (setBound s n { b with phase := 2 })) ∧
    (∀ x, b.phase = 0 → b.cmds = [] → b.guard = some x → exec (.bindNode n) s = .next (issueGuard s n b x 0 1)) ∧
    (∀ x, b.phase = 1 → b.cmds = [] → b.guard = some x → exec (.bindNode n) s =
      .next (if b.verdict = 1 then issueGuard s n b x 1 3 else setBound s n { b with phase := 2 })) ∧
    (∀ t c, b.phase = 2 → b.tmpls[b.sent]? = some t → streamRoom s b.tile t = true → feCmd s b b.tile t = c →
      exec (.bindNode n) s = .next (streamAccept
        (withCmd s n { b with sent := b.sent + 1, sinkCmd := if b.sent = b.sink then c.id else b.sinkCmd } c) c)) ∧
    (∀ x, b.phase = 2 → b.cmds = [] → b.tmpls[b.sent]? = none → b.guard = some x →
      exec (.bindNode n) s = .next (issueGuard s n b x 2 3)) ∧
    (b.phase = 2 → b.cmds = [] → b.tmpls[b.sent]? = none → b.guard = none →
      exec (.bindNode n) s = .next (if b.sunk then endBound s n b else s)) ∧
    (b.phase = 3 → b.cmds = [] → exec (.bindNode n) s = .next (endBound s n b))) ∧
  (∀ (s : State) (n : Nat) (b : BoundNode), s.fe.bound[n]? = some b → b.kind = 1 → preempting s b = false → b.fault ≠ 0 → b.cmds = [] →
    exec (.bindNode n) s = .next (endBound s n b)) ∧
  (∀ (s : State) (n : Nat) (b : BoundNode), s.fe.bound[n]? = some b →
    (b.kind = 2 → (b.phase = 0 → exec (.copyNode n) s = .next (placeMove s n b)) ∧
      (b.phase ≠ 0 → exec (.copyNode n) s = .next (if b.cmds = [] then endBound s n b else s))) ∧
    (b.kind = 3 → (b.phase = 0 → exec (.gatherNode n) s = .next (placeMove s n b)) ∧
      (b.phase ≠ 0 → exec (.gatherNode n) s = .next (if b.cmds = [] then endBound s n b else s)))) ∧
  (∀ (s : State) (n : Nat) (b : BoundNode), n < s.fe.bound.length →
    (b.kind = 2 → copyRoom s b.die = true → (dieOf (placeMove s n b) b.die).copyq = (dieOf s b.die).copyq ++ [feCmd s b 0xFF (b.tmpls.headD 0)]) ∧
    (b.kind = 3 → gatherRoom s b.die = true →
      (dieOf (placeMove s n b) b.die).gatherq = (dieOf s b.die).gatherq ++ [feCmd s b 0xFF (b.tmpls.headD 0)])) ∧
  (∀ (s s1 : State) (n i v : Nat) (g : Graph), takeFeNode s n 4 = some (s1, g, i) → feNat s1 g.ctxn (nodeWord s g i 3) 8 = .ok v →
    exec (.cond n) s = .next (
      if ccHolds (Sys2Proof.Machine.ccOf (bitsN (nodeWord s g i 2) 1 0)) (BitVec.ofNat 64 v) (BitVec.ofNat 64 (nodeWord s g i 4)) then
        signalSome (putNstate s1 g i 3) g.gid i 0 (bitsN (nodeWord s g i 1) 47 32)
      else signalSome (putNstate s1 g i 3) g.gid i (bitsN (nodeWord s g i 1) 47 32) (nsucc s g i))) ∧
  (∀ (s s1 : State) (n i : Nat) (g : Graph) (record : List Byte), takeFeNode s n 5 = some (s1, g, i) →
    ((List.range 8).flatMap fun w => leBytes 8 (nodeWord s g i (8 + w))) = record →
      (bitN (nodeWord s g i 2) 12 = false → exec (.host n) s = .next (nodeDone (hostSignal s1 g i) g.gid i)) ∧
      (bitN (nodeWord s g i 2) 12 = true → ringOwned s (bitsN (nodeWord s g i 2) 11 0) g.ctxn = true →
        exec (.host n) s = .next (nodeDone (hostSignal (ringPut s1 (bitsN (nodeWord s g i 2) 11 0) record) g i) g.gid i))) ∧
  (∀ (s s1 s2 s3 : State) (n i : Nat) (g : Graph), takeFeNode s n 6 = some (s1, g, i) →
    (rearmRange s g i).foldl (fun s m => resetNode s g m) s1 = s2 →
      ((rearmRange s g i).filter fun m => bitsN (nodeWord s2 g m 0) 55 44 == 0).foldl (fun s m => makeReady s g m) s2 = s3 →
        exec (.rearm n) s = .next (signalSome (resetNode
          (graphPut s3 g.gid g.gaddr 47 32 (bitsN (headNow s3 g 0) 47 32 + 1) 0) g i) g.gid i 0 (nsucc s g i)))

/-- R358, R359, R433: a graph with no job, no bound node and no ready node left completes: it leaves its queue, its packet answers or its
completion word is written (CWVAL, or for a FAULTED one bit 63 with the fault's code and node), and a graph that still has work is left
alone. The launches that GNXTs of a FAULTED graph's jobs have recorded are discarded. -/
def GraphsCompleteWhenQuiet : Prop :=
  (∀ (s : State) (n : Nat) (g : Graph), s.fe.graphs[n]? = some g → graphQuiet s g.gid = false → exec (.graphComplete n) s = .next s) ∧
  (∀ (s : State) (n : Nat) (g : Graph) (p : PktNode), s.fe.graphs[n]? = some g → graphQuiet s g.gid = true → g.pkt = some p →
    exec (.graphComplete n) s = .next (afterGraph (completion (dropGraph s g) p (if g.faulted then 12 else 0) g.fcode) g 0)) ∧
  (∀ (s s1 s2 : State) (n : Nat) (g g1 : Graph), s.fe.graphs[n]? = some g → graphQuiet s g.gid = true → g.pkt = none →
    (if g.faulted then s else graphPut s g.gid g.gaddr 63 62 0 0) = s1 → graphOf s1 g.gid = some g1 → headWord g 4 ≠ 0 →
      frontWrite s1 g.ctxn (headWord g 4) (leBytes 8
        (if g1.faulted then 2 ^ 63 + g1.fcode.toNat * 2 ^ 16 + g1.fnode else bitsN (headWord g 5) 62 0)) g.know = .ok s2 →
        graphOf s2 g.gid = some g1 →
          exec (.graphComplete n) s = .next (afterGraph (dropGraph s2 g1) g1 (headWord g 6))) ∧
  (∀ (s : State) (g : Graph), (∀ x ∈ (dropGraph s g).fe.graphs, x.gid ≠ g.gid) ∧
    (∀ x ∈ s.fe.graphs, x.gid ≠ g.gid → x ∈ (dropGraph s g).fe.graphs)) ∧
  (∀ (s : State) (g : Graph) (p : PendLaunch), p ∈ (dropNexts s g).fe.pending ↔
    p ∈ s.fe.pending ∧ ¬ (g.faulted = true ∧ p.from_ = some g.gid))

/-- R32, R34, R372 to R374: a selection pass first advances a pre-emption; it then binds at most one node, the head of the first queue of
the highest level that has a ready queue, taken in order from after the queue served last; a head whose units are not free starts a
pre-emption and holds its unit kind back. A LIVE node still unstarted 40 microseconds after it became ready is counted once and reported.
That the 40 microseconds run from READY and that the report comes once are the model's readings (assumption 104). -/
def SelectionAndDeadlinesAct : Prop :=
  (∀ s : State, exec .selectionPass s = .next (passLevels (noteEff (preemptStep s))).st) ∧
  (∀ (s : State) (lvl key : Nat) (q : Qcb) (rest : List (Nat × Qcb)) (r : NodeRef) (g : Graph) (units : List Nat), lvl < 128 →
    (∀ m, lvl < m → m < 128 → levelQueues s m = []) → levelQueues s lvl = (key, q) :: rest → q.ready.head? = some r →
      graphOf s r.gid = some g → fitUnits s g r (nodeKind s g r.node) = some units →
        (passLevels s).bound = true ∧
        (passLevels s).st = bindNode (selected s key lvl r) g r (nodeKind s g r.node) lvl units) ∧
  (∀ (lvl : Nat) (p : Pass) (key : Nat) (q : Qcb) (r : NodeRef) (g : Graph), q.ready.head? = some r → graphOf p.st r.gid = some g →
    (p.bound = true → passQueue lvl p (key, q) = p) ∧
    (p.blocked.contains (nodeKind p.st g r.node) = true → passQueue lvl p (key, q) = p) ∧
    (p.bound = false → p.blocked.contains (nodeKind p.st g r.node) = false → fitUnits p.st g r (nodeKind p.st g r.node) = none →
      (passQueue lvl p (key, q)).st = startPreempt p.st g r key (nodeKind p.st g r.node) ∧
      (passQueue lvl p (key, q)).blocked = nodeKind p.st g r.node :: p.blocked ∧ (passQueue lvl p (key, q)).bound = false)) ∧
  (∀ (s : State) (lvl key : Nat) (q : Qcb), (key, q) ∈ levelQueues s lvl → mget? s.fe.queues key = some q) ∧
  (∀ (s : State) (key lvl : Nat) (r : NodeRef) (q : Qcb), mget? s.fe.queues key = some q → graphOf s r.gid = none →
    ∃ q', mget? (selected s key lvl r).fe.queues key = some q' ∧ q'.ready = q.ready.filter (fun x => !sameNode x r) ∧
      q'.sels = q.sels + 1 ∧ q'.since = s.fab ∧ q'.eff = q.base ∧ mget (selected s key lvl r).fe.rr lvl 0 = key + 1) ∧
  (∀ (s : State) (q : Qcb), effOf s q ≤ ceilOf q.cls ∧ (q.base ≤ ceilOf q.cls → q.base ≤ effOf s q) ∧
    (q.since = s.fab → q.base ≤ ceilOf q.cls → effOf s q = q.base)) ∧
  (∀ (s : State) (n : Nat) (r : NodeRef) (g : Graph), (liveWaiting s)[n]? = some r → r.since + 88000 ≤ s.fab →
    s.fe.liveMissed.any (sameNode r) = false → graphOf s r.gid = some g →
      ∃ t o, exec (.liveStartDeadline n) s = .next t ∧ t.fe.offers = s.fe.offers ++ [o] ∧ o.ctxn = g.ctxn ∧ o.code = causeByte .kilnTimeout ∧
        o.stage = nodeStage s g r.node ∧ t.fe.liveMissed = s.fe.liveMissed ++ [r] ∧ t.mem = s.mem)

end Sys2Proof.Claims

/-- R25, R34, R355, R357, R358, R361, R363, R365, R366, R367, R372, R433: A bound job starts once, with its streams at their sections, and
completes when its streams have ended with nothing outstanding. A signal lowers each successor's count and makes it READY at 0. BIND, COPY
and GATHER nodes step, COND, HOST and REARM act on their successors, a quiet graph completes with its completion word and is dropped, a
selection pass runs, and a LIVE node late by 40 microseconds is reported once. That the 40 microseconds run from when the node became READY
and that the report comes once are the model's readings (log entry 104). -/
def Obligations.JobsNodesAndGraphsRunAndComplete : Prop :=
  JobsStartAndComplete ∧ SignalsCountDownToReady ∧ NodesRunByTheirKind ∧ GraphsCompleteWhenQuiet ∧ SelectionAndDeadlinesAct

namespace Sys2Proof.Claims

/-- R35: the watchdog reports a running stream with no command outstanding that has not issued for its interval, once; it changes nothing
else of the stream. -/
def WatchdogReportsOnce : Prop :=
  ∀ (s : State) (t : Nat) (sk : Strm), (strmAt s t sk).running = true → (strmAt s t sk).halted = false →
    (strmAt s t sk).watchdogPosted = false → (strmAt s t sk).wait ≠ .response → (strmAt s t sk).cmds = [] → (jobOf s t).isSome = true →
      (strmAt s t sk).lastIssue + watchdogInterval s (ctxnOf s t) ≤ s.fab → acceptStalled s t sk = false →
        ∃ x o, exec (.watchdog t sk) s = .next x ∧ x.fe.offers = s.fe.offers ++ [o] ∧ o.code = causeByte .watchdog ∧ o.tile = t ∧ o.strm = sk ∧
          strmAt x t sk = { strmAt s t sk with watchdogPosted := true } ∧ x.mem = s.mem ∧ exec (.watchdog t sk) x = .next x

/-- R36, R189, R388, R389: the first record offered by a unit for a valid context with room is written and the queue's producer index rises; one
that needs a response stays on record; a full queue blocks until its consumer index is read again. -/
def EventRecordsEnterTheirQueue : Prop :=
  (∀ (s : State) (n : Nat) (o : Offer), s.fe.offers[n]? = some o → offeredBefore (s.fe.offers.take n) o = false →
    bitN (ctxWord s o.ctxn 0).toNat 31 = true →
      (eqRoom s o.ctxn = true →
        exec (.eventRecordWrite n) s = .next (acceptRecord { s with fe := { s.fe with offers := ldrop s.fe.offers n } } o)) ∧
      (eqRoom s o.ctxn = false → s.fe.blockedEq.contains o.ctxn = false →
        exec (.eventRecordWrite n) s = .next { s with fe := { s.fe with blockedEq := s.fe.blockedEq ++ [o.ctxn] } })) ∧
  (∀ (s : State) (o : Offer), (mget (acceptRecord s o).fe.ctxs o.ctxn {}).eqPidx = (mget s.fe.ctxs o.ctxn {}).eqPidx + 1) ∧
  (∀ (s : State) (c : Nat), s.fe.blockedEq.contains c = true →
    ∃ t, exec (.eventQueueReread c) s = .next t ∧ (mget t.fe.ctxs c {}).eqCi = BitVec.ofNat 32 (readNat s (ctxWord s c 8).toNat 4) ∧
      c ∉ t.fe.blockedEq ∧ t.mem = s.mem)

/-- R380, R390: RESUME of a delivered trap lets its stream go on at the recorded offset; RESUME and TERMINATE of a fault that no longer waits
change nothing; TERMINATE ends what waits. -/
def ResponsesResumeOrTerminate : Prop :=
  (∀ (s : State) (fn fid : Nat), waitFor? s fn fid = none → exec (.resume fn fid) s = .next s ∧ exec (.terminate fn fid) s = .next s) ∧
  (∀ (s : State) (fn fid job t : Nat) (sk : Strm) (w : WaitRec), waitFor? s fn fid = some w → w.waiter = .trap job t sk →
    (tileOf s t).job = some job → (strmAt s t sk).wait = .response →
      ∃ x, exec (.resume fn fid) s = .next x ∧ (strmAt x t sk).wait = .none ∧ (strmAt x t sk).pc = w.resume ∧
        (strmAt x t sk).regs = (strmAt s t sk).regs ∧ x.mem = s.mem ∧ x.fe.waits = s.fe.waits.erase w) ∧
  (∀ (s : State) (fn fid : Nat) (w : WaitRec), waitFor? s fn fid = some w →
    exec (.terminate fn fid) s = .next (terminateUnit (dropWait s w) w)) ∧
  (∀ (s : State) (fn fid t n : Nat) (w : WaitRec), waitFor? s fn fid = some w → w.waiter = .slot t n →
    ∃ x, exec (.resume fn fid) s = .next x ∧ slotAt x t n = { slotAt s t n with halt := none } ∧ x.mem = s.mem) ∧
  (∀ (s : State) (fn fid d e : Nat) (w : WaitRec) (r : CopyRun), waitFor? s fn fid = some w → w.waiter = .copy d e →
    engOf s d e = some r → ∃ x, exec (.resume fn fid) s = .next x ∧ engOf x d e = some { r with halt := none, before := s.mem }) ∧
  (∀ (s : State) (fn fid t n : Nat) (w : WaitRec) (a : ActiveCmd), waitFor? s fn fid = some w → w.waiter = .slot t n →
    (slotAt s t n).active = some a → exec (.terminate fn fid) s = .next (failActive (dropWait s w) t n a w.code (actProg a)))

end Sys2Proof.Claims

/-- R35, R36, R189, R380, R388, R389, R390: A stalled stream is reported once and keeps its state. The first record offered by a unit is
written where its queue has room, and blocks the queue where it has none. RESUME lets a trapped stream go on at its recorded offset,
TERMINATE ends what waits, and a response to nothing changes nothing. -/
def Obligations.EventsAndResponsesReachTheirQueue : Prop :=
  WatchdogReportsOnce ∧ EventRecordsEnterTheirQueue ∧ ResponsesResumeOrTerminate

/-! The host, memory from outside, reset and boot (R406 to R422). -/

namespace Sys2Proof.Claims

/-- R347, R388, R408, R410: CTXREQ adopts a descriptor whose fields are good and otherwise sets its error bit; INVREQ removes what it names once no access that
used it is still to be performed, and waits until then, while which no other request is taken (assumption 123); CHMAP maps a
block to a channel number; a pause of the queue table takes effect at once. -/
def HostTablesFollowTheirRequests : Prop :=
  (∀ (s : State) (fn : Nat) (c : BitVec 12), hostOpen s = true → foreignCtx s fn c = false →
    (descOk (wordsOf 21 (readAt s (s.pkg.ctxbase.toNat + 256 * c.toNat) 168)) = true →
      exec (.ctxreq fn c) s = .next (adoptCtx (setFn s fn { fnRegs s fn with ctxreqCtxn := c, ctxreqErr := false }) c.toNat
        (wordsOf 21 (readAt s (s.pkg.ctxbase.toNat + 256 * c.toNat) 168)))) ∧
    (descOk (wordsOf 21 (readAt s (s.pkg.ctxbase.toNat + 256 * c.toNat) 168)) = false →
      ∃ t, exec (.ctxreq fn c) s = .next t ∧ (fnRegs t fn).ctxreqErr = true ∧ t.fe = s.fe ∧ t.mem = s.mem)) ∧
  (∀ (s : State) (fn : Nat) (c : BitVec 12) (kd : BitVec 3) (x : TlbiKind), hostOpen s = true → invKind kd = some x →
    ((fnRegs s fn).invreqWait = none → foreignCtx s fn c = false →
      (tlbiPending s c.toNat x (fnRegs s fn).invaddr = false →
        ∃ t, exec (.invreq fn c kd) s = .next t ∧ t.mem = s.mem ∧ (fnRegs t fn).invreqWait = none ∧
          ∀ e, e ∈ t.tlb ↔ e ∈ s.tlb ∧ tlbiRemoves c.toNat x (fnRegs s fn).invaddr e = false) ∧
      (tlbiPending s c.toNat x (fnRegs s fn).invaddr = true →
        ∃ t, exec (.invreq fn c kd) s = .next t ∧ t.mem = s.mem ∧ t.tlb = s.tlb ∧
          fnRegs t fn = { fnRegs s fn with invreqCtxn := c, invreqKind := kd, invreqErr := false, invreqWait := some (fnRegs s fn).invaddr })) ∧
    (∀ a, (fnRegs s fn).invreqWait = some a → (fnRegs s fn).invreqCtxn = c → (fnRegs s fn).invreqKind = kd →
      tlbiPending s c.toNat x a = false →
        ∃ t, exec (.invreq fn c kd) s = .next t ∧ t.mem = s.mem ∧ (fnRegs t fn).invreqWait = none ∧
          ∀ e, e ∈ t.tlb ↔ e ∈ s.tlb ∧ tlbiRemoves c.toNat x a e = false) ∧
    (∀ a, (fnRegs s fn).invreqWait = some a → foreignCtx s fn c = false → (fnRegs s fn).invreqCtxn ≠ c ∨ (fnRegs s fn).invreqKind ≠ kd →
      exec (.invreq fn c kd) s = .next s)) ∧
  (∀ (s : State) (v : Word), hostOpen s = true → v.getLsbD 31 = true →
    ∃ t, exec (.chmap 0 v) s = .next t ∧ (chanOf t (256 * wf64 v 16 12 + wf64 v 24 17)).mapped = true ∧
      (chanOf t (256 * wf64 v 16 12 + wf64 v 24 17)).chid = wf64 v 11 0 ∧ t.mem = s.mem) ∧
  (∀ (s : State) (fn : Nat) (v : Word), hostOpen s = true → fn ≠ 0 → exec (.chmap fn v) s = .next (fnErr s fn)) ∧
  (∀ s : State, hostOpen s = true →
    (s.pkg.pause = true → ∃ t, exec (.qtctlPause 0 true) s = .next t ∧ t.pkg.pauseDone = true ∧ t.mem = s.mem) ∧
    (∃ t, exec (.qtctlPause 0 false) s = .next t ∧ t.pkg.pause = false ∧ t.pkg.pauseDone = false ∧ t.mem = s.mem))

/-- R410 to R413: a doorbell whose index word is good moves the producer index and nothing else, a bad one is counted and moves nothing; a
completion-return doorbell and the periodic check reconcile the channel: the host's index is adopted where it lies between HCI and CPIDX,
and otherwise the channel pauses, counts a MISMATCH and reports it. -/
def DoorbellsMoveTheirIndices : Prop :=
  (∀ (s : State) (ch : Nat) (w : Word), hostOpen s = true → (chanOf s ch).mapped = true →
    (readIndex (chanOf s ch).chid w.toNat = none →
      exec (.notify ch w) s = .next (countBad s ch) ∧ exec (.cret ch w) s = .next (countBad s ch) ∧
      (chanOf (countBad s ch) ch).pidx = (chanOf s ch).pidx) ∧
    (∀ i, readIndex (chanOf s ch).chid w.toNat = some i →
      exec (.cret ch w) s = .next (reconcile s ch) ∧
      ((i - (chanOf s ch).pidx).toNat < 2 ^ 31 → (i - (chanOf s ch).dci).toNat ≤ 2 ^ (chanOf s ch).rlog2.toNat →
        exec (.notify ch w) s = .next (setChan s ch { chanOf s ch with pidx := i })) ∧
      (2 ^ 31 ≤ (i - (chanOf s ch).pidx).toNat ∨ 2 ^ (chanOf s ch).rlog2.toNat < (i - (chanOf s ch).dci).toNat →
        exec (.notify ch w) s = .next (countBad s ch)))) ∧
  (∀ (s : State) (ch : Nat), (chanOf s ch).paused = false →
    (1024 ≤ (chanOf s ch).sinceRecon → exec (.reconcile ch) s =
      .next (reconcile (setChan s ch { chanOf s ch with sinceRecon := (chanOf s ch).sinceRecon - 1024 }) ch)) ∧
    (∀ f, (chanOf s ch).sinceRecon < 1024 → (chanOf s ch).blockedAt = some f → f + 220000 ≤ s.fab →
      exec (.reconcile ch) s = .next (reconcile s ch))) ∧
  (∀ (s : State) (ch a : Nat), channelSound (chanOf s ch) = true → readNat s (chanOf s ch).hciaddr.toNat 8 = a →
    (∀ i, readIndex (chanOf s ch).chid a = some i → indexInside (chanOf s ch) i = true →
      reconcile s ch = flushChan (setChan s ch { chanOf s ch with hci := i, blockedAt := none }) ch) ∧
    (readIndex (chanOf s ch).chid a = none ∨ (∃ i, readIndex (chanOf s ch).chid a = some i ∧ indexInside (chanOf s ch) i = false) →
      ∃ o, (reconcile s ch).fe.offers = s.fe.offers ++ [o] ∧ o.code = causeByte .channel ∧ o.ctxn = (chanOf s ch).ectxn.toNat ∧
        (chanOf (reconcile s ch) ch).paused = true ∧ (chanOf (reconcile s ch) ch).hci = (chanOf s ch).hci ∧
        (chanOf (reconcile s ch) ch).mismatch =
          (if (chanOf s ch).mismatch = BitVec.allOnes 16 then (chanOf s ch).mismatch else (chanOf s ch).mismatch + 1)))

/-- R390, R408 to R411, R416, R420: a write of a channel's register block changes that block alone, its two index words act as their doorbells, and a
foreign ECTXN sets ERR alone; FRESP, CTXREQ and INVREQ with GO act as their requests, and without GO they set their fields; the counters of
a die take the value written; a package register of another function than 0 sets that function's error bit only. R420: before the host's
registers are open a write reaches the recovery window alone, as the PF, and one of RCMD gives its command. -/
def RegisterWritesStayInTheirBlock : Prop :=
  (∀ (s : State) (fn off n : Nat) (v : Word), hostOpen s = true → off % 8 = 0 → 0x8000 ≤ off → off < 0x10000 →
    256 * fn + (off - 0x8000) / 128 = n →
      ((off - 0x8000) % 128 = 48 → exec (.registerWrite fn off v) s = exec (.notify n v) s) ∧
      ((off - 0x8000) % 128 = 56 → exec (.registerWrite fn off v) s = exec (.cret n v) s) ∧
      ((off - 0x8000) % 128 = 8 → foreignCtx s fn (BitVec.ofNat 12 (wf64 v 43 32)) = true →
        exec (.registerWrite fn off v) s = .next (fnErr s fn)) ∧
      ((off - 0x8000) % 128 ≠ 48 → (off - 0x8000) % 128 ≠ 56 →
        (off - 0x8000) % 128 = 8 → foreignCtx s fn (BitVec.ofNat 12 (wf64 v 43 32)) = false →
          ∃ t, exec (.registerWrite fn off v) s = .next t ∧ t.mem = s.mem ∧ t.tiles = s.tiles ∧ t.pkg = s.pkg ∧
            (chanOf t n).pasid = BitVec.ofNat 20 (wf64 v 63 44) ∧ (chanOf t n).ectxn = BitVec.ofNat 12 (wf64 v 43 32) ∧
            ∀ m, m ≠ n → chanOf t m = chanOf s m) ∧
      ((off - 0x8000) % 128 ≠ 48 → (off - 0x8000) % 128 ≠ 56 → (off - 0x8000) % 128 ≠ 8 →
        ∃ t, exec (.registerWrite fn off v) s = .next t ∧ t.mem = s.mem ∧ t.tiles = s.tiles ∧ t.pkg = s.pkg ∧
          ((off - 0x8000) % 128 = 0 → (chanOf s n).en = false → (chanOf t n).rbase = v) ∧
          ((off - 0x8000) % 128 = 16 → (chanOf s n).en = false → (chanOf t n).cbase = v) ∧
          ∀ m, m ≠ n → chanOf t m = chanOf s m)) ∧
  (∀ (s : State) (fn : Nat) (v : Word), hostOpen s = true →
    (wf64 v 33 32 = 1 → exec (.registerWrite fn 0x8 v) s = exec (.resume fn (wf64 v 31 0)) s) ∧
    (wf64 v 33 32 = 2 → exec (.registerWrite fn 0x8 v) s = exec (.terminate fn (wf64 v 31 0)) s) ∧
    (wf64 v 33 32 = 0 ∨ wf64 v 33 32 = 3 → exec (.registerWrite fn 0x8 v) s = .next s) ∧
    (v.getLsbD 31 = true → exec (.registerWrite fn 0x10 v) s = exec (.ctxreq fn (BitVec.ofNat 12 (wf64 v 11 0))) s) ∧
    (v.getLsbD 31 = true → exec (.registerWrite fn 0x18 v) s =
      exec (.invreq fn (BitVec.ofNat 12 (wf64 v 11 0)) (BitVec.ofNat 3 (wf64 v 14 12))) s) ∧
    (v.getLsbD 31 = false → foreignCtx s fn (BitVec.ofNat 12 (wf64 v 11 0)) = false →
      (∃ t, exec (.registerWrite fn 0x10 v) s = .next t ∧
        fnRegs t fn = { fnRegs s fn with ctxreqCtxn := BitVec.ofNat 12 (wf64 v 11 0), ctxreqErr := v.getLsbD 30 }) ∧
      ((fnRegs s fn).invreqWait = none → ∃ t, exec (.registerWrite fn 0x18 v) s = .next t ∧
        fnRegs t fn = { fnRegs s fn with invreqCtxn := BitVec.ofNat 12 (wf64 v 11 0), invreqKind := BitVec.ofNat 3 (wf64 v 14 12),
                                         invreqErr := v.getLsbD 30 }) ∧
      ((fnRegs s fn).invreqWait ≠ none → exec (.registerWrite fn 0x18 v) s = .next s)) ∧
    (∃ t, exec (.registerWrite fn 0x20 v) s = .next t ∧ fnRegs t fn = { fnRegs s fn with invaddr := v })) ∧
  (∀ (s : State) (fn off : Nat) (v : Word), hostOpen s = true → off % 8 = 0 → 0x10000 ≤ off → fn ≠ 0 →
    exec (.registerWrite fn off v) s = .next (fnErr s fn)) ∧
  (∀ (s : State) (v : Word), hostOpen s = true →
    exec (.registerWrite 0 0x10018 v) s = exec (.qtctlPause 0 (v.getLsbD 0)) s ∧
    exec (.registerWrite 0 0x10028 v) s = exec (.chmap 0 v) s ∧
    exec (.registerWrite 0 0x10038 v) s = exec (.clkreq 0 (BitVec.ofNat 12 (wf64 v 11 0))) s ∧
    (localOk v.toNat = true → exec (.registerWrite 0 0x10000 v) s = .next { s with pkg := { s.pkg with ctxbase := v } }) ∧
    ∀ d, d < 4 → ∃ t u, exec (.registerWrite 0 (0x10048 + 8 * d) v) s = .next t ∧ (dieOf t d).cecnt = v ∧ (dieOf t d).uecnt = (dieOf s d).uecnt ∧
      exec (.registerWrite 0 (0x10068 + 8 * d) v) s = .next u ∧ (dieOf u d).uecnt = v ∧ (dieOf u d).cecnt = (dieOf s d).cecnt) ∧
  (∀ (s : State) (v : Word), hostOpen s = false →
    (wf64 v 3 0 = 1 → exec (.registerWrite 0 0x20008 v) s = exec (.append (BitVec.ofNat 16 (wf64 v 31 16))) s) ∧
    (wf64 v 3 0 = 2 → exec (.registerWrite 0 0x20008 v) s = exec .commit s) ∧
    (wf64 v 3 0 = 3 → exec (.registerWrite 0 0x20008 v) s = exec .abort s) ∧
    (∀ fn off, fn ≠ 0 → exec (.registerWrite fn off v) s = .next s) ∧
    (∀ off, off ≠ 0x20008 → (off < 0x30000 ∨ 0x40000 ≤ off) → exec (.registerWrite 0 off v) s = .next s))

/-- R416: a request to another package that gets no response ends as poison does: the slot, the copy engine, the gather engine or the cask
unit that made it halts with POISON at the element and waits for a response. That a timeout without a named request loses a line is the
model's reading (assumption 144). -/
def UnansweredRequestsEndAsPoison : Prop :=
  ∀ (s : State) (n a : Nat),
    (∀ t k x, (remoteRequests s)[n]? = some (.slot t k, a) → (slotAt s t k).active = some x →
      exec (.remoteTimeout n) s = .next (slotStop s t k x (.fault .poison 0 a 0))) ∧
    (∀ d e r, (remoteRequests s)[n]? = some (.copy d e, a) → engOf s d e = some r →
      exec (.remoteTimeout n) s = .next (copyStop s d e r { cause := .poison, addr := a })) ∧
    (∀ d e g j, (remoteRequests s)[n]? = some (.gather d e j, a) → gatherOf s d e = some g →
      exec (.remoteTimeout n) s = .next (gatherHalt s d e (dropRow g j) .poison 0 a)) ∧
    (∀ k, (remoteRequests s)[n]? = some (.pip k, a) → exec (.remoteTimeout n) s = .next (pipTimeout s k)) ∧
    ((remoteRequests s)[n]? = none → ∃ (t : State) (f l : Nat), exec (.remoteTimeout n) s = .next t ∧
      t.pkg = { s.pkg with linkLost := some (f, l) } ∧ f = s.fab ∧ 2 ^ 49 ≤ l ∧ l < 2 ^ 49 + 2 ^ 48 ∧ t.mem = s.mem ∧ t.tiles = s.tiles) ∧
    (∀ cl c rest, (remoteRequests s)[n]? = some (.cask cl, a) → (clusterOf s cl).cask = c :: rest →
      ∃ t, exec (.remoteTimeout n) s = .next t ∧ (clusterOf t cl).caskHalt = some { cause := .poison, addr := a, offered := true } ∧
        t.mem = s.mem)

end Sys2Proof.Claims

/-- R347, R388, R390, R408, R409, R410, R411, R412, R413, R416, R420: CTXREQ adopts a good descriptor or marks an error, INVREQ removes what
it names once the accesses that used it have been performed, CHMAP maps its block, the queue table pauses and goes on, doorbells move their
indices or are counted, and a register write stays in its block, or sets the error bit of a function that may not make it. A remote request
without an answer ends as poison does. Before the host's registers are open the recovery window alone is reached. The number of a channel
(log entry 111), which contexts are another function's (112), that a pause is done at once (114), that CTXREQ completes within its step and
that INVREQ takes no other request while one waits (123), and that a timeout without a named request loses a line that a unit then accesses
(144) are the model's readings or choices. -/
def Obligations.HostRequestsChangeTheirTables : Prop :=
  HostTablesFollowTheirRequests ∧ DoorbellsMoveTheirIndices ∧ RegisterWritesStayInTheirBlock ∧ UnansweredRequestsEndAsPoison

namespace Sys2Proof.Claims

/-- R409, R422: CLKREQ keeps a multiple of 100 from 1,100 to 3,300 and ignores another value; the switch follows the request unless the
power cap holds it lower; a cap step moves the clock by 100 down to 1,100. The floor of 1,100 MHz of a cap step is the model's choice
(assumption 115). -/
def TheCoreClockFollowsItsRequest : Prop :=
  (∀ (s : State) (m : BitVec 12), hostOpen s = true →
    (m.toNat % 100 = 0 → 1100 ≤ m.toNat → m.toNat ≤ 3300 → exec (.clkreq 0 m) s = .next { s with pkg := { s.pkg with clkreq := m } }) ∧
    (¬ (m.toNat % 100 = 0 ∧ 1100 ≤ m.toNat ∧ m.toNat ≤ 3300) → exec (.clkreq 0 m) s = .next s)) ∧
  (∀ s : State, s.pkg.capped = false → exec .clockSwitch s = .next { s with pkg := { s.pkg with clkcur := s.pkg.clkreq } }) ∧
  (∀ (s : State) (n : Nat), exec (.powerLimit n) s = .next { s with pkg := { s.pkg with limit := some n } }) ∧
  (∀ (s : State) (l : Nat), s.pkg.limit = some l → 1100 ≤ s.pkg.clkcur.toNat → s.pkg.clkcur.toNat ≤ s.pkg.clkreq.toNat →
    ∃ t, exec .clockCapStep s = .next t ∧ 1100 ≤ t.pkg.clkcur.toNat ∧ t.pkg.clkcur.toNat ≤ max s.pkg.clkreq.toNat 1100 ∧
      s.pkg.clkcur.toNat ≤ t.pkg.clkcur.toNat + 100 ∧ t.pkg.clkcur.toNat ≤ s.pkg.clkcur.toNat + 100 ∧ t.mem = s.mem ∧ t.tiles = s.tiles)

/-- R176, R407, R417: reads and writes of memory from outside act on its bytes once the module is ready; an access beyond HBM4 is to no
memory. That one beyond the BAR2 window does nothing is the model's choice (assumption 172). -/
def OutsideAccessesReachMemory : Prop :=
  (∀ (s : State) (fn off n : Nat) (bs : List Byte), s.boot.ready = true →
    (off + n ≤ Config.hbmBytes → exec (.incomingRead fn off n) s =
      .next { s with out := s.out ++ [.readData fn (readAt s off n) (spanPoisoned s off n)] }) ∧
    (Config.hbmBytes < off + n → exec (.incomingRead fn off n) s = .fault (.noSuchMemory off)) ∧
    (off + bs.length ≤ Config.hbmBytes → MemInv s → poisonIn s off bs.length = [] →
      ∃ t, exec (.incomingWrite fn off (.mem bs)) s = .next t ∧ readAt t off bs.length = bs ∧
        ∀ q, (q < off ∨ off + bs.length ≤ q) → memGet t.mem q = memGet s.mem q) ∧
    (off + n ≤ 2 ^ 32 → (fnRegs s fn).win.toNat + off + n ≤ Config.hbmBytes → spanPoisoned s ((fnRegs s fn).win.toNat + off) n = false →
      exec (.bar2Read fn off n) s = .next { s with out := s.out ++ [.readData fn (readAt s ((fnRegs s fn).win.toNat + off) n) false] }) ∧
    (off + bs.length ≤ 2 ^ 32 → (fnRegs s fn).win.toNat + off + bs.length ≤ Config.hbmBytes → MemInv s → poisonIn s ((fnRegs s fn).win.toNat + off) bs.length = [] →
      ∃ t, exec (.bar2Write fn off bs) s = .next t ∧ readAt t ((fnRegs s fn).win.toNat + off) bs.length = bs ∧
        ∀ q, (q < (fnRegs s fn).win.toNat + off ∨ (fnRegs s fn).win.toNat + off + bs.length ≤ q) → memGet t.mem q = memGet s.mem q) ∧
    (2 ^ 32 < off + n → exec (.bar2Read fn off n) s = .next s) ∧ (2 ^ 32 < off + bs.length → exec (.bar2Write fn off bs) s = .next s)) ∧
  (∀ (s : State) (fn off n : Nat), s.boot.ready = true → off + n ≤ 2 ^ 32 → (fnRegs s fn).win.toNat + off + n ≤ Config.hbmBytes →
    ∃ t, exec (.bar2Read fn off n) s = .next t ∧ t.out = s.out ++ [.readData fn (readAt s ((fnRegs s fn).win.toNat + off) n)
      (spanPoisoned s ((fnRegs s fn).win.toNat + off) n)] ∧ t.mem = s.mem ∧ t.poison = s.poison) ∧
  (∀ (s : State) (src tile port ctxn : Nat) (w : Option Line), s.boot.ready = true →
    ∃ t m, exec (.incomingWrite src tile (.pip port ctxn w)) s = .next t ∧ t.mesh = s.mesh ++ [m] ∧ m.remote = true ∧ m.dstTile = tile ∧
      m.dstPort = port ∧ m.pip.ctxn = ctxn ∧ m.pip.payload = w ∧ t.mem = s.mem) ∧
  (∀ (s : State) (src off : Nat) (v u : BitVec 32) (rm : BitVec 3), s.boot.ready = true → MemInv s → off + 4 ≤ Config.hbmBytes → off % 4 = 0 →
    (spanPoisoned s (lineOf off * 64) 64 = false →
      ∃ t, exec (.incomingWrite src off (.reduce false v rm u)) s = .next t ∧
        readNat t off 4 = (toFloat fp32 true rm.toNat u.toNat (vadd (fdecode fp32 (readNat s off 4)) (fdecode fp32 v.toNat))).1 % 2 ^ 32 ∧
        ∀ q, (q < off ∨ off + 4 ≤ q) → memGet t.mem q = memGet s.mem q) ∧
    (spanPoisoned s (lineOf off * 64) 64 = true →
      ∃ t, exec (.incomingWrite src off (.reduce false v rm u)) s = .next t ∧ t.mem = s.mem))

/-- R170, R172, R173, R176: an atomic of either width from another package, on a line that is not poisoned, replaces its word with the new
value of R170, where that gives one, leaves every other byte, and sends the word that it found. On a poisoned line it changes nothing and
its answer says so, and beyond HBM there is no memory for it. -/
def IncomingAtomicsReplaceTheirWord : Prop :=
  ∀ (s : State) (src off : Nat) (op : AtomicOp) (wide : Bool) (v c : Word) (n : Nat), s.boot.ready = true → MemInv s →
    n = (if wide then 8 else 4) → off % n = 0 →
    (off + n ≤ Config.hbmBytes → spanPoisoned s (lineOf off * 64) 64 = false →
      ∃ t, exec (.incomingAtomic src off op wide v c) s = .next t ∧
        (∀ x, portNew (.atomic op (!wide) v c) (readNat s off n) = some x → readNat t off n = x % 2 ^ (8 * n)) ∧
        (portNew (.atomic op (!wide) v c) (readNat s off n) = none → t.mem = s.mem) ∧
        t.out = s.out ++ [.readData src (leBytes n (readNat s off n)) false] ∧
        ∀ q, (q < off ∨ off + n ≤ q) → memGet t.mem q = memGet s.mem q) ∧
    (off + n ≤ Config.hbmBytes → spanPoisoned s (lineOf off * 64) 64 = true →
      exec (.incomingAtomic src off op wide v c) s = .next { s with out := s.out ++ [.readData src (List.replicate n 0) true] }) ∧
    (Config.hbmBytes < off + n → exec (.incomingAtomic src off op wide v c) s = .fault (.noSuchMemory off))

end Sys2Proof.Claims

/-- R170, R173, R176, R216, R407, R409, R416, R417, R422: CLKREQ keeps a multiple of 100 between 1,100 and 3,300 and ignores another, the
switch follows it, and a cap step moves it by at most 100. Reads, writes, atomics and reductions from outside act on the bytes that they
name and no other once the module is ready, an atomic of each kind and width with its new value, and a pip from outside joins the mesh. An
atomic on a poisoned line changes nothing and its answer says so. An access beyond HBM faults, which is the model's reading (log entry 125),
and that one beyond the BAR2 window does nothing its choice (log entry 172), as is the floor of 1,100 MHz of a cap step (log entry 115). -/
def Obligations.ClocksAndOutsideAccessesAct : Prop :=
  TheCoreClockFollowsItsRequest ∧ OutsideAccessesReachMemory ∧ IncomingAtomicsReplaceTheirWord

namespace Sys2Proof.Claims

/-- R408, R418, R422: MODULE_RESET clears every unit, every queue and register of them and memory to their reset contents, keeps the firmware
slots, and ends ready from the first slot whose image is valid, A before B, or in recovery with its reason. PKGID is 0, which is the model's
choice of the straps (assumption 3). -/
def ModuleResetClearsTheMachine : Prop :=
  ∀ s : State, ∃ t, exec .moduleReset s = .next t ∧ t.mem = [] ∧ t.poison = [] ∧ t.wlog = [] ∧ t.rels = [] ∧
    (∀ n, tileOf t n = {} ∧ clusterOf t n = {} ∧ dieOf t n = {} ∧ entryAt t n = {}) ∧
    t.ports = [] ∧ t.watches = [] ∧ t.held = [] ∧ t.done = [] ∧ t.replies = [] ∧ t.mesh = [] ∧ t.images = [] ∧ t.tlb = [] ∧ t.walks = [] ∧
    t.fe = {} ∧ (∀ n, chanOf t n = {}) ∧ t.core = 0 ∧ t.fab = 0 ∧ t.fabRem = 0 ∧
    (∀ fn, fnRegs t fn = {}) ∧ t.pkg.pkgid = 0 ∧ t.pkg.clkreq = 3300 ∧ t.pkg.clkcur = 3300 ∧ t.pkg.ctxbase = 0 ∧ t.pkg.qtbase = 0 ∧
    t.pkg.rtbase = 0 ∧ t.pkg.pause = false ∧ t.pkg.pauseDone = false ∧ t.pkg.linkLost = none ∧
    t.boot.slotA = s.boot.slotA ∧ t.boot.slotB = s.boot.slotB ∧ t.boot.sealOk = s.boot.sealOk ∧ t.boot.staged = [] ∧ t.boot.mailbox = [] ∧
    t.boot.busy = false ∧ t.boot.measRom = Config.sha256 Config.romImage ∧
    t.boot.spdmVersion = false ∧ t.boot.spdmCaps = false ∧ t.boot.spdmAlgs = false ∧ (t.boot.ready = !t.boot.recovery) ∧
    (s.boot.sealOk = false → t.boot.recovery = true ∧ t.boot.reason = 2) ∧
    (s.boot.sealOk = true → imgValid s.boot.slotA s.boot.counter.toNat = true →
      t.boot.ready = true ∧ t.boot.bootB = false ∧ t.boot.afail = false ∧ t.boot.measFw = Config.sha256 s.boot.slotA ∧
      t.boot.counter.toNat = max s.boot.counter.toNat (imgSvn s.boot.slotA)) ∧
    (s.boot.sealOk = true → imgValid s.boot.slotA s.boot.counter.toNat = false → t.boot.afail = true ∧
      (imgValid s.boot.slotB s.boot.counter.toNat = true → t.boot.ready = true ∧ t.boot.bootB = true ∧
        t.boot.measFw = Config.sha256 s.boot.slotB ∧ t.boot.counter.toNat = max s.boot.counter.toNat (imgSvn s.boot.slotB)) ∧
      (imgValid s.boot.slotB s.boot.counter.toNat = false → t.boot.recovery = true ∧ t.boot.reason = 1))

/-- R419, R420: in recovery APPEND takes bytes of the mailbox to the staged image, ABORT drops it, and COMMIT of a good image makes it slot A and
resets; a failed COMMIT changes only its status. Outside recovery they do nothing, and while a command is at work they leave only their
status. -/
def RecoveryCommandsStageAnImage : Prop :=
  (∀ (s : State) (len : BitVec 16), s.boot.recovery = false →
    exec (.append len) s = .next s ∧ exec .commit s = .next s ∧ exec .abort s = .next s) ∧
  (∀ (s : State) (len : BitVec 16), s.boot.recovery = true → s.boot.busy = false →
    (s.boot.staged.length + len.toNat ≤ 256 + 32 * 2 ^ 20 →
      ∃ t, exec (.append len) s = .next t ∧ t.boot.cmdStatus = 0 ∧ t.mem = s.mem ∧
        t.boot.staged = s.boot.staged ++ (s.boot.mailbox ++ List.replicate (65536 - s.boot.mailbox.length) 0).take len.toNat) ∧
    (256 + 32 * 2 ^ 20 < s.boot.staged.length + len.toNat →
      exec (.append len) s = .next { s with boot := { s.boot with cmdStatus := 3 } })) ∧
  (∀ (s : State) (len : BitVec 16), s.boot.recovery = true → s.boot.busy = true →
    exec (.append len) s = .next { s with boot := { s.boot with cmdStatus := 4 } } ∧
    exec .commit s = .next { s with boot := { s.boot with cmdStatus := 4 } } ∧
    exec .abort s = .next { s with boot := { s.boot with cmdStatus := 4 } }) ∧
  (∀ s : State, s.boot.recovery = true → s.boot.busy = false →
    (∃ t, exec .abort s = .next t ∧ t.boot.staged = [] ∧ t.boot.cmdStatus = 0) ∧
    (commitStatus s.boot ≠ 0 → exec .commit s = .next { s with boot := { s.boot with cmdStatus := BitVec.ofNat 8 (commitStatus s.boot) } }) ∧
    (commitStatus s.boot = 0 → ∃ b : Boot, exec .commit s = .next (afterReset { s with boot := b }) ∧ b.slotA = s.boot.staged ∧ b.sealOk = true))

/-- R421: the attestation requests answer in order: GET_VERSION always, GET_CAPABILITIES after it, NEGOTIATE_ALGORITHMS after that with both
algorithms offered, and the rest once all three have been answered; another request gets the error answer. -/
def AttestationRequestsAnswerInOrder : Prop :=
  (∀ s : State, ∃ t, exec .getVersion s = .next t ∧ t.boot.spdmVersion = true ∧ t.boot.spdmCaps = false ∧ t.boot.spdmAlgs = false ∧
    t.out = s.out ++ [.spdm 0x04 [0x12]]) ∧
  (∀ s : State,
    (s.boot.spdmVersion = true → ∃ t, exec .getCapabilities s = .next t ∧ t.boot.spdmCaps = true ∧ t.out = s.out ++ [.spdm 0x61 [0x16]]) ∧
    (s.boot.spdmVersion = false → exec .getCapabilities s = .next (spdmOut s 0x7F [4])) ∧
    (s.boot.spdmCaps = true → ∃ t, exec (.negotiateAlgorithms true true) s = .next t ∧ t.boot.spdmAlgs = true ∧
      t.out = s.out ++ [.spdm 0x63 [1, 1]]) ∧
    (∀ e h, s.boot.spdmCaps = false ∨ e = false ∨ h = false →
      exec (.negotiateAlgorithms e h) s = .next (spdmOut s 0x7F [4]))) ∧
  (∀ s : State, spdmReady s = true →
    (∃ t p, exec .getDigests s = .next t ∧ t.out = s.out ++ [.spdm 0x01 p] ∧ t.mem = s.mem) ∧
    (∀ off len, exec (.getCertificate 0 off len) s = .next (spdmOut s 0x02 ((Config.certChain.drop off).take len)) ∧
      ∀ n, n ≠ 0 → exec (.getCertificate n off len) s = .next (spdmOut s 0x7F [4])) ∧
    (∀ nonce, ∃ t p, exec (.challenge nonce) s = .next t ∧ t.out = s.out ++ [.spdm 0x03 p] ∧ t.free = s.free + 1) ∧
    (∀ b nonce, 1 ≤ b ∧ b ≤ 4 ∨ b = 0xFF → ∃ t p, exec (.getMeasurements b nonce) s = .next t ∧ t.out = s.out ++ [.spdm 0x60 p] ∧ t.free = s.free + 1)) ∧
  (∀ s : State, spdmReady s = false → exec .getDigests s = .next (spdmOut s 0x7F [4]) ∧
    (∀ n off len, exec (.getCertificate n off len) s = .next (spdmOut s 0x7F [4])) ∧
    (∀ nonce, exec (.challenge nonce) s = .next (spdmOut s 0x7F [4])) ∧
    ∀ b nonce, exec (.getMeasurements b nonce) s = .next (spdmOut s 0x7F [4]))

end Sys2Proof.Claims

/-- R408, R418, R419, R420, R421, R422: MODULE_RESET leaves every tile, cluster, die, queue, register and memory at its reset contents, and
ends ready from slot A or, where that is not valid, slot B, or else in recovery with its reason; that memory is cleared is the model's
reading (log entry 120), and PKGID 0 its choice (log entry 3). In recovery APPEND, ABORT and COMMIT act on the staged image, and outside it
they do nothing. The attestation requests answer in their order, and others get the error answer; the answer bodies are free values, and the
codes are those of SPDM 1.2, taken from outside the spec (log entry 122). -/
def Obligations.ResetRecoveryAndAttestationAct : Prop :=
  ModuleResetClearsTheMachine ∧ RecoveryCommandsStageAnImage ∧ AttestationRequestsAnswerInOrder
end

