-- ==== Sys2Proof/Laws/Dispatch.lean ====
section
/-! SUPPORT. What exec is of each constructor, true by unfolding the dispatch once: proofs rewrite with these and never
unfold exec. -/

namespace Sys2Proof.Machine

theorem exec_add (o : FormA2) (s : State) : exec (.add o) s = execAdd o s := rfl
theorem exec_sub (o : FormA2) (s : State) : exec (.sub o) s = execSub o s := rfl
theorem exec_and (o : FormA2) (s : State) : exec (.and o) s = execAnd o s := rfl
theorem exec_or (o : FormA2) (s : State) : exec (.or o) s = execOr o s := rfl
theorem exec_xor (o : FormA2) (s : State) : exec (.xor o) s = execXor o s := rfl
theorem exec_andn (o : FormA2) (s : State) : exec (.andn o) s = execAndn o s := rfl
theorem exec_shl (o : FormA2) (s : State) : exec (.shl o) s = execShl o s := rfl
theorem exec_shr (o : FormA2) (s : State) : exec (.shr o) s = execShr o s := rfl
theorem exec_sar (o : FormA2) (s : State) : exec (.sar o) s = execSar o s := rfl
theorem exec_rot (o : FormA2) (s : State) : exec (.rot o) s = execRot o s := rfl
theorem exec_mul (o : FormA2) (s : State) : exec (.mul o) s = execMul o s := rfl
theorem exec_mulh (o : FormA2) (s : State) : exec (.mulh o) s = execMulh o s := rfl
theorem exec_mulhz (o : FormA2) (s : State) : exec (.mulhz o) s = execMulhz o s := rfl
theorem exec_div (o : FormA2) (s : State) : exec (.div o) s = execDiv o s := rfl
theorem exec_divz (o : FormA2) (s : State) : exec (.divz o) s = execDivz o s := rfl
theorem exec_rem (o : FormA2) (s : State) : exec (.rem o) s = execRem o s := rfl
theorem exec_remz (o : FormA2) (s : State) : exec (.remz o) s = execRemz o s := rfl
theorem exec_min (o : FormA2) (s : State) : exec (.min o) s = execMin o s := rfl
theorem exec_max (o : FormA2) (s : State) : exec (.max o) s = execMax o s := rfl
theorem exec_minz (o : FormA2) (s : State) : exec (.minz o) s = execMinz o s := rfl
theorem exec_maxz (o : FormA2) (s : State) : exec (.maxz o) s = execMaxz o s := rfl
theorem exec_slt (o : FormA2) (s : State) : exec (.slt o) s = execSlt o s := rfl
theorem exec_sltz (o : FormA2) (s : State) : exec (.sltz o) s = execSltz o s := rfl
theorem exec_seq (o : FormA2) (s : State) : exec (.seq o) s = execSeq o s := rfl
theorem exec_sel (o : FormA2) (s : State) : exec (.sel o) s = execSel o s := rfl
theorem exec_clz (o : FormA1) (s : State) : exec (.clz o) s = execClz o s := rfl
theorem exec_popc (o : FormA1) (s : State) : exec (.popc o) s = execPopc o s := rfl
theorem exec_bext (o : FormA2) (s : State) : exec (.bext o) s = execBext o s := rfl
theorem exec_bins (o : FormA2) (s : State) : exec (.bins o) s = execBins o s := rfl
theorem exec_addw (o : FormA2) (s : State) : exec (.addw o) s = execAddw o s := rfl
theorem exec_lea (o : FormALea) (s : State) : exec (.lea o) s = execLea o s := rfl
theorem exec_leas (o : FormALea) (s : State) : exec (.leas o) s = execLeas o s := rfl
theorem exec_ji (o : FormAJ) (s : State) : exec (.ji o) s = execJi o s := rfl
theorem exec_jli (o : FormA1) (s : State) : exec (.jli o) s = execJli o s := rfl
theorem exec_fadd (o : FormF2) (s : State) : exec (.fadd o) s = execFadd o s := rfl
theorem exec_fsub (o : FormF2) (s : State) : exec (.fsub o) s = execFsub o s := rfl
theorem exec_fmul (o : FormF2) (s : State) : exec (.fmul o) s = execFmul o s := rfl
theorem exec_ffma (o : FormF2) (s : State) : exec (.ffma o) s = execFfma o s := rfl
theorem exec_fmin (o : FormF2) (s : State) : exec (.fmin o) s = execFmin o s := rfl
theorem exec_fmax (o : FormF2) (s : State) : exec (.fmax o) s = execFmax o s := rfl
theorem exec_fabs (o : FormF1) (s : State) : exec (.fabs o) s = execFabs o s := rfl
theorem exec_fneg (o : FormF1) (s : State) : exec (.fneg o) s = execFneg o s := rfl
theorem exec_fcmp (o : FormF2) (s : State) : exec (.fcmp o) s = execFcmp o s := rfl
theorem exec_fcvt (o : FormFCvt) (s : State) : exec (.fcvt o) s = execFcvt o s := rfl
theorem exec_frcp (o : FormF1) (s : State) : exec (.frcp o) s = execFrcp o s := rfl
theorem exec_frsq (o : FormF1) (s : State) : exec (.frsq o) s = execFrsq o s := rfl
theorem exec_addi (o : FormI) (s : State) : exec (.addi o) s = execAddi o s := rfl
theorem exec_andi (o : FormI) (s : State) : exec (.andi o) s = execAndi o s := rfl
theorem exec_ori (o : FormI) (s : State) : exec (.ori o) s = execOri o s := rfl
theorem exec_xori (o : FormI) (s : State) : exec (.xori o) s = execXori o s := rfl
theorem exec_shli (o : FormISh) (s : State) : exec (.shli o) s = execShli o s := rfl
theorem exec_shri (o : FormISh) (s : State) : exec (.shri o) s = execShri o s := rfl
theorem exec_sari (o : FormISh) (s : State) : exec (.sari o) s = execSari o s := rfl
theorem exec_slti (o : FormI) (s : State) : exec (.slti o) s = execSlti o s := rfl
theorem exec_ldb (o : FormM) (s : State) : exec (.ldb o) s = execLdb o s := rfl
theorem exec_ldbz (o : FormM) (s : State) : exec (.ldbz o) s = execLdbz o s := rfl
theorem exec_ldh (o : FormM) (s : State) : exec (.ldh o) s = execLdh o s := rfl
theorem exec_ldhz (o : FormM) (s : State) : exec (.ldhz o) s = execLdhz o s := rfl
theorem exec_ldw (o : FormM) (s : State) : exec (.ldw o) s = execLdw o s := rfl
theorem exec_ldwz (o : FormM) (s : State) : exec (.ldwz o) s = execLdwz o s := rfl
theorem exec_ldd (o : FormM) (s : State) : exec (.ldd o) s = execLdd o s := rfl
theorem exec_stb (o : FormM) (s : State) : exec (.stb o) s = execStb o s := rfl
theorem exec_sth (o : FormM) (s : State) : exec (.sth o) s = execSth o s := rfl
theorem exec_stw (o : FormM) (s : State) : exec (.stw o) s = execStw o s := rfl
theorem exec_std (o : FormM) (s : State) : exec (.std o) s = execStd o s := rfl
theorem exec_lih (o : FormLih) (s : State) : exec (.lih o) s = execLih o s := rfl
theorem exec_beq (o : FormB) (s : State) : exec (.beq o) s = execBeq o s := rfl
theorem exec_bne (o : FormB) (s : State) : exec (.bne o) s = execBne o s := rfl
theorem exec_blt (o : FormB) (s : State) : exec (.blt o) s = execBlt o s := rfl
theorem exec_bge (o : FormB) (s : State) : exec (.bge o) s = execBge o s := rfl
theorem exec_blo (o : FormB) (s : State) : exec (.blo o) s = execBlo o s := rfl
theorem exec_bhs (o : FormB) (s : State) : exec (.bhs o) s = execBhs o s := rfl
theorem exec_j (o : FormJ) (s : State) : exec (.j o) s = execJ o s := rfl
theorem exec_jl (o : FormJ) (s : State) : exec (.jl o) s = execJl o s := rfl
theorem exec_loop (o : FormLoop) (s : State) : exec (.loop o) s = execLoop o s := rfl
theorem exec_brloop (o : FormBrLoop) (s : State) : exec (.brloop o) s = execBrloop o s := rfl
theorem exec_qpop (o : FormQPop) (s : State) : exec (.qpop o) s = execQpop o s := rfl
theorem exec_qpeek (o : FormQPop) (s : State) : exec (.qpeek o) s = execQpeek o s := rfl
theorem exec_qpush (o : FormQPush) (s : State) : exec (.qpush o) s = execQpush o s := rfl
theorem exec_qcnt (o : FormQCnt) (s : State) : exec (.qcnt o) s = execQcnt o s := rfl
theorem exec_tkw (o : FormTk) (s : State) : exec (.tkw o) s = execTkw o s := rfl
theorem exec_tks (o : FormTk) (s : State) : exec (.tks o) s = execTks o s := rfl
theorem exec_rdvz (o : FormRdvz) (s : State) : exec (.rdvz o) s = execRdvz o s := rfl
theorem exec_rendezvousComplete (block : Bool) (tile : Nat) (s : State) : exec (.rendezvousComplete block tile) s = execRendezvousComplete block tile s := rfl
theorem exec_phase (o : FormPhase) (s : State) : exec (.phase o) s = execPhase o s := rfl
theorem exec_fencx (o : FormFencx) (s : State) : exec (.fencx o) s = execFencx o s := rfl
theorem exec_waitw (o : FormWaitw) (s : State) : exec (.waitw o) s = execWaitw o s := rfl
theorem exec_hgive (o : FormAB) (s : State) : exec (.hgive o) s = execHgive o s := rfl
theorem exec_htake (o : FormDA) (s : State) : exec (.htake o) s = execHtake o s := rfl
theorem exec_hqry (o : FormDA) (s : State) : exec (.hqry o) s = execHqry o s := rfl
theorem exec_aadd (o : FormAtomic) (s : State) : exec (.aadd o) s = execAadd o s := rfl
theorem exec_amin (o : FormAtomic) (s : State) : exec (.amin o) s = execAmin o s := rfl
theorem exec_amax (o : FormAtomic) (s : State) : exec (.amax o) s = execAmax o s := rfl
theorem exec_aminz (o : FormAtomic) (s : State) : exec (.aminz o) s = execAminz o s := rfl
theorem exec_amaxz (o : FormAtomic) (s : State) : exec (.amaxz o) s = execAmaxz o s := rfl
theorem exec_aand (o : FormAtomic) (s : State) : exec (.aand o) s = execAand o s := rfl
theorem exec_aor (o : FormAtomic) (s : State) : exec (.aor o) s = execAor o s := rfl
theorem exec_axor (o : FormAtomic) (s : State) : exec (.axor o) s = execAxor o s := rfl
theorem exec_axch (o : FormAtomic) (s : State) : exec (.axch o) s = execAxch o s := rfl
theorem exec_acas (o : FormAtomic) (s : State) : exec (.acas o) s = execAcas o s := rfl
theorem exec_ared (o : FormAred) (s : State) : exec (.ared o) s = execAred o s := rfl
theorem exec_atomicPortApply (n : Nat) (s : State) : exec (.atomicPortApply n) s = execAtomicPortApply n s := rfl
theorem exec_nearLoadLanding (tile : Nat) (strm : Strm) (n : Nat) (s : State) : exec (.nearLoadLanding tile strm n) s = execNearLoadLanding tile strm n s := rfl
theorem exec_divisionLands (tile : Nat) (strm : Strm) (n : Nat) (s : State) : exec (.divisionLands tile strm n) s = execDivisionLands tile strm n s := rfl
theorem exec_trap (o : FormS16) (s : State) : exec (.trap o) s = execTrap o s := rfl
theorem exec_eret (o : FormS0) (s : State) : exec (.eret o) s = execEret o s := rfl
theorem exec_ssrd (o : FormSReg) (s : State) : exec (.ssrd o) s = execSsrd o s := rfl
theorem exec_sswr (o : FormSReg) (s : State) : exec (.sswr o) s = execSswr o s := rfl
theorem exec_sleep (o : FormS16) (s : State) : exec (.sleep o) s = execSleep o s := rfl
theorem exec_sleepExpiry (tile : Nat) (strm : Strm) (s : State) : exec (.sleepExpiry tile strm) s = execSleepExpiry tile strm s := rfl
theorem exec_halt (o : FormS0) (s : State) : exec (.halt o) s = execHalt o s := rfl
theorem exec_yld (o : FormS0) (s : State) : exec (.yld o) s = execYld o s := rfl
theorem exec_tlbi (o : FormTlbi) (s : State) : exec (.tlbi o) s = execTlbi o s := rfl
theorem exec_ireg (o : FormIreg) (s : State) : exec (.ireg o) s = execIreg o s := rfl
theorem exec_brk (o : FormS16) (s : State) : exec (.brk o) s = execBrk o s := rfl
theorem exec_rrbs (o : FormRrbs) (s : State) : exec (.rrbs o) s = execRrbs o s := rfl
theorem exec_timerCompare (tile : Nat) (strm : Strm) (s : State) : exec (.timerCompare tile strm) s = execTimerCompare tile strm s := rfl
theorem exec_intr (tile : Nat) (strm : Strm) (s : State) : exec (.intr tile strm) s = execIntr tile strm s := rfl
theorem exec_oclm (o : FormDA) (s : State) : exec (.oclm o) s = execOclm o s := rfl
theorem exec_orel (o : FormAB) (s : State) : exec (.orel o) s = execOrel o s := rfl
theorem exec_epil (o : FormAB) (s : State) : exec (.epil o) s = execEpil o s := rfl
theorem exec_accd (o : FormA) (s : State) : exec (.accd o) s = execAccd o s := rfl
theorem exec_taskw (o : FormDA) (s : State) : exec (.taskw o) s = execTaskw o s := rfl
theorem exec_rbind (o : FormDAB) (s : State) : exec (.rbind o) s = execRbind o s := rfl
theorem exec_rfree (o : FormA) (s : State) : exec (.rfree o) s = execRfree o s := rfl
theorem exec_rinv (o : FormA) (s : State) : exec (.rinv o) s = execRinv o s := rfl
theorem exec_rqry (o : FormDA) (s : State) : exec (.rqry o) s = execRqry o s := rfl
theorem exec_rcnt (o : FormRcnt) (s : State) : exec (.rcnt o) s = execRcnt o s := rfl
theorem exec_cfgld (o : FormAB) (s : State) : exec (.cfgld o) s = execCfgld o s := rfl
theorem exec_cfgq (o : FormDA) (s : State) : exec (.cfgq o) s = execCfgq o s := rfl
theorem exec_rack (o : FormA) (s : State) : exec (.rack o) s = execRack o s := rfl
theorem exec_kiln (o : FormA) (s : State) : exec (.kiln o) s = execKiln o s := rfl
theorem exec_thaw (o : FormAB) (s : State) : exec (.thaw o) s = execThaw o s := rfl
theorem exec_rgo (o : FormA) (s : State) : exec (.rgo o) s = execRgo o s := rfl
theorem exec_garm (o : FormA) (s : State) : exec (.garm o) s = execGarm o s := rfl
theorem exec_gset (o : FormAB) (s : State) : exec (.gset o) s = execGset o s := rfl
theorem exec_emit (o : FormAB) (s : State) : exec (.emit o) s = execEmit o s := rfl
theorem exec_sigh (o : FormA) (s : State) : exec (.sigh o) s = execSigh o s := rfl
theorem exec_tbld (o : FormAB) (s : State) : exec (.tbld o) s = execTbld o s := rfl
theorem exec_tbsv (o : FormAB) (s : State) : exec (.tbsv o) s = execTbsv o s := rfl
theorem exec_phd (o : FormPatch) (s : State) : exec (.phd o) s = execPhd o s := rfl
theorem exec_pis (o : FormPatch) (s : State) : exec (.pis o) s = execPis o s := rfl
theorem exec_commandCompletion (n : Nat) (s : State) : exec (.commandCompletion n) s = execCommandCompletion n s := rfl
theorem exec_replyArrival (n : Nat) (s : State) : exec (.replyArrival n) s = execReplyArrival n s := rfl
theorem exec_slotCommandStart (tile slot : Nat) (s : State) : exec (.slotCommandStart tile slot) s = execSlotCommandStart tile slot s := rfl
theorem exec_sld (tile slot : Nat) (s : State) : exec (.sld tile slot) s = execSld tile slot s := rfl
theorem exec_sst (tile slot : Nat) (s : State) : exec (.sst tile slot) s = execSst tile slot s := rfl
theorem exec_sidx (tile slot : Nat) (s : State) : exec (.sidx tile slot) s = execSidx tile slot s := rfl
theorem exec_ssct (tile slot : Nat) (s : State) : exec (.ssct tile slot) s = execSsct tile slot s := rfl
theorem exec_srec (tile slot : Nat) (s : State) : exec (.srec tile slot) s = execSrec tile slot s := rfl
theorem exec_scon (tile slot : Nat) (s : State) : exec (.scon tile slot) s = execScon tile slot s := rfl
theorem exec_smcl (tile slot : Nat) (s : State) : exec (.smcl tile slot) s = execSmcl tile slot s := rfl
theorem exec_scmp (tile slot : Nat) (s : State) : exec (.scmp tile slot) s = execScmp tile slot s := rfl
theorem exec_sbar (tile n : Nat) (s : State) : exec (.sbar tile n) s = execSbar tile n s := rfl
theorem exec_scls (tile slot : Nat) (s : State) : exec (.scls tile slot) s = execScls tile slot s := rfl
theorem exec_swt (tile n : Nat) (s : State) : exec (.swt tile n) s = execSwt tile n s := rfl
theorem exec_spip (tile mport : Nat) (s : State) : exec (.spip tile mport) s = execSpip tile mport s := rfl
theorem exec_sprv (tile mport : Nat) (s : State) : exec (.sprv tile mport) s = execSprv tile mport s := rfl
theorem exec_pipArrival (n : Nat) (s : State) : exec (.pipArrival n) s = execPipArrival n s := rfl
theorem exec_sectionSquash (tile region sec : Nat) (s : State) : exec (.sectionSquash tile region sec) s = execSectionSquash tile region sec s := rfl
theorem exec_sectionCommit (tile region : Nat) (s : State) : exec (.sectionCommit tile region) s = execSectionCommit tile region s := rfl
theorem exec_groupFire (tile region group : Nat) (s : State) : exec (.groupFire tile region group) s = execGroupFire tile region group s := rfl
theorem exec_formatMarkerTake (tile region group input : Nat) (s : State) : exec (.formatMarkerTake tile region group input) s = execFormatMarkerTake tile region group input s := rfl
theorem exec_endOfStream (tile region group : Nat) (s : State) : exec (.endOfStream tile region group) s = execEndOfStream tile region group s := rfl
theorem exec_converterConvert (tile region cell : Nat) (s : State) : exec (.converterConvert tile region cell) s = execConverterConvert tile region cell s := rfl
theorem exec_settleReport (tile region : Nat) (s : State) : exec (.settleReport tile region) s = execSettleReport tile region s := rfl
theorem exec_kilnWaveComplete (tile region : Nat) (s : State) : exec (.kilnWaveComplete tile region) s = execKilnWaveComplete tile region s := rfl
theorem exec_kilnTimeout (tile region : Nat) (s : State) : exec (.kilnTimeout tile region) s = execKilnTimeout tile region s := rfl
theorem exec_mmd (cluster engine : Nat) (s : State) : exec (.mmd cluster engine) s = execMmd cluster engine s := rfl
theorem exec_mms (cluster engine : Nat) (s : State) : exec (.mms cluster engine) s = execMms cluster engine s := rfl
theorem exec_mmg (cluster engine : Nat) (s : State) : exec (.mmg cluster engine) s = execMmg cluster engine s := rfl
theorem exec_mmdl (cluster engine : Nat) (s : State) : exec (.mmdl cluster engine) s = execMmdl cluster engine s := rfl
theorem exec_taskDispatch (cluster : Nat) (s : State) : exec (.taskDispatch cluster) s = execTaskDispatch cluster s := rfl
theorem exec_taskStart (cluster engine : Nat) (s : State) : exec (.taskStart cluster engine) s = execTaskStart cluster engine s := rfl
theorem exec_taskComplete (cluster engine : Nat) (s : State) : exec (.taskComplete cluster engine) s = execTaskComplete cluster engine s := rfl
theorem exec_epilogueDrain (cluster engine : Nat) (s : State) : exec (.epilogueDrain cluster engine) s = execEpilogueDrain cluster engine s := rfl
theorem exec_drainComplete (cluster engine : Nat) (s : State) : exec (.drainComplete cluster engine) s = execDrainComplete cluster engine s := rfl
theorem exec_mmdlWriteback (cluster n : Nat) (s : State) : exec (.mmdlWriteback cluster n) s = execMmdlWriteback cluster n s := rfl
theorem exec_cpy (die engine : Nat) (s : State) : exec (.cpy die engine) s = execCpy die engine s := rfl
theorem exec_cpyw (die engine : Nat) (s : State) : exec (.cpyw die engine) s = execCpyw die engine s := rfl
theorem exec_cfil (die engine : Nat) (s : State) : exec (.cfil die engine) s = execCfil die engine s := rfl
theorem exec_lrchk (die engine : Nat) (s : State) : exec (.lrchk die engine) s = execLrchk die engine s := rfl
theorem exec_gthr (die engine : Nat) (s : State) : exec (.gthr die engine) s = execGthr die engine s := rfl
theorem exec_sctr (die engine : Nat) (s : State) : exec (.sctr die engine) s = execSctr die engine s := rfl
theorem exec_caskq (cluster : Nat) (s : State) : exec (.caskq cluster) s = execCaskq cluster s := rfl
theorem exec_caskrp (cluster : Nat) (s : State) : exec (.caskrp cluster) s = execCaskrp cluster s := rfl
theorem exec_caskcp (cluster : Nat) (s : State) : exec (.caskcp cluster) s = execCaskcp cluster s := rfl
theorem exec_glnc (n : Nat) (s : State) : exec (.glnc n) s = execGlnc n s := rfl
theorem exec_gnxt (n : Nat) (s : State) : exec (.gnxt n) s = execGnxt n s := rfl
theorem exec_garmApply (n : Nat) (s : State) : exec (.garmApply n) s = execGarmApply n s := rfl
theorem exec_gsetApply (n : Nat) (s : State) : exec (.gsetApply n) s = execGsetApply n s := rfl
theorem exec_emitApply (n : Nat) (s : State) : exec (.emitApply n) s = execEmitApply n s := rfl
theorem exec_sighApply (n : Nat) (s : State) : exec (.sighApply n) s = execSighApply n s := rfl
theorem exec_ringCoalesceTimeout (ring : Nat) (s : State) : exec (.ringCoalesceTimeout ring) s = execRingCoalesceTimeout ring s := rfl
theorem exec_ringFullReread (ring : Nat) (s : State) : exec (.ringFullReread ring) s = execRingFullReread ring s := rfl
theorem exec_launchGraph (chan : Nat) (s : State) : exec (.launchGraph chan) s = execLaunchGraph chan s := rfl
theorem exec_bind (chan : Nat) (s : State) : exec (.bind chan) s = execBind chan s := rfl
theorem exec_configRegion (chan : Nat) (s : State) : exec (.configRegion chan) s = execConfigRegion chan s := rfl
theorem exec_copy (chan : Nat) (s : State) : exec (.copy chan) s = execCopy chan s := rfl
theorem exec_signal (chan : Nat) (s : State) : exec (.signal chan) s = execSignal chan s := rfl
theorem exec_wait (chan : Nat) (s : State) : exec (.wait chan) s = execWait chan s := rfl
theorem exec_queueCreate (chan : Nat) (s : State) : exec (.queueCreate chan) s = execQueueCreate chan s := rfl
theorem exec_queueDestroy (chan : Nat) (s : State) : exec (.queueDestroy chan) s = execQueueDestroy chan s := rfl
theorem exec_channelResync (chan : Nat) (s : State) : exec (.channelResync chan) s = execChannelResync chan s := rfl
theorem exec_selectionPass (s : State) : exec .selectionPass s = execSelectionPass s := rfl
theorem exec_jobStart (job : Nat) (s : State) : exec (.jobStart job) s = execJobStart job s := rfl
theorem exec_jobComplete (job : Nat) (s : State) : exec (.jobComplete job) s = execJobComplete job s := rfl
theorem exec_bindNode (n : Nat) (s : State) : exec (.bindNode n) s = execBindNode n s := rfl
theorem exec_copyNode (n : Nat) (s : State) : exec (.copyNode n) s = execCopyNode n s := rfl
theorem exec_gatherNode (n : Nat) (s : State) : exec (.gatherNode n) s = execGatherNode n s := rfl
theorem exec_cond (n : Nat) (s : State) : exec (.cond n) s = execCond n s := rfl
theorem exec_host (n : Nat) (s : State) : exec (.host n) s = execHost n s := rfl
theorem exec_rearm (n : Nat) (s : State) : exec (.rearm n) s = execRearm n s := rfl
theorem exec_graphComplete (n : Nat) (s : State) : exec (.graphComplete n) s = execGraphComplete n s := rfl
theorem exec_watchdog (tile : Nat) (strm : Strm) (s : State) : exec (.watchdog tile strm) s = execWatchdog tile strm s := rfl
theorem exec_eventRecordWrite (n : Nat) (s : State) : exec (.eventRecordWrite n) s = execEventRecordWrite n s := rfl
theorem exec_resume (fn : Nat) (fid : Nat) (s : State) : exec (.resume fn fid) s = execResume fn fid s := rfl
theorem exec_terminate (fn : Nat) (fid : Nat) (s : State) : exec (.terminate fn fid) s = execTerminate fn fid s := rfl
theorem exec_pageWalk (req : WalkReq) (s : State) : exec (.pageWalk req) s = execPageWalk req s := rfl
theorem exec_collapse (n : Nat) (s : State) : exec (.collapse n) s = execCollapse n s := rfl
theorem exec_scrubPass (die : Nat) (s : State) : exec (.scrubPass die) s = execScrubPass die s := rfl
theorem exec_uncorrectableError (at_ : ErrorSite) (s : State) : exec (.uncorrectableError at_) s = execUncorrectableError at_ s := rfl
theorem exec_notify (chan : Nat) (word : BitVec 64) (s : State) : exec (.notify chan word) s = execNotify chan word s := rfl
theorem exec_cret (chan : Nat) (word : BitVec 64) (s : State) : exec (.cret chan word) s = execCret chan word s := rfl
theorem exec_reconcile (chan : Nat) (s : State) : exec (.reconcile chan) s = execReconcile chan s := rfl
theorem exec_ctxreq (fn : Nat) (ctxn : BitVec 12) (s : State) : exec (.ctxreq fn ctxn) s = execCtxreq fn ctxn s := rfl
theorem exec_invreq (fn : Nat) (ctxn : BitVec 12) (kind : BitVec 3) (s : State) : exec (.invreq fn ctxn kind) s = execInvreq fn ctxn kind s := rfl
theorem exec_chmap (fn : Nat) (value : BitVec 64) (s : State) : exec (.chmap fn value) s = execChmap fn value s := rfl
theorem exec_qtctlPause (fn : Nat) (pause : Bool) (s : State) : exec (.qtctlPause fn pause) s = execQtctlPause fn pause s := rfl
theorem exec_clkreq (fn : Nat) (mhz : BitVec 12) (s : State) : exec (.clkreq fn mhz) s = execClkreq fn mhz s := rfl
theorem exec_clockSwitch (s : State) : exec .clockSwitch s = execClockSwitch s := rfl
theorem exec_powerLimit (limit : Nat) (s : State) : exec (.powerLimit limit) s = execPowerLimit limit s := rfl
theorem exec_clockCapStep (s : State) : exec .clockCapStep s = execClockCapStep s := rfl
theorem exec_registerWrite (fn off : Nat) (value : BitVec 64) (s : State) : exec (.registerWrite fn off value) s = execRegisterWrite fn off value s := rfl
theorem exec_bar2Read (fn off len : Nat) (s : State) : exec (.bar2Read fn off len) s = execBar2Read fn off len s := rfl
theorem exec_bar2Write (fn off : Nat) (bytes : List (BitVec 8)) (s : State) : exec (.bar2Write fn off bytes) s = execBar2Write fn off bytes s := rfl
theorem exec_incomingRead (src off len : Nat) (s : State) : exec (.incomingRead src off len) s = execIncomingRead src off len s := rfl
theorem exec_incomingWrite (src off : Nat) (w : LinkWrite) (s : State) :
    exec (.incomingWrite src off w) s = execIncomingWrite src off w s := rfl
theorem exec_incomingAtomic (src off : Nat) (op : AtomicOp) (wide : Bool) (v c : BitVec 64) (s : State) : exec (.incomingAtomic src off op wide v c) s = execIncomingAtomic src off op wide v c s := rfl
theorem exec_remoteTimeout (n : Nat) (s : State) : exec (.remoteTimeout n) s = execRemoteTimeout n s := rfl
theorem exec_moduleReset (s : State) : exec .moduleReset s = execModuleReset s := rfl
theorem exec_append (len : BitVec 16) (s : State) : exec (.append len) s = execAppend len s := rfl
theorem exec_commit (s : State) : exec .commit s = execCommit s := rfl
theorem exec_abort (s : State) : exec .abort s = execAbort s := rfl
theorem exec_getVersion (s : State) : exec .getVersion s = execGetVersion s := rfl
theorem exec_getCapabilities (s : State) : exec .getCapabilities s = execGetCapabilities s := rfl
theorem exec_negotiateAlgorithms (ecdsaP256 sha256 : Bool) (s : State) : exec (.negotiateAlgorithms ecdsaP256 sha256) s = execNegotiateAlgorithms ecdsaP256 sha256 s := rfl
theorem exec_getDigests (s : State) : exec .getDigests s = execGetDigests s := rfl
theorem exec_getCertificate (slot off len : Nat) (s : State) : exec (.getCertificate slot off len) s = execGetCertificate slot off len s := rfl
theorem exec_challenge (nonce : BitVec 256) (s : State) : exec (.challenge nonce) s = execChallenge nonce s := rfl
theorem exec_getMeasurements (block : Nat) (nonce : BitVec 256) (s : State) : exec (.getMeasurements block nonce) s = execGetMeasurements block nonce s := rfl
theorem exec_illegalInstruction (word : BitVec 32) (s : State) : exec (.illegalInstruction word) s = execIllegalInstruction word s := rfl
theorem exec_fetchFault (s : State) : exec .fetchFault s = execFetchFault s := rfl
theorem exec_resultLands (tile : Nat) (strm : Strm) (n : Nat) (s : State) : exec (.resultLands tile strm n) s = execResultLands tile strm n s := rfl
theorem exec_postedStorePerformed (tile : Nat) (strm : Strm) (n : Nat) (scope : Scope) (s : State) : exec (.postedStorePerformed tile strm n scope) s = execPostedStorePerformed tile strm n scope s := rfl
theorem exec_writeEntersView (tile : Nat) (strm : Strm) (id : Nat) (s : State) : exec (.writeEntersView tile strm id) s = execWriteEntersView tile strm id s := rfl
theorem exec_yldExpiry (tile : Nat) (strm : Strm) (s : State) : exec (.yldExpiry tile strm) s = execYldExpiry tile strm s := rfl
theorem exec_taskSlotReadEnd (cluster engine : Nat) (s : State) : exec (.taskSlotReadEnd cluster engine) s = execTaskSlotReadEnd cluster engine s := rfl
theorem exec_liveStartDeadline (n : Nat) (s : State) : exec (.liveStartDeadline n) s = execLiveStartDeadline n s := rfl
theorem exec_eventQueueReread (ctxn : Nat) (s : State) : exec (.eventQueueReread ctxn) s = execEventQueueReread ctxn s := rfl

end Sys2Proof.Machine
end

