-- ==== Sys2Proof/Laws/Maps.lean ====
section
/-! SUPPORT. Finite maps and lists: a read after a write gives the value written, and every other key reads as before. -/

namespace Sys2Proof.Machine

@[simp] theorem mget_mset_same {α : Type} (m : FMap α) (k : Nat) (v d : α) : mget (mset m k v) k d = v := by
  induction m with
  | nil => simp [mset, mget]
  | cons p rest ih =>
    obtain ⟨j, u⟩ := p
    simp only [mset]
    split
    · simp [mget]
    · split
      · simp [mget]
      · simp [mget, *]

theorem mget_mset_other {α : Type} (m : FMap α) (k j : Nat) (v d : α) (h : j ≠ k) :
    mget (mset m k v) j d = mget m j d := by
  induction m with
  | nil => simp [mset, mget, Ne.symm h]
  | cons p rest ih =>
    obtain ⟨i, u⟩ := p
    simp only [mset]
    split
    · simp_all [mget, Ne.symm h]
    · split
      · simp [mget, Ne.symm h]
      · simp [mget, ih]

@[simp] theorem mget?_mset_same {α : Type} (m : FMap α) (k : Nat) (v : α) : mget? (mset m k v) k = some v := by
  induction m with
  | nil => simp [mset, mget?]
  | cons p rest ih =>
    obtain ⟨j, u⟩ := p
    simp only [mset]
    split
    · simp [mget?]
    · split
      · simp [mget?]
      · simp [mget?, *]

theorem mget?_mset_other {α : Type} (m : FMap α) (k j : Nat) (v : α) (h : j ≠ k) : mget? (mset m k v) j = mget? m j := by
  induction m with
  | nil => simp [mset, mget?, Ne.symm h]
  | cons p rest ih =>
    obtain ⟨i, u⟩ := p
    simp only [mset]
    split
    · simp_all [mget?, Ne.symm h]
    · split
      · simp [mget?, Ne.symm h]
      · simp [mget?, ih]

theorem leBytes_length (n x : Nat) : (leBytes n x).length = n := by
  induction n generalizing x with
  | zero => rfl
  | succ n ih => simp [leBytes, ih]

theorem leNat_leBytes (n x : Nat) : leNat (leBytes n x) = x % 2 ^ (8 * n) := by
  induction n generalizing x with
  | zero => simp [leBytes, leNat, Nat.mod_one]
  | succ n ih =>
    have h : 2 ^ (8 * (n + 1)) = 256 * 2 ^ (8 * n) := by rw [Nat.mul_add, Nat.pow_add]; omega
    simp only [leBytes, leNat, ih, h, BitVec.toNat_ofNat, Nat.mod_mul]

theorem span_mem (a n x : Nat) : x ∈ span a n ↔ a ≤ x ∧ x < a + n := by
  induction n generalizing a with
  | zero => simp [span]
  | succ n ih => simp [span, ih]; omega

end Sys2Proof.Machine
end

