-- ==== Sys2Proof/Laws/State.lean ====
section
/-! SUPPORT. What each named update of the state or of a stream leaves alone, field by field, and what a read after it gives. -/

namespace Sys2Proof.Machine

/-! Updates of the state. -/

@[simp] theorem setTile_core (s : State) (t : Nat) (x : Tile) : (setTile s t x).core = s.core := rfl
@[simp] theorem setTile_fab (s : State) (t : Nat) (x : Tile) : (setTile s t x).fab = s.fab := rfl
@[simp] theorem setTile_fabRem (s : State) (t : Nat) (x : Tile) : (setTile s t x).fabRem = s.fabRem := rfl
@[simp] theorem setTile_curTile (s : State) (t : Nat) (x : Tile) : (setTile s t x).curTile = s.curTile := rfl
@[simp] theorem setTile_curStrm (s : State) (t : Nat) (x : Tile) : (setTile s t x).curStrm = s.curStrm := rfl
@[simp] theorem setTile_agenda (s : State) (t : Nat) (x : Tile) : (setTile s t x).agenda = s.agenda := rfl
@[simp] theorem setTile_clusters (s : State) (t : Nat) (x : Tile) : (setTile s t x).clusters = s.clusters := rfl
@[simp] theorem setTile_dies (s : State) (t : Nat) (x : Tile) : (setTile s t x).dies = s.dies := rfl
@[simp] theorem setTile_mem (s : State) (t : Nat) (x : Tile) : (setTile s t x).mem = s.mem := rfl
@[simp] theorem setTile_poison (s : State) (t : Nat) (x : Tile) : (setTile s t x).poison = s.poison := rfl
@[simp] theorem setTile_wlog (s : State) (t : Nat) (x : Tile) : (setTile s t x).wlog = s.wlog := rfl
@[simp] theorem setTile_wnext (s : State) (t : Nat) (x : Tile) : (setTile s t x).wnext = s.wnext := rfl
@[simp] theorem setTile_rels (s : State) (t : Nat) (x : Tile) : (setTile s t x).rels = s.rels := rfl
@[simp] theorem setTile_nextRel (s : State) (t : Nat) (x : Tile) : (setTile s t x).nextRel = s.nextRel := rfl
@[simp] theorem setTile_ports (s : State) (t : Nat) (x : Tile) : (setTile s t x).ports = s.ports := rfl
@[simp] theorem setTile_watches (s : State) (t : Nat) (x : Tile) : (setTile s t x).watches = s.watches := rfl
@[simp] theorem setTile_reuse (s : State) (t : Nat) (x : Tile) : (setTile s t x).reuse = s.reuse := rfl
@[simp] theorem setTile_fe (s : State) (t : Nat) (x : Tile) : (setTile s t x).fe = s.fe := rfl
@[simp] theorem setTile_tlb (s : State) (t : Nat) (x : Tile) : (setTile s t x).tlb = s.tlb := rfl
@[simp] theorem setTile_walks (s : State) (t : Nat) (x : Tile) : (setTile s t x).walks = s.walks := rfl
@[simp] theorem setTile_held (s : State) (t : Nat) (x : Tile) : (setTile s t x).held = s.held := rfl
@[simp] theorem setTile_done (s : State) (t : Nat) (x : Tile) : (setTile s t x).done = s.done := rfl
@[simp] theorem setTile_replies (s : State) (t : Nat) (x : Tile) : (setTile s t x).replies = s.replies := rfl
@[simp] theorem setTile_mesh (s : State) (t : Nat) (x : Tile) : (setTile s t x).mesh = s.mesh := rfl
@[simp] theorem setTile_images (s : State) (t : Nat) (x : Tile) : (setTile s t x).images = s.images := rfl
@[simp] theorem setTile_nextCmd (s : State) (t : Nat) (x : Tile) : (setTile s t x).nextCmd = s.nextCmd := rfl
@[simp] theorem setTile_nextImage (s : State) (t : Nat) (x : Tile) : (setTile s t x).nextImage = s.nextImage := rfl
@[simp] theorem setTile_pkg (s : State) (t : Nat) (x : Tile) : (setTile s t x).pkg = s.pkg := rfl
@[simp] theorem setTile_boot (s : State) (t : Nat) (x : Tile) : (setTile s t x).boot = s.boot := rfl
@[simp] theorem setTile_out (s : State) (t : Nat) (x : Tile) : (setTile s t x).out = s.out := rfl
@[simp] theorem setTile_free (s : State) (t : Nat) (x : Tile) : (setTile s t x).free = s.free := rfl

@[simp] theorem setStrm_core (s : State) (t : Nat) (sk : Strm) (x : Stream) : (setStrm s t sk x).core = s.core := rfl
@[simp] theorem setStrm_fab (s : State) (t : Nat) (sk : Strm) (x : Stream) : (setStrm s t sk x).fab = s.fab := rfl
@[simp] theorem setStrm_fabRem (s : State) (t : Nat) (sk : Strm) (x : Stream) : (setStrm s t sk x).fabRem = s.fabRem := rfl
@[simp] theorem setStrm_curTile (s : State) (t : Nat) (sk : Strm) (x : Stream) : (setStrm s t sk x).curTile = s.curTile := rfl
@[simp] theorem setStrm_curStrm (s : State) (t : Nat) (sk : Strm) (x : Stream) : (setStrm s t sk x).curStrm = s.curStrm := rfl
@[simp] theorem setStrm_agenda (s : State) (t : Nat) (sk : Strm) (x : Stream) : (setStrm s t sk x).agenda = s.agenda := rfl
@[simp] theorem setStrm_clusters (s : State) (t : Nat) (sk : Strm) (x : Stream) : (setStrm s t sk x).clusters = s.clusters := rfl
@[simp] theorem setStrm_dies (s : State) (t : Nat) (sk : Strm) (x : Stream) : (setStrm s t sk x).dies = s.dies := rfl
@[simp] theorem setStrm_mem (s : State) (t : Nat) (sk : Strm) (x : Stream) : (setStrm s t sk x).mem = s.mem := rfl
@[simp] theorem setStrm_poison (s : State) (t : Nat) (sk : Strm) (x : Stream) : (setStrm s t sk x).poison = s.poison := rfl
@[simp] theorem setStrm_wlog (s : State) (t : Nat) (sk : Strm) (x : Stream) : (setStrm s t sk x).wlog = s.wlog := rfl
@[simp] theorem setStrm_wnext (s : State) (t : Nat) (sk : Strm) (x : Stream) : (setStrm s t sk x).wnext = s.wnext := rfl
@[simp] theorem setStrm_rels (s : State) (t : Nat) (sk : Strm) (x : Stream) : (setStrm s t sk x).rels = s.rels := rfl
@[simp] theorem setStrm_nextRel (s : State) (t : Nat) (sk : Strm) (x : Stream) : (setStrm s t sk x).nextRel = s.nextRel := rfl
@[simp] theorem setStrm_ports (s : State) (t : Nat) (sk : Strm) (x : Stream) : (setStrm s t sk x).ports = s.ports := rfl
@[simp] theorem setStrm_watches (s : State) (t : Nat) (sk : Strm) (x : Stream) : (setStrm s t sk x).watches = s.watches := rfl
@[simp] theorem setStrm_reuse (s : State) (t : Nat) (sk : Strm) (x : Stream) : (setStrm s t sk x).reuse = s.reuse := rfl
@[simp] theorem setStrm_fe (s : State) (t : Nat) (sk : Strm) (x : Stream) : (setStrm s t sk x).fe = s.fe := rfl
@[simp] theorem setStrm_tlb (s : State) (t : Nat) (sk : Strm) (x : Stream) : (setStrm s t sk x).tlb = s.tlb := rfl
@[simp] theorem setStrm_walks (s : State) (t : Nat) (sk : Strm) (x : Stream) : (setStrm s t sk x).walks = s.walks := rfl
@[simp] theorem setStrm_held (s : State) (t : Nat) (sk : Strm) (x : Stream) : (setStrm s t sk x).held = s.held := rfl
@[simp] theorem setStrm_done (s : State) (t : Nat) (sk : Strm) (x : Stream) : (setStrm s t sk x).done = s.done := rfl
@[simp] theorem setStrm_replies (s : State) (t : Nat) (sk : Strm) (x : Stream) : (setStrm s t sk x).replies = s.replies := rfl
@[simp] theorem setStrm_mesh (s : State) (t : Nat) (sk : Strm) (x : Stream) : (setStrm s t sk x).mesh = s.mesh := rfl
@[simp] theorem setStrm_images (s : State) (t : Nat) (sk : Strm) (x : Stream) : (setStrm s t sk x).images = s.images := rfl
@[simp] theorem setStrm_nextCmd (s : State) (t : Nat) (sk : Strm) (x : Stream) : (setStrm s t sk x).nextCmd = s.nextCmd := rfl
@[simp] theorem setStrm_nextImage (s : State) (t : Nat) (sk : Strm) (x : Stream) : (setStrm s t sk x).nextImage = s.nextImage := rfl
@[simp] theorem setStrm_pkg (s : State) (t : Nat) (sk : Strm) (x : Stream) : (setStrm s t sk x).pkg = s.pkg := rfl
@[simp] theorem setStrm_boot (s : State) (t : Nat) (sk : Strm) (x : Stream) : (setStrm s t sk x).boot = s.boot := rfl
@[simp] theorem setStrm_out (s : State) (t : Nat) (sk : Strm) (x : Stream) : (setStrm s t sk x).out = s.out := rfl
@[simp] theorem setStrm_free (s : State) (t : Nat) (sk : Strm) (x : Stream) : (setStrm s t sk x).free = s.free := rfl

@[simp] theorem setCur_core (s : State) (x : Stream) : (setCur s x).core = s.core := rfl
@[simp] theorem setCur_fab (s : State) (x : Stream) : (setCur s x).fab = s.fab := rfl
@[simp] theorem setCur_fabRem (s : State) (x : Stream) : (setCur s x).fabRem = s.fabRem := rfl
@[simp] theorem setCur_curTile (s : State) (x : Stream) : (setCur s x).curTile = s.curTile := rfl
@[simp] theorem setCur_curStrm (s : State) (x : Stream) : (setCur s x).curStrm = s.curStrm := rfl
@[simp] theorem setCur_agenda (s : State) (x : Stream) : (setCur s x).agenda = s.agenda := rfl
@[simp] theorem setCur_clusters (s : State) (x : Stream) : (setCur s x).clusters = s.clusters := rfl
@[simp] theorem setCur_dies (s : State) (x : Stream) : (setCur s x).dies = s.dies := rfl
@[simp] theorem setCur_mem (s : State) (x : Stream) : (setCur s x).mem = s.mem := rfl
@[simp] theorem setCur_poison (s : State) (x : Stream) : (setCur s x).poison = s.poison := rfl
@[simp] theorem setCur_wlog (s : State) (x : Stream) : (setCur s x).wlog = s.wlog := rfl
@[simp] theorem setCur_wnext (s : State) (x : Stream) : (setCur s x).wnext = s.wnext := rfl
@[simp] theorem setCur_rels (s : State) (x : Stream) : (setCur s x).rels = s.rels := rfl
@[simp] theorem setCur_nextRel (s : State) (x : Stream) : (setCur s x).nextRel = s.nextRel := rfl
@[simp] theorem setCur_ports (s : State) (x : Stream) : (setCur s x).ports = s.ports := rfl
@[simp] theorem setCur_watches (s : State) (x : Stream) : (setCur s x).watches = s.watches := rfl
@[simp] theorem setCur_reuse (s : State) (x : Stream) : (setCur s x).reuse = s.reuse := rfl
@[simp] theorem setCur_fe (s : State) (x : Stream) : (setCur s x).fe = s.fe := rfl
@[simp] theorem setCur_tlb (s : State) (x : Stream) : (setCur s x).tlb = s.tlb := rfl
@[simp] theorem setCur_walks (s : State) (x : Stream) : (setCur s x).walks = s.walks := rfl
@[simp] theorem setCur_held (s : State) (x : Stream) : (setCur s x).held = s.held := rfl
@[simp] theorem setCur_done (s : State) (x : Stream) : (setCur s x).done = s.done := rfl
@[simp] theorem setCur_replies (s : State) (x : Stream) : (setCur s x).replies = s.replies := rfl
@[simp] theorem setCur_mesh (s : State) (x : Stream) : (setCur s x).mesh = s.mesh := rfl
@[simp] theorem setCur_images (s : State) (x : Stream) : (setCur s x).images = s.images := rfl
@[simp] theorem setCur_nextCmd (s : State) (x : Stream) : (setCur s x).nextCmd = s.nextCmd := rfl
@[simp] theorem setCur_nextImage (s : State) (x : Stream) : (setCur s x).nextImage = s.nextImage := rfl
@[simp] theorem setCur_pkg (s : State) (x : Stream) : (setCur s x).pkg = s.pkg := rfl
@[simp] theorem setCur_boot (s : State) (x : Stream) : (setCur s x).boot = s.boot := rfl
@[simp] theorem setCur_out (s : State) (x : Stream) : (setCur s x).out = s.out := rfl
@[simp] theorem setCur_free (s : State) (x : Stream) : (setCur s x).free = s.free := rfl

@[simp] theorem setCluster_core (s : State) (c : Nat) (x : Cluster) : (setCluster s c x).core = s.core := rfl
@[simp] theorem setCluster_fab (s : State) (c : Nat) (x : Cluster) : (setCluster s c x).fab = s.fab := rfl
@[simp] theorem setCluster_fabRem (s : State) (c : Nat) (x : Cluster) : (setCluster s c x).fabRem = s.fabRem := rfl
@[simp] theorem setCluster_curTile (s : State) (c : Nat) (x : Cluster) : (setCluster s c x).curTile = s.curTile := rfl
@[simp] theorem setCluster_curStrm (s : State) (c : Nat) (x : Cluster) : (setCluster s c x).curStrm = s.curStrm := rfl
@[simp] theorem setCluster_agenda (s : State) (c : Nat) (x : Cluster) : (setCluster s c x).agenda = s.agenda := rfl
@[simp] theorem setCluster_tiles (s : State) (c : Nat) (x : Cluster) : (setCluster s c x).tiles = s.tiles := rfl
@[simp] theorem setCluster_dies (s : State) (c : Nat) (x : Cluster) : (setCluster s c x).dies = s.dies := rfl
@[simp] theorem setCluster_mem (s : State) (c : Nat) (x : Cluster) : (setCluster s c x).mem = s.mem := rfl
@[simp] theorem setCluster_poison (s : State) (c : Nat) (x : Cluster) : (setCluster s c x).poison = s.poison := rfl
@[simp] theorem setCluster_wlog (s : State) (c : Nat) (x : Cluster) : (setCluster s c x).wlog = s.wlog := rfl
@[simp] theorem setCluster_wnext (s : State) (c : Nat) (x : Cluster) : (setCluster s c x).wnext = s.wnext := rfl
@[simp] theorem setCluster_rels (s : State) (c : Nat) (x : Cluster) : (setCluster s c x).rels = s.rels := rfl
@[simp] theorem setCluster_nextRel (s : State) (c : Nat) (x : Cluster) : (setCluster s c x).nextRel = s.nextRel := rfl
@[simp] theorem setCluster_ports (s : State) (c : Nat) (x : Cluster) : (setCluster s c x).ports = s.ports := rfl
@[simp] theorem setCluster_watches (s : State) (c : Nat) (x : Cluster) : (setCluster s c x).watches = s.watches := rfl
@[simp] theorem setCluster_reuse (s : State) (c : Nat) (x : Cluster) : (setCluster s c x).reuse = s.reuse := rfl
@[simp] theorem setCluster_fe (s : State) (c : Nat) (x : Cluster) : (setCluster s c x).fe = s.fe := rfl
@[simp] theorem setCluster_tlb (s : State) (c : Nat) (x : Cluster) : (setCluster s c x).tlb = s.tlb := rfl
@[simp] theorem setCluster_walks (s : State) (c : Nat) (x : Cluster) : (setCluster s c x).walks = s.walks := rfl
@[simp] theorem setCluster_held (s : State) (c : Nat) (x : Cluster) : (setCluster s c x).held = s.held := rfl
@[simp] theorem setCluster_done (s : State) (c : Nat) (x : Cluster) : (setCluster s c x).done = s.done := rfl
@[simp] theorem setCluster_replies (s : State) (c : Nat) (x : Cluster) : (setCluster s c x).replies = s.replies := rfl
@[simp] theorem setCluster_mesh (s : State) (c : Nat) (x : Cluster) : (setCluster s c x).mesh = s.mesh := rfl
@[simp] theorem setCluster_images (s : State) (c : Nat) (x : Cluster) : (setCluster s c x).images = s.images := rfl
@[simp] theorem setCluster_nextCmd (s : State) (c : Nat) (x : Cluster) : (setCluster s c x).nextCmd = s.nextCmd := rfl
@[simp] theorem setCluster_nextImage (s : State) (c : Nat) (x : Cluster) : (setCluster s c x).nextImage = s.nextImage := rfl
@[simp] theorem setCluster_pkg (s : State) (c : Nat) (x : Cluster) : (setCluster s c x).pkg = s.pkg := rfl
@[simp] theorem setCluster_boot (s : State) (c : Nat) (x : Cluster) : (setCluster s c x).boot = s.boot := rfl
@[simp] theorem setCluster_out (s : State) (c : Nat) (x : Cluster) : (setCluster s c x).out = s.out := rfl
@[simp] theorem setCluster_free (s : State) (c : Nat) (x : Cluster) : (setCluster s c x).free = s.free := rfl

@[simp] theorem setHandle_core (s : State) (t h : Nat) (e : Word) : (setHandle s t h e).core = s.core := rfl
@[simp] theorem setHandle_fab (s : State) (t h : Nat) (e : Word) : (setHandle s t h e).fab = s.fab := rfl
@[simp] theorem setHandle_fabRem (s : State) (t h : Nat) (e : Word) : (setHandle s t h e).fabRem = s.fabRem := rfl
@[simp] theorem setHandle_curTile (s : State) (t h : Nat) (e : Word) : (setHandle s t h e).curTile = s.curTile := rfl
@[simp] theorem setHandle_curStrm (s : State) (t h : Nat) (e : Word) : (setHandle s t h e).curStrm = s.curStrm := rfl
@[simp] theorem setHandle_agenda (s : State) (t h : Nat) (e : Word) : (setHandle s t h e).agenda = s.agenda := rfl
@[simp] theorem setHandle_tiles (s : State) (t h : Nat) (e : Word) : (setHandle s t h e).tiles = s.tiles := rfl
@[simp] theorem setHandle_dies (s : State) (t h : Nat) (e : Word) : (setHandle s t h e).dies = s.dies := rfl
@[simp] theorem setHandle_mem (s : State) (t h : Nat) (e : Word) : (setHandle s t h e).mem = s.mem := rfl
@[simp] theorem setHandle_poison (s : State) (t h : Nat) (e : Word) : (setHandle s t h e).poison = s.poison := rfl
@[simp] theorem setHandle_wlog (s : State) (t h : Nat) (e : Word) : (setHandle s t h e).wlog = s.wlog := rfl
@[simp] theorem setHandle_wnext (s : State) (t h : Nat) (e : Word) : (setHandle s t h e).wnext = s.wnext := rfl
@[simp] theorem setHandle_rels (s : State) (t h : Nat) (e : Word) : (setHandle s t h e).rels = s.rels := rfl
@[simp] theorem setHandle_nextRel (s : State) (t h : Nat) (e : Word) : (setHandle s t h e).nextRel = s.nextRel := rfl
@[simp] theorem setHandle_ports (s : State) (t h : Nat) (e : Word) : (setHandle s t h e).ports = s.ports := rfl
@[simp] theorem setHandle_watches (s : State) (t h : Nat) (e : Word) : (setHandle s t h e).watches = s.watches := rfl
@[simp] theorem setHandle_reuse (s : State) (t h : Nat) (e : Word) : (setHandle s t h e).reuse = s.reuse := rfl
@[simp] theorem setHandle_fe (s : State) (t h : Nat) (e : Word) : (setHandle s t h e).fe = s.fe := rfl
@[simp] theorem setHandle_tlb (s : State) (t h : Nat) (e : Word) : (setHandle s t h e).tlb = s.tlb := rfl
@[simp] theorem setHandle_walks (s : State) (t h : Nat) (e : Word) : (setHandle s t h e).walks = s.walks := rfl
@[simp] theorem setHandle_held (s : State) (t h : Nat) (e : Word) : (setHandle s t h e).held = s.held := rfl
@[simp] theorem setHandle_done (s : State) (t h : Nat) (e : Word) : (setHandle s t h e).done = s.done := rfl
@[simp] theorem setHandle_replies (s : State) (t h : Nat) (e : Word) : (setHandle s t h e).replies = s.replies := rfl
@[simp] theorem setHandle_mesh (s : State) (t h : Nat) (e : Word) : (setHandle s t h e).mesh = s.mesh := rfl
@[simp] theorem setHandle_images (s : State) (t h : Nat) (e : Word) : (setHandle s t h e).images = s.images := rfl
@[simp] theorem setHandle_nextCmd (s : State) (t h : Nat) (e : Word) : (setHandle s t h e).nextCmd = s.nextCmd := rfl
@[simp] theorem setHandle_nextImage (s : State) (t h : Nat) (e : Word) : (setHandle s t h e).nextImage = s.nextImage := rfl
@[simp] theorem setHandle_pkg (s : State) (t h : Nat) (e : Word) : (setHandle s t h e).pkg = s.pkg := rfl
@[simp] theorem setHandle_boot (s : State) (t h : Nat) (e : Word) : (setHandle s t h e).boot = s.boot := rfl
@[simp] theorem setHandle_out (s : State) (t h : Nat) (e : Word) : (setHandle s t h e).out = s.out := rfl
@[simp] theorem setHandle_free (s : State) (t h : Nat) (e : Word) : (setHandle s t h e).free = s.free := rfl

@[simp] theorem offer_core (s : State) (o : Offer) : (offer s o).core = s.core := rfl
@[simp] theorem offer_fab (s : State) (o : Offer) : (offer s o).fab = s.fab := rfl
@[simp] theorem offer_fabRem (s : State) (o : Offer) : (offer s o).fabRem = s.fabRem := rfl
@[simp] theorem offer_curTile (s : State) (o : Offer) : (offer s o).curTile = s.curTile := rfl
@[simp] theorem offer_curStrm (s : State) (o : Offer) : (offer s o).curStrm = s.curStrm := rfl
@[simp] theorem offer_agenda (s : State) (o : Offer) : (offer s o).agenda = s.agenda := rfl
@[simp] theorem offer_tiles (s : State) (o : Offer) : (offer s o).tiles = s.tiles := rfl
@[simp] theorem offer_clusters (s : State) (o : Offer) : (offer s o).clusters = s.clusters := rfl
@[simp] theorem offer_dies (s : State) (o : Offer) : (offer s o).dies = s.dies := rfl
@[simp] theorem offer_mem (s : State) (o : Offer) : (offer s o).mem = s.mem := rfl
@[simp] theorem offer_poison (s : State) (o : Offer) : (offer s o).poison = s.poison := rfl
@[simp] theorem offer_wlog (s : State) (o : Offer) : (offer s o).wlog = s.wlog := rfl
@[simp] theorem offer_wnext (s : State) (o : Offer) : (offer s o).wnext = s.wnext := rfl
@[simp] theorem offer_rels (s : State) (o : Offer) : (offer s o).rels = s.rels := rfl
@[simp] theorem offer_nextRel (s : State) (o : Offer) : (offer s o).nextRel = s.nextRel := rfl
@[simp] theorem offer_ports (s : State) (o : Offer) : (offer s o).ports = s.ports := rfl
@[simp] theorem offer_watches (s : State) (o : Offer) : (offer s o).watches = s.watches := rfl
@[simp] theorem offer_reuse (s : State) (o : Offer) : (offer s o).reuse = s.reuse := rfl
@[simp] theorem offer_tlb (s : State) (o : Offer) : (offer s o).tlb = s.tlb := rfl
@[simp] theorem offer_walks (s : State) (o : Offer) : (offer s o).walks = s.walks := rfl
@[simp] theorem offer_held (s : State) (o : Offer) : (offer s o).held = s.held := rfl
@[simp] theorem offer_done (s : State) (o : Offer) : (offer s o).done = s.done := rfl
@[simp] theorem offer_replies (s : State) (o : Offer) : (offer s o).replies = s.replies := rfl
@[simp] theorem offer_mesh (s : State) (o : Offer) : (offer s o).mesh = s.mesh := rfl
@[simp] theorem offer_images (s : State) (o : Offer) : (offer s o).images = s.images := rfl
@[simp] theorem offer_nextCmd (s : State) (o : Offer) : (offer s o).nextCmd = s.nextCmd := rfl
@[simp] theorem offer_nextImage (s : State) (o : Offer) : (offer s o).nextImage = s.nextImage := rfl
@[simp] theorem offer_pkg (s : State) (o : Offer) : (offer s o).pkg = s.pkg := rfl
@[simp] theorem offer_boot (s : State) (o : Offer) : (offer s o).boot = s.boot := rfl
@[simp] theorem offer_out (s : State) (o : Offer) : (offer s o).out = s.out := rfl
@[simp] theorem offer_free (s : State) (o : Offer) : (offer s o).free = s.free := rfl

@[simp] theorem finish_core (s : State) (c : Cmd) (a : BitVec 8) (r : BitVec 40) : (finish s c a r).core = s.core := rfl
@[simp] theorem finish_fab (s : State) (c : Cmd) (a : BitVec 8) (r : BitVec 40) : (finish s c a r).fab = s.fab := rfl
@[simp] theorem finish_fabRem (s : State) (c : Cmd) (a : BitVec 8) (r : BitVec 40) : (finish s c a r).fabRem = s.fabRem := rfl
@[simp] theorem finish_curTile (s : State) (c : Cmd) (a : BitVec 8) (r : BitVec 40) : (finish s c a r).curTile = s.curTile := rfl
@[simp] theorem finish_curStrm (s : State) (c : Cmd) (a : BitVec 8) (r : BitVec 40) : (finish s c a r).curStrm = s.curStrm := rfl
@[simp] theorem finish_agenda (s : State) (c : Cmd) (a : BitVec 8) (r : BitVec 40) : (finish s c a r).agenda = s.agenda := rfl
@[simp] theorem finish_tiles (s : State) (c : Cmd) (a : BitVec 8) (r : BitVec 40) : (finish s c a r).tiles = s.tiles := rfl
@[simp] theorem finish_clusters (s : State) (c : Cmd) (a : BitVec 8) (r : BitVec 40) : (finish s c a r).clusters = s.clusters := rfl
@[simp] theorem finish_dies (s : State) (c : Cmd) (a : BitVec 8) (r : BitVec 40) : (finish s c a r).dies = s.dies := rfl
@[simp] theorem finish_mem (s : State) (c : Cmd) (a : BitVec 8) (r : BitVec 40) : (finish s c a r).mem = s.mem := rfl
@[simp] theorem finish_poison (s : State) (c : Cmd) (a : BitVec 8) (r : BitVec 40) : (finish s c a r).poison = s.poison := rfl
@[simp] theorem finish_wlog (s : State) (c : Cmd) (a : BitVec 8) (r : BitVec 40) : (finish s c a r).wlog = s.wlog := rfl
@[simp] theorem finish_wnext (s : State) (c : Cmd) (a : BitVec 8) (r : BitVec 40) : (finish s c a r).wnext = s.wnext := rfl
@[simp] theorem finish_rels (s : State) (c : Cmd) (a : BitVec 8) (r : BitVec 40) : (finish s c a r).rels = s.rels := rfl
@[simp] theorem finish_nextRel (s : State) (c : Cmd) (a : BitVec 8) (r : BitVec 40) : (finish s c a r).nextRel = s.nextRel := rfl
@[simp] theorem finish_ports (s : State) (c : Cmd) (a : BitVec 8) (r : BitVec 40) : (finish s c a r).ports = s.ports := rfl
@[simp] theorem finish_watches (s : State) (c : Cmd) (a : BitVec 8) (r : BitVec 40) : (finish s c a r).watches = s.watches := rfl
@[simp] theorem finish_reuse (s : State) (c : Cmd) (a : BitVec 8) (r : BitVec 40) : (finish s c a r).reuse = s.reuse := rfl
@[simp] theorem finish_fe (s : State) (c : Cmd) (a : BitVec 8) (r : BitVec 40) : (finish s c a r).fe = s.fe := rfl
@[simp] theorem finish_tlb (s : State) (c : Cmd) (a : BitVec 8) (r : BitVec 40) : (finish s c a r).tlb = s.tlb := rfl
@[simp] theorem finish_walks (s : State) (c : Cmd) (a : BitVec 8) (r : BitVec 40) : (finish s c a r).walks = s.walks := rfl
@[simp] theorem finish_held (s : State) (c : Cmd) (a : BitVec 8) (r : BitVec 40) : (finish s c a r).held = s.held := rfl
@[simp] theorem finish_replies (s : State) (c : Cmd) (a : BitVec 8) (r : BitVec 40) : (finish s c a r).replies = s.replies := rfl
@[simp] theorem finish_mesh (s : State) (c : Cmd) (a : BitVec 8) (r : BitVec 40) : (finish s c a r).mesh = s.mesh := rfl
@[simp] theorem finish_images (s : State) (c : Cmd) (a : BitVec 8) (r : BitVec 40) : (finish s c a r).images = s.images := rfl
@[simp] theorem finish_nextCmd (s : State) (c : Cmd) (a : BitVec 8) (r : BitVec 40) : (finish s c a r).nextCmd = s.nextCmd := rfl
@[simp] theorem finish_nextImage (s : State) (c : Cmd) (a : BitVec 8) (r : BitVec 40) : (finish s c a r).nextImage = s.nextImage := rfl
@[simp] theorem finish_pkg (s : State) (c : Cmd) (a : BitVec 8) (r : BitVec 40) : (finish s c a r).pkg = s.pkg := rfl
@[simp] theorem finish_boot (s : State) (c : Cmd) (a : BitVec 8) (r : BitVec 40) : (finish s c a r).boot = s.boot := rfl
@[simp] theorem finish_out (s : State) (c : Cmd) (a : BitVec 8) (r : BitVec 40) : (finish s c a r).out = s.out := rfl
@[simp] theorem finish_free (s : State) (c : Cmd) (a : BitVec 8) (r : BitVec 40) : (finish s c a r).free = s.free := rfl

@[simp] theorem dropWatch_core (s : State) (t : Nat) (sk : Strm) : (dropWatch s t sk).core = s.core := rfl
@[simp] theorem dropWatch_fab (s : State) (t : Nat) (sk : Strm) : (dropWatch s t sk).fab = s.fab := rfl
@[simp] theorem dropWatch_fabRem (s : State) (t : Nat) (sk : Strm) : (dropWatch s t sk).fabRem = s.fabRem := rfl
@[simp] theorem dropWatch_curTile (s : State) (t : Nat) (sk : Strm) : (dropWatch s t sk).curTile = s.curTile := rfl
@[simp] theorem dropWatch_curStrm (s : State) (t : Nat) (sk : Strm) : (dropWatch s t sk).curStrm = s.curStrm := rfl
@[simp] theorem dropWatch_agenda (s : State) (t : Nat) (sk : Strm) : (dropWatch s t sk).agenda = s.agenda := rfl
@[simp] theorem dropWatch_tiles (s : State) (t : Nat) (sk : Strm) : (dropWatch s t sk).tiles = s.tiles := rfl
@[simp] theorem dropWatch_clusters (s : State) (t : Nat) (sk : Strm) : (dropWatch s t sk).clusters = s.clusters := rfl
@[simp] theorem dropWatch_dies (s : State) (t : Nat) (sk : Strm) : (dropWatch s t sk).dies = s.dies := rfl
@[simp] theorem dropWatch_mem (s : State) (t : Nat) (sk : Strm) : (dropWatch s t sk).mem = s.mem := rfl
@[simp] theorem dropWatch_poison (s : State) (t : Nat) (sk : Strm) : (dropWatch s t sk).poison = s.poison := rfl
@[simp] theorem dropWatch_wlog (s : State) (t : Nat) (sk : Strm) : (dropWatch s t sk).wlog = s.wlog := rfl
@[simp] theorem dropWatch_wnext (s : State) (t : Nat) (sk : Strm) : (dropWatch s t sk).wnext = s.wnext := rfl
@[simp] theorem dropWatch_rels (s : State) (t : Nat) (sk : Strm) : (dropWatch s t sk).rels = s.rels := rfl
@[simp] theorem dropWatch_nextRel (s : State) (t : Nat) (sk : Strm) : (dropWatch s t sk).nextRel = s.nextRel := rfl
@[simp] theorem dropWatch_ports (s : State) (t : Nat) (sk : Strm) : (dropWatch s t sk).ports = s.ports := rfl
@[simp] theorem dropWatch_reuse (s : State) (t : Nat) (sk : Strm) : (dropWatch s t sk).reuse = s.reuse := rfl
@[simp] theorem dropWatch_fe (s : State) (t : Nat) (sk : Strm) : (dropWatch s t sk).fe = s.fe := rfl
@[simp] theorem dropWatch_tlb (s : State) (t : Nat) (sk : Strm) : (dropWatch s t sk).tlb = s.tlb := rfl
@[simp] theorem dropWatch_walks (s : State) (t : Nat) (sk : Strm) : (dropWatch s t sk).walks = s.walks := rfl
@[simp] theorem dropWatch_held (s : State) (t : Nat) (sk : Strm) : (dropWatch s t sk).held = s.held := rfl
@[simp] theorem dropWatch_done (s : State) (t : Nat) (sk : Strm) : (dropWatch s t sk).done = s.done := rfl
@[simp] theorem dropWatch_replies (s : State) (t : Nat) (sk : Strm) : (dropWatch s t sk).replies = s.replies := rfl
@[simp] theorem dropWatch_mesh (s : State) (t : Nat) (sk : Strm) : (dropWatch s t sk).mesh = s.mesh := rfl
@[simp] theorem dropWatch_images (s : State) (t : Nat) (sk : Strm) : (dropWatch s t sk).images = s.images := rfl
@[simp] theorem dropWatch_nextCmd (s : State) (t : Nat) (sk : Strm) : (dropWatch s t sk).nextCmd = s.nextCmd := rfl
@[simp] theorem dropWatch_nextImage (s : State) (t : Nat) (sk : Strm) : (dropWatch s t sk).nextImage = s.nextImage := rfl
@[simp] theorem dropWatch_pkg (s : State) (t : Nat) (sk : Strm) : (dropWatch s t sk).pkg = s.pkg := rfl
@[simp] theorem dropWatch_boot (s : State) (t : Nat) (sk : Strm) : (dropWatch s t sk).boot = s.boot := rfl
@[simp] theorem dropWatch_out (s : State) (t : Nat) (sk : Strm) : (dropWatch s t sk).out = s.out := rfl
@[simp] theorem dropWatch_free (s : State) (t : Nat) (sk : Strm) : (dropWatch s t sk).free = s.free := rfl

/-! Reads after updates of the state. -/

@[simp] theorem tileOf_setTile_same (s : State) (t : Nat) (x : Tile) : tileOf (setTile s t x) t = x := by
  simp [tileOf, setTile]

theorem tileOf_setTile_other (s : State) (t u : Nat) (x : Tile) (h : u ≠ t) : tileOf (setTile s t x) u = tileOf s u := by
  simp [tileOf, setTile, mget_mset_other _ _ _ _ _ h]

@[simp] theorem streamIn_with_same (t : Tile) (sk : Strm) (x : Stream) : streamIn (withStream t sk x) sk = x := by
  cases sk <;> rfl

theorem streamIn_with_other (t : Tile) (a b : Strm) (x : Stream) (h : b ≠ a) : streamIn (withStream t a x) b = streamIn t b := by
  cases a <;> cases b <;> first | rfl | exact absurd rfl h

@[simp] theorem strmAt_setStrm_same (s : State) (t : Nat) (sk : Strm) (x : Stream) : strmAt (setStrm s t sk x) t sk = x := by
  simp [strmAt, setStrm]

theorem strmAt_setStrm_other (s : State) (t u : Nat) (a b : Strm) (x : Stream) (h : (u, b) ≠ (t, a)) :
    strmAt (setStrm s t a x) u b = strmAt s u b := by
  by_cases hu : u = t
  · subst hu
    have hb : b ≠ a := fun e => h (by rw [e])
    simp [strmAt, setStrm, streamIn_with_other _ _ _ _ hb]
  · simp [strmAt, setStrm, tileOf_setTile_other _ _ _ _ hu]

@[simp] theorem cur_setCur (s : State) (x : Stream) : cur (setCur s x) = x := by simp [cur, setCur]

@[simp] theorem setTile_setTile (s : State) (t : Nat) (x y : Tile) : tileOf (setTile (setTile s t x) t y) t = y := by simp

@[simp] theorem strmAt_offer (s : State) (o : Offer) (t : Nat) (sk : Strm) : strmAt (offer s o) t sk = strmAt s t sk := rfl

@[simp] theorem tileOf_offer (s : State) (o : Offer) (t : Nat) : tileOf (offer s o) t = tileOf s t := rfl

@[simp] theorem cur_offer (s : State) (o : Offer) : cur (offer s o) = cur s := rfl

@[simp] theorem offer_offers (s : State) (o : Offer) : (offer s o).fe.offers = s.fe.offers ++ [o] := rfl

@[simp] theorem strmAt_dropWatch (s : State) (t u : Nat) (a b : Strm) : strmAt (dropWatch s t a) u b = strmAt s u b := rfl

@[simp] theorem strmAt_setHandle (s : State) (t h u : Nat) (e : Word) (sk : Strm) :
    strmAt (setHandle s t h e) u sk = strmAt s u sk := rfl

@[simp] theorem strmAt_setCluster (s : State) (c u : Nat) (x : Cluster) (sk : Strm) :
    strmAt (setCluster s c x) u sk = strmAt s u sk := rfl

@[simp] theorem clusterOf_setCluster (s : State) (c : Nat) (x : Cluster) : clusterOf (setCluster s c x) c = x := by
  simp [clusterOf, setCluster]

@[simp] theorem clusterOf_setTile (s : State) (t c : Nat) (x : Tile) : clusterOf (setTile s t x) c = clusterOf s c := rfl

@[simp] theorem clusterOf_setStrm (s : State) (t c : Nat) (sk : Strm) (x : Stream) :
    clusterOf (setStrm s t sk x) c = clusterOf s c := rfl

@[simp] theorem handleAt_setHandle (s : State) (t h : Nat) (e : Word) : handleAt (setHandle s t h e) t h = e := by
  simp [handleAt, setHandle]

@[simp] theorem handleAt_setStrm (s : State) (t u h : Nat) (sk : Strm) (x : Stream) :
    handleAt (setStrm s t sk x) u h = handleAt s u h := rfl

/-- The parts of a tile that no stream holds stay when a stream changes. -/
@[simp] theorem withStream_job (t : Tile) (sk : Strm) (x : Stream) : (withStream t sk x).job = t.job := by cases sk <;> rfl

@[simp] theorem withStream_ft (t : Tile) (sk : Strm) (x : Stream) : (withStream t sk x).ft = t.ft := by cases sk <;> rfl

@[simp] theorem withStream_cfg (t : Tile) (sk : Strm) (x : Stream) : (withStream t sk x).cfg = t.cfg := by cases sk <;> rfl

@[simp] theorem withStream_standing (t : Tile) (sk : Strm) (x : Stream) : (withStream t sk x).standing = t.standing := by
  cases sk <;> rfl

theorem tileOf_setStrm (s : State) (t u : Nat) (sk : Strm) (x : Stream) :
    tileOf (setStrm s t sk x) u = if u = t then withStream (tileOf s t) sk x else tileOf s u := by
  by_cases h : u = t
  · subst h; simp [setStrm]
  · simp [setStrm, h, tileOf_setTile_other _ _ _ _ h]

@[simp] theorem jobOf_setStrm (s : State) (t u : Nat) (sk : Strm) (x : Stream) : jobOf (setStrm s t sk x) u = jobOf s u := by
  simp only [jobOf, tileOf_setStrm, setStrm_fe]
  split <;> simp_all

@[simp] theorem ctxnOf_setStrm (s : State) (t u : Nat) (sk : Strm) (x : Stream) : ctxnOf (setStrm s t sk x) u = ctxnOf s u := by
  simp only [ctxnOf, jobOf_setStrm, tileOf_setStrm]
  cases jobOf s u <;> simp only
  split <;> simp_all

/-! Updates of a stream. -/

@[simp] theorem popTokens_running (st : Stream) (r : Bool) (n : Nat) : (popTokens st r n).running = st.running := by unfold popTokens; split <;> rfl
@[simp] theorem popTokens_halted (st : Stream) (r : Bool) (n : Nat) : (popTokens st r n).halted = st.halted := by unfold popTokens; split <;> rfl
@[simp] theorem popTokens_pc (st : Stream) (r : Bool) (n : Nat) : (popTokens st r n).pc = st.pc := by unfold popTokens; split <;> rfl
@[simp] theorem popTokens_regs (st : Stream) (r : Bool) (n : Nat) : (popTokens st r n).regs = st.regs := by unfold popTokens; split <;> rfl
@[simp] theorem popTokens_rrb (st : Stream) (r : Bool) (n : Nat) : (popTokens st r n).rrb = st.rrb := by unfold popTokens; split <;> rfl
@[simp] theorem popTokens_lca (st : Stream) (r : Bool) (n : Nat) : (popTokens st r n).lca = st.lca := by unfold popTokens; split <;> rfl
@[simp] theorem popTokens_lcb (st : Stream) (r : Bool) (n : Nat) : (popTokens st r n).lcb = st.lcb := by unfold popTokens; split <;> rfl
@[simp] theorem popTokens_ftb (st : Stream) (r : Bool) (n : Nat) : (popTokens st r n).ftb = st.ftb := by unfold popTokens; split <;> rfl
@[simp] theorem popTokens_fe (st : Stream) (r : Bool) (n : Nat) : (popTokens st r n).fe = st.fe := by unfold popTokens; split <;> rfl
@[simp] theorem popTokens_srctr (st : Stream) (r : Bool) (n : Nat) : (popTokens st r n).srctr = st.srctr := by unfold popTokens; split <;> rfl
@[simp] theorem popTokens_cycle0 (st : Stream) (r : Bool) (n : Nat) : (popTokens st r n).cycle0 = st.cycle0 := by unfold popTokens; split <;> rfl
@[simp] theorem popTokens_q (st : Stream) (r : Bool) (n : Nat) : (popTokens st r n).q = st.q := by unfold popTokens; split <;> rfl
@[simp] theorem popTokens_templates (st : Stream) (r : Bool) (n : Nat) : (popTokens st r n).templates = st.templates := by unfold popTokens; split <;> rfl
@[simp] theorem popTokens_staging (st : Stream) (r : Bool) (n : Nat) : (popTokens st r n).staging = st.staging := by unfold popTokens; split <;> rfl
@[simp] theorem popTokens_tctx (st : Stream) (r : Bool) (n : Nat) : (popTokens st r n).tctx = st.tctx := by unfold popTokens; split <;> rfl
@[simp] theorem popTokens_epc (st : Stream) (r : Bool) (n : Nat) : (popTokens st r n).epc = st.epc := by unfold popTokens; split <;> rfl
@[simp] theorem popTokens_cause (st : Stream) (r : Bool) (n : Nat) : (popTokens st r n).cause = st.cause := by unfold popTokens; split <;> rfl
@[simp] theorem popTokens_tval (st : Stream) (r : Bool) (n : Nat) : (popTokens st r n).tval = st.tval := by unfold popTokens; split <;> rfl
@[simp] theorem popTokens_tvec (st : Stream) (r : Bool) (n : Nat) : (popTokens st r n).tvec = st.tvec := by unfold popTokens; split <;> rfl
@[simp] theorem popTokens_tena (st : Stream) (r : Bool) (n : Nat) : (popTokens st r n).tena = st.tena := by unfold popTokens; split <;> rfl
@[simp] theorem popTokens_imask (st : Stream) (r : Bool) (n : Nat) : (popTokens st r n).imask = st.imask := by unfold popTokens; split <;> rfl
@[simp] theorem popTokens_ipend (st : Stream) (r : Bool) (n : Nat) : (popTokens st r n).ipend = st.ipend := by unfold popTokens; split <;> rfl
@[simp] theorem popTokens_tcmp (st : Stream) (r : Bool) (n : Nat) : (popTokens st r n).tcmp = st.tcmp := by unfold popTokens; split <;> rfl
@[simp] theorem popTokens_tcmpFrom (st : Stream) (r : Bool) (n : Nat) : (popTokens st r n).tcmpFrom = st.tcmpFrom := by unfold popTokens; split <;> rfl
@[simp] theorem popTokens_tsv0 (st : Stream) (r : Bool) (n : Nat) : (popTokens st r n).tsv0 = st.tsv0 := by unfold popTokens; split <;> rfl
@[simp] theorem popTokens_tsv1 (st : Stream) (r : Bool) (n : Nat) : (popTokens st r n).tsv1 = st.tsv1 := by unfold popTokens; split <;> rfl
@[simp] theorem popTokens_tsv2 (st : Stream) (r : Bool) (n : Nat) : (popTokens st r n).tsv2 = st.tsv2 := by unfold popTokens; split <;> rfl
@[simp] theorem popTokens_tsv3 (st : Stream) (r : Bool) (n : Nat) : (popTokens st r n).tsv3 = st.tsv3 := by unfold popTokens; split <;> rfl
@[simp] theorem popTokens_wait (st : Stream) (r : Bool) (n : Nat) : (popTokens st r n).wait = st.wait := by unfold popTokens; split <;> rfl
@[simp] theorem popTokens_landings (st : Stream) (r : Bool) (n : Nat) : (popTokens st r n).landings = st.landings := by unfold popTokens; split <;> rfl
@[simp] theorem popTokens_posted (st : Stream) (r : Bool) (n : Nat) : (popTokens st r n).posted = st.posted := by unfold popTokens; split <;> rfl
@[simp] theorem popTokens_rdvzKnow (st : Stream) (r : Bool) (n : Nat) : (popTokens st r n).rdvzKnow = st.rdvzKnow := by unfold popTokens; split <;> rfl
@[simp] theorem popTokens_rels (st : Stream) (r : Bool) (n : Nat) : (popTokens st r n).rels = st.rels := by unfold popTokens; split <;> rfl
@[simp] theorem popTokens_seen (st : Stream) (r : Bool) (n : Nat) : (popTokens st r n).seen = st.seen := by unfold popTokens; split <;> rfl
@[simp] theorem popTokens_ended (st : Stream) (r : Bool) (n : Nat) : (popTokens st r n).ended = st.ended := by unfold popTokens; split <;> rfl
@[simp] theorem popTokens_viewBase (st : Stream) (r : Bool) (n : Nat) : (popTokens st r n).viewBase = st.viewBase := by unfold popTokens; split <;> rfl
@[simp] theorem popTokens_entered (st : Stream) (r : Bool) (n : Nat) : (popTokens st r n).entered = st.entered := by unfold popTokens; split <;> rfl
@[simp] theorem popTokens_reach (st : Stream) (r : Bool) (n : Nat) : (popTokens st r n).reach = st.reach := by unfold popTokens; split <;> rfl
@[simp] theorem popTokens_rdvzTile (st : Stream) (r : Bool) (n : Nat) : (popTokens st r n).rdvzTile = st.rdvzTile := by unfold popTokens; split <;> rfl
@[simp] theorem popTokens_rdvzBlock (st : Stream) (r : Bool) (n : Nat) : (popTokens st r n).rdvzBlock = st.rdvzBlock := by unfold popTokens; split <;> rfl
@[simp] theorem popTokens_rdvzPrior (st : Stream) (r : Bool) (n : Nat) : (popTokens st r n).rdvzPrior = st.rdvzPrior := by unfold popTokens; split <;> rfl
@[simp] theorem popTokens_fetchBase (st : Stream) (r : Bool) (n : Nat) : (popTokens st r n).fetchBase = st.fetchBase := by unfold popTokens; split <;> rfl
@[simp] theorem popTokens_fetchCount (st : Stream) (r : Bool) (n : Nat) : (popTokens st r n).fetchCount = st.fetchCount := by unfold popTokens; split <;> rfl
@[simp] theorem popTokens_issued (st : Stream) (r : Bool) (n : Nat) : (popTokens st r n).issued = st.issued := by unfold popTokens; split <;> rfl
@[simp] theorem popTokens_cmds (st : Stream) (r : Bool) (n : Nat) : (popTokens st r n).cmds = st.cmds := by unfold popTokens; split <;> rfl
@[simp] theorem popTokens_tasks (st : Stream) (r : Bool) (n : Nat) : (popTokens st r n).tasks = st.tasks := by unfold popTokens; split <;> rfl
@[simp] theorem popTokens_overDue (st : Stream) (r : Bool) (n : Nat) : (popTokens st r n).overDue = st.overDue := by unfold popTokens; split <;> rfl
@[simp] theorem popTokens_noReturn (st : Stream) (r : Bool) (n : Nat) : (popTokens st r n).noReturn = st.noReturn := by unfold popTokens; split <;> rfl
@[simp] theorem popTokens_lastIssue (st : Stream) (r : Bool) (n : Nat) : (popTokens st r n).lastIssue = st.lastIssue := by unfold popTokens; split <;> rfl
@[simp] theorem popTokens_watchdogPosted (st : Stream) (r : Bool) (n : Nat) : (popTokens st r n).watchdogPosted = st.watchdogPosted := by unfold popTokens; split <;> rfl

@[simp] theorem popBits_running (st : Stream) (tk : BitVec 4) : (popBits st tk).running = st.running := by unfold popBits; split <;> split <;> simp
@[simp] theorem popBits_halted (st : Stream) (tk : BitVec 4) : (popBits st tk).halted = st.halted := by unfold popBits; split <;> split <;> simp
@[simp] theorem popBits_pc (st : Stream) (tk : BitVec 4) : (popBits st tk).pc = st.pc := by unfold popBits; split <;> split <;> simp
@[simp] theorem popBits_regs (st : Stream) (tk : BitVec 4) : (popBits st tk).regs = st.regs := by unfold popBits; split <;> split <;> simp
@[simp] theorem popBits_rrb (st : Stream) (tk : BitVec 4) : (popBits st tk).rrb = st.rrb := by unfold popBits; split <;> split <;> simp
@[simp] theorem popBits_lca (st : Stream) (tk : BitVec 4) : (popBits st tk).lca = st.lca := by unfold popBits; split <;> split <;> simp
@[simp] theorem popBits_lcb (st : Stream) (tk : BitVec 4) : (popBits st tk).lcb = st.lcb := by unfold popBits; split <;> split <;> simp
@[simp] theorem popBits_ftb (st : Stream) (tk : BitVec 4) : (popBits st tk).ftb = st.ftb := by unfold popBits; split <;> split <;> simp
@[simp] theorem popBits_fe (st : Stream) (tk : BitVec 4) : (popBits st tk).fe = st.fe := by unfold popBits; split <;> split <;> simp
@[simp] theorem popBits_srctr (st : Stream) (tk : BitVec 4) : (popBits st tk).srctr = st.srctr := by unfold popBits; split <;> split <;> simp
@[simp] theorem popBits_cycle0 (st : Stream) (tk : BitVec 4) : (popBits st tk).cycle0 = st.cycle0 := by unfold popBits; split <;> split <;> simp
@[simp] theorem popBits_q (st : Stream) (tk : BitVec 4) : (popBits st tk).q = st.q := by unfold popBits; split <;> split <;> simp
@[simp] theorem popBits_templates (st : Stream) (tk : BitVec 4) : (popBits st tk).templates = st.templates := by unfold popBits; split <;> split <;> simp
@[simp] theorem popBits_staging (st : Stream) (tk : BitVec 4) : (popBits st tk).staging = st.staging := by unfold popBits; split <;> split <;> simp
@[simp] theorem popBits_tctx (st : Stream) (tk : BitVec 4) : (popBits st tk).tctx = st.tctx := by unfold popBits; split <;> split <;> simp
@[simp] theorem popBits_epc (st : Stream) (tk : BitVec 4) : (popBits st tk).epc = st.epc := by unfold popBits; split <;> split <;> simp
@[simp] theorem popBits_cause (st : Stream) (tk : BitVec 4) : (popBits st tk).cause = st.cause := by unfold popBits; split <;> split <;> simp
@[simp] theorem popBits_tval (st : Stream) (tk : BitVec 4) : (popBits st tk).tval = st.tval := by unfold popBits; split <;> split <;> simp
@[simp] theorem popBits_tvec (st : Stream) (tk : BitVec 4) : (popBits st tk).tvec = st.tvec := by unfold popBits; split <;> split <;> simp
@[simp] theorem popBits_tena (st : Stream) (tk : BitVec 4) : (popBits st tk).tena = st.tena := by unfold popBits; split <;> split <;> simp
@[simp] theorem popBits_imask (st : Stream) (tk : BitVec 4) : (popBits st tk).imask = st.imask := by unfold popBits; split <;> split <;> simp
@[simp] theorem popBits_ipend (st : Stream) (tk : BitVec 4) : (popBits st tk).ipend = st.ipend := by unfold popBits; split <;> split <;> simp
@[simp] theorem popBits_tcmp (st : Stream) (tk : BitVec 4) : (popBits st tk).tcmp = st.tcmp := by unfold popBits; split <;> split <;> simp
@[simp] theorem popBits_tcmpFrom (st : Stream) (tk : BitVec 4) : (popBits st tk).tcmpFrom = st.tcmpFrom := by unfold popBits; split <;> split <;> simp
@[simp] theorem popBits_tsv0 (st : Stream) (tk : BitVec 4) : (popBits st tk).tsv0 = st.tsv0 := by unfold popBits; split <;> split <;> simp
@[simp] theorem popBits_tsv1 (st : Stream) (tk : BitVec 4) : (popBits st tk).tsv1 = st.tsv1 := by unfold popBits; split <;> split <;> simp
@[simp] theorem popBits_tsv2 (st : Stream) (tk : BitVec 4) : (popBits st tk).tsv2 = st.tsv2 := by unfold popBits; split <;> split <;> simp
@[simp] theorem popBits_tsv3 (st : Stream) (tk : BitVec 4) : (popBits st tk).tsv3 = st.tsv3 := by unfold popBits; split <;> split <;> simp
@[simp] theorem popBits_wait (st : Stream) (tk : BitVec 4) : (popBits st tk).wait = st.wait := by unfold popBits; split <;> split <;> simp
@[simp] theorem popBits_landings (st : Stream) (tk : BitVec 4) : (popBits st tk).landings = st.landings := by unfold popBits; split <;> split <;> simp
@[simp] theorem popBits_posted (st : Stream) (tk : BitVec 4) : (popBits st tk).posted = st.posted := by unfold popBits; split <;> split <;> simp
@[simp] theorem popBits_rdvzKnow (st : Stream) (tk : BitVec 4) : (popBits st tk).rdvzKnow = st.rdvzKnow := by unfold popBits; split <;> split <;> simp
@[simp] theorem popBits_rels (st : Stream) (tk : BitVec 4) : (popBits st tk).rels = st.rels := by unfold popBits; split <;> split <;> simp
@[simp] theorem popBits_seen (st : Stream) (tk : BitVec 4) : (popBits st tk).seen = st.seen := by unfold popBits; split <;> split <;> simp
@[simp] theorem popBits_ended (st : Stream) (tk : BitVec 4) : (popBits st tk).ended = st.ended := by unfold popBits; split <;> split <;> simp
@[simp] theorem popBits_viewBase (st : Stream) (tk : BitVec 4) : (popBits st tk).viewBase = st.viewBase := by unfold popBits; split <;> split <;> simp
@[simp] theorem popBits_entered (st : Stream) (tk : BitVec 4) : (popBits st tk).entered = st.entered := by unfold popBits; split <;> split <;> simp
@[simp] theorem popBits_reach (st : Stream) (tk : BitVec 4) : (popBits st tk).reach = st.reach := by unfold popBits; split <;> split <;> simp
@[simp] theorem popBits_rdvzTile (st : Stream) (tk : BitVec 4) : (popBits st tk).rdvzTile = st.rdvzTile := by unfold popBits; split <;> split <;> simp
@[simp] theorem popBits_rdvzBlock (st : Stream) (tk : BitVec 4) : (popBits st tk).rdvzBlock = st.rdvzBlock := by unfold popBits; split <;> split <;> simp
@[simp] theorem popBits_rdvzPrior (st : Stream) (tk : BitVec 4) : (popBits st tk).rdvzPrior = st.rdvzPrior := by unfold popBits; split <;> split <;> simp
@[simp] theorem popBits_fetchBase (st : Stream) (tk : BitVec 4) : (popBits st tk).fetchBase = st.fetchBase := by unfold popBits; split <;> split <;> simp
@[simp] theorem popBits_fetchCount (st : Stream) (tk : BitVec 4) : (popBits st tk).fetchCount = st.fetchCount := by unfold popBits; split <;> split <;> simp
@[simp] theorem popBits_issued (st : Stream) (tk : BitVec 4) : (popBits st tk).issued = st.issued := by unfold popBits; split <;> split <;> simp
@[simp] theorem popBits_cmds (st : Stream) (tk : BitVec 4) : (popBits st tk).cmds = st.cmds := by unfold popBits; split <;> split <;> simp
@[simp] theorem popBits_tasks (st : Stream) (tk : BitVec 4) : (popBits st tk).tasks = st.tasks := by unfold popBits; split <;> split <;> simp
@[simp] theorem popBits_overDue (st : Stream) (tk : BitVec 4) : (popBits st tk).overDue = st.overDue := by unfold popBits; split <;> split <;> simp
@[simp] theorem popBits_noReturn (st : Stream) (tk : BitVec 4) : (popBits st tk).noReturn = st.noReturn := by unfold popBits; split <;> split <;> simp
@[simp] theorem popBits_lastIssue (st : Stream) (tk : BitVec 4) : (popBits st tk).lastIssue = st.lastIssue := by unfold popBits; split <;> split <;> simp
@[simp] theorem popBits_watchdogPosted (st : Stream) (tk : BitVec 4) : (popBits st tk).watchdogPosted = st.watchdogPosted := by unfold popBits; split <;> split <;> simp

@[simp] theorem setReg_running (st : Stream) (p : Nat) (r : Reg) : (setReg st p r).running = st.running := rfl
@[simp] theorem setReg_halted (st : Stream) (p : Nat) (r : Reg) : (setReg st p r).halted = st.halted := rfl
@[simp] theorem setReg_pc (st : Stream) (p : Nat) (r : Reg) : (setReg st p r).pc = st.pc := rfl
@[simp] theorem setReg_rrb (st : Stream) (p : Nat) (r : Reg) : (setReg st p r).rrb = st.rrb := rfl
@[simp] theorem setReg_lca (st : Stream) (p : Nat) (r : Reg) : (setReg st p r).lca = st.lca := rfl
@[simp] theorem setReg_lcb (st : Stream) (p : Nat) (r : Reg) : (setReg st p r).lcb = st.lcb := rfl
@[simp] theorem setReg_ftb (st : Stream) (p : Nat) (r : Reg) : (setReg st p r).ftb = st.ftb := rfl
@[simp] theorem setReg_fe (st : Stream) (p : Nat) (r : Reg) : (setReg st p r).fe = st.fe := rfl
@[simp] theorem setReg_srctr (st : Stream) (p : Nat) (r : Reg) : (setReg st p r).srctr = st.srctr := rfl
@[simp] theorem setReg_cycle0 (st : Stream) (p : Nat) (r : Reg) : (setReg st p r).cycle0 = st.cycle0 := rfl
@[simp] theorem setReg_q (st : Stream) (p : Nat) (r : Reg) : (setReg st p r).q = st.q := rfl
@[simp] theorem setReg_templates (st : Stream) (p : Nat) (r : Reg) : (setReg st p r).templates = st.templates := rfl
@[simp] theorem setReg_staging (st : Stream) (p : Nat) (r : Reg) : (setReg st p r).staging = st.staging := rfl
@[simp] theorem setReg_tctx (st : Stream) (p : Nat) (r : Reg) : (setReg st p r).tctx = st.tctx := rfl
@[simp] theorem setReg_epc (st : Stream) (p : Nat) (r : Reg) : (setReg st p r).epc = st.epc := rfl
@[simp] theorem setReg_cause (st : Stream) (p : Nat) (r : Reg) : (setReg st p r).cause = st.cause := rfl
@[simp] theorem setReg_tval (st : Stream) (p : Nat) (r : Reg) : (setReg st p r).tval = st.tval := rfl
@[simp] theorem setReg_tvec (st : Stream) (p : Nat) (r : Reg) : (setReg st p r).tvec = st.tvec := rfl
@[simp] theorem setReg_tena (st : Stream) (p : Nat) (r : Reg) : (setReg st p r).tena = st.tena := rfl
@[simp] theorem setReg_imask (st : Stream) (p : Nat) (r : Reg) : (setReg st p r).imask = st.imask := rfl
@[simp] theorem setReg_ipend (st : Stream) (p : Nat) (r : Reg) : (setReg st p r).ipend = st.ipend := rfl
@[simp] theorem setReg_tcmp (st : Stream) (p : Nat) (r : Reg) : (setReg st p r).tcmp = st.tcmp := rfl
@[simp] theorem setReg_tcmpFrom (st : Stream) (p : Nat) (r : Reg) : (setReg st p r).tcmpFrom = st.tcmpFrom := rfl
@[simp] theorem setReg_tsv0 (st : Stream) (p : Nat) (r : Reg) : (setReg st p r).tsv0 = st.tsv0 := rfl
@[simp] theorem setReg_tsv1 (st : Stream) (p : Nat) (r : Reg) : (setReg st p r).tsv1 = st.tsv1 := rfl
@[simp] theorem setReg_tsv2 (st : Stream) (p : Nat) (r : Reg) : (setReg st p r).tsv2 = st.tsv2 := rfl
@[simp] theorem setReg_tsv3 (st : Stream) (p : Nat) (r : Reg) : (setReg st p r).tsv3 = st.tsv3 := rfl
@[simp] theorem setReg_wait (st : Stream) (p : Nat) (r : Reg) : (setReg st p r).wait = st.wait := rfl
@[simp] theorem setReg_landings (st : Stream) (p : Nat) (r : Reg) : (setReg st p r).landings = st.landings := rfl
@[simp] theorem setReg_posted (st : Stream) (p : Nat) (r : Reg) : (setReg st p r).posted = st.posted := rfl
@[simp] theorem setReg_fromLeft (st : Stream) (p : Nat) (r : Reg) : (setReg st p r).fromLeft = st.fromLeft := rfl
@[simp] theorem setReg_fromRight (st : Stream) (p : Nat) (r : Reg) : (setReg st p r).fromRight = st.fromRight := rfl
@[simp] theorem setReg_leftKnow (st : Stream) (p : Nat) (r : Reg) : (setReg st p r).leftKnow = st.leftKnow := rfl
@[simp] theorem setReg_rightKnow (st : Stream) (p : Nat) (r : Reg) : (setReg st p r).rightKnow = st.rightKnow := rfl
@[simp] theorem setReg_know (st : Stream) (p : Nat) (r : Reg) : (setReg st p r).know = st.know := rfl
@[simp] theorem setReg_rdvzKnow (st : Stream) (p : Nat) (r : Reg) : (setReg st p r).rdvzKnow = st.rdvzKnow := rfl
@[simp] theorem setReg_rels (st : Stream) (p : Nat) (r : Reg) : (setReg st p r).rels = st.rels := rfl
@[simp] theorem setReg_seen (st : Stream) (p : Nat) (r : Reg) : (setReg st p r).seen = st.seen := rfl
@[simp] theorem setReg_ended (st : Stream) (p : Nat) (r : Reg) : (setReg st p r).ended = st.ended := rfl
@[simp] theorem setReg_viewBase (st : Stream) (p : Nat) (r : Reg) : (setReg st p r).viewBase = st.viewBase := rfl
@[simp] theorem setReg_entered (st : Stream) (p : Nat) (r : Reg) : (setReg st p r).entered = st.entered := rfl
@[simp] theorem setReg_reach (st : Stream) (p : Nat) (r : Reg) : (setReg st p r).reach = st.reach := rfl
@[simp] theorem setReg_rdvzTile (st : Stream) (p : Nat) (r : Reg) : (setReg st p r).rdvzTile = st.rdvzTile := rfl
@[simp] theorem setReg_rdvzBlock (st : Stream) (p : Nat) (r : Reg) : (setReg st p r).rdvzBlock = st.rdvzBlock := rfl
@[simp] theorem setReg_rdvzPrior (st : Stream) (p : Nat) (r : Reg) : (setReg st p r).rdvzPrior = st.rdvzPrior := rfl
@[simp] theorem setReg_fetchBase (st : Stream) (p : Nat) (r : Reg) : (setReg st p r).fetchBase = st.fetchBase := rfl
@[simp] theorem setReg_fetchCount (st : Stream) (p : Nat) (r : Reg) : (setReg st p r).fetchCount = st.fetchCount := rfl
@[simp] theorem setReg_issued (st : Stream) (p : Nat) (r : Reg) : (setReg st p r).issued = st.issued := rfl
@[simp] theorem setReg_cmds (st : Stream) (p : Nat) (r : Reg) : (setReg st p r).cmds = st.cmds := rfl
@[simp] theorem setReg_tasks (st : Stream) (p : Nat) (r : Reg) : (setReg st p r).tasks = st.tasks := rfl
@[simp] theorem setReg_overDue (st : Stream) (p : Nat) (r : Reg) : (setReg st p r).overDue = st.overDue := rfl
@[simp] theorem setReg_noReturn (st : Stream) (p : Nat) (r : Reg) : (setReg st p r).noReturn = st.noReturn := rfl
@[simp] theorem setReg_lastIssue (st : Stream) (p : Nat) (r : Reg) : (setReg st p r).lastIssue = st.lastIssue := rfl
@[simp] theorem setReg_watchdogPosted (st : Stream) (p : Nat) (r : Reg) : (setReg st p r).watchdogPosted = st.watchdogPosted := rfl

@[simp] theorem putPhys_running (st : Stream) (p : Nat) (v : Word) : (putPhys st p v).running = st.running := by unfold putPhys; split <;> rfl
@[simp] theorem putPhys_halted (st : Stream) (p : Nat) (v : Word) : (putPhys st p v).halted = st.halted := by unfold putPhys; split <;> rfl
@[simp] theorem putPhys_pc (st : Stream) (p : Nat) (v : Word) : (putPhys st p v).pc = st.pc := by unfold putPhys; split <;> rfl
@[simp] theorem putPhys_rrb (st : Stream) (p : Nat) (v : Word) : (putPhys st p v).rrb = st.rrb := by unfold putPhys; split <;> rfl
@[simp] theorem putPhys_lca (st : Stream) (p : Nat) (v : Word) : (putPhys st p v).lca = st.lca := by unfold putPhys; split <;> rfl
@[simp] theorem putPhys_lcb (st : Stream) (p : Nat) (v : Word) : (putPhys st p v).lcb = st.lcb := by unfold putPhys; split <;> rfl
@[simp] theorem putPhys_ftb (st : Stream) (p : Nat) (v : Word) : (putPhys st p v).ftb = st.ftb := by unfold putPhys; split <;> rfl
@[simp] theorem putPhys_fe (st : Stream) (p : Nat) (v : Word) : (putPhys st p v).fe = st.fe := by unfold putPhys; split <;> rfl
@[simp] theorem putPhys_srctr (st : Stream) (p : Nat) (v : Word) : (putPhys st p v).srctr = st.srctr := by unfold putPhys; split <;> rfl
@[simp] theorem putPhys_cycle0 (st : Stream) (p : Nat) (v : Word) : (putPhys st p v).cycle0 = st.cycle0 := by unfold putPhys; split <;> rfl
@[simp] theorem putPhys_q (st : Stream) (p : Nat) (v : Word) : (putPhys st p v).q = st.q := by unfold putPhys; split <;> rfl
@[simp] theorem putPhys_templates (st : Stream) (p : Nat) (v : Word) : (putPhys st p v).templates = st.templates := by unfold putPhys; split <;> rfl
@[simp] theorem putPhys_staging (st : Stream) (p : Nat) (v : Word) : (putPhys st p v).staging = st.staging := by unfold putPhys; split <;> rfl
@[simp] theorem putPhys_tctx (st : Stream) (p : Nat) (v : Word) : (putPhys st p v).tctx = st.tctx := by unfold putPhys; split <;> rfl
@[simp] theorem putPhys_epc (st : Stream) (p : Nat) (v : Word) : (putPhys st p v).epc = st.epc := by unfold putPhys; split <;> rfl
@[simp] theorem putPhys_cause (st : Stream) (p : Nat) (v : Word) : (putPhys st p v).cause = st.cause := by unfold putPhys; split <;> rfl
@[simp] theorem putPhys_tval (st : Stream) (p : Nat) (v : Word) : (putPhys st p v).tval = st.tval := by unfold putPhys; split <;> rfl
@[simp] theorem putPhys_tvec (st : Stream) (p : Nat) (v : Word) : (putPhys st p v).tvec = st.tvec := by unfold putPhys; split <;> rfl
@[simp] theorem putPhys_tena (st : Stream) (p : Nat) (v : Word) : (putPhys st p v).tena = st.tena := by unfold putPhys; split <;> rfl
@[simp] theorem putPhys_imask (st : Stream) (p : Nat) (v : Word) : (putPhys st p v).imask = st.imask := by unfold putPhys; split <;> rfl
@[simp] theorem putPhys_ipend (st : Stream) (p : Nat) (v : Word) : (putPhys st p v).ipend = st.ipend := by unfold putPhys; split <;> rfl
@[simp] theorem putPhys_tcmp (st : Stream) (p : Nat) (v : Word) : (putPhys st p v).tcmp = st.tcmp := by unfold putPhys; split <;> rfl
@[simp] theorem putPhys_tcmpFrom (st : Stream) (p : Nat) (v : Word) : (putPhys st p v).tcmpFrom = st.tcmpFrom := by unfold putPhys; split <;> rfl
@[simp] theorem putPhys_tsv0 (st : Stream) (p : Nat) (v : Word) : (putPhys st p v).tsv0 = st.tsv0 := by unfold putPhys; split <;> rfl
@[simp] theorem putPhys_tsv1 (st : Stream) (p : Nat) (v : Word) : (putPhys st p v).tsv1 = st.tsv1 := by unfold putPhys; split <;> rfl
@[simp] theorem putPhys_tsv2 (st : Stream) (p : Nat) (v : Word) : (putPhys st p v).tsv2 = st.tsv2 := by unfold putPhys; split <;> rfl
@[simp] theorem putPhys_tsv3 (st : Stream) (p : Nat) (v : Word) : (putPhys st p v).tsv3 = st.tsv3 := by unfold putPhys; split <;> rfl
@[simp] theorem putPhys_wait (st : Stream) (p : Nat) (v : Word) : (putPhys st p v).wait = st.wait := by unfold putPhys; split <;> rfl
@[simp] theorem putPhys_landings (st : Stream) (p : Nat) (v : Word) : (putPhys st p v).landings = st.landings := by unfold putPhys; split <;> rfl
@[simp] theorem putPhys_posted (st : Stream) (p : Nat) (v : Word) : (putPhys st p v).posted = st.posted := by unfold putPhys; split <;> rfl
@[simp] theorem putPhys_fromLeft (st : Stream) (p : Nat) (v : Word) : (putPhys st p v).fromLeft = st.fromLeft := by unfold putPhys; split <;> rfl
@[simp] theorem putPhys_fromRight (st : Stream) (p : Nat) (v : Word) : (putPhys st p v).fromRight = st.fromRight := by unfold putPhys; split <;> rfl
@[simp] theorem putPhys_leftKnow (st : Stream) (p : Nat) (v : Word) : (putPhys st p v).leftKnow = st.leftKnow := by unfold putPhys; split <;> rfl
@[simp] theorem putPhys_rightKnow (st : Stream) (p : Nat) (v : Word) : (putPhys st p v).rightKnow = st.rightKnow := by unfold putPhys; split <;> rfl
@[simp] theorem putPhys_know (st : Stream) (p : Nat) (v : Word) : (putPhys st p v).know = st.know := by unfold putPhys; split <;> rfl
@[simp] theorem putPhys_rdvzKnow (st : Stream) (p : Nat) (v : Word) : (putPhys st p v).rdvzKnow = st.rdvzKnow := by unfold putPhys; split <;> rfl
@[simp] theorem putPhys_rels (st : Stream) (p : Nat) (v : Word) : (putPhys st p v).rels = st.rels := by unfold putPhys; split <;> rfl
@[simp] theorem putPhys_seen (st : Stream) (p : Nat) (v : Word) : (putPhys st p v).seen = st.seen := by unfold putPhys; split <;> rfl
@[simp] theorem putPhys_ended (st : Stream) (p : Nat) (v : Word) : (putPhys st p v).ended = st.ended := by unfold putPhys; split <;> rfl
@[simp] theorem putPhys_viewBase (st : Stream) (p : Nat) (v : Word) : (putPhys st p v).viewBase = st.viewBase := by unfold putPhys; split <;> rfl
@[simp] theorem putPhys_entered (st : Stream) (p : Nat) (v : Word) : (putPhys st p v).entered = st.entered := by unfold putPhys; split <;> rfl
@[simp] theorem putPhys_reach (st : Stream) (p : Nat) (v : Word) : (putPhys st p v).reach = st.reach := by unfold putPhys; split <;> rfl
@[simp] theorem putPhys_rdvzTile (st : Stream) (p : Nat) (v : Word) : (putPhys st p v).rdvzTile = st.rdvzTile := by unfold putPhys; split <;> rfl
@[simp] theorem putPhys_rdvzBlock (st : Stream) (p : Nat) (v : Word) : (putPhys st p v).rdvzBlock = st.rdvzBlock := by unfold putPhys; split <;> rfl
@[simp] theorem putPhys_rdvzPrior (st : Stream) (p : Nat) (v : Word) : (putPhys st p v).rdvzPrior = st.rdvzPrior := by unfold putPhys; split <;> rfl
@[simp] theorem putPhys_fetchBase (st : Stream) (p : Nat) (v : Word) : (putPhys st p v).fetchBase = st.fetchBase := by unfold putPhys; split <;> rfl
@[simp] theorem putPhys_fetchCount (st : Stream) (p : Nat) (v : Word) : (putPhys st p v).fetchCount = st.fetchCount := by unfold putPhys; split <;> rfl
@[simp] theorem putPhys_issued (st : Stream) (p : Nat) (v : Word) : (putPhys st p v).issued = st.issued := by unfold putPhys; split <;> rfl
@[simp] theorem putPhys_cmds (st : Stream) (p : Nat) (v : Word) : (putPhys st p v).cmds = st.cmds := by unfold putPhys; split <;> rfl
@[simp] theorem putPhys_tasks (st : Stream) (p : Nat) (v : Word) : (putPhys st p v).tasks = st.tasks := by unfold putPhys; split <;> rfl
@[simp] theorem putPhys_overDue (st : Stream) (p : Nat) (v : Word) : (putPhys st p v).overDue = st.overDue := by unfold putPhys; split <;> rfl
@[simp] theorem putPhys_noReturn (st : Stream) (p : Nat) (v : Word) : (putPhys st p v).noReturn = st.noReturn := by unfold putPhys; split <;> rfl
@[simp] theorem putPhys_lastIssue (st : Stream) (p : Nat) (v : Word) : (putPhys st p v).lastIssue = st.lastIssue := by unfold putPhys; split <;> rfl
@[simp] theorem putPhys_watchdogPosted (st : Stream) (p : Nat) (v : Word) : (putPhys st p v).watchdogPosted = st.watchdogPosted := by unfold putPhys; split <;> rfl

@[simp] theorem putReg_running (st : Stream) (r : BitVec 5) (v : Word) : (putReg st r v).running = st.running := by simp [putReg]
@[simp] theorem putReg_halted (st : Stream) (r : BitVec 5) (v : Word) : (putReg st r v).halted = st.halted := by simp [putReg]
@[simp] theorem putReg_pc (st : Stream) (r : BitVec 5) (v : Word) : (putReg st r v).pc = st.pc := by simp [putReg]
@[simp] theorem putReg_rrb (st : Stream) (r : BitVec 5) (v : Word) : (putReg st r v).rrb = st.rrb := by simp [putReg]
@[simp] theorem putReg_lca (st : Stream) (r : BitVec 5) (v : Word) : (putReg st r v).lca = st.lca := by simp [putReg]
@[simp] theorem putReg_lcb (st : Stream) (r : BitVec 5) (v : Word) : (putReg st r v).lcb = st.lcb := by simp [putReg]
@[simp] theorem putReg_ftb (st : Stream) (r : BitVec 5) (v : Word) : (putReg st r v).ftb = st.ftb := by simp [putReg]
@[simp] theorem putReg_fe (st : Stream) (r : BitVec 5) (v : Word) : (putReg st r v).fe = st.fe := by simp [putReg]
@[simp] theorem putReg_srctr (st : Stream) (r : BitVec 5) (v : Word) : (putReg st r v).srctr = st.srctr := by simp [putReg]
@[simp] theorem putReg_cycle0 (st : Stream) (r : BitVec 5) (v : Word) : (putReg st r v).cycle0 = st.cycle0 := by simp [putReg]
@[simp] theorem putReg_q (st : Stream) (r : BitVec 5) (v : Word) : (putReg st r v).q = st.q := by simp [putReg]
@[simp] theorem putReg_templates (st : Stream) (r : BitVec 5) (v : Word) : (putReg st r v).templates = st.templates := by simp [putReg]
@[simp] theorem putReg_staging (st : Stream) (r : BitVec 5) (v : Word) : (putReg st r v).staging = st.staging := by simp [putReg]
@[simp] theorem putReg_tctx (st : Stream) (r : BitVec 5) (v : Word) : (putReg st r v).tctx = st.tctx := by simp [putReg]
@[simp] theorem putReg_epc (st : Stream) (r : BitVec 5) (v : Word) : (putReg st r v).epc = st.epc := by simp [putReg]
@[simp] theorem putReg_cause (st : Stream) (r : BitVec 5) (v : Word) : (putReg st r v).cause = st.cause := by simp [putReg]
@[simp] theorem putReg_tval (st : Stream) (r : BitVec 5) (v : Word) : (putReg st r v).tval = st.tval := by simp [putReg]
@[simp] theorem putReg_tvec (st : Stream) (r : BitVec 5) (v : Word) : (putReg st r v).tvec = st.tvec := by simp [putReg]
@[simp] theorem putReg_tena (st : Stream) (r : BitVec 5) (v : Word) : (putReg st r v).tena = st.tena := by simp [putReg]
@[simp] theorem putReg_imask (st : Stream) (r : BitVec 5) (v : Word) : (putReg st r v).imask = st.imask := by simp [putReg]
@[simp] theorem putReg_ipend (st : Stream) (r : BitVec 5) (v : Word) : (putReg st r v).ipend = st.ipend := by simp [putReg]
@[simp] theorem putReg_tcmp (st : Stream) (r : BitVec 5) (v : Word) : (putReg st r v).tcmp = st.tcmp := by simp [putReg]
@[simp] theorem putReg_tcmpFrom (st : Stream) (r : BitVec 5) (v : Word) : (putReg st r v).tcmpFrom = st.tcmpFrom := by simp [putReg]
@[simp] theorem putReg_tsv0 (st : Stream) (r : BitVec 5) (v : Word) : (putReg st r v).tsv0 = st.tsv0 := by simp [putReg]
@[simp] theorem putReg_tsv1 (st : Stream) (r : BitVec 5) (v : Word) : (putReg st r v).tsv1 = st.tsv1 := by simp [putReg]
@[simp] theorem putReg_tsv2 (st : Stream) (r : BitVec 5) (v : Word) : (putReg st r v).tsv2 = st.tsv2 := by simp [putReg]
@[simp] theorem putReg_tsv3 (st : Stream) (r : BitVec 5) (v : Word) : (putReg st r v).tsv3 = st.tsv3 := by simp [putReg]
@[simp] theorem putReg_wait (st : Stream) (r : BitVec 5) (v : Word) : (putReg st r v).wait = st.wait := by simp [putReg]
@[simp] theorem putReg_landings (st : Stream) (r : BitVec 5) (v : Word) : (putReg st r v).landings = st.landings := by simp [putReg]
@[simp] theorem putReg_posted (st : Stream) (r : BitVec 5) (v : Word) : (putReg st r v).posted = st.posted := by simp [putReg]
@[simp] theorem putReg_fromLeft (st : Stream) (r : BitVec 5) (v : Word) : (putReg st r v).fromLeft = st.fromLeft := by simp [putReg]
@[simp] theorem putReg_fromRight (st : Stream) (r : BitVec 5) (v : Word) : (putReg st r v).fromRight = st.fromRight := by simp [putReg]
@[simp] theorem putReg_leftKnow (st : Stream) (r : BitVec 5) (v : Word) : (putReg st r v).leftKnow = st.leftKnow := by simp [putReg]
@[simp] theorem putReg_rightKnow (st : Stream) (r : BitVec 5) (v : Word) : (putReg st r v).rightKnow = st.rightKnow := by simp [putReg]
@[simp] theorem putReg_know (st : Stream) (r : BitVec 5) (v : Word) : (putReg st r v).know = st.know := by simp [putReg]
@[simp] theorem putReg_rdvzKnow (st : Stream) (r : BitVec 5) (v : Word) : (putReg st r v).rdvzKnow = st.rdvzKnow := by simp [putReg]
@[simp] theorem putReg_rels (st : Stream) (r : BitVec 5) (v : Word) : (putReg st r v).rels = st.rels := by simp [putReg]
@[simp] theorem putReg_seen (st : Stream) (r : BitVec 5) (v : Word) : (putReg st r v).seen = st.seen := by simp [putReg]
@[simp] theorem putReg_ended (st : Stream) (r : BitVec 5) (v : Word) : (putReg st r v).ended = st.ended := by simp [putReg]
@[simp] theorem putReg_viewBase (st : Stream) (r : BitVec 5) (v : Word) : (putReg st r v).viewBase = st.viewBase := by simp [putReg]
@[simp] theorem putReg_entered (st : Stream) (r : BitVec 5) (v : Word) : (putReg st r v).entered = st.entered := by simp [putReg]
@[simp] theorem putReg_reach (st : Stream) (r : BitVec 5) (v : Word) : (putReg st r v).reach = st.reach := by simp [putReg]
@[simp] theorem putReg_rdvzTile (st : Stream) (r : BitVec 5) (v : Word) : (putReg st r v).rdvzTile = st.rdvzTile := by simp [putReg]
@[simp] theorem putReg_rdvzBlock (st : Stream) (r : BitVec 5) (v : Word) : (putReg st r v).rdvzBlock = st.rdvzBlock := by simp [putReg]
@[simp] theorem putReg_rdvzPrior (st : Stream) (r : BitVec 5) (v : Word) : (putReg st r v).rdvzPrior = st.rdvzPrior := by simp [putReg]
@[simp] theorem putReg_fetchBase (st : Stream) (r : BitVec 5) (v : Word) : (putReg st r v).fetchBase = st.fetchBase := by simp [putReg]
@[simp] theorem putReg_fetchCount (st : Stream) (r : BitVec 5) (v : Word) : (putReg st r v).fetchCount = st.fetchCount := by simp [putReg]
@[simp] theorem putReg_issued (st : Stream) (r : BitVec 5) (v : Word) : (putReg st r v).issued = st.issued := by simp [putReg]
@[simp] theorem putReg_cmds (st : Stream) (r : BitVec 5) (v : Word) : (putReg st r v).cmds = st.cmds := by simp [putReg]
@[simp] theorem putReg_tasks (st : Stream) (r : BitVec 5) (v : Word) : (putReg st r v).tasks = st.tasks := by simp [putReg]
@[simp] theorem putReg_overDue (st : Stream) (r : BitVec 5) (v : Word) : (putReg st r v).overDue = st.overDue := by simp [putReg]
@[simp] theorem putReg_noReturn (st : Stream) (r : BitVec 5) (v : Word) : (putReg st r v).noReturn = st.noReturn := by simp [putReg]
@[simp] theorem putReg_lastIssue (st : Stream) (r : BitVec 5) (v : Word) : (putReg st r v).lastIssue = st.lastIssue := by simp [putReg]
@[simp] theorem putReg_watchdogPosted (st : Stream) (r : BitVec 5) (v : Word) : (putReg st r v).watchdogPosted = st.watchdogPosted := by simp [putReg]

@[simp] theorem clearFull_running (st : Stream) (p : Nat) : (clearFull st p).running = st.running := by unfold clearFull; split <;> rfl
@[simp] theorem clearFull_halted (st : Stream) (p : Nat) : (clearFull st p).halted = st.halted := by unfold clearFull; split <;> rfl
@[simp] theorem clearFull_pc (st : Stream) (p : Nat) : (clearFull st p).pc = st.pc := by unfold clearFull; split <;> rfl
@[simp] theorem clearFull_rrb (st : Stream) (p : Nat) : (clearFull st p).rrb = st.rrb := by unfold clearFull; split <;> rfl
@[simp] theorem clearFull_lca (st : Stream) (p : Nat) : (clearFull st p).lca = st.lca := by unfold clearFull; split <;> rfl
@[simp] theorem clearFull_lcb (st : Stream) (p : Nat) : (clearFull st p).lcb = st.lcb := by unfold clearFull; split <;> rfl
@[simp] theorem clearFull_ftb (st : Stream) (p : Nat) : (clearFull st p).ftb = st.ftb := by unfold clearFull; split <;> rfl
@[simp] theorem clearFull_fe (st : Stream) (p : Nat) : (clearFull st p).fe = st.fe := by unfold clearFull; split <;> rfl
@[simp] theorem clearFull_srctr (st : Stream) (p : Nat) : (clearFull st p).srctr = st.srctr := by unfold clearFull; split <;> rfl
@[simp] theorem clearFull_cycle0 (st : Stream) (p : Nat) : (clearFull st p).cycle0 = st.cycle0 := by unfold clearFull; split <;> rfl
@[simp] theorem clearFull_q (st : Stream) (p : Nat) : (clearFull st p).q = st.q := by unfold clearFull; split <;> rfl
@[simp] theorem clearFull_templates (st : Stream) (p : Nat) : (clearFull st p).templates = st.templates := by unfold clearFull; split <;> rfl
@[simp] theorem clearFull_staging (st : Stream) (p : Nat) : (clearFull st p).staging = st.staging := by unfold clearFull; split <;> rfl
@[simp] theorem clearFull_tctx (st : Stream) (p : Nat) : (clearFull st p).tctx = st.tctx := by unfold clearFull; split <;> rfl
@[simp] theorem clearFull_epc (st : Stream) (p : Nat) : (clearFull st p).epc = st.epc := by unfold clearFull; split <;> rfl
@[simp] theorem clearFull_cause (st : Stream) (p : Nat) : (clearFull st p).cause = st.cause := by unfold clearFull; split <;> rfl
@[simp] theorem clearFull_tval (st : Stream) (p : Nat) : (clearFull st p).tval = st.tval := by unfold clearFull; split <;> rfl
@[simp] theorem clearFull_tvec (st : Stream) (p : Nat) : (clearFull st p).tvec = st.tvec := by unfold clearFull; split <;> rfl
@[simp] theorem clearFull_tena (st : Stream) (p : Nat) : (clearFull st p).tena = st.tena := by unfold clearFull; split <;> rfl
@[simp] theorem clearFull_imask (st : Stream) (p : Nat) : (clearFull st p).imask = st.imask := by unfold clearFull; split <;> rfl
@[simp] theorem clearFull_ipend (st : Stream) (p : Nat) : (clearFull st p).ipend = st.ipend := by unfold clearFull; split <;> rfl
@[simp] theorem clearFull_tcmp (st : Stream) (p : Nat) : (clearFull st p).tcmp = st.tcmp := by unfold clearFull; split <;> rfl
@[simp] theorem clearFull_tcmpFrom (st : Stream) (p : Nat) : (clearFull st p).tcmpFrom = st.tcmpFrom := by unfold clearFull; split <;> rfl
@[simp] theorem clearFull_tsv0 (st : Stream) (p : Nat) : (clearFull st p).tsv0 = st.tsv0 := by unfold clearFull; split <;> rfl
@[simp] theorem clearFull_tsv1 (st : Stream) (p : Nat) : (clearFull st p).tsv1 = st.tsv1 := by unfold clearFull; split <;> rfl
@[simp] theorem clearFull_tsv2 (st : Stream) (p : Nat) : (clearFull st p).tsv2 = st.tsv2 := by unfold clearFull; split <;> rfl
@[simp] theorem clearFull_tsv3 (st : Stream) (p : Nat) : (clearFull st p).tsv3 = st.tsv3 := by unfold clearFull; split <;> rfl
@[simp] theorem clearFull_wait (st : Stream) (p : Nat) : (clearFull st p).wait = st.wait := by unfold clearFull; split <;> rfl
@[simp] theorem clearFull_landings (st : Stream) (p : Nat) : (clearFull st p).landings = st.landings := by unfold clearFull; split <;> rfl
@[simp] theorem clearFull_posted (st : Stream) (p : Nat) : (clearFull st p).posted = st.posted := by unfold clearFull; split <;> rfl
@[simp] theorem clearFull_fromLeft (st : Stream) (p : Nat) : (clearFull st p).fromLeft = st.fromLeft := by unfold clearFull; split <;> rfl
@[simp] theorem clearFull_fromRight (st : Stream) (p : Nat) : (clearFull st p).fromRight = st.fromRight := by unfold clearFull; split <;> rfl
@[simp] theorem clearFull_leftKnow (st : Stream) (p : Nat) : (clearFull st p).leftKnow = st.leftKnow := by unfold clearFull; split <;> rfl
@[simp] theorem clearFull_rightKnow (st : Stream) (p : Nat) : (clearFull st p).rightKnow = st.rightKnow := by unfold clearFull; split <;> rfl
@[simp] theorem clearFull_know (st : Stream) (p : Nat) : (clearFull st p).know = st.know := by unfold clearFull; split <;> rfl
@[simp] theorem clearFull_rdvzKnow (st : Stream) (p : Nat) : (clearFull st p).rdvzKnow = st.rdvzKnow := by unfold clearFull; split <;> rfl
@[simp] theorem clearFull_rels (st : Stream) (p : Nat) : (clearFull st p).rels = st.rels := by unfold clearFull; split <;> rfl
@[simp] theorem clearFull_seen (st : Stream) (p : Nat) : (clearFull st p).seen = st.seen := by unfold clearFull; split <;> rfl
@[simp] theorem clearFull_ended (st : Stream) (p : Nat) : (clearFull st p).ended = st.ended := by unfold clearFull; split <;> rfl
@[simp] theorem clearFull_viewBase (st : Stream) (p : Nat) : (clearFull st p).viewBase = st.viewBase := by unfold clearFull; split <;> rfl
@[simp] theorem clearFull_entered (st : Stream) (p : Nat) : (clearFull st p).entered = st.entered := by unfold clearFull; split <;> rfl
@[simp] theorem clearFull_reach (st : Stream) (p : Nat) : (clearFull st p).reach = st.reach := by unfold clearFull; split <;> rfl
@[simp] theorem clearFull_rdvzTile (st : Stream) (p : Nat) : (clearFull st p).rdvzTile = st.rdvzTile := by unfold clearFull; split <;> rfl
@[simp] theorem clearFull_rdvzBlock (st : Stream) (p : Nat) : (clearFull st p).rdvzBlock = st.rdvzBlock := by unfold clearFull; split <;> rfl
@[simp] theorem clearFull_rdvzPrior (st : Stream) (p : Nat) : (clearFull st p).rdvzPrior = st.rdvzPrior := by unfold clearFull; split <;> rfl
@[simp] theorem clearFull_fetchBase (st : Stream) (p : Nat) : (clearFull st p).fetchBase = st.fetchBase := by unfold clearFull; split <;> rfl
@[simp] theorem clearFull_fetchCount (st : Stream) (p : Nat) : (clearFull st p).fetchCount = st.fetchCount := by unfold clearFull; split <;> rfl
@[simp] theorem clearFull_issued (st : Stream) (p : Nat) : (clearFull st p).issued = st.issued := by unfold clearFull; split <;> rfl
@[simp] theorem clearFull_cmds (st : Stream) (p : Nat) : (clearFull st p).cmds = st.cmds := by unfold clearFull; split <;> rfl
@[simp] theorem clearFull_tasks (st : Stream) (p : Nat) : (clearFull st p).tasks = st.tasks := by unfold clearFull; split <;> rfl
@[simp] theorem clearFull_overDue (st : Stream) (p : Nat) : (clearFull st p).overDue = st.overDue := by unfold clearFull; split <;> rfl
@[simp] theorem clearFull_noReturn (st : Stream) (p : Nat) : (clearFull st p).noReturn = st.noReturn := by unfold clearFull; split <;> rfl
@[simp] theorem clearFull_lastIssue (st : Stream) (p : Nat) : (clearFull st p).lastIssue = st.lastIssue := by unfold clearFull; split <;> rfl
@[simp] theorem clearFull_watchdogPosted (st : Stream) (p : Nat) : (clearFull st p).watchdogPosted = st.watchdogPosted := by unfold clearFull; split <;> rfl

@[simp] theorem landLater_running (st : Stream) (r : BitVec 5) (v : Word) (kd : LandKind) (m : Option Word) : (landLater st r v kd m).running = st.running := by unfold landLater; simp only; split <;> simp
@[simp] theorem landLater_halted (st : Stream) (r : BitVec 5) (v : Word) (kd : LandKind) (m : Option Word) : (landLater st r v kd m).halted = st.halted := by unfold landLater; simp only; split <;> simp
@[simp] theorem landLater_pc (st : Stream) (r : BitVec 5) (v : Word) (kd : LandKind) (m : Option Word) : (landLater st r v kd m).pc = st.pc := by unfold landLater; simp only; split <;> simp
@[simp] theorem landLater_rrb (st : Stream) (r : BitVec 5) (v : Word) (kd : LandKind) (m : Option Word) : (landLater st r v kd m).rrb = st.rrb := by unfold landLater; simp only; split <;> simp
@[simp] theorem landLater_lca (st : Stream) (r : BitVec 5) (v : Word) (kd : LandKind) (m : Option Word) : (landLater st r v kd m).lca = st.lca := by unfold landLater; simp only; split <;> simp
@[simp] theorem landLater_lcb (st : Stream) (r : BitVec 5) (v : Word) (kd : LandKind) (m : Option Word) : (landLater st r v kd m).lcb = st.lcb := by unfold landLater; simp only; split <;> simp
@[simp] theorem landLater_ftb (st : Stream) (r : BitVec 5) (v : Word) (kd : LandKind) (m : Option Word) : (landLater st r v kd m).ftb = st.ftb := by unfold landLater; simp only; split <;> simp
@[simp] theorem landLater_fe (st : Stream) (r : BitVec 5) (v : Word) (kd : LandKind) (m : Option Word) : (landLater st r v kd m).fe = st.fe := by unfold landLater; simp only; split <;> simp
@[simp] theorem landLater_srctr (st : Stream) (r : BitVec 5) (v : Word) (kd : LandKind) (m : Option Word) : (landLater st r v kd m).srctr = st.srctr := by unfold landLater; simp only; split <;> simp
@[simp] theorem landLater_cycle0 (st : Stream) (r : BitVec 5) (v : Word) (kd : LandKind) (m : Option Word) : (landLater st r v kd m).cycle0 = st.cycle0 := by unfold landLater; simp only; split <;> simp
@[simp] theorem landLater_q (st : Stream) (r : BitVec 5) (v : Word) (kd : LandKind) (m : Option Word) : (landLater st r v kd m).q = st.q := by unfold landLater; simp only; split <;> simp
@[simp] theorem landLater_templates (st : Stream) (r : BitVec 5) (v : Word) (kd : LandKind) (m : Option Word) : (landLater st r v kd m).templates = st.templates := by unfold landLater; simp only; split <;> simp
@[simp] theorem landLater_staging (st : Stream) (r : BitVec 5) (v : Word) (kd : LandKind) (m : Option Word) : (landLater st r v kd m).staging = st.staging := by unfold landLater; simp only; split <;> simp
@[simp] theorem landLater_tctx (st : Stream) (r : BitVec 5) (v : Word) (kd : LandKind) (m : Option Word) : (landLater st r v kd m).tctx = st.tctx := by unfold landLater; simp only; split <;> simp
@[simp] theorem landLater_epc (st : Stream) (r : BitVec 5) (v : Word) (kd : LandKind) (m : Option Word) : (landLater st r v kd m).epc = st.epc := by unfold landLater; simp only; split <;> simp
@[simp] theorem landLater_cause (st : Stream) (r : BitVec 5) (v : Word) (kd : LandKind) (m : Option Word) : (landLater st r v kd m).cause = st.cause := by unfold landLater; simp only; split <;> simp
@[simp] theorem landLater_tval (st : Stream) (r : BitVec 5) (v : Word) (kd : LandKind) (m : Option Word) : (landLater st r v kd m).tval = st.tval := by unfold landLater; simp only; split <;> simp
@[simp] theorem landLater_tvec (st : Stream) (r : BitVec 5) (v : Word) (kd : LandKind) (m : Option Word) : (landLater st r v kd m).tvec = st.tvec := by unfold landLater; simp only; split <;> simp
@[simp] theorem landLater_tena (st : Stream) (r : BitVec 5) (v : Word) (kd : LandKind) (m : Option Word) : (landLater st r v kd m).tena = st.tena := by unfold landLater; simp only; split <;> simp
@[simp] theorem landLater_imask (st : Stream) (r : BitVec 5) (v : Word) (kd : LandKind) (m : Option Word) : (landLater st r v kd m).imask = st.imask := by unfold landLater; simp only; split <;> simp
@[simp] theorem landLater_ipend (st : Stream) (r : BitVec 5) (v : Word) (kd : LandKind) (m : Option Word) : (landLater st r v kd m).ipend = st.ipend := by unfold landLater; simp only; split <;> simp
@[simp] theorem landLater_tcmp (st : Stream) (r : BitVec 5) (v : Word) (kd : LandKind) (m : Option Word) : (landLater st r v kd m).tcmp = st.tcmp := by unfold landLater; simp only; split <;> simp
@[simp] theorem landLater_tcmpFrom (st : Stream) (r : BitVec 5) (v : Word) (kd : LandKind) (m : Option Word) : (landLater st r v kd m).tcmpFrom = st.tcmpFrom := by unfold landLater; simp only; split <;> simp
@[simp] theorem landLater_tsv0 (st : Stream) (r : BitVec 5) (v : Word) (kd : LandKind) (m : Option Word) : (landLater st r v kd m).tsv0 = st.tsv0 := by unfold landLater; simp only; split <;> simp
@[simp] theorem landLater_tsv1 (st : Stream) (r : BitVec 5) (v : Word) (kd : LandKind) (m : Option Word) : (landLater st r v kd m).tsv1 = st.tsv1 := by unfold landLater; simp only; split <;> simp
@[simp] theorem landLater_tsv2 (st : Stream) (r : BitVec 5) (v : Word) (kd : LandKind) (m : Option Word) : (landLater st r v kd m).tsv2 = st.tsv2 := by unfold landLater; simp only; split <;> simp
@[simp] theorem landLater_tsv3 (st : Stream) (r : BitVec 5) (v : Word) (kd : LandKind) (m : Option Word) : (landLater st r v kd m).tsv3 = st.tsv3 := by unfold landLater; simp only; split <;> simp
@[simp] theorem landLater_wait (st : Stream) (r : BitVec 5) (v : Word) (kd : LandKind) (m : Option Word) : (landLater st r v kd m).wait = st.wait := by unfold landLater; simp only; split <;> simp
@[simp] theorem landLater_posted (st : Stream) (r : BitVec 5) (v : Word) (kd : LandKind) (m : Option Word) : (landLater st r v kd m).posted = st.posted := by unfold landLater; simp only; split <;> simp
@[simp] theorem landLater_fromLeft (st : Stream) (r : BitVec 5) (v : Word) (kd : LandKind) (m : Option Word) : (landLater st r v kd m).fromLeft = st.fromLeft := by unfold landLater; simp only; split <;> simp
@[simp] theorem landLater_fromRight (st : Stream) (r : BitVec 5) (v : Word) (kd : LandKind) (m : Option Word) : (landLater st r v kd m).fromRight = st.fromRight := by unfold landLater; simp only; split <;> simp
@[simp] theorem landLater_leftKnow (st : Stream) (r : BitVec 5) (v : Word) (kd : LandKind) (m : Option Word) : (landLater st r v kd m).leftKnow = st.leftKnow := by unfold landLater; simp only; split <;> simp
@[simp] theorem landLater_rightKnow (st : Stream) (r : BitVec 5) (v : Word) (kd : LandKind) (m : Option Word) : (landLater st r v kd m).rightKnow = st.rightKnow := by unfold landLater; simp only; split <;> simp
@[simp] theorem landLater_know (st : Stream) (r : BitVec 5) (v : Word) (kd : LandKind) (m : Option Word) : (landLater st r v kd m).know = st.know := by unfold landLater; simp only; split <;> simp
@[simp] theorem landLater_rdvzKnow (st : Stream) (r : BitVec 5) (v : Word) (kd : LandKind) (m : Option Word) : (landLater st r v kd m).rdvzKnow = st.rdvzKnow := by unfold landLater; simp only; split <;> simp
@[simp] theorem landLater_rels (st : Stream) (r : BitVec 5) (v : Word) (kd : LandKind) (m : Option Word) : (landLater st r v kd m).rels = st.rels := by unfold landLater; simp only; split <;> simp
@[simp] theorem landLater_seen (st : Stream) (r : BitVec 5) (v : Word) (kd : LandKind) (m : Option Word) : (landLater st r v kd m).seen = st.seen := by unfold landLater; simp only; split <;> simp
@[simp] theorem landLater_ended (st : Stream) (r : BitVec 5) (v : Word) (kd : LandKind) (m : Option Word) : (landLater st r v kd m).ended = st.ended := by unfold landLater; simp only; split <;> simp
@[simp] theorem landLater_viewBase (st : Stream) (r : BitVec 5) (v : Word) (kd : LandKind) (m : Option Word) : (landLater st r v kd m).viewBase = st.viewBase := by unfold landLater; simp only; split <;> simp
@[simp] theorem landLater_entered (st : Stream) (r : BitVec 5) (v : Word) (kd : LandKind) (m : Option Word) : (landLater st r v kd m).entered = st.entered := by unfold landLater; simp only; split <;> simp
@[simp] theorem landLater_reach (st : Stream) (r : BitVec 5) (v : Word) (kd : LandKind) (m : Option Word) : (landLater st r v kd m).reach = st.reach := by unfold landLater; simp only; split <;> simp
@[simp] theorem landLater_rdvzTile (st : Stream) (r : BitVec 5) (v : Word) (kd : LandKind) (m : Option Word) : (landLater st r v kd m).rdvzTile = st.rdvzTile := by unfold landLater; simp only; split <;> simp
@[simp] theorem landLater_rdvzBlock (st : Stream) (r : BitVec 5) (v : Word) (kd : LandKind) (m : Option Word) : (landLater st r v kd m).rdvzBlock = st.rdvzBlock := by unfold landLater; simp only; split <;> simp
@[simp] theorem landLater_rdvzPrior (st : Stream) (r : BitVec 5) (v : Word) (kd : LandKind) (m : Option Word) : (landLater st r v kd m).rdvzPrior = st.rdvzPrior := by unfold landLater; simp only; split <;> simp
@[simp] theorem landLater_fetchBase (st : Stream) (r : BitVec 5) (v : Word) (kd : LandKind) (m : Option Word) : (landLater st r v kd m).fetchBase = st.fetchBase := by unfold landLater; simp only; split <;> simp
@[simp] theorem landLater_fetchCount (st : Stream) (r : BitVec 5) (v : Word) (kd : LandKind) (m : Option Word) : (landLater st r v kd m).fetchCount = st.fetchCount := by unfold landLater; simp only; split <;> simp
@[simp] theorem landLater_issued (st : Stream) (r : BitVec 5) (v : Word) (kd : LandKind) (m : Option Word) : (landLater st r v kd m).issued = st.issued := by unfold landLater; simp only; split <;> simp
@[simp] theorem landLater_cmds (st : Stream) (r : BitVec 5) (v : Word) (kd : LandKind) (m : Option Word) : (landLater st r v kd m).cmds = st.cmds := by unfold landLater; simp only; split <;> simp
@[simp] theorem landLater_tasks (st : Stream) (r : BitVec 5) (v : Word) (kd : LandKind) (m : Option Word) : (landLater st r v kd m).tasks = st.tasks := by unfold landLater; simp only; split <;> simp
@[simp] theorem landLater_overDue (st : Stream) (r : BitVec 5) (v : Word) (kd : LandKind) (m : Option Word) : (landLater st r v kd m).overDue = st.overDue := by unfold landLater; simp only; split <;> simp
@[simp] theorem landLater_noReturn (st : Stream) (r : BitVec 5) (v : Word) (kd : LandKind) (m : Option Word) : (landLater st r v kd m).noReturn = st.noReturn := by unfold landLater; simp only; split <;> simp
@[simp] theorem landLater_lastIssue (st : Stream) (r : BitVec 5) (v : Word) (kd : LandKind) (m : Option Word) : (landLater st r v kd m).lastIssue = st.lastIssue := by unfold landLater; simp only; split <;> simp
@[simp] theorem landLater_watchdogPosted (st : Stream) (r : BitVec 5) (v : Word) (kd : LandKind) (m : Option Word) : (landLater st r v kd m).watchdogPosted = st.watchdogPosted := by unfold landLater; simp only; split <;> simp

@[simp] theorem setQreg_running (st : Stream) (n : Nat) (x : QReg) : (setQreg st n x).running = st.running := rfl
@[simp] theorem setQreg_halted (st : Stream) (n : Nat) (x : QReg) : (setQreg st n x).halted = st.halted := rfl
@[simp] theorem setQreg_pc (st : Stream) (n : Nat) (x : QReg) : (setQreg st n x).pc = st.pc := rfl
@[simp] theorem setQreg_regs (st : Stream) (n : Nat) (x : QReg) : (setQreg st n x).regs = st.regs := rfl
@[simp] theorem setQreg_rrb (st : Stream) (n : Nat) (x : QReg) : (setQreg st n x).rrb = st.rrb := rfl
@[simp] theorem setQreg_lca (st : Stream) (n : Nat) (x : QReg) : (setQreg st n x).lca = st.lca := rfl
@[simp] theorem setQreg_lcb (st : Stream) (n : Nat) (x : QReg) : (setQreg st n x).lcb = st.lcb := rfl
@[simp] theorem setQreg_ftb (st : Stream) (n : Nat) (x : QReg) : (setQreg st n x).ftb = st.ftb := rfl
@[simp] theorem setQreg_fe (st : Stream) (n : Nat) (x : QReg) : (setQreg st n x).fe = st.fe := rfl
@[simp] theorem setQreg_srctr (st : Stream) (n : Nat) (x : QReg) : (setQreg st n x).srctr = st.srctr := rfl
@[simp] theorem setQreg_cycle0 (st : Stream) (n : Nat) (x : QReg) : (setQreg st n x).cycle0 = st.cycle0 := rfl
@[simp] theorem setQreg_templates (st : Stream) (n : Nat) (x : QReg) : (setQreg st n x).templates = st.templates := rfl
@[simp] theorem setQreg_staging (st : Stream) (n : Nat) (x : QReg) : (setQreg st n x).staging = st.staging := rfl
@[simp] theorem setQreg_tctx (st : Stream) (n : Nat) (x : QReg) : (setQreg st n x).tctx = st.tctx := rfl
@[simp] theorem setQreg_epc (st : Stream) (n : Nat) (x : QReg) : (setQreg st n x).epc = st.epc := rfl
@[simp] theorem setQreg_cause (st : Stream) (n : Nat) (x : QReg) : (setQreg st n x).cause = st.cause := rfl
@[simp] theorem setQreg_tval (st : Stream) (n : Nat) (x : QReg) : (setQreg st n x).tval = st.tval := rfl
@[simp] theorem setQreg_tvec (st : Stream) (n : Nat) (x : QReg) : (setQreg st n x).tvec = st.tvec := rfl
@[simp] theorem setQreg_tena (st : Stream) (n : Nat) (x : QReg) : (setQreg st n x).tena = st.tena := rfl
@[simp] theorem setQreg_imask (st : Stream) (n : Nat) (x : QReg) : (setQreg st n x).imask = st.imask := rfl
@[simp] theorem setQreg_ipend (st : Stream) (n : Nat) (x : QReg) : (setQreg st n x).ipend = st.ipend := rfl
@[simp] theorem setQreg_tcmp (st : Stream) (n : Nat) (x : QReg) : (setQreg st n x).tcmp = st.tcmp := rfl
@[simp] theorem setQreg_tcmpFrom (st : Stream) (n : Nat) (x : QReg) : (setQreg st n x).tcmpFrom = st.tcmpFrom := rfl
@[simp] theorem setQreg_tsv0 (st : Stream) (n : Nat) (x : QReg) : (setQreg st n x).tsv0 = st.tsv0 := rfl
@[simp] theorem setQreg_tsv1 (st : Stream) (n : Nat) (x : QReg) : (setQreg st n x).tsv1 = st.tsv1 := rfl
@[simp] theorem setQreg_tsv2 (st : Stream) (n : Nat) (x : QReg) : (setQreg st n x).tsv2 = st.tsv2 := rfl
@[simp] theorem setQreg_tsv3 (st : Stream) (n : Nat) (x : QReg) : (setQreg st n x).tsv3 = st.tsv3 := rfl
@[simp] theorem setQreg_wait (st : Stream) (n : Nat) (x : QReg) : (setQreg st n x).wait = st.wait := rfl
@[simp] theorem setQreg_landings (st : Stream) (n : Nat) (x : QReg) : (setQreg st n x).landings = st.landings := rfl
@[simp] theorem setQreg_posted (st : Stream) (n : Nat) (x : QReg) : (setQreg st n x).posted = st.posted := rfl
@[simp] theorem setQreg_fromLeft (st : Stream) (n : Nat) (x : QReg) : (setQreg st n x).fromLeft = st.fromLeft := rfl
@[simp] theorem setQreg_fromRight (st : Stream) (n : Nat) (x : QReg) : (setQreg st n x).fromRight = st.fromRight := rfl
@[simp] theorem setQreg_leftKnow (st : Stream) (n : Nat) (x : QReg) : (setQreg st n x).leftKnow = st.leftKnow := rfl
@[simp] theorem setQreg_rightKnow (st : Stream) (n : Nat) (x : QReg) : (setQreg st n x).rightKnow = st.rightKnow := rfl
@[simp] theorem setQreg_know (st : Stream) (n : Nat) (x : QReg) : (setQreg st n x).know = st.know := rfl
@[simp] theorem setQreg_rdvzKnow (st : Stream) (n : Nat) (x : QReg) : (setQreg st n x).rdvzKnow = st.rdvzKnow := rfl
@[simp] theorem setQreg_rels (st : Stream) (n : Nat) (x : QReg) : (setQreg st n x).rels = st.rels := rfl
@[simp] theorem setQreg_seen (st : Stream) (n : Nat) (x : QReg) : (setQreg st n x).seen = st.seen := rfl
@[simp] theorem setQreg_ended (st : Stream) (n : Nat) (x : QReg) : (setQreg st n x).ended = st.ended := rfl
@[simp] theorem setQreg_viewBase (st : Stream) (n : Nat) (x : QReg) : (setQreg st n x).viewBase = st.viewBase := rfl
@[simp] theorem setQreg_entered (st : Stream) (n : Nat) (x : QReg) : (setQreg st n x).entered = st.entered := rfl
@[simp] theorem setQreg_reach (st : Stream) (n : Nat) (x : QReg) : (setQreg st n x).reach = st.reach := rfl
@[simp] theorem setQreg_rdvzTile (st : Stream) (n : Nat) (x : QReg) : (setQreg st n x).rdvzTile = st.rdvzTile := rfl
@[simp] theorem setQreg_rdvzBlock (st : Stream) (n : Nat) (x : QReg) : (setQreg st n x).rdvzBlock = st.rdvzBlock := rfl
@[simp] theorem setQreg_rdvzPrior (st : Stream) (n : Nat) (x : QReg) : (setQreg st n x).rdvzPrior = st.rdvzPrior := rfl
@[simp] theorem setQreg_fetchBase (st : Stream) (n : Nat) (x : QReg) : (setQreg st n x).fetchBase = st.fetchBase := rfl
@[simp] theorem setQreg_fetchCount (st : Stream) (n : Nat) (x : QReg) : (setQreg st n x).fetchCount = st.fetchCount := rfl
@[simp] theorem setQreg_issued (st : Stream) (n : Nat) (x : QReg) : (setQreg st n x).issued = st.issued := rfl
@[simp] theorem setQreg_cmds (st : Stream) (n : Nat) (x : QReg) : (setQreg st n x).cmds = st.cmds := rfl
@[simp] theorem setQreg_tasks (st : Stream) (n : Nat) (x : QReg) : (setQreg st n x).tasks = st.tasks := rfl
@[simp] theorem setQreg_overDue (st : Stream) (n : Nat) (x : QReg) : (setQreg st n x).overDue = st.overDue := rfl
@[simp] theorem setQreg_noReturn (st : Stream) (n : Nat) (x : QReg) : (setQreg st n x).noReturn = st.noReturn := rfl
@[simp] theorem setQreg_lastIssue (st : Stream) (n : Nat) (x : QReg) : (setQreg st n x).lastIssue = st.lastIssue := rfl
@[simp] theorem setQreg_watchdogPosted (st : Stream) (n : Nat) (x : QReg) : (setQreg st n x).watchdogPosted = st.watchdogPosted := rfl

@[simp] theorem setFlags_running (st : Stream) (f : FFlags) : (setFlags st f).running = st.running := rfl
@[simp] theorem setFlags_halted (st : Stream) (f : FFlags) : (setFlags st f).halted = st.halted := rfl
@[simp] theorem setFlags_pc (st : Stream) (f : FFlags) : (setFlags st f).pc = st.pc := rfl
@[simp] theorem setFlags_regs (st : Stream) (f : FFlags) : (setFlags st f).regs = st.regs := rfl
@[simp] theorem setFlags_rrb (st : Stream) (f : FFlags) : (setFlags st f).rrb = st.rrb := rfl
@[simp] theorem setFlags_lca (st : Stream) (f : FFlags) : (setFlags st f).lca = st.lca := rfl
@[simp] theorem setFlags_lcb (st : Stream) (f : FFlags) : (setFlags st f).lcb = st.lcb := rfl
@[simp] theorem setFlags_ftb (st : Stream) (f : FFlags) : (setFlags st f).ftb = st.ftb := rfl
@[simp] theorem setFlags_srctr (st : Stream) (f : FFlags) : (setFlags st f).srctr = st.srctr := rfl
@[simp] theorem setFlags_cycle0 (st : Stream) (f : FFlags) : (setFlags st f).cycle0 = st.cycle0 := rfl
@[simp] theorem setFlags_q (st : Stream) (f : FFlags) : (setFlags st f).q = st.q := rfl
@[simp] theorem setFlags_templates (st : Stream) (f : FFlags) : (setFlags st f).templates = st.templates := rfl
@[simp] theorem setFlags_staging (st : Stream) (f : FFlags) : (setFlags st f).staging = st.staging := rfl
@[simp] theorem setFlags_tctx (st : Stream) (f : FFlags) : (setFlags st f).tctx = st.tctx := rfl
@[simp] theorem setFlags_epc (st : Stream) (f : FFlags) : (setFlags st f).epc = st.epc := rfl
@[simp] theorem setFlags_cause (st : Stream) (f : FFlags) : (setFlags st f).cause = st.cause := rfl
@[simp] theorem setFlags_tval (st : Stream) (f : FFlags) : (setFlags st f).tval = st.tval := rfl
@[simp] theorem setFlags_tvec (st : Stream) (f : FFlags) : (setFlags st f).tvec = st.tvec := rfl
@[simp] theorem setFlags_tena (st : Stream) (f : FFlags) : (setFlags st f).tena = st.tena := rfl
@[simp] theorem setFlags_imask (st : Stream) (f : FFlags) : (setFlags st f).imask = st.imask := rfl
@[simp] theorem setFlags_ipend (st : Stream) (f : FFlags) : (setFlags st f).ipend = st.ipend := rfl
@[simp] theorem setFlags_tcmp (st : Stream) (f : FFlags) : (setFlags st f).tcmp = st.tcmp := rfl
@[simp] theorem setFlags_tcmpFrom (st : Stream) (f : FFlags) : (setFlags st f).tcmpFrom = st.tcmpFrom := rfl
@[simp] theorem setFlags_tsv0 (st : Stream) (f : FFlags) : (setFlags st f).tsv0 = st.tsv0 := rfl
@[simp] theorem setFlags_tsv1 (st : Stream) (f : FFlags) : (setFlags st f).tsv1 = st.tsv1 := rfl
@[simp] theorem setFlags_tsv2 (st : Stream) (f : FFlags) : (setFlags st f).tsv2 = st.tsv2 := rfl
@[simp] theorem setFlags_tsv3 (st : Stream) (f : FFlags) : (setFlags st f).tsv3 = st.tsv3 := rfl
@[simp] theorem setFlags_wait (st : Stream) (f : FFlags) : (setFlags st f).wait = st.wait := rfl
@[simp] theorem setFlags_landings (st : Stream) (f : FFlags) : (setFlags st f).landings = st.landings := rfl
@[simp] theorem setFlags_posted (st : Stream) (f : FFlags) : (setFlags st f).posted = st.posted := rfl
@[simp] theorem setFlags_fromLeft (st : Stream) (f : FFlags) : (setFlags st f).fromLeft = st.fromLeft := rfl
@[simp] theorem setFlags_fromRight (st : Stream) (f : FFlags) : (setFlags st f).fromRight = st.fromRight := rfl
@[simp] theorem setFlags_leftKnow (st : Stream) (f : FFlags) : (setFlags st f).leftKnow = st.leftKnow := rfl
@[simp] theorem setFlags_rightKnow (st : Stream) (f : FFlags) : (setFlags st f).rightKnow = st.rightKnow := rfl
@[simp] theorem setFlags_know (st : Stream) (f : FFlags) : (setFlags st f).know = st.know := rfl
@[simp] theorem setFlags_rdvzKnow (st : Stream) (f : FFlags) : (setFlags st f).rdvzKnow = st.rdvzKnow := rfl
@[simp] theorem setFlags_rels (st : Stream) (f : FFlags) : (setFlags st f).rels = st.rels := rfl
@[simp] theorem setFlags_seen (st : Stream) (f : FFlags) : (setFlags st f).seen = st.seen := rfl
@[simp] theorem setFlags_ended (st : Stream) (f : FFlags) : (setFlags st f).ended = st.ended := rfl
@[simp] theorem setFlags_viewBase (st : Stream) (f : FFlags) : (setFlags st f).viewBase = st.viewBase := rfl
@[simp] theorem setFlags_entered (st : Stream) (f : FFlags) : (setFlags st f).entered = st.entered := rfl
@[simp] theorem setFlags_reach (st : Stream) (f : FFlags) : (setFlags st f).reach = st.reach := rfl
@[simp] theorem setFlags_rdvzTile (st : Stream) (f : FFlags) : (setFlags st f).rdvzTile = st.rdvzTile := rfl
@[simp] theorem setFlags_rdvzBlock (st : Stream) (f : FFlags) : (setFlags st f).rdvzBlock = st.rdvzBlock := rfl
@[simp] theorem setFlags_rdvzPrior (st : Stream) (f : FFlags) : (setFlags st f).rdvzPrior = st.rdvzPrior := rfl
@[simp] theorem setFlags_fetchBase (st : Stream) (f : FFlags) : (setFlags st f).fetchBase = st.fetchBase := rfl
@[simp] theorem setFlags_fetchCount (st : Stream) (f : FFlags) : (setFlags st f).fetchCount = st.fetchCount := rfl
@[simp] theorem setFlags_issued (st : Stream) (f : FFlags) : (setFlags st f).issued = st.issued := rfl
@[simp] theorem setFlags_cmds (st : Stream) (f : FFlags) : (setFlags st f).cmds = st.cmds := rfl
@[simp] theorem setFlags_tasks (st : Stream) (f : FFlags) : (setFlags st f).tasks = st.tasks := rfl
@[simp] theorem setFlags_overDue (st : Stream) (f : FFlags) : (setFlags st f).overDue = st.overDue := rfl
@[simp] theorem setFlags_noReturn (st : Stream) (f : FFlags) : (setFlags st f).noReturn = st.noReturn := rfl
@[simp] theorem setFlags_lastIssue (st : Stream) (f : FFlags) : (setFlags st f).lastIssue = st.lastIssue := rfl
@[simp] theorem setFlags_watchdogPosted (st : Stream) (f : FFlags) : (setFlags st f).watchdogPosted = st.watchdogPosted := rfl

@[simp] theorem stepSr_running (st : Stream) : (stepSr st).running = st.running := by unfold stepSr; split <;> rfl
@[simp] theorem stepSr_halted (st : Stream) : (stepSr st).halted = st.halted := by unfold stepSr; split <;> rfl
@[simp] theorem stepSr_pc (st : Stream) : (stepSr st).pc = st.pc := by unfold stepSr; split <;> rfl
@[simp] theorem stepSr_regs (st : Stream) : (stepSr st).regs = st.regs := by unfold stepSr; split <;> rfl
@[simp] theorem stepSr_rrb (st : Stream) : (stepSr st).rrb = st.rrb := by unfold stepSr; split <;> rfl
@[simp] theorem stepSr_lca (st : Stream) : (stepSr st).lca = st.lca := by unfold stepSr; split <;> rfl
@[simp] theorem stepSr_lcb (st : Stream) : (stepSr st).lcb = st.lcb := by unfold stepSr; split <;> rfl
@[simp] theorem stepSr_ftb (st : Stream) : (stepSr st).ftb = st.ftb := by unfold stepSr; split <;> rfl
@[simp] theorem stepSr_fe (st : Stream) : (stepSr st).fe = st.fe := by unfold stepSr; split <;> rfl
@[simp] theorem stepSr_cycle0 (st : Stream) : (stepSr st).cycle0 = st.cycle0 := by unfold stepSr; split <;> rfl
@[simp] theorem stepSr_q (st : Stream) : (stepSr st).q = st.q := by unfold stepSr; split <;> rfl
@[simp] theorem stepSr_templates (st : Stream) : (stepSr st).templates = st.templates := by unfold stepSr; split <;> rfl
@[simp] theorem stepSr_staging (st : Stream) : (stepSr st).staging = st.staging := by unfold stepSr; split <;> rfl
@[simp] theorem stepSr_tctx (st : Stream) : (stepSr st).tctx = st.tctx := by unfold stepSr; split <;> rfl
@[simp] theorem stepSr_epc (st : Stream) : (stepSr st).epc = st.epc := by unfold stepSr; split <;> rfl
@[simp] theorem stepSr_cause (st : Stream) : (stepSr st).cause = st.cause := by unfold stepSr; split <;> rfl
@[simp] theorem stepSr_tval (st : Stream) : (stepSr st).tval = st.tval := by unfold stepSr; split <;> rfl
@[simp] theorem stepSr_tvec (st : Stream) : (stepSr st).tvec = st.tvec := by unfold stepSr; split <;> rfl
@[simp] theorem stepSr_tena (st : Stream) : (stepSr st).tena = st.tena := by unfold stepSr; split <;> rfl
@[simp] theorem stepSr_imask (st : Stream) : (stepSr st).imask = st.imask := by unfold stepSr; split <;> rfl
@[simp] theorem stepSr_ipend (st : Stream) : (stepSr st).ipend = st.ipend := by unfold stepSr; split <;> rfl
@[simp] theorem stepSr_tcmp (st : Stream) : (stepSr st).tcmp = st.tcmp := by unfold stepSr; split <;> rfl
@[simp] theorem stepSr_tcmpFrom (st : Stream) : (stepSr st).tcmpFrom = st.tcmpFrom := by unfold stepSr; split <;> rfl
@[simp] theorem stepSr_tsv0 (st : Stream) : (stepSr st).tsv0 = st.tsv0 := by unfold stepSr; split <;> rfl
@[simp] theorem stepSr_tsv1 (st : Stream) : (stepSr st).tsv1 = st.tsv1 := by unfold stepSr; split <;> rfl
@[simp] theorem stepSr_tsv2 (st : Stream) : (stepSr st).tsv2 = st.tsv2 := by unfold stepSr; split <;> rfl
@[simp] theorem stepSr_tsv3 (st : Stream) : (stepSr st).tsv3 = st.tsv3 := by unfold stepSr; split <;> rfl
@[simp] theorem stepSr_wait (st : Stream) : (stepSr st).wait = st.wait := by unfold stepSr; split <;> rfl
@[simp] theorem stepSr_landings (st : Stream) : (stepSr st).landings = st.landings := by unfold stepSr; split <;> rfl
@[simp] theorem stepSr_posted (st : Stream) : (stepSr st).posted = st.posted := by unfold stepSr; split <;> rfl
@[simp] theorem stepSr_fromLeft (st : Stream) : (stepSr st).fromLeft = st.fromLeft := by unfold stepSr; split <;> rfl
@[simp] theorem stepSr_fromRight (st : Stream) : (stepSr st).fromRight = st.fromRight := by unfold stepSr; split <;> rfl
@[simp] theorem stepSr_leftKnow (st : Stream) : (stepSr st).leftKnow = st.leftKnow := by unfold stepSr; split <;> rfl
@[simp] theorem stepSr_rightKnow (st : Stream) : (stepSr st).rightKnow = st.rightKnow := by unfold stepSr; split <;> rfl
@[simp] theorem stepSr_know (st : Stream) : (stepSr st).know = st.know := by unfold stepSr; split <;> rfl
@[simp] theorem stepSr_rdvzKnow (st : Stream) : (stepSr st).rdvzKnow = st.rdvzKnow := by unfold stepSr; split <;> rfl
@[simp] theorem stepSr_rels (st : Stream) : (stepSr st).rels = st.rels := by unfold stepSr; split <;> rfl
@[simp] theorem stepSr_seen (st : Stream) : (stepSr st).seen = st.seen := by unfold stepSr; split <;> rfl
@[simp] theorem stepSr_ended (st : Stream) : (stepSr st).ended = st.ended := by unfold stepSr; split <;> rfl
@[simp] theorem stepSr_viewBase (st : Stream) : (stepSr st).viewBase = st.viewBase := by unfold stepSr; split <;> rfl
@[simp] theorem stepSr_entered (st : Stream) : (stepSr st).entered = st.entered := by unfold stepSr; split <;> rfl
@[simp] theorem stepSr_reach (st : Stream) : (stepSr st).reach = st.reach := by unfold stepSr; split <;> rfl
@[simp] theorem stepSr_rdvzTile (st : Stream) : (stepSr st).rdvzTile = st.rdvzTile := by unfold stepSr; split <;> rfl
@[simp] theorem stepSr_rdvzBlock (st : Stream) : (stepSr st).rdvzBlock = st.rdvzBlock := by unfold stepSr; split <;> rfl
@[simp] theorem stepSr_rdvzPrior (st : Stream) : (stepSr st).rdvzPrior = st.rdvzPrior := by unfold stepSr; split <;> rfl
@[simp] theorem stepSr_fetchBase (st : Stream) : (stepSr st).fetchBase = st.fetchBase := by unfold stepSr; split <;> rfl
@[simp] theorem stepSr_fetchCount (st : Stream) : (stepSr st).fetchCount = st.fetchCount := by unfold stepSr; split <;> rfl
@[simp] theorem stepSr_issued (st : Stream) : (stepSr st).issued = st.issued := by unfold stepSr; split <;> rfl
@[simp] theorem stepSr_cmds (st : Stream) : (stepSr st).cmds = st.cmds := by unfold stepSr; split <;> rfl
@[simp] theorem stepSr_tasks (st : Stream) : (stepSr st).tasks = st.tasks := by unfold stepSr; split <;> rfl
@[simp] theorem stepSr_overDue (st : Stream) : (stepSr st).overDue = st.overDue := by unfold stepSr; split <;> rfl
@[simp] theorem stepSr_noReturn (st : Stream) : (stepSr st).noReturn = st.noReturn := by unfold stepSr; split <;> rfl
@[simp] theorem stepSr_lastIssue (st : Stream) : (stepSr st).lastIssue = st.lastIssue := by unfold stepSr; split <;> rfl
@[simp] theorem stepSr_watchdogPosted (st : Stream) : (stepSr st).watchdogPosted = st.watchdogPosted := by unfold stepSr; split <;> rfl

@[simp] theorem enterTrap_running (st : Stream) (c : Cause) (v r : Word) : (enterTrap st c v r).running = st.running := rfl
@[simp] theorem enterTrap_halted (st : Stream) (c : Cause) (v r : Word) : (enterTrap st c v r).halted = st.halted := rfl
@[simp] theorem enterTrap_regs (st : Stream) (c : Cause) (v r : Word) : (enterTrap st c v r).regs = st.regs := rfl
@[simp] theorem enterTrap_rrb (st : Stream) (c : Cause) (v r : Word) : (enterTrap st c v r).rrb = st.rrb := rfl
@[simp] theorem enterTrap_lca (st : Stream) (c : Cause) (v r : Word) : (enterTrap st c v r).lca = st.lca := rfl
@[simp] theorem enterTrap_lcb (st : Stream) (c : Cause) (v r : Word) : (enterTrap st c v r).lcb = st.lcb := rfl
@[simp] theorem enterTrap_ftb (st : Stream) (c : Cause) (v r : Word) : (enterTrap st c v r).ftb = st.ftb := rfl
@[simp] theorem enterTrap_fe (st : Stream) (c : Cause) (v r : Word) : (enterTrap st c v r).fe = st.fe := rfl
@[simp] theorem enterTrap_srctr (st : Stream) (c : Cause) (v r : Word) : (enterTrap st c v r).srctr = st.srctr := rfl
@[simp] theorem enterTrap_cycle0 (st : Stream) (c : Cause) (v r : Word) : (enterTrap st c v r).cycle0 = st.cycle0 := rfl
@[simp] theorem enterTrap_q (st : Stream) (c : Cause) (v r : Word) : (enterTrap st c v r).q = st.q := rfl
@[simp] theorem enterTrap_templates (st : Stream) (c : Cause) (v r : Word) : (enterTrap st c v r).templates = st.templates := rfl
@[simp] theorem enterTrap_staging (st : Stream) (c : Cause) (v r : Word) : (enterTrap st c v r).staging = st.staging := rfl
@[simp] theorem enterTrap_tvec (st : Stream) (c : Cause) (v r : Word) : (enterTrap st c v r).tvec = st.tvec := rfl
@[simp] theorem enterTrap_tena (st : Stream) (c : Cause) (v r : Word) : (enterTrap st c v r).tena = st.tena := rfl
@[simp] theorem enterTrap_imask (st : Stream) (c : Cause) (v r : Word) : (enterTrap st c v r).imask = st.imask := rfl
@[simp] theorem enterTrap_ipend (st : Stream) (c : Cause) (v r : Word) : (enterTrap st c v r).ipend = st.ipend := rfl
@[simp] theorem enterTrap_tcmp (st : Stream) (c : Cause) (v r : Word) : (enterTrap st c v r).tcmp = st.tcmp := rfl
@[simp] theorem enterTrap_tcmpFrom (st : Stream) (c : Cause) (v r : Word) : (enterTrap st c v r).tcmpFrom = st.tcmpFrom := rfl
@[simp] theorem enterTrap_tsv0 (st : Stream) (c : Cause) (v r : Word) : (enterTrap st c v r).tsv0 = st.tsv0 := rfl
@[simp] theorem enterTrap_tsv1 (st : Stream) (c : Cause) (v r : Word) : (enterTrap st c v r).tsv1 = st.tsv1 := rfl
@[simp] theorem enterTrap_tsv2 (st : Stream) (c : Cause) (v r : Word) : (enterTrap st c v r).tsv2 = st.tsv2 := rfl
@[simp] theorem enterTrap_tsv3 (st : Stream) (c : Cause) (v r : Word) : (enterTrap st c v r).tsv3 = st.tsv3 := rfl
@[simp] theorem enterTrap_landings (st : Stream) (c : Cause) (v r : Word) : (enterTrap st c v r).landings = st.landings := rfl
@[simp] theorem enterTrap_posted (st : Stream) (c : Cause) (v r : Word) : (enterTrap st c v r).posted = st.posted := rfl
@[simp] theorem enterTrap_fromLeft (st : Stream) (c : Cause) (v r : Word) : (enterTrap st c v r).fromLeft = st.fromLeft := rfl
@[simp] theorem enterTrap_fromRight (st : Stream) (c : Cause) (v r : Word) : (enterTrap st c v r).fromRight = st.fromRight := rfl
@[simp] theorem enterTrap_leftKnow (st : Stream) (c : Cause) (v r : Word) : (enterTrap st c v r).leftKnow = st.leftKnow := rfl
@[simp] theorem enterTrap_rightKnow (st : Stream) (c : Cause) (v r : Word) : (enterTrap st c v r).rightKnow = st.rightKnow := rfl
@[simp] theorem enterTrap_know (st : Stream) (c : Cause) (v r : Word) : (enterTrap st c v r).know = st.know := rfl
@[simp] theorem enterTrap_rdvzKnow (st : Stream) (c : Cause) (v r : Word) : (enterTrap st c v r).rdvzKnow = st.rdvzKnow := rfl
@[simp] theorem enterTrap_rels (st : Stream) (c : Cause) (v r : Word) : (enterTrap st c v r).rels = st.rels := rfl
@[simp] theorem enterTrap_seen (st : Stream) (c : Cause) (v r : Word) : (enterTrap st c v r).seen = st.seen := rfl
@[simp] theorem enterTrap_ended (st : Stream) (c : Cause) (v r : Word) : (enterTrap st c v r).ended = st.ended := rfl
@[simp] theorem enterTrap_viewBase (st : Stream) (c : Cause) (v r : Word) : (enterTrap st c v r).viewBase = st.viewBase := rfl
@[simp] theorem enterTrap_entered (st : Stream) (c : Cause) (v r : Word) : (enterTrap st c v r).entered = st.entered := rfl
@[simp] theorem enterTrap_reach (st : Stream) (c : Cause) (v r : Word) : (enterTrap st c v r).reach = st.reach := rfl
@[simp] theorem enterTrap_rdvzTile (st : Stream) (c : Cause) (v r : Word) : (enterTrap st c v r).rdvzTile = st.rdvzTile := rfl
@[simp] theorem enterTrap_rdvzBlock (st : Stream) (c : Cause) (v r : Word) : (enterTrap st c v r).rdvzBlock = st.rdvzBlock := rfl
@[simp] theorem enterTrap_rdvzPrior (st : Stream) (c : Cause) (v r : Word) : (enterTrap st c v r).rdvzPrior = st.rdvzPrior := rfl
@[simp] theorem enterTrap_fetchBase (st : Stream) (c : Cause) (v r : Word) : (enterTrap st c v r).fetchBase = st.fetchBase := rfl
@[simp] theorem enterTrap_fetchCount (st : Stream) (c : Cause) (v r : Word) : (enterTrap st c v r).fetchCount = st.fetchCount := rfl
@[simp] theorem enterTrap_issued (st : Stream) (c : Cause) (v r : Word) : (enterTrap st c v r).issued = st.issued := rfl
@[simp] theorem enterTrap_cmds (st : Stream) (c : Cause) (v r : Word) : (enterTrap st c v r).cmds = st.cmds := rfl
@[simp] theorem enterTrap_tasks (st : Stream) (c : Cause) (v r : Word) : (enterTrap st c v r).tasks = st.tasks := rfl
@[simp] theorem enterTrap_overDue (st : Stream) (c : Cause) (v r : Word) : (enterTrap st c v r).overDue = st.overDue := rfl
@[simp] theorem enterTrap_noReturn (st : Stream) (c : Cause) (v r : Word) : (enterTrap st c v r).noReturn = st.noReturn := rfl
@[simp] theorem enterTrap_lastIssue (st : Stream) (c : Cause) (v r : Word) : (enterTrap st c v r).lastIssue = st.lastIssue := rfl
@[simp] theorem enterTrap_watchdogPosted (st : Stream) (c : Cause) (v r : Word) : (enterTrap st c v r).watchdogPosted = st.watchdogPosted := rfl

@[simp] theorem leaveTrap_running (st : Stream) : (leaveTrap st).running = st.running := rfl
@[simp] theorem leaveTrap_halted (st : Stream) : (leaveTrap st).halted = st.halted := rfl
@[simp] theorem leaveTrap_regs (st : Stream) : (leaveTrap st).regs = st.regs := rfl
@[simp] theorem leaveTrap_rrb (st : Stream) : (leaveTrap st).rrb = st.rrb := rfl
@[simp] theorem leaveTrap_lca (st : Stream) : (leaveTrap st).lca = st.lca := rfl
@[simp] theorem leaveTrap_lcb (st : Stream) : (leaveTrap st).lcb = st.lcb := rfl
@[simp] theorem leaveTrap_ftb (st : Stream) : (leaveTrap st).ftb = st.ftb := rfl
@[simp] theorem leaveTrap_fe (st : Stream) : (leaveTrap st).fe = st.fe := rfl
@[simp] theorem leaveTrap_srctr (st : Stream) : (leaveTrap st).srctr = st.srctr := rfl
@[simp] theorem leaveTrap_cycle0 (st : Stream) : (leaveTrap st).cycle0 = st.cycle0 := rfl
@[simp] theorem leaveTrap_q (st : Stream) : (leaveTrap st).q = st.q := rfl
@[simp] theorem leaveTrap_templates (st : Stream) : (leaveTrap st).templates = st.templates := rfl
@[simp] theorem leaveTrap_staging (st : Stream) : (leaveTrap st).staging = st.staging := rfl
@[simp] theorem leaveTrap_epc (st : Stream) : (leaveTrap st).epc = st.epc := rfl
@[simp] theorem leaveTrap_cause (st : Stream) : (leaveTrap st).cause = st.cause := rfl
@[simp] theorem leaveTrap_tval (st : Stream) : (leaveTrap st).tval = st.tval := rfl
@[simp] theorem leaveTrap_tvec (st : Stream) : (leaveTrap st).tvec = st.tvec := rfl
@[simp] theorem leaveTrap_tena (st : Stream) : (leaveTrap st).tena = st.tena := rfl
@[simp] theorem leaveTrap_imask (st : Stream) : (leaveTrap st).imask = st.imask := rfl
@[simp] theorem leaveTrap_ipend (st : Stream) : (leaveTrap st).ipend = st.ipend := rfl
@[simp] theorem leaveTrap_tcmp (st : Stream) : (leaveTrap st).tcmp = st.tcmp := rfl
@[simp] theorem leaveTrap_tcmpFrom (st : Stream) : (leaveTrap st).tcmpFrom = st.tcmpFrom := rfl
@[simp] theorem leaveTrap_tsv0 (st : Stream) : (leaveTrap st).tsv0 = st.tsv0 := rfl
@[simp] theorem leaveTrap_tsv1 (st : Stream) : (leaveTrap st).tsv1 = st.tsv1 := rfl
@[simp] theorem leaveTrap_tsv2 (st : Stream) : (leaveTrap st).tsv2 = st.tsv2 := rfl
@[simp] theorem leaveTrap_tsv3 (st : Stream) : (leaveTrap st).tsv3 = st.tsv3 := rfl
@[simp] theorem leaveTrap_wait (st : Stream) : (leaveTrap st).wait = st.wait := rfl
@[simp] theorem leaveTrap_landings (st : Stream) : (leaveTrap st).landings = st.landings := rfl
@[simp] theorem leaveTrap_posted (st : Stream) : (leaveTrap st).posted = st.posted := rfl
@[simp] theorem leaveTrap_fromLeft (st : Stream) : (leaveTrap st).fromLeft = st.fromLeft := rfl
@[simp] theorem leaveTrap_fromRight (st : Stream) : (leaveTrap st).fromRight = st.fromRight := rfl
@[simp] theorem leaveTrap_leftKnow (st : Stream) : (leaveTrap st).leftKnow = st.leftKnow := rfl
@[simp] theorem leaveTrap_rightKnow (st : Stream) : (leaveTrap st).rightKnow = st.rightKnow := rfl
@[simp] theorem leaveTrap_know (st : Stream) : (leaveTrap st).know = st.know := rfl
@[simp] theorem leaveTrap_rdvzKnow (st : Stream) : (leaveTrap st).rdvzKnow = st.rdvzKnow := rfl
@[simp] theorem leaveTrap_rels (st : Stream) : (leaveTrap st).rels = st.rels := rfl
@[simp] theorem leaveTrap_seen (st : Stream) : (leaveTrap st).seen = st.seen := rfl
@[simp] theorem leaveTrap_ended (st : Stream) : (leaveTrap st).ended = st.ended := rfl
@[simp] theorem leaveTrap_viewBase (st : Stream) : (leaveTrap st).viewBase = st.viewBase := rfl
@[simp] theorem leaveTrap_entered (st : Stream) : (leaveTrap st).entered = st.entered := rfl
@[simp] theorem leaveTrap_reach (st : Stream) : (leaveTrap st).reach = st.reach := rfl
@[simp] theorem leaveTrap_rdvzTile (st : Stream) : (leaveTrap st).rdvzTile = st.rdvzTile := rfl
@[simp] theorem leaveTrap_rdvzBlock (st : Stream) : (leaveTrap st).rdvzBlock = st.rdvzBlock := rfl
@[simp] theorem leaveTrap_rdvzPrior (st : Stream) : (leaveTrap st).rdvzPrior = st.rdvzPrior := rfl
@[simp] theorem leaveTrap_fetchBase (st : Stream) : (leaveTrap st).fetchBase = st.fetchBase := rfl
@[simp] theorem leaveTrap_fetchCount (st : Stream) : (leaveTrap st).fetchCount = st.fetchCount := rfl
@[simp] theorem leaveTrap_issued (st : Stream) : (leaveTrap st).issued = st.issued := rfl
@[simp] theorem leaveTrap_cmds (st : Stream) : (leaveTrap st).cmds = st.cmds := rfl
@[simp] theorem leaveTrap_tasks (st : Stream) : (leaveTrap st).tasks = st.tasks := rfl
@[simp] theorem leaveTrap_overDue (st : Stream) : (leaveTrap st).overDue = st.overDue := rfl
@[simp] theorem leaveTrap_noReturn (st : Stream) : (leaveTrap st).noReturn = st.noReturn := rfl
@[simp] theorem leaveTrap_lastIssue (st : Stream) : (leaveTrap st).lastIssue = st.lastIssue := rfl
@[simp] theorem leaveTrap_watchdogPosted (st : Stream) : (leaveTrap st).watchdogPosted = st.watchdogPosted := rfl

@[simp] theorem guarantee_running (st : Stream) (qs : List Path) (ids : List Nat) : (guarantee st qs ids).running = st.running := rfl
@[simp] theorem guarantee_halted (st : Stream) (qs : List Path) (ids : List Nat) : (guarantee st qs ids).halted = st.halted := rfl
@[simp] theorem guarantee_pc (st : Stream) (qs : List Path) (ids : List Nat) : (guarantee st qs ids).pc = st.pc := rfl
@[simp] theorem guarantee_regs (st : Stream) (qs : List Path) (ids : List Nat) : (guarantee st qs ids).regs = st.regs := rfl
@[simp] theorem guarantee_rrb (st : Stream) (qs : List Path) (ids : List Nat) : (guarantee st qs ids).rrb = st.rrb := rfl
@[simp] theorem guarantee_lca (st : Stream) (qs : List Path) (ids : List Nat) : (guarantee st qs ids).lca = st.lca := rfl
@[simp] theorem guarantee_lcb (st : Stream) (qs : List Path) (ids : List Nat) : (guarantee st qs ids).lcb = st.lcb := rfl
@[simp] theorem guarantee_ftb (st : Stream) (qs : List Path) (ids : List Nat) : (guarantee st qs ids).ftb = st.ftb := rfl
@[simp] theorem guarantee_fe (st : Stream) (qs : List Path) (ids : List Nat) : (guarantee st qs ids).fe = st.fe := rfl
@[simp] theorem guarantee_srctr (st : Stream) (qs : List Path) (ids : List Nat) : (guarantee st qs ids).srctr = st.srctr := rfl
@[simp] theorem guarantee_cycle0 (st : Stream) (qs : List Path) (ids : List Nat) : (guarantee st qs ids).cycle0 = st.cycle0 := rfl
@[simp] theorem guarantee_q (st : Stream) (qs : List Path) (ids : List Nat) : (guarantee st qs ids).q = st.q := rfl
@[simp] theorem guarantee_templates (st : Stream) (qs : List Path) (ids : List Nat) : (guarantee st qs ids).templates = st.templates := rfl
@[simp] theorem guarantee_staging (st : Stream) (qs : List Path) (ids : List Nat) : (guarantee st qs ids).staging = st.staging := rfl
@[simp] theorem guarantee_tctx (st : Stream) (qs : List Path) (ids : List Nat) : (guarantee st qs ids).tctx = st.tctx := rfl
@[simp] theorem guarantee_epc (st : Stream) (qs : List Path) (ids : List Nat) : (guarantee st qs ids).epc = st.epc := rfl
@[simp] theorem guarantee_cause (st : Stream) (qs : List Path) (ids : List Nat) : (guarantee st qs ids).cause = st.cause := rfl
@[simp] theorem guarantee_tval (st : Stream) (qs : List Path) (ids : List Nat) : (guarantee st qs ids).tval = st.tval := rfl
@[simp] theorem guarantee_tvec (st : Stream) (qs : List Path) (ids : List Nat) : (guarantee st qs ids).tvec = st.tvec := rfl
@[simp] theorem guarantee_tena (st : Stream) (qs : List Path) (ids : List Nat) : (guarantee st qs ids).tena = st.tena := rfl
@[simp] theorem guarantee_imask (st : Stream) (qs : List Path) (ids : List Nat) : (guarantee st qs ids).imask = st.imask := rfl
@[simp] theorem guarantee_ipend (st : Stream) (qs : List Path) (ids : List Nat) : (guarantee st qs ids).ipend = st.ipend := rfl
@[simp] theorem guarantee_tcmp (st : Stream) (qs : List Path) (ids : List Nat) : (guarantee st qs ids).tcmp = st.tcmp := rfl
@[simp] theorem guarantee_tcmpFrom (st : Stream) (qs : List Path) (ids : List Nat) : (guarantee st qs ids).tcmpFrom = st.tcmpFrom := rfl
@[simp] theorem guarantee_tsv0 (st : Stream) (qs : List Path) (ids : List Nat) : (guarantee st qs ids).tsv0 = st.tsv0 := rfl
@[simp] theorem guarantee_tsv1 (st : Stream) (qs : List Path) (ids : List Nat) : (guarantee st qs ids).tsv1 = st.tsv1 := rfl
@[simp] theorem guarantee_tsv2 (st : Stream) (qs : List Path) (ids : List Nat) : (guarantee st qs ids).tsv2 = st.tsv2 := rfl
@[simp] theorem guarantee_tsv3 (st : Stream) (qs : List Path) (ids : List Nat) : (guarantee st qs ids).tsv3 = st.tsv3 := rfl
@[simp] theorem guarantee_wait (st : Stream) (qs : List Path) (ids : List Nat) : (guarantee st qs ids).wait = st.wait := rfl
@[simp] theorem guarantee_landings (st : Stream) (qs : List Path) (ids : List Nat) : (guarantee st qs ids).landings = st.landings := rfl
@[simp] theorem guarantee_posted (st : Stream) (qs : List Path) (ids : List Nat) : (guarantee st qs ids).posted = st.posted := rfl
@[simp] theorem guarantee_fromLeft (st : Stream) (qs : List Path) (ids : List Nat) : (guarantee st qs ids).fromLeft = st.fromLeft := rfl
@[simp] theorem guarantee_fromRight (st : Stream) (qs : List Path) (ids : List Nat) : (guarantee st qs ids).fromRight = st.fromRight := rfl
@[simp] theorem guarantee_leftKnow (st : Stream) (qs : List Path) (ids : List Nat) : (guarantee st qs ids).leftKnow = st.leftKnow := rfl
@[simp] theorem guarantee_rightKnow (st : Stream) (qs : List Path) (ids : List Nat) : (guarantee st qs ids).rightKnow = st.rightKnow := rfl
@[simp] theorem guarantee_know (st : Stream) (qs : List Path) (ids : List Nat) : (guarantee st qs ids).know = st.know := rfl
@[simp] theorem guarantee_rdvzKnow (st : Stream) (qs : List Path) (ids : List Nat) : (guarantee st qs ids).rdvzKnow = st.rdvzKnow := rfl
@[simp] theorem guarantee_rels (st : Stream) (qs : List Path) (ids : List Nat) : (guarantee st qs ids).rels = st.rels := rfl
@[simp] theorem guarantee_seen (st : Stream) (qs : List Path) (ids : List Nat) : (guarantee st qs ids).seen = st.seen := rfl
@[simp] theorem guarantee_ended (st : Stream) (qs : List Path) (ids : List Nat) : (guarantee st qs ids).ended = st.ended := rfl
@[simp] theorem guarantee_viewBase (st : Stream) (qs : List Path) (ids : List Nat) : (guarantee st qs ids).viewBase = st.viewBase := rfl
@[simp] theorem guarantee_entered (st : Stream) (qs : List Path) (ids : List Nat) : (guarantee st qs ids).entered = st.entered := rfl
@[simp] theorem guarantee_rdvzTile (st : Stream) (qs : List Path) (ids : List Nat) : (guarantee st qs ids).rdvzTile = st.rdvzTile := rfl
@[simp] theorem guarantee_rdvzBlock (st : Stream) (qs : List Path) (ids : List Nat) : (guarantee st qs ids).rdvzBlock = st.rdvzBlock := rfl
@[simp] theorem guarantee_rdvzPrior (st : Stream) (qs : List Path) (ids : List Nat) : (guarantee st qs ids).rdvzPrior = st.rdvzPrior := rfl
@[simp] theorem guarantee_fetchBase (st : Stream) (qs : List Path) (ids : List Nat) : (guarantee st qs ids).fetchBase = st.fetchBase := rfl
@[simp] theorem guarantee_fetchCount (st : Stream) (qs : List Path) (ids : List Nat) : (guarantee st qs ids).fetchCount = st.fetchCount := rfl
@[simp] theorem guarantee_issued (st : Stream) (qs : List Path) (ids : List Nat) : (guarantee st qs ids).issued = st.issued := rfl
@[simp] theorem guarantee_cmds (st : Stream) (qs : List Path) (ids : List Nat) : (guarantee st qs ids).cmds = st.cmds := rfl
@[simp] theorem guarantee_tasks (st : Stream) (qs : List Path) (ids : List Nat) : (guarantee st qs ids).tasks = st.tasks := rfl
@[simp] theorem guarantee_overDue (st : Stream) (qs : List Path) (ids : List Nat) : (guarantee st qs ids).overDue = st.overDue := rfl
@[simp] theorem guarantee_noReturn (st : Stream) (qs : List Path) (ids : List Nat) : (guarantee st qs ids).noReturn = st.noReturn := rfl
@[simp] theorem guarantee_lastIssue (st : Stream) (qs : List Path) (ids : List Nat) : (guarantee st qs ids).lastIssue = st.lastIssue := rfl
@[simp] theorem guarantee_watchdogPosted (st : Stream) (qs : List Path) (ids : List Nat) : (guarantee st qs ids).watchdogPosted = st.watchdogPosted := rfl

/-- R185: what is guaranteed on a path afterwards: what was before, and the new writes where the path is one of those named. -/
theorem mem_guarantee_reach (st : Stream) (qs : List Path) (ids : List Nat) (q : Path) (i : Nat) :
    (q, i) ∈ (guarantee st qs ids).reach ↔ (q, i) ∈ st.reach ∨ (q ∈ qs ∧ i ∈ ids) := by
  simp only [guarantee, List.mem_append, List.mem_filter, List.mem_flatMap, List.mem_map, Prod.mk.injEq]
  constructor
  · rintro (h | ⟨⟨a, ha, b, hb, rfl, rfl⟩, -⟩)
    · exact .inl h
    · exact .inr ⟨ha, hb⟩
  · rintro (h | ⟨hq, hi⟩)
    · exact .inl h
    · by_cases h : (q, i) ∈ st.reach
      · exact .inl h
      · exact .inr ⟨⟨q, hq, i, hi, rfl, rfl⟩, by simpa using h⟩

/-! Registers after updates of a stream. -/

theorem regAt_setReg (st : Stream) (p q : Nat) (r : Reg) : regAt (setReg st p r) q = if q = p then r else regAt st q := by
  by_cases h : q = p
  · subst h; simp [regAt, setReg]
  · simp [regAt, setReg, h, mget_mset_other _ _ _ _ _ h]

/-- A result written to a register: the register is full and unmarked; register 0 discards it; every other is unchanged. -/
theorem regAt_putPhys (st : Stream) (p q : Nat) (v : Word) :
    regAt (putPhys st p v) q = if q = p ∧ p ≠ 0 then { val := v } else regAt st q := by
  unfold putPhys
  by_cases hp : p = 0
  · simp [hp]
  · rw [if_neg hp, regAt_setReg]
    simp [hp]

@[simp] theorem popBits_regAt (st : Stream) (tk : BitVec 4) (q : Nat) : regAt (popBits st tk) q = regAt st q := by simp [regAt]

@[simp] theorem popBits_physReg (st : Stream) (tk : BitVec 4) (r : BitVec 5) : physReg (popBits st tk) r = physReg st r := by
  simp [physReg]

@[simp] theorem popBits_landPending (st : Stream) (tk : BitVec 4) (p : Nat) :
    landPending (popBits st tk) p = landPending st p := by simp [landPending]

/-- The register that a field names is one of the 32 (R123). -/
theorem physReg_lt (st : Stream) (r : BitVec 5) : physReg st r < 32 := by
  unfold physReg
  split <;> omega

end Sys2Proof.Machine
end

