-- ==== Sys2Proof/Laws/Issue.lean ====
section
/-! SUPPORT. What issue, a source, a destination and a token field answer, from conditions on the state alone. -/

namespace Sys2Proof.Machine

theorem canIssue_of_issues {s : State} {tk : BitVec 4} (h : Issues s tk) : canIssue (cur s) = true := by
  simp [canIssue, h.1, h.2.1, h.2.2.1]

/-- A word whose checks all pass completes with the state that they give. -/
theorem issue_ok {s t : State} {m : Chk State} (h : canIssue (cur s) = true) (hm : m = .ok t) : issue s m = .next t := by
  simp [issue, h, hm]

/-- A word that waits changes nothing. -/
theorem issue_stall {s : State} {m : Chk State} (hm : m = .error .stall) : issue s m = .next s := by
  subst hm
  unfold issue
  split <;> rfl

/-- A word that traps does so in place of its effect, at its own offset (R44). -/
theorem issue_trap {s : State} {m : Chk State} {c : Cause} {v : Word} {n : Nat} (h : canIssue (cur s) = true)
    (hm : m = .error (.trap c v n)) : issue s m = .next (takeTrap s c v (cur s).pc n) := by
  simp [issue, h, hm]

/-- Everything a word can do: complete, wait, or trap. -/
theorem issue_cases {s t : State} {m : Chk State} (h : issue s m = .next t) :
    m = .ok t ∨ t = s ∨ ∃ c v n, m = .error (.trap c v n) ∧ t = takeTrap s c v (cur s).pc n := by
  unfold issue at h
  split at h
  · split at h
    · exact .inl (by injection h with h; rw [h])
    · exact .inr (.inl (by injection h with h; exact h.symm))
    · exact .inr (.inr ⟨_, _, _, rfl, by injection h with h; exact h.symm⟩)
  · exact .inr (.inl (by injection h with h; exact h.symm))

theorem readSrc_of_reads {s : State} {r : BitVec 5} {v : Word} (h : Reads s r v) (trap : Bool) :
    readSrc (cur s) r trap = .ok v := by
  rcases h with ⟨h0, hv⟩ | ⟨h0, hr, hl⟩
  · simp [readSrc, h0, hv]
  · simp [readSrc, h0, hr, hl]

theorem destReady_of_writes {s : State} {r : BitVec 5} (h : Writes s r) : destReady (cur s) r = .ok () := by
  rcases h with h0 | ⟨hf, hl⟩
  · simp [destReady, waitFor, h0]
  · simp [destReady, waitFor, hf, hl]

theorem tokensReady_of_issues {s : State} {tk : BitVec 4} (h : Issues s tk) : tokensReady (cur s) tk = .ok () := by
  obtain ⟨-, -, -, hl, hr⟩ := h
  unfold tokensReady waitFor
  rw [if_pos]
  cases hL : tkWL tk <;> cases hR : tkWR tk <;> simp_all

@[simp] theorem chk_bind_ok {α β : Type} (a : α) (f : α → Chk β) : ((Except.ok a : Chk α) >>= f) = f a := rfl

@[simp] theorem chk_bind_error {α β : Type} (e : Stop) (f : α → Chk β) : ((Except.error e : Chk α) >>= f) = .error e := rfl

theorem need_true {ok : Bool} {c : Cause} {v : Word} (h : ok = true) : need ok c v = .ok () := by simp [need, h]

theorem waitFor_true {ok : Bool} (h : ok = true) : waitFor ok = .ok () := by simp [waitFor, h]

end Sys2Proof.Machine
end

