-- ==== Sys2Proof/Laws/Frames.lean ====
section
/-! SUPPORT. What taking a trap and retiring a word can do, each said once: the stream that acts, the other streams, and the rest of
the machine. -/

namespace Sys2Proof.Machine

/-- Outside the tiles, the event records and the watches, two states are the same. -/
def SameOutside (s t : State) : Prop :=
  t = { s with tiles := t.tiles, fe := { s.fe with offers := t.fe.offers }, watches := t.watches }

theorem SameOutside.refl (s : State) : SameOutside s s := rfl

theorem SameOutside.trans {s t u : State} (h : SameOutside s t) (g : SameOutside t u) : SameOutside s u := by
  unfold SameOutside at h g ⊢
  rw [h] at g
  exact g

theorem sameOutside_setTile (s : State) (t : Nat) (x : Tile) : SameOutside s (setTile s t x) := rfl

theorem sameOutside_setStrm (s : State) (t : Nat) (sk : Strm) (x : Stream) : SameOutside s (setStrm s t sk x) := rfl

theorem sameOutside_setCur (s : State) (x : Stream) : SameOutside s (setCur s x) := rfl

theorem sameOutside_offer (s : State) (o : Offer) : SameOutside s (offer s o) := rfl

theorem sameOutside_dropWatch (s : State) (t : Nat) (sk : Strm) : SameOutside s (dropWatch s t sk) := rfl

theorem sameOutside_pushN (s : State) (t : Nat) (sk : Strm) (right : Bool) (n : Nat) : SameOutside s (pushN s t sk right n) := rfl

/-! The configuration unit leaves every stream as it is. -/

theorem streamIn_abandonRegion (x : Tile) (n : Nat) (sk : Strm) : streamIn (abandonRegion x n) sk = streamIn x sk := by
  unfold abandonRegion
  dsimp only
  split
  · cases sk <;> rfl
  · split
    · cases sk <;> rfl
    · rfl

theorem streamIn_abandonAll (ns : List Nat) (x : Tile) (sk : Strm) : streamIn (ns.foldl abandonRegion x) sk = streamIn x sk := by
  induction ns generalizing x with
  | nil => rfl
  | cons n ns ih => rw [List.foldl_cons, ih, streamIn_abandonRegion]

theorem strmAt_setTile (s : State) (t u : Nat) (x : Tile) (sk : Strm) :
    strmAt (setTile s t x) u sk = if u = t then streamIn x sk else strmAt s u sk := by
  by_cases h : u = t
  · subst h; simp [strmAt]
  · simp [strmAt, h, tileOf_setTile_other _ _ _ _ h]

@[simp] theorem strmAt_abandonCfg (s : State) (t u : Nat) (sk j : Strm) : strmAt (abandonCfg s t sk) u j = strmAt s u j := by
  unfold abandonCfg
  dsimp only
  split
  · split
    · rw [strmAt_setTile]
      split
      · next h => subst h; exact streamIn_abandonAll _ (tileOf s u) j
      · rfl
    · rfl
  · rfl

theorem sameOutside_abandonCfg (s : State) (t : Nat) (sk : Strm) : SameOutside s (abandonCfg s t sk) := by
  unfold abandonCfg
  dsimp only
  split
  · split <;> rfl
  · rfl

/-! Taking a trap (R378 to R380). -/

/-- The stream after a trap: in its trap context, or stopped at the boundary for a response. -/
def trapped (st : Stream) (c : Cause) (tval resume : Word) : Stream :=
  if takenInContext st c then enterTrap st c tval resume else { st with pc := resume, wait := .response }

theorem strmAt_takeTrapAt (s : State) (t : Nat) (sk : Strm) (c : Cause) (v r : Word) :
    strmAt (takeTrapAt s t sk c v r) t sk = trapped (strmAt s t sk) c v r := by
  unfold takeTrapAt trapped
  simp only [strmAt_abandonCfg, strmAt_dropWatch]
  split
  · simp
  · simp [deliverTrap]

theorem strmAt_takeTrapAt_other (s : State) (t u : Nat) (sk j : Strm) (c : Cause) (v r : Word) (h : (u, j) ≠ (t, sk)) :
    strmAt (takeTrapAt s t sk c v r) u j = strmAt s u j := by
  unfold takeTrapAt
  simp only [strmAt_abandonCfg, strmAt_dropWatch]
  split
  · rw [strmAt_setStrm_other _ _ _ _ _ _ h]; simp
  · simp only [deliverTrap, strmAt_offer]
    rw [strmAt_setStrm_other _ _ _ _ _ _ h]; simp

theorem sameOutside_takeTrapAt (s : State) (t : Nat) (sk : Strm) (c : Cause) (v r : Word) :
    SameOutside s (takeTrapAt s t sk c v r) := by
  have h := (sameOutside_dropWatch s t sk).trans (sameOutside_abandonCfg (dropWatch s t sk) t sk)
  unfold takeTrapAt
  dsimp only
  split
  · exact h.trans (sameOutside_setStrm _ _ _ _)
  · exact (h.trans (sameOutside_setStrm _ _ _ _)).trans (sameOutside_offer _ _)

/-! Retirement (R28, R41, R150, R155, R156). -/

/-- The stream that a word leaves when it retires, before its pushes. -/
def advanced (s : State) (st : Stream) (f : Flow) : Stream :=
  let st1 := match f with
    | .seq => nextSeq st
    | .jump p => { st with pc := p }
  { st1 with lastIssue := s.fab, watchdogPosted := false, issued := st1.issued + 1 }

/-- A stream with other tokens, and what their pushes tell. -/
abbrev withTokens (st : Stream) (l r : Nat) (a b : List Know) : Stream :=
  { st with fromLeft := l, fromRight := r, leftKnow := a, rightKnow := b }

theorem neighbour_ne (sk : Strm) (right : Bool) : neighbour sk right ≠ sk := by
  cases sk <;> cases right <;> decide

theorem pushN_own (s : State) (t : Nat) (sk : Strm) (right : Bool) (n : Nat) :
    strmAt (pushN s t sk right n) t sk = strmAt s t sk := by
  unfold pushN
  exact strmAt_setStrm_other _ _ _ _ _ _ (fun h => neighbour_ne sk right (congrArg Prod.snd h).symm)

theorem pushN_other (s : State) (t u : Nat) (sk j : Strm) (right : Bool) (n : Nat) :
    ∃ l r a b, strmAt (pushN s t sk right n) u j = withTokens (strmAt s u j) l r a b := by
  unfold pushN
  by_cases h : (u, j) = (t, neighbour sk right)
  · obtain ⟨rfl, rfl⟩ := Prod.mk.inj h
    simp only [strmAt_setStrm_same, addTokens]
    split
    · exact ⟨_, _, _, _, rfl⟩
    · exact ⟨_, _, _, _, rfl⟩
  · exact ⟨_, _, _, _, strmAt_setStrm_other _ _ _ _ _ _ h⟩

theorem pushOne_own (s : State) (t : Nat) (sk : Strm) (right : Bool) : strmAt (pushOne s t sk right).1 t sk = strmAt s t sk := by
  unfold pushOne
  split
  · exact pushN_own ..
  · rfl

theorem pushOne_other (s : State) (t u : Nat) (sk j : Strm) (right : Bool) :
    ∃ l r a b, strmAt (pushOne s t sk right).1 u j = withTokens (strmAt s u j) l r a b := by
  unfold pushOne
  split
  · exact pushN_other ..
  · exact ⟨_, _, _, _, rfl⟩

theorem sameOutside_pushOne (s : State) (t : Nat) (sk : Strm) (right : Bool) : SameOutside s (pushOne s t sk right).1 := by
  unfold pushOne
  split <;> rfl

theorem pushBits_own (s : State) (t : Nat) (sk : Strm) (sl sr : Bool) :
    strmAt (pushBits s t sk sl sr).1 t sk = strmAt s t sk := by
  cases sl <;> cases sr <;> simp [pushBits, pushOne_own]

theorem pushBits_other (s : State) (t u : Nat) (sk j : Strm) (sl sr : Bool) :
    ∃ l r a b, strmAt (pushBits s t sk sl sr).1 u j = withTokens (strmAt s u j) l r a b := by
  cases sl <;> cases sr <;> simp only [pushBits, Bool.false_eq_true, if_false, if_true]
  · exact ⟨_, _, _, _, rfl⟩
  · exact pushOne_other ..
  · exact pushOne_other ..
  · obtain ⟨l, r, a, b, h⟩ := pushOne_other (pushOne s t sk false).1 t u sk j true
    obtain ⟨l', r', a', b', h'⟩ := pushOne_other s t u sk j false
    exact ⟨l, r, a, b, by rw [h, h']⟩

theorem sameOutside_pushBits (s : State) (t : Nat) (sk : Strm) (sl sr : Bool) : SameOutside s (pushBits s t sk sl sr).1 := by
  cases sl <;> cases sr <;> simp only [pushBits, Bool.false_eq_true, if_false, if_true]
  · exact .refl s
  · exact sameOutside_pushOne ..
  · exact sameOutside_pushOne ..
  · exact (sameOutside_pushOne ..).trans (sameOutside_pushOne ..)

/-- A push that finds room does not fail. -/
theorem pushOne_room {s : State} {t : Nat} {sk : Strm} {right : Bool} (h : pushedTokens s t sk right < 8) :
    pushOne s t sk right = (pushN s t sk right 1, false) := by
  simp [pushOne, h]

/-- A push on one side leaves the FIFO on the other side as it is. -/
theorem pushedTokens_pushN_left (s : State) (t : Nat) (sk : Strm) (n : Nat) :
    pushedTokens (pushN s t sk false n) t sk true = pushedTokens s t sk true := by
  have h : (t, neighbour sk true) ≠ (t, neighbour sk false) := by cases sk <;> simp [neighbour, leftOf, rightOf]
  unfold pushedTokens pushN
  rw [strmAt_setStrm_other _ _ _ _ _ _ h]

/-- A retiring word either leaves its stream advanced, or its failed pushes trap it there (R156). -/
theorem strmAt_retireAt (s : State) (t : Nat) (sk : Strm) (tk : BitVec 4) (f : Flow) :
    strmAt (retireAt s t sk tk f) t sk = advanced s (strmAt s t sk) f ∨
      ∃ v, strmAt (retireAt s t sk tk f) t sk =
        trapped (advanced s (strmAt s t sk) f) .tokenOver v (advanced s (strmAt s t sk) f).pc := by
  have e : strmAt (setStrm s t sk (advanced s (strmAt s t sk) f)) t sk = advanced s (strmAt s t sk) f := by simp
  have key := pushBits_own (setStrm s t sk (advanced s (strmAt s t sk) f)) t sk (tkSL tk) (tkSR tk)
  rw [e] at key
  have e2 : retireAt s t sk tk f = pushRetired (setStrm s t sk (advanced s (strmAt s t sk) f)) t sk (tkSL tk) (tkSR tk) := rfl
  rw [e2]
  unfold pushRetired
  dsimp only
  split
  · right
    exact ⟨_, (strmAt_takeTrapAt ..).trans (by rw [key])⟩
  · exact .inl key

/-- Another stream keeps everything but its tokens. -/
theorem strmAt_retireAt_other (s : State) (t u : Nat) (sk j : Strm) (tk : BitVec 4) (f : Flow) (h : (u, j) ≠ (t, sk)) :
    ∃ l r a b, strmAt (retireAt s t sk tk f) u j = withTokens (strmAt s u j) l r a b := by
  obtain ⟨l, r, a, b, key⟩ := pushBits_other (setStrm s t sk (advanced s (strmAt s t sk) f)) t u sk j (tkSL tk) (tkSR tk)
  rw [strmAt_setStrm_other _ _ _ _ _ _ h] at key
  change ∃ l r a b, strmAt (pushRetired (setStrm s t sk (advanced s (strmAt s t sk) f)) t sk (tkSL tk) (tkSR tk)) u j = _
  unfold pushRetired
  dsimp only
  split
  · exact ⟨l, r, a, b, by rw [strmAt_takeTrapAt_other _ _ _ _ _ _ _ _ h, key]⟩
  · exact ⟨l, r, a, b, key⟩

theorem sameOutside_retireAt (s : State) (t : Nat) (sk : Strm) (tk : BitVec 4) (f : Flow) : SameOutside s (retireAt s t sk tk f) := by
  change SameOutside s (pushRetired (setStrm s t sk (advanced s (strmAt s t sk) f)) t sk (tkSL tk) (tkSR tk))
  have h := (sameOutside_setStrm s t sk (advanced s (strmAt s t sk) f)).trans (sameOutside_pushBits _ t sk (tkSL tk) (tkSR tk))
  unfold pushRetired
  dsimp only
  split
  · exact h.trans (sameOutside_takeTrapAt ..)
  · exact h

/-- The stream of a word whose tokens all find room: advanced, with no trap. -/
theorem strmAt_retireAt_room (s : State) (t : Nat) (sk : Strm) (tk : BitVec 4) (f : Flow)
    (hl : tkSL tk = true → pushedTokens s t sk false < 8) (hr : tkSR tk = true → pushedTokens s t sk true < 8) :
    strmAt (retireAt s t sk tk f) t sk = advanced s (strmAt s t sk) f ∧
      ∀ u j, (u, j) ≠ (t, sk) → strmAt (retireAt s t sk tk f) u j =
        strmAt (pushBits (setStrm s t sk (advanced s (strmAt s t sk) f)) t sk (tkSL tk) (tkSR tk)).1 u j := by
  have same : ∀ right, pushedTokens (setStrm s t sk (advanced s (strmAt s t sk) f)) t sk right = pushedTokens s t sk right := by
    intro right
    have ne : (t, neighbour sk right) ≠ (t, sk) := fun h => neighbour_ne sk right (congrArg Prod.snd h)
    unfold pushedTokens
    rw [strmAt_setStrm_other _ _ _ _ _ _ ne]
  have key := pushBits_own (setStrm s t sk (advanced s (strmAt s t sk) f)) t sk (tkSL tk) (tkSR tk)
  have none : (pushBits (setStrm s t sk (advanced s (strmAt s t sk) f)) t sk (tkSL tk) (tkSR tk)).2 = (false, false) := by
    cases hsl : tkSL tk <;> cases hsr : tkSR tk <;> simp only [pushBits, Bool.false_eq_true, if_false, if_true]
    · rw [pushOne_room (by rw [same]; exact hr hsr)]
    · rw [pushOne_room (by rw [same]; exact hl hsl)]
    · rw [pushOne_room (right := false) (by rw [same]; exact hl hsl)]
      dsimp only
      rw [pushOne_room (by rw [pushedTokens_pushN_left, same]; exact hr hsr)]
  have e : retireAt s t sk tk f = (pushBits (setStrm s t sk (advanced s (strmAt s t sk) f)) t sk (tkSL tk) (tkSR tk)).1 := by
    change pushRetired (setStrm s t sk (advanced s (strmAt s t sk) f)) t sk (tkSL tk) (tkSR tk) = _
    unfold pushRetired
    dsimp only
    have n1 := congrArg Prod.fst none
    have n2 := congrArg Prod.snd none
    dsimp only at n1 n2
    rw [if_neg (by rw [n1, n2]; decide)]
  rw [e, key]
  exact ⟨by simp, fun _ _ _ => rfl⟩

/-- Where no loop ends, the next word follows and nothing else of the stream changes. -/
theorem nextSeq_no_loop {st : Stream} (h : st.tctx = true ∨ (loopHit st.lca st.pc = false ∧ loopHit st.lcb st.pc = false)) :
    nextSeq st = { st with pc := st.pc + 4 } := by
  unfold nextSeq
  rcases h with h | ⟨h1, h2⟩
  · simp [h]
  · simp [h1, h2]

end Sys2Proof.Machine
end

