-- ==== Sys2Proof/Laws/Memory.lean ====
section
/-! SUPPORT. Memory: every operation keeps the canonical form, a read after a write gives the byte written, and every other
byte reads as before. -/

namespace Sys2Proof.Machine

theorem memSorted_mono {m : Mem} {a b : Nat} (h : memSorted b m = true) (hab : a ≤ b) : memSorted a m = true := by
  cases m with
  | nil => rfl
  | cons p rest =>
    obtain ⟨x, v⟩ := p
    simp only [memSorted, Bool.and_eq_true, decide_eq_true_eq] at h ⊢
    exact ⟨⟨by omega, h.1.2⟩, h.2⟩

theorem memSorted_put {m : Mem} {lo : Nat} (x : Nat) (v : Byte) (h : memSorted lo m = true) (hx : lo ≤ x) :
    memSorted lo (memPut m x v) = true := by
  induction m generalizing lo with
  | nil =>
    simp only [memPut]
    split <;> simp_all [memSorted]
  | cons p rest ih =>
    obtain ⟨a, b⟩ := p
    simp only [memSorted, Bool.and_eq_true, decide_eq_true_eq] at h
    simp only [memPut]
    split
    · split
      · exact memSorted_mono h.2 (by omega)
      · simp_all [memSorted]
    · split
      · split
        · simp [memSorted, h]
        · rename_i hv
          simp only [memSorted, Bool.and_eq_true, decide_eq_true_eq]
          exact ⟨⟨hx, hv⟩, ⟨by omega, h.1.2⟩, h.2⟩
      · simp only [memSorted, Bool.and_eq_true, decide_eq_true_eq]
        exact ⟨h.1, ih h.2 (by omega)⟩

/-- Memory stays canonical when a byte is written. -/
theorem memPut_wf {m : Mem} (x : Nat) (v : Byte) (h : Memory.wf m = true) : Memory.wf (memPut m x v) = true :=
  memSorted_put x v h (Nat.zero_le x)

/-- Memory stays canonical when bytes are written. -/
theorem memWrite_wf {m : Mem} (x : Nat) (bs : List Byte) (h : Memory.wf m = true) : Memory.wf (memWrite m x bs) = true := by
  induction bs generalizing m x with
  | nil => exact h
  | cons b bs ih => exact ih (x + 1) (memPut_wf x b h)

theorem memSorted_filter {m : Mem} {lo : Nat} (p : Nat × Byte → Bool) (h : memSorted lo m = true) :
    memSorted lo (m.filter p) = true := by
  induction m generalizing lo with
  | nil => rfl
  | cons q rest ih =>
    obtain ⟨a, b⟩ := q
    simp only [memSorted, Bool.and_eq_true, decide_eq_true_eq] at h
    simp only [List.filter_cons]
    split
    · simp only [memSorted, Bool.and_eq_true, decide_eq_true_eq]
      exact ⟨h.1, ih h.2⟩
    · exact memSorted_mono (ih h.2) (by omega)

/-- Memory stays canonical when bytes are dropped. -/
theorem memFilter_wf {m : Mem} (p : Nat × Byte → Bool) (h : Memory.wf m = true) : Memory.wf (m.filter p) = true :=
  memSorted_filter p h

theorem memGet_low {m : Mem} {lo x : Nat} (h : memSorted lo m = true) (hx : x < lo) : memGet m x = memDefault := by
  cases m with
  | nil => rfl
  | cons p rest =>
    obtain ⟨a, b⟩ := p
    simp only [memSorted, Bool.and_eq_true, decide_eq_true_eq] at h
    have h1 : a ≠ x := by omega
    have h2 : x < a := by omega
    simp [memGet, h1, h2]

theorem memGet_memPut {m : Mem} {lo : Nat} (h : memSorted lo m = true) (x y : Nat) (v : Byte) :
    memGet (memPut m x v) y = if y = x then v else memGet m y := by
  induction m generalizing lo with
  | nil =>
    simp only [memPut]
    split <;> by_cases hy : y = x
    · simp_all [memGet]
    · simp_all [memGet]
    · simp_all [memGet]
    · simp [memGet, hy, Ne.symm hy]
  | cons p rest ih =>
    obtain ⟨a, b⟩ := p
    simp only [memSorted, Bool.and_eq_true, decide_eq_true_eq] at h
    have low : ∀ z, z ≤ a → memGet rest z = memDefault := fun z hz => memGet_low h.2 (by omega)
    simp only [memPut]
    by_cases hxa : x = a
    · subst hxa
      by_cases hy : y = x
      · subst hy
        by_cases hv : v = memDefault <;> simp [hv, memGet, low]
      · by_cases hv : v = memDefault
        · by_cases hyx : y < x
          · simp [hv, memGet, hy, Ne.symm hy, hyx, low y (by omega)]
          · simp [hv, memGet, hy, Ne.symm hy, hyx]
        · simp [hv, memGet, hy, Ne.symm hy]
    · by_cases hlt : x < a
      · by_cases hy : y = x
        · subst hy
          by_cases hv : v = memDefault <;> simp [hv, memGet, hxa, hlt, Ne.symm hxa]
        · by_cases hv : v = memDefault
          · simp [hv, hxa, hlt, hy]
          · simp only [hxa, hlt, hv, if_false, if_true, hy]
            simp only [memGet]
            by_cases hyx : y < x
            · simp [Ne.symm hy, hyx, show ¬ a = y by omega, show y < a by omega]
            · simp [Ne.symm hy, hyx]
      · simp only [hxa, hlt, if_false, memGet]
        rw [ih h.2]
        by_cases hay : a = y
        · simp [hay, show ¬ y = x by omega]
        · by_cases hya : y < a
          · simp [hay, hya, show ¬ y = x by omega]
          · simp [hay, hya]

/-- A byte of canonical memory after a write of one byte. -/
theorem memGet_put {m : Mem} (h : Memory.wf m = true) (x y : Nat) (v : Byte) :
    memGet (memPut m x v) y = if y = x then v else memGet m y := memGet_memPut h x y v

/-- A byte outside the written ones reads as before. -/
theorem memGet_write_other {m : Mem} (h : Memory.wf m = true) (x y : Nat) (bs : List Byte) (hy : y < x ∨ x + bs.length ≤ y) :
    memGet (memWrite m x bs) y = memGet m y := by
  induction bs generalizing m x with
  | nil => rfl
  | cons b bs ih =>
    simp only [List.length_cons] at hy
    simp only [memWrite]
    rw [ih (memPut_wf x b h) (x + 1) (by omega), memGet_put h]
    simp [show ¬ y = x by omega]

/-- Bytes read back where they were written. -/
theorem memRead_write {m : Mem} (h : Memory.wf m = true) (x : Nat) (bs : List Byte) :
    memRead (memWrite m x bs) x bs.length = bs := by
  induction bs generalizing m x with
  | nil => rfl
  | cons b bs ih =>
    simp only [List.length_cons, memRead, memWrite]
    rw [memGet_write_other (memPut_wf x b h) (x + 1) x bs (by omega), memGet_put h, ih (memPut_wf x b h)]
    simp

/-! Writes at a port. -/

@[simp] theorem putByte_mem (s : State) (g : Agent) (p : Nat) (v : Byte) : (putByte s g p v).mem = memPut s.mem p v := rfl

@[simp] theorem putBytes_mem (s : State) (g : Agent) (p : Nat) (bs : List Byte) :
    (putBytes s g p bs).mem = memWrite s.mem p bs := by
  induction bs generalizing s p with
  | nil => rfl
  | cons b bs ih => simp [putBytes, memWrite, ih]

@[simp] theorem countScrub_mem (s : State) (d n : Nat) : (countScrub s d n).mem = s.mem := rfl

/-- Zeros put in a list of bytes keep memory canonical. -/
theorem zeroed_wf (g : Agent) (xs : List Nat) (s : State) (h : Memory.wf s.mem = true) :
    Memory.wf (xs.foldl (fun t a => putByte t g a 0) s).mem = true := by
  induction xs generalizing s with
  | nil => exact h
  | cons x xs ih => exact ih _ (memPut_wf x 0 h)

/-- A write placed below others leaves memory as it is (R177, R384). -/
@[simp] theorem putBelow_mem (s : State) (g : Agent) (n p : Nat) (v : Byte) : (putBelow s g n p v).mem = s.mem := by
  unfold putBelow
  dsimp only
  split <;> rfl

theorem scrubGranule_wf (s : State) (g : Agent) (p n gr : Nat) (h : Memory.wf s.mem = true) :
    Memory.wf (scrubGranule s g p n gr).mem = true := by
  unfold scrubGranule
  split
  · exact h
  · exact zeroed_wf g _ s h

theorem scrubAll_wf (g : Agent) (p n : Nat) (xs : List Nat) (s : State) (h : Memory.wf s.mem = true) :
    Memory.wf (xs.foldl (fun t gr => scrubGranule t g p n gr) s).mem = true := by
  induction xs generalizing s with
  | nil => exact h
  | cons x xs ih => exact ih _ (scrubGranule_wf s g p n x h)

/-- A write at the port keeps memory canonical. -/
theorem writeAt_wf (s : State) (g : Agent) (p : Nat) (bs : List Byte) (h : Memory.wf s.mem = true) :
    Memory.wf (writeAt s g p bs).mem = true := by
  simp only [writeAt, putBytes_mem]
  exact memWrite_wf _ _ (scrubAll_wf g p bs.length _ s h)

theorem writeNat_wf (s : State) (g : Agent) (p n x : Nat) (h : Memory.wf s.mem = true) :
    Memory.wf (writeNat s g p n x).mem = true := writeAt_wf s g p _ h

/-- Where nothing is poisoned, a write at the port writes exactly its bytes. -/
theorem writeAt_mem (s : State) (g : Agent) (p : Nat) (bs : List Byte) (h : poisonIn s p bs.length = []) :
    (writeAt s g p bs).mem = memWrite s.mem p bs := by simp [writeAt, h]

@[simp] theorem raiseSpan_mem (s : State) (c : List Nat) (b : Option Nat) (w : Bool) : (raiseSpan s c b w).mem = s.mem := by
  unfold raiseSpan
  split <;> rfl

end Sys2Proof.Machine
end

