-- ==== Sys2Proof/Laws/PerInstr.lean ====
section
/-! SUPPORT. Facts about single instructions: the word that the encoder gives an instruction has 32 bits. -/

namespace Sys2Proof.Laws

/-! The forms of the encoder. -/

theorem bool_toNat_le (b : Bool) : b.toNat ≤ 1 := by cases b <;> decide

theorem Scope.code_le (x : Scope) : x.code ≤ 5 := by cases x <;> decide
theorem Path.code_le (x : Path) : x.code ≤ 6 := by cases x <;> decide
theorem Cc.code_le (x : Cc) : x.code ≤ 3 := by cases x <;> decide
theorem FpFmt.code_le (x : FpFmt) : x.code ≤ 1 := by cases x <;> decide
theorem CvtDst.code_le (x : CvtDst) : x.code ≤ 2 := by cases x <;> decide
theorem RCounter.code_le (x : RCounter) : x.code ≤ 4 := by cases x <;> decide
theorem TlbiKind.code_le (x : TlbiKind) : x.code ≤ 2 := by cases x <;> decide

theorem encA_lt {cls fn : Nat} (d a b : BitVec 5) (ta tb : Bool) (tk : BitVec 4) (hc : cls < 16) (hf : fn < 128) :
    encA cls d a b ta tb fn tk < 2 ^ 32 := by
  have := bool_toNat_le ta; have := bool_toNat_le tb
  simp only [encA]; omega

theorem encA2_lt {fn : Nat} (o : FormA2) (hf : fn < 128) : encA2 fn o < 2 ^ 32 := encA_lt _ _ _ _ _ _ (by decide) hf

theorem encF2_lt {op : Nat} (o : FormF2) (h : op < 32) : encF2 op o < 2 ^ 32 :=
  encA_lt _ _ _ _ _ _ (by decide) (by have := FpFmt.code_le o.fmt; omega)

theorem encF1_lt {op : Nat} (o : FormF1) (h : op < 32) : encF1 op o < 2 ^ 32 :=
  encA_lt _ _ _ _ _ _ (by decide) (by have := FpFmt.code_le o.fmt; omega)

theorem encI_lt {fn imm : Nat} (d a : BitVec 5) (ta : Bool) (tk : BitVec 4) (hf : fn < 8) (hi : imm < 1024) :
    encI fn d a ta imm tk < 2 ^ 32 := by
  have := bool_toNat_le ta
  simp only [encI]; omega

theorem encM_lt {op : Nat} (o : FormM) (h : op < 16) : encM op o < 2 ^ 32 := by
  simp only [encM]; omega

theorem encB_lt {cond : Nat} (o : FormB) (h : cond < 8) : encB cond o < 2 ^ 32 := by
  have := bool_toNat_le o.ta; have := bool_toNat_le o.tb
  simp only [encB]; omega

theorem encJ_lt {fn2 rest : Nat} (tk : BitVec 4) (hf : fn2 < 4) (hr : rest < 2 ^ 22) : encJ fn2 rest tk < 2 ^ 32 := by
  simp only [encJ]; omega

theorem encQ_lt {cls d a b op md : Nat} (tk : BitVec 4) (hc : cls < 16) (hd : d < 32) (ha : a < 32) (hb : b < 32) (ho : op < 32)
    (hm : md < 16) : encQ cls d a b op md tk < 2 ^ 32 := by
  simp only [encQ]; omega

theorem encS_lt {fn imm : Nat} (tk : BitVec 4) (hf : fn < 256) (hi : imm < 2 ^ 16) : encS fn imm tk < 2 ^ 32 := by
  simp only [encS]; omega

theorem encPatch_lt {cls : Nat} (o : FormPatch) (h : cls < 16) : encPatch cls o < 2 ^ 32 := by
  simp only [encPatch]; omega

namespace EncodingFits

/-- What the family says of one instruction: its word, if it has one, has 32 bits (R41). -/
def Statement (i : Instr) : Prop := ∀ w, encode i = some w → w < 2 ^ 32

theorem of_lt {i : Instr} {w : Nat} (h : encode i = some w) (hw : w < 2 ^ 32) : Statement i := by
  intro v hv
  rw [h] at hv
  exact (Option.some.inj hv) ▸ hw

theorem of_none {i : Instr} (h : encode i = none) : Statement i := by
  intro v hv
  rw [h] at hv
  cases hv

theorem add (o : FormA2) : Statement (.add o) := of_lt rfl (encA2_lt o (by decide))
theorem sub (o : FormA2) : Statement (.sub o) := of_lt rfl (encA2_lt o (by decide))
theorem and (o : FormA2) : Statement (.and o) := of_lt rfl (encA2_lt o (by decide))
theorem or (o : FormA2) : Statement (.or o) := of_lt rfl (encA2_lt o (by decide))
theorem xor (o : FormA2) : Statement (.xor o) := of_lt rfl (encA2_lt o (by decide))
theorem andn (o : FormA2) : Statement (.andn o) := of_lt rfl (encA2_lt o (by decide))
theorem shl (o : FormA2) : Statement (.shl o) := of_lt rfl (encA2_lt o (by decide))
theorem shr (o : FormA2) : Statement (.shr o) := of_lt rfl (encA2_lt o (by decide))
theorem sar (o : FormA2) : Statement (.sar o) := of_lt rfl (encA2_lt o (by decide))
theorem rot (o : FormA2) : Statement (.rot o) := of_lt rfl (encA2_lt o (by decide))
theorem mul (o : FormA2) : Statement (.mul o) := of_lt rfl (encA2_lt o (by decide))
theorem mulh (o : FormA2) : Statement (.mulh o) := of_lt rfl (encA2_lt o (by decide))
theorem mulhz (o : FormA2) : Statement (.mulhz o) := of_lt rfl (encA2_lt o (by decide))
theorem div (o : FormA2) : Statement (.div o) := of_lt rfl (encA2_lt o (by decide))
theorem divz (o : FormA2) : Statement (.divz o) := of_lt rfl (encA2_lt o (by decide))
theorem rem (o : FormA2) : Statement (.rem o) := of_lt rfl (encA2_lt o (by decide))
theorem remz (o : FormA2) : Statement (.remz o) := of_lt rfl (encA2_lt o (by decide))
theorem min (o : FormA2) : Statement (.min o) := of_lt rfl (encA2_lt o (by decide))
theorem max (o : FormA2) : Statement (.max o) := of_lt rfl (encA2_lt o (by decide))
theorem minz (o : FormA2) : Statement (.minz o) := of_lt rfl (encA2_lt o (by decide))
theorem maxz (o : FormA2) : Statement (.maxz o) := of_lt rfl (encA2_lt o (by decide))
theorem slt (o : FormA2) : Statement (.slt o) := of_lt rfl (encA2_lt o (by decide))
theorem sltz (o : FormA2) : Statement (.sltz o) := of_lt rfl (encA2_lt o (by decide))
theorem seq (o : FormA2) : Statement (.seq o) := of_lt rfl (encA2_lt o (by decide))
theorem sel (o : FormA2) : Statement (.sel o) := of_lt rfl (encA2_lt o (by decide))
theorem clz (o : FormA1) : Statement (.clz o) := of_lt rfl (encA_lt _ _ _ _ _ _ (by decide) (by decide))
theorem popc (o : FormA1) : Statement (.popc o) := of_lt rfl (encA_lt _ _ _ _ _ _ (by decide) (by decide))
theorem bext (o : FormA2) : Statement (.bext o) := of_lt rfl (encA2_lt o (by decide))
theorem bins (o : FormA2) : Statement (.bins o) := of_lt rfl (encA2_lt o (by decide))
theorem addw (o : FormA2) : Statement (.addw o) := of_lt rfl (encA2_lt o (by decide))
theorem lea (o : FormALea) : Statement (.lea o) := of_lt rfl (encA_lt _ _ _ _ _ _ (by decide) (by omega))
theorem leas (o : FormALea) : Statement (.leas o) := of_lt rfl (encA_lt _ _ _ _ _ _ (by decide) (by omega))
theorem ji (o : FormAJ) : Statement (.ji o) := of_lt rfl (encA_lt _ _ _ _ _ _ (by decide) (by decide))
theorem jli (o : FormA1) : Statement (.jli o) := of_lt rfl (encA_lt _ _ _ _ _ _ (by decide) (by decide))
theorem fadd (o : FormF2) : Statement (.fadd o) := of_lt rfl (encF2_lt o (by decide))
theorem fsub (o : FormF2) : Statement (.fsub o) := of_lt rfl (encF2_lt o (by decide))
theorem fmul (o : FormF2) : Statement (.fmul o) := of_lt rfl (encF2_lt o (by decide))
theorem ffma (o : FormF2) : Statement (.ffma o) := of_lt rfl (encF2_lt o (by decide))
theorem fmin (o : FormF2) : Statement (.fmin o) := of_lt rfl (encF2_lt o (by decide))
theorem fmax (o : FormF2) : Statement (.fmax o) := of_lt rfl (encF2_lt o (by decide))
theorem fabs (o : FormF1) : Statement (.fabs o) := of_lt rfl (encF1_lt o (by decide))
theorem fneg (o : FormF1) : Statement (.fneg o) := of_lt rfl (encF1_lt o (by decide))
theorem fcmp (o : FormF2) : Statement (.fcmp o) := of_lt rfl (encF2_lt o (by decide))
theorem fcvt (o : FormFCvt) : Statement (.fcvt o) := of_lt rfl (encA_lt _ _ _ _ _ _ (by decide) (by have := CvtDst.code_le o.dst; omega))
theorem frcp (o : FormF1) : Statement (.frcp o) := of_lt rfl (encF1_lt o (by decide))
theorem frsq (o : FormF1) : Statement (.frsq o) := of_lt rfl (encF1_lt o (by decide))
theorem addi (o : FormI) : Statement (.addi o) := of_lt rfl (encI_lt _ _ _ _ (by decide) (by omega))
theorem andi (o : FormI) : Statement (.andi o) := of_lt rfl (encI_lt _ _ _ _ (by decide) (by omega))
theorem ori (o : FormI) : Statement (.ori o) := of_lt rfl (encI_lt _ _ _ _ (by decide) (by omega))
theorem xori (o : FormI) : Statement (.xori o) := of_lt rfl (encI_lt _ _ _ _ (by decide) (by omega))
theorem shli (o : FormISh) : Statement (.shli o) := of_lt rfl (encI_lt _ _ _ _ (by decide) (by omega))
theorem shri (o : FormISh) : Statement (.shri o) := of_lt rfl (encI_lt _ _ _ _ (by decide) (by omega))
theorem sari (o : FormISh) : Statement (.sari o) := of_lt rfl (encI_lt _ _ _ _ (by decide) (by omega))
theorem slti (o : FormI) : Statement (.slti o) := of_lt rfl (encI_lt _ _ _ _ (by decide) (by omega))
theorem ldb (o : FormM) : Statement (.ldb o) := of_lt rfl (encM_lt o (by decide))
theorem ldbz (o : FormM) : Statement (.ldbz o) := of_lt rfl (encM_lt o (by decide))
theorem ldh (o : FormM) : Statement (.ldh o) := of_lt rfl (encM_lt o (by decide))
theorem ldhz (o : FormM) : Statement (.ldhz o) := of_lt rfl (encM_lt o (by decide))
theorem ldw (o : FormM) : Statement (.ldw o) := of_lt rfl (encM_lt o (by decide))
theorem ldwz (o : FormM) : Statement (.ldwz o) := of_lt rfl (encM_lt o (by decide))
theorem ldd (o : FormM) : Statement (.ldd o) := of_lt rfl (encM_lt o (by decide))
theorem stb (o : FormM) : Statement (.stb o) := of_lt rfl (encM_lt o (by decide))
theorem sth (o : FormM) : Statement (.sth o) := of_lt rfl (encM_lt o (by decide))
theorem stw (o : FormM) : Statement (.stw o) := of_lt rfl (encM_lt o (by decide))
theorem std (o : FormM) : Statement (.std o) := of_lt rfl (encM_lt o (by decide))
theorem lih (o : FormLih) : Statement (.lih o) := of_lt rfl (by omega)
theorem beq (o : FormB) : Statement (.beq o) := of_lt rfl (encB_lt o (by decide))
theorem bne (o : FormB) : Statement (.bne o) := of_lt rfl (encB_lt o (by decide))
theorem blt (o : FormB) : Statement (.blt o) := of_lt rfl (encB_lt o (by decide))
theorem bge (o : FormB) : Statement (.bge o) := of_lt rfl (encB_lt o (by decide))
theorem blo (o : FormB) : Statement (.blo o) := of_lt rfl (encB_lt o (by decide))
theorem bhs (o : FormB) : Statement (.bhs o) := of_lt rfl (encB_lt o (by decide))
theorem j (o : FormJ) : Statement (.j o) := of_lt rfl (encJ_lt _ (by decide) (by omega))
theorem jl (o : FormJ) : Statement (.jl o) := of_lt rfl (encJ_lt _ (by decide) (by omega))
theorem loop (o : FormLoop) : Statement (.loop o) := of_lt rfl (encJ_lt _ (by decide) (by have := bool_toNat_le o.lcb; omega))
theorem brloop (o : FormBrLoop) : Statement (.brloop o) := of_lt rfl (encJ_lt _ (by decide) (by have := bool_toNat_le o.lcb; omega))
theorem qpop (o : FormQPop) : Statement (.qpop o) := of_lt rfl (encQ_lt _ (by decide) (by omega) (by omega) (by decide) (by decide) (by have := bool_toNat_le o.t; omega))
theorem qpeek (o : FormQPop) : Statement (.qpeek o) := of_lt rfl (encQ_lt _ (by decide) (by omega) (by omega) (by decide) (by decide) (by have := bool_toNat_le o.t; omega))
theorem qpush (o : FormQPush) : Statement (.qpush o) := of_lt rfl (encQ_lt _ (by decide) (by decide) (by omega) (by omega) (by decide) (by decide))
theorem qcnt (o : FormQCnt) : Statement (.qcnt o) := of_lt rfl (encQ_lt _ (by decide) (by omega) (by omega) (by decide) (by decide) (by decide))
theorem tkw (o : FormTk) : Statement (.tkw o) := of_lt rfl (encQ_lt _ (by decide) (by decide) (by omega) (by decide) (by decide) (by have := bool_toNat_le o.right; omega))
theorem tks (o : FormTk) : Statement (.tks o) := of_lt rfl (encQ_lt _ (by decide) (by decide) (by omega) (by decide) (by decide) (by have := bool_toNat_le o.right; omega))
theorem rdvz (o : FormRdvz) : Statement (.rdvz o) := of_lt rfl (encQ_lt _ (by decide) (by decide) (by decide) (by decide) (by decide) (by have := bool_toNat_le o.block; omega))
theorem rendezvousComplete (block : Bool) (tile : Nat) : Statement (.rendezvousComplete block tile) := of_none rfl
theorem phase (o : FormPhase) : Statement (.phase o) := of_lt rfl (encQ_lt _ (by decide) (by decide) (by decide) (by decide) (by decide) (by have := Scope.code_le o.scope; omega))
theorem fencx (o : FormFencx) : Statement (.fencx o) := of_lt rfl (encQ_lt _ (by decide) (by decide) (by have := Path.code_le o.p1; omega) (by have := Path.code_le o.p2; omega) (by decide) (by have := Scope.code_le o.scope; omega))
theorem waitw (o : FormWaitw) : Statement (.waitw o) := of_lt rfl (encQ_lt _ (by decide) (by omega) (by omega) (by omega) (by decide) (by have := Cc.code_le o.cc; omega))
theorem hgive (o : FormAB) : Statement (.hgive o) := of_lt rfl (encQ_lt _ (by decide) (by decide) (by omega) (by omega) (by decide) (by decide))
theorem htake (o : FormDA) : Statement (.htake o) := of_lt rfl (encQ_lt _ (by decide) (by omega) (by omega) (by decide) (by decide) (by decide))
theorem hqry (o : FormDA) : Statement (.hqry o) := of_lt rfl (encQ_lt _ (by decide) (by omega) (by omega) (by decide) (by decide) (by decide))
theorem aadd (o : FormAtomic) : Statement (.aadd o) := of_lt rfl (encQ_lt _ (by decide) (by omega) (by omega) (by omega) (by decide) (by have := Scope.code_le o.scope; have := bool_toNat_le o.narrow; omega))
theorem amin (o : FormAtomic) : Statement (.amin o) := of_lt rfl (encQ_lt _ (by decide) (by omega) (by omega) (by omega) (by decide) (by have := Scope.code_le o.scope; have := bool_toNat_le o.narrow; omega))
theorem amax (o : FormAtomic) : Statement (.amax o) := of_lt rfl (encQ_lt _ (by decide) (by omega) (by omega) (by omega) (by decide) (by have := Scope.code_le o.scope; have := bool_toNat_le o.narrow; omega))
theorem aminz (o : FormAtomic) : Statement (.aminz o) := of_lt rfl (encQ_lt _ (by decide) (by omega) (by omega) (by omega) (by decide) (by have := Scope.code_le o.scope; have := bool_toNat_le o.narrow; omega))
theorem amaxz (o : FormAtomic) : Statement (.amaxz o) := of_lt rfl (encQ_lt _ (by decide) (by omega) (by omega) (by omega) (by decide) (by have := Scope.code_le o.scope; have := bool_toNat_le o.narrow; omega))
theorem aand (o : FormAtomic) : Statement (.aand o) := of_lt rfl (encQ_lt _ (by decide) (by omega) (by omega) (by omega) (by decide) (by have := Scope.code_le o.scope; have := bool_toNat_le o.narrow; omega))
theorem aor (o : FormAtomic) : Statement (.aor o) := of_lt rfl (encQ_lt _ (by decide) (by omega) (by omega) (by omega) (by decide) (by have := Scope.code_le o.scope; have := bool_toNat_le o.narrow; omega))
theorem axor (o : FormAtomic) : Statement (.axor o) := of_lt rfl (encQ_lt _ (by decide) (by omega) (by omega) (by omega) (by decide) (by have := Scope.code_le o.scope; have := bool_toNat_le o.narrow; omega))
theorem axch (o : FormAtomic) : Statement (.axch o) := of_lt rfl (encQ_lt _ (by decide) (by omega) (by omega) (by omega) (by decide) (by have := Scope.code_le o.scope; have := bool_toNat_le o.narrow; omega))
theorem acas (o : FormAtomic) : Statement (.acas o) := of_lt rfl (encQ_lt _ (by decide) (by omega) (by omega) (by omega) (by decide) (by have := Scope.code_le o.scope; have := bool_toNat_le o.narrow; omega))
theorem ared (o : FormAred) : Statement (.ared o) := of_lt rfl (encQ_lt _ (by decide) (by decide) (by omega) (by omega) (by decide) (by have := Scope.code_le o.scope; omega))
theorem atomicPortApply (n : Nat) : Statement (.atomicPortApply n) := of_none rfl
theorem nearLoadLanding (tile : Nat) (strm : Strm) (n : Nat) : Statement (.nearLoadLanding tile strm n) := of_none rfl
theorem divisionLands (tile : Nat) (strm : Strm) (n : Nat) : Statement (.divisionLands tile strm n) := of_none rfl
theorem trap (o : FormS16) : Statement (.trap o) := of_lt rfl (encS_lt _ (by decide) (by omega))
theorem eret (o : FormS0) : Statement (.eret o) := of_lt rfl (encS_lt _ (by decide) (by decide))
theorem ssrd (o : FormSReg) : Statement (.ssrd o) := of_lt rfl (encS_lt _ (by decide) (by omega))
theorem sswr (o : FormSReg) : Statement (.sswr o) := of_lt rfl (encS_lt _ (by decide) (by omega))
theorem sleep (o : FormS16) : Statement (.sleep o) := of_lt rfl (encS_lt _ (by decide) (by omega))
theorem sleepExpiry (tile : Nat) (strm : Strm) : Statement (.sleepExpiry tile strm) := of_none rfl
theorem halt (o : FormS0) : Statement (.halt o) := of_lt rfl (encS_lt _ (by decide) (by decide))
theorem yld (o : FormS0) : Statement (.yld o) := of_lt rfl (encS_lt _ (by decide) (by decide))
theorem tlbi (o : FormTlbi) : Statement (.tlbi o) := of_lt rfl (encS_lt _ (by decide) (by have := TlbiKind.code_le o.kind; omega))
theorem ireg (o : FormIreg) : Statement (.ireg o) := of_lt rfl (encS_lt _ (by decide) (by omega))
theorem brk (o : FormS16) : Statement (.brk o) := of_lt rfl (encS_lt _ (by decide) (by omega))
theorem rrbs (o : FormRrbs) : Statement (.rrbs o) := of_lt rfl (encS_lt _ (by decide) (by omega))
theorem timerCompare (tile : Nat) (strm : Strm) : Statement (.timerCompare tile strm) := of_none rfl
theorem intr (tile : Nat) (strm : Strm) : Statement (.intr tile strm) := of_none rfl
theorem oclm (o : FormDA) : Statement (.oclm o) := of_lt rfl (encQ_lt _ (by decide) (by omega) (by omega) (by decide) (by decide) (by decide))
theorem orel (o : FormAB) : Statement (.orel o) := of_lt rfl (encQ_lt _ (by decide) (by decide) (by omega) (by omega) (by decide) (by decide))
theorem epil (o : FormAB) : Statement (.epil o) := of_lt rfl (encQ_lt _ (by decide) (by decide) (by omega) (by omega) (by decide) (by decide))
theorem accd (o : FormA) : Statement (.accd o) := of_lt rfl (encQ_lt _ (by decide) (by decide) (by omega) (by decide) (by decide) (by decide))
theorem taskw (o : FormDA) : Statement (.taskw o) := of_lt rfl (encQ_lt _ (by decide) (by omega) (by omega) (by decide) (by decide) (by decide))
theorem rbind (o : FormDAB) : Statement (.rbind o) := of_lt rfl (encQ_lt _ (by decide) (by omega) (by omega) (by omega) (by decide) (by decide))
theorem rfree (o : FormA) : Statement (.rfree o) := of_lt rfl (encQ_lt _ (by decide) (by decide) (by omega) (by decide) (by decide) (by decide))
theorem rinv (o : FormA) : Statement (.rinv o) := of_lt rfl (encQ_lt _ (by decide) (by decide) (by omega) (by decide) (by decide) (by decide))
theorem rqry (o : FormDA) : Statement (.rqry o) := of_lt rfl (encQ_lt _ (by decide) (by omega) (by omega) (by decide) (by decide) (by decide))
theorem rcnt (o : FormRcnt) : Statement (.rcnt o) := of_lt rfl (encQ_lt _ (by decide) (by omega) (by omega) (by decide) (by decide) (by have := RCounter.code_le o.ctr; omega))
theorem cfgld (o : FormAB) : Statement (.cfgld o) := of_lt rfl (encQ_lt _ (by decide) (by decide) (by omega) (by omega) (by decide) (by decide))
theorem cfgq (o : FormDA) : Statement (.cfgq o) := of_lt rfl (encQ_lt _ (by decide) (by omega) (by omega) (by decide) (by decide) (by decide))
theorem rack (o : FormA) : Statement (.rack o) := of_lt rfl (encQ_lt _ (by decide) (by decide) (by omega) (by decide) (by decide) (by decide))
theorem kiln (o : FormA) : Statement (.kiln o) := of_lt rfl (encQ_lt _ (by decide) (by decide) (by omega) (by decide) (by decide) (by decide))
theorem thaw (o : FormAB) : Statement (.thaw o) := of_lt rfl (encQ_lt _ (by decide) (by decide) (by omega) (by omega) (by decide) (by decide))
theorem rgo (o : FormA) : Statement (.rgo o) := of_lt rfl (encQ_lt _ (by decide) (by decide) (by omega) (by decide) (by decide) (by decide))
theorem garm (o : FormA) : Statement (.garm o) := of_lt rfl (encQ_lt _ (by decide) (by decide) (by omega) (by decide) (by decide) (by decide))
theorem gset (o : FormAB) : Statement (.gset o) := of_lt rfl (encQ_lt _ (by decide) (by decide) (by omega) (by omega) (by decide) (by decide))
theorem emit (o : FormAB) : Statement (.emit o) := of_lt rfl (encQ_lt _ (by decide) (by decide) (by omega) (by omega) (by decide) (by decide))
theorem sigh (o : FormA) : Statement (.sigh o) := of_lt rfl (encQ_lt _ (by decide) (by decide) (by omega) (by decide) (by decide) (by decide))
theorem tbld (o : FormAB) : Statement (.tbld o) := of_lt rfl (encQ_lt _ (by decide) (by decide) (by omega) (by omega) (by decide) (by decide))
theorem tbsv (o : FormAB) : Statement (.tbsv o) := of_lt rfl (encQ_lt _ (by decide) (by decide) (by omega) (by omega) (by decide) (by decide))
theorem phd (o : FormPatch) : Statement (.phd o) := of_lt rfl (encPatch_lt o (by decide))
theorem pis (o : FormPatch) : Statement (.pis o) := of_lt rfl (encPatch_lt o (by decide))
theorem commandCompletion (n : Nat) : Statement (.commandCompletion n) := of_none rfl
theorem replyArrival (n : Nat) : Statement (.replyArrival n) := of_none rfl
theorem slotCommandStart (tile slot : Nat) : Statement (.slotCommandStart tile slot) := of_none rfl
theorem sld (tile slot : Nat) : Statement (.sld tile slot) := of_none rfl
theorem sst (tile slot : Nat) : Statement (.sst tile slot) := of_none rfl
theorem sidx (tile slot : Nat) : Statement (.sidx tile slot) := of_none rfl
theorem ssct (tile slot : Nat) : Statement (.ssct tile slot) := of_none rfl
theorem srec (tile slot : Nat) : Statement (.srec tile slot) := of_none rfl
theorem scon (tile slot : Nat) : Statement (.scon tile slot) := of_none rfl
theorem smcl (tile slot : Nat) : Statement (.smcl tile slot) := of_none rfl
theorem scmp (tile slot : Nat) : Statement (.scmp tile slot) := of_none rfl
theorem sbar (tile n : Nat) : Statement (.sbar tile n) := of_none rfl
theorem scls (tile slot : Nat) : Statement (.scls tile slot) := of_none rfl
theorem swt (tile n : Nat) : Statement (.swt tile n) := of_none rfl
theorem spip (tile mport : Nat) : Statement (.spip tile mport) := of_none rfl
theorem sprv (tile mport : Nat) : Statement (.sprv tile mport) := of_none rfl
theorem pipArrival (n : Nat) : Statement (.pipArrival n) := of_none rfl
theorem sectionSquash (tile region sec : Nat) : Statement (.sectionSquash tile region sec) := of_none rfl
theorem sectionCommit (tile region : Nat) : Statement (.sectionCommit tile region) := of_none rfl
theorem groupFire (tile region group : Nat) : Statement (.groupFire tile region group) := of_none rfl
theorem formatMarkerTake (tile region group input : Nat) : Statement (.formatMarkerTake tile region group input) := of_none rfl
theorem endOfStream (tile region group : Nat) : Statement (.endOfStream tile region group) := of_none rfl
theorem converterConvert (tile region cell : Nat) : Statement (.converterConvert tile region cell) := of_none rfl
theorem settleReport (tile region : Nat) : Statement (.settleReport tile region) := of_none rfl
theorem kilnWaveComplete (tile region : Nat) : Statement (.kilnWaveComplete tile region) := of_none rfl
theorem kilnTimeout (tile region : Nat) : Statement (.kilnTimeout tile region) := of_none rfl
theorem mmd (cluster engine : Nat) : Statement (.mmd cluster engine) := of_none rfl
theorem mms (cluster engine : Nat) : Statement (.mms cluster engine) := of_none rfl
theorem mmg (cluster engine : Nat) : Statement (.mmg cluster engine) := of_none rfl
theorem mmdl (cluster engine : Nat) : Statement (.mmdl cluster engine) := of_none rfl
theorem taskDispatch (cluster : Nat) : Statement (.taskDispatch cluster) := of_none rfl
theorem taskStart (cluster engine : Nat) : Statement (.taskStart cluster engine) := of_none rfl
theorem taskComplete (cluster engine : Nat) : Statement (.taskComplete cluster engine) := of_none rfl
theorem epilogueDrain (cluster engine : Nat) : Statement (.epilogueDrain cluster engine) := of_none rfl
theorem drainComplete (cluster engine : Nat) : Statement (.drainComplete cluster engine) := of_none rfl
theorem mmdlWriteback (cluster n : Nat) : Statement (.mmdlWriteback cluster n) := of_none rfl
theorem cpy (die engine : Nat) : Statement (.cpy die engine) := of_none rfl
theorem cpyw (die engine : Nat) : Statement (.cpyw die engine) := of_none rfl
theorem cfil (die engine : Nat) : Statement (.cfil die engine) := of_none rfl
theorem lrchk (die engine : Nat) : Statement (.lrchk die engine) := of_none rfl
theorem gthr (die engine : Nat) : Statement (.gthr die engine) := of_none rfl
theorem sctr (die engine : Nat) : Statement (.sctr die engine) := of_none rfl
theorem caskq (cluster : Nat) : Statement (.caskq cluster) := of_none rfl
theorem caskrp (cluster : Nat) : Statement (.caskrp cluster) := of_none rfl
theorem caskcp (cluster : Nat) : Statement (.caskcp cluster) := of_none rfl
theorem glnc (n : Nat) : Statement (.glnc n) := of_none rfl
theorem gnxt (n : Nat) : Statement (.gnxt n) := of_none rfl
theorem garmApply (n : Nat) : Statement (.garmApply n) := of_none rfl
theorem gsetApply (n : Nat) : Statement (.gsetApply n) := of_none rfl
theorem emitApply (n : Nat) : Statement (.emitApply n) := of_none rfl
theorem sighApply (n : Nat) : Statement (.sighApply n) := of_none rfl
theorem ringCoalesceTimeout (ring : Nat) : Statement (.ringCoalesceTimeout ring) := of_none rfl
theorem ringFullReread (ring : Nat) : Statement (.ringFullReread ring) := of_none rfl
theorem launchGraph (chan : Nat) : Statement (.launchGraph chan) := of_none rfl
theorem bind (chan : Nat) : Statement (.bind chan) := of_none rfl
theorem configRegion (chan : Nat) : Statement (.configRegion chan) := of_none rfl
theorem copy (chan : Nat) : Statement (.copy chan) := of_none rfl
theorem signal (chan : Nat) : Statement (.signal chan) := of_none rfl
theorem wait (chan : Nat) : Statement (.wait chan) := of_none rfl
theorem queueCreate (chan : Nat) : Statement (.queueCreate chan) := of_none rfl
theorem queueDestroy (chan : Nat) : Statement (.queueDestroy chan) := of_none rfl
theorem channelResync (chan : Nat) : Statement (.channelResync chan) := of_none rfl
theorem selectionPass : Statement .selectionPass := of_none rfl
theorem jobStart (job : Nat) : Statement (.jobStart job) := of_none rfl
theorem jobComplete (job : Nat) : Statement (.jobComplete job) := of_none rfl
theorem bindNode (n : Nat) : Statement (.bindNode n) := of_none rfl
theorem copyNode (n : Nat) : Statement (.copyNode n) := of_none rfl
theorem gatherNode (n : Nat) : Statement (.gatherNode n) := of_none rfl
theorem cond (n : Nat) : Statement (.cond n) := of_none rfl
theorem host (n : Nat) : Statement (.host n) := of_none rfl
theorem rearm (n : Nat) : Statement (.rearm n) := of_none rfl
theorem graphComplete (n : Nat) : Statement (.graphComplete n) := of_none rfl
theorem watchdog (tile : Nat) (strm : Strm) : Statement (.watchdog tile strm) := of_none rfl
theorem eventRecordWrite (n : Nat) : Statement (.eventRecordWrite n) := of_none rfl
theorem resume (fn : Nat) (fid : Nat) : Statement (.resume fn fid) := of_none rfl
theorem terminate (fn : Nat) (fid : Nat) : Statement (.terminate fn fid) := of_none rfl
theorem pageWalk (req : WalkReq) : Statement (.pageWalk req) := of_none rfl
theorem collapse (n : Nat) : Statement (.collapse n) := of_none rfl
theorem scrubPass (die : Nat) : Statement (.scrubPass die) := of_none rfl
theorem uncorrectableError (at_ : ErrorSite) : Statement (.uncorrectableError at_) := of_none rfl
theorem notify (chan : Nat) (word : BitVec 64) : Statement (.notify chan word) := of_none rfl
theorem cret (chan : Nat) (word : BitVec 64) : Statement (.cret chan word) := of_none rfl
theorem reconcile (chan : Nat) : Statement (.reconcile chan) := of_none rfl
theorem ctxreq (fn : Nat) (ctxn : BitVec 12) : Statement (.ctxreq fn ctxn) := of_none rfl
theorem invreq (fn : Nat) (ctxn : BitVec 12) (kind : BitVec 3) : Statement (.invreq fn ctxn kind) := of_none rfl
theorem chmap (fn : Nat) (value : BitVec 64) : Statement (.chmap fn value) := of_none rfl
theorem qtctlPause (fn : Nat) (pause : Bool) : Statement (.qtctlPause fn pause) := of_none rfl
theorem clkreq (fn : Nat) (mhz : BitVec 12) : Statement (.clkreq fn mhz) := of_none rfl
theorem clockSwitch : Statement .clockSwitch := of_none rfl
theorem powerLimit (limit : Nat) : Statement (.powerLimit limit) := of_none rfl
theorem clockCapStep : Statement .clockCapStep := of_none rfl
theorem registerWrite (fn off : Nat) (value : BitVec 64) : Statement (.registerWrite fn off value) := of_none rfl
theorem bar2Read (fn off len : Nat) : Statement (.bar2Read fn off len) := of_none rfl
theorem bar2Write (fn off : Nat) (bytes : List (BitVec 8)) : Statement (.bar2Write fn off bytes) := of_none rfl
theorem incomingRead (src off len : Nat) : Statement (.incomingRead src off len) := of_none rfl
theorem incomingWrite (src off : Nat) (w : LinkWrite) : Statement (.incomingWrite src off w) := of_none rfl
theorem incomingAtomic (src off : Nat) (op : AtomicOp) (wide : Bool) (v c : BitVec 64) : Statement (.incomingAtomic src off op wide v c) := of_none rfl
theorem remoteTimeout (n : Nat) : Statement (.remoteTimeout n) := of_none rfl
theorem moduleReset : Statement .moduleReset := of_none rfl
theorem append (len : BitVec 16) : Statement (.append len) := of_none rfl
theorem commit : Statement .commit := of_none rfl
theorem abort : Statement .abort := of_none rfl
theorem getVersion : Statement .getVersion := of_none rfl
theorem getCapabilities : Statement .getCapabilities := of_none rfl
theorem negotiateAlgorithms (ecdsaP256 sha256 : Bool) : Statement (.negotiateAlgorithms ecdsaP256 sha256) := of_none rfl
theorem getDigests : Statement .getDigests := of_none rfl
theorem getCertificate (slot off len : Nat) : Statement (.getCertificate slot off len) := of_none rfl
theorem challenge (nonce : BitVec 256) : Statement (.challenge nonce) := of_none rfl
theorem getMeasurements (block : Nat) (nonce : BitVec 256) : Statement (.getMeasurements block nonce) := of_none rfl
theorem illegalInstruction (word : BitVec 32) : Statement (.illegalInstruction word) := of_none rfl
theorem fetchFault : Statement .fetchFault := of_none rfl
theorem resultLands (tile : Nat) (strm : Strm) (n : Nat) : Statement (.resultLands tile strm n) := of_none rfl
theorem postedStorePerformed (tile : Nat) (strm : Strm) (n : Nat) (scope : Scope) : Statement (.postedStorePerformed tile strm n scope) := of_none rfl
theorem writeEntersView (tile : Nat) (strm : Strm) (id : Nat) : Statement (.writeEntersView tile strm id) := of_none rfl
theorem yldExpiry (tile : Nat) (strm : Strm) : Statement (.yldExpiry tile strm) := of_none rfl
theorem taskSlotReadEnd (cluster engine : Nat) : Statement (.taskSlotReadEnd cluster engine) := of_none rfl
theorem liveStartDeadline (n : Nat) : Statement (.liveStartDeadline n) := of_none rfl
theorem eventQueueReread (ctxn : Nat) : Statement (.eventQueueReread ctxn) := of_none rfl

end EncodingFits

end Sys2Proof.Laws
end

