-- ==== Sys2Proof/Tests/Slice0.lean ====
section
/-! SUPPORT. Small tests: ill-formed terms that the check refuses, words that the spec prints, and for each statement with
hypotheses a state and operands that meet them. -/

namespace Sys2Proof.Tests

-- Checked one after another: fewer threads, and so less memory, than side by side.
set_option Elab.async false

open Sys2Proof Sys2Proof.Machine Sys2Proof.Claims

/-! Helpers: a stream that runs, with g3 to g5 set and two tokens on each side. -/

def regs0 : List (Nat × Reg) := [(3, { val := 7 }), (4, { val := 0x0100000000000040 }), (5, { val := 3 })]

def stream0 : Stream := { running := true, pc := 0x100, regs := regs0, fromLeft := 2, fromRight := 2 }

/-- The reset state with stream K of tile 0 as given. -/
def on (x : Stream) : State := setCur State.reset x

def s0 : State := on stream0

/-- The stream with one register set. -/
def with1 (r : Nat) (v : Word) : State := on { stream0 with regs := mset regs0 r { val := v } }

/-- Whether a check passed. -/
def passes {α : Type} (x : Chk α) : Bool := match x with | .ok _ => true | .error _ => false

/-- Whether a step answers a next state. -/
def goes (x : Host.Outcome State Fault Refusal) : Bool := match x with | .next _ => true | _ => false

/-! Well-formedness: for each check, a term that it refuses. -/

theorem wf_refuses_ssrd_number : (Instr.ssrd ⟨3, 0x010, 0⟩).wf = false := by decide

theorem wf_refuses_sswr_number : (Instr.sswr ⟨3, 0x04D, 0⟩).wf = false := by decide

theorem wf_refuses_ireg_line : (Instr.ireg ⟨3, 63, 0⟩).wf = false := by decide

theorem wf_refuses_tile : ([.rendezvousComplete false 192, .nearLoadLanding 192 .k 0, .divisionLands 192 .k 0, .sleepExpiry 192 .k, .timerCompare
    192 .k, .intr 192 .k, .slotCommandStart 192 0, .sld 192 0, .sst 192 0, .sidx 192 0, .ssct 192 0, .srec 192 0, .scon 192
    0, .smcl 192 0, .scmp 192 0, .sbar 192 0, .scls 192 0, .swt 192 0, .spip 192 0, .sprv 192 0, .sectionSquash 192 0 0,
    .sectionCommit 192 0, .groupFire 192 0 0, .formatMarkerTake 192 0 0 0, .endOfStream 192 0 0, .converterConvert 192 0 0,
    .settleReport 192 0, .kilnWaveComplete 192 0, .kilnTimeout 192 0, .watchdog 192 .k, .resultLands 192 .k 0,
    .postedStorePerformed 192 .k 0 .tile, .writeEntersView 192 .k 0, .yldExpiry 192 .k] : List Instr).all
    (fun i => !i.wf) = true := by decide

theorem wf_refuses_slot : ([.slotCommandStart 0 16, .sld 0 16, .sst 0 16, .sidx 0 16, .ssct 0 16, .srec 0 16, .scon 0 16, .smcl 0 16, .scmp 0 16,
    .scls 0 16, .getCertificate 16 0 0] : List Instr).all
    (fun i => !i.wf) = true := by decide

theorem wf_refuses_mport : ([.spip 0 4, .sprv 0 4] : List Instr).all
    (fun i => !i.wf) = true := by decide

theorem wf_refuses_region : ([.sectionSquash 0 8 0, .sectionCommit 0 8, .groupFire 0 8 0, .formatMarkerTake 0 8 0 0, .endOfStream 0 8 0,
    .converterConvert 0 8 0, .settleReport 0 8, .kilnWaveComplete 0 8, .kilnTimeout 0 8] : List Instr).all
    (fun i => !i.wf) = true := by decide

theorem wf_refuses_group : ([.groupFire 0 0 16, .formatMarkerTake 0 0 16 0, .endOfStream 0 0 16] : List Instr).all
    (fun i => !i.wf) = true := by decide

theorem wf_refuses_cell : ([.converterConvert 0 0 1] : List Instr).all
    (fun i => !i.wf) = true := by decide

theorem wf_refuses_cluster : ([.mmd 24 0, .mms 24 0, .mmg 24 0, .mmdl 24 0, .taskDispatch 24, .taskStart 24 0, .taskComplete 24 0, .epilogueDrain 24 0,
    .drainComplete 24 0, .mmdlWriteback 24 0, .caskq 24, .caskrp 24, .caskcp 24, .taskSlotReadEnd 24 0] : List Instr).all
    (fun i => !i.wf) = true := by decide

theorem wf_refuses_engine : ([.mmd 0 16, .mms 0 16, .mmg 0 16, .mmdl 0 16, .taskStart 0 16, .taskComplete 0 16, .epilogueDrain 0 16, .drainComplete 0
    16, .cpy 0 8, .cpyw 0 8, .cfil 0 8, .lrchk 0 8, .gthr 0 4, .sctr 0 4, .taskSlotReadEnd 0 16] : List Instr).all
    (fun i => !i.wf) = true := by decide

theorem wf_refuses_die : ([.cpy 4 0, .cpyw 4 0, .cfil 4 0, .lrchk 4 0, .gthr 4 0, .sctr 4 0, .scrubPass 4] : List Instr).all
    (fun i => !i.wf) = true := by decide

theorem wf_refuses_ring : ([.ringCoalesceTimeout 4096, .ringFullReread 4096] : List Instr).all
    (fun i => !i.wf) = true := by decide

theorem wf_refuses_chan : ([.launchGraph 4096, .bind 4096, .configRegion 4096, .copy 4096, .signal 4096, .wait 4096, .queueCreate 4096,
    .queueDestroy 4096, .channelResync 4096, .notify 4096 0, .cret 4096 0, .reconcile 4096] : List Instr).all
    (fun i => !i.wf) = true := by decide

theorem wf_refuses_fn : ([.resume 32 0, .terminate 32 0, .ctxreq 32 0, .invreq 32 0 0, .chmap 32 0, .qtctlPause 32 false, .clkreq 32 0,
    .registerWrite 32 0 0, .bar2Read 32 0 0, .bar2Write 32 0 []] : List Instr).all
    (fun i => !i.wf) = true := by decide

theorem wf_refuses_ctxn : ([.eventQueueReread 4096] : List Instr).all
    (fun i => !i.wf) = true := by decide

/-! Encodings and steps. -/

theorem witness_DecodeGivesBack : (Instr.add ⟨3, 4, 5, false, false, 9⟩).wf = true ∧
    encode (.add ⟨3, 4, 5, false, false, 9⟩) = some 0x1190A009 := by decide

theorem witness_DecodedWords : decodeWord 0xC0100800 = some (.garm ⟨4, 0⟩) := by decide

theorem witness_Reserved : 0x80000001 < 2 ^ 32 ∧ 0x80000001 / 2 ^ 28 = 8 ∧ decodeTableWord 32 0x80000001 = none := by decide

/-- R28: `add g3, g4, g5` placed at ss.pc is fetched and run. -/
def fetching : State := s0.withFetchWord 32 0x1190A000

theorem witness_StepsRun : fetching.agenda = [.stream 0 .k] ∧ turnOf { fetching with agenda := [] } 0 .k = .k ∧
    boundaryDue { fetching with agenda := [] } 0 .k = false ∧
    fetchCause (serve { fetching with agenda := [] } 0 .k) 0 (cur (serve { fetching with agenda := [] } 0 .k)).pc = none ∧
    (fetchNext (serve { fetching with agenda := [] } 0 .k) 0 .k).2 = 0x1190A000 ∧
    decodeBytes (bytesOfWord 0x1190A000) = some (.add ⟨3, 4, 5, false, false, 0⟩, []) ∧ decodeBytes (bytesOfWord 0) = none := by decide

/-- R29: after stream K has been served, L, C and W come before it; none of them runs, so that K moves again. -/
theorem witness_Turns : boundaryDue fetching 0 .k = false ∧ turnOrder .k = [.l, .c, .w] ++ .k :: [] ∧
    turnOrder (tileOf (serve fetching 0 .k) 0).served = [.l, .c, .w] ++ .k :: [] ∧
    (∀ x ∈ [Strm.l, .c, .w], readyNow (serve fetching 0 .k) 0 x = false) ∧ readyNow (serve fetching 0 .k) 0 .k = true := by decide

theorem test_FirstStepRunsAdd : goes (step (State.reset.withFetchWord 32 0x1190A000)) = true := by decide

/-! Invariants and frames. -/

theorem witness_EveryStepKeepsTheClockFraction : ClockInv (State.reset.withFetchWord 32 0x1190A000) ∧
    goes (step (State.reset.withFetchWord 32 0x1190A000)) = true := by decide

theorem witness_StreamStepsKeepMemoryCanonical : (State.reset.withFetchWord 32 0x1190A000).agenda = .stream 0 .k :: [] ∧
    MemInv (State.reset.withFetchWord 32 0x1190A000) ∧ goes (step (State.reset.withFetchWord 32 0x1190A000)) = true := by decide

theorem witness_RegisterWords : plainDest (.add ⟨6, 3, 5, false, false, 0⟩) = some 6 ∧
    goes (exec (.add ⟨6, 3, 5, false, false, 0⟩) s0) = true := by decide

theorem witness_RoundingWords : roundingDest (.fadd ⟨6, 3, 5, false, false, .fp32, 0⟩) = some 6 ∧
    goes (exec (.fadd ⟨6, 3, 5, false, false, .fp32, 0⟩) s0) = true := by decide

theorem witness_ControlWords : isControl (.tkw ⟨0, false, 0⟩) = true ∧ goes (exec (.tkw ⟨0, false, 0⟩) s0) = true := by decide

theorem witness_UnitWords : isUnitWord (.sswr ⟨3, 0x045, 0⟩) = true ∧ goes (exec (.sswr ⟨3, 0x045, 0⟩) s0) = true ∧
    isUnitWord (.qpush ⟨2, 3, 0⟩) = true ∧ goes (exec (.qpush ⟨2, 3, 0⟩) s0) = true ∧ unitDest s0 (.oclm ⟨6, 3, 0⟩) = some 6 ∧
    goes (exec (.rqry ⟨6, 3, 0⟩) s0) = true ∧ goes (exec (.rcnt ⟨6, 3, .hit, 0⟩) s0) = true := by decide

/-! Operands. -/

/-- ADD of g7 and g3 with g7 as given, its trap bit set for the first field. -/
def withSrc (r : Reg) (ls : List Landing) : State := on { stream0 with regs := mset regs0 7 r, landings := ls }

theorem witness_EmptyAndMarkedSources : (needsOf (.add ⟨6, 3, 7, false, true, 0⟩)).srcs = [(3, false)] ++ (7, true) :: [] ∧
    canIssue (cur (withSrc { full := false } [])) = true ∧ (tileOf (withSrc { full := false } []) 0).cfg = none ∧
    Reads (withSrc { full := false } []) 3 7 ∧ physReg (cur (withSrc { full := false } [])) 7 = 7 ∧
    (regAt (cur (withSrc { full := false } [])) 7).full = false ∧
    landPending (cur (withSrc {} [{ phys := 7, val := 0, kind := .fixed }])) 7 = true ∧
    (regAt (cur (withSrc { poison := some 0x40 } [])) 7).poison = some 0x40 ∧ landPending (cur (withSrc { poison := some 0x40 } [])) 7 = false := by
  decide

/-- R120: the value names the field's register and the physical one. -/
theorem test_EmptyRegisterTraps : (match exec (.add ⟨6, 3, 7, false, true, 0⟩)
    (on { stream0 with regs := mset regs0 7 { full := false }, tena := BitVec.ofNat 64 (2 ^ causeCode .emptyReg) }) with
    | .next t => ((cur t).tctx, (cur t).tval) | _ => (false, 0)) = (true, 0x707) := by decide

theorem witness_TokensAndDestination : (cur (on { stream0 with fromLeft := 0 })).fromLeft < (needsOf (.add ⟨6, 3, 5, false, false, 8⟩)).left ∧
    (needsOf (.add ⟨7, 3, 5, false, false, 0⟩)).dst = some 7 ∧ ¬ Writes (withSrc {} [{ phys := 7, val := 0, kind := .division }]) 7 ∧
    (∀ x ∈ (needsOf (.add ⟨7, 3, 5, false, false, 0⟩)).srcs, x.1 = 3 ∨ x.1 = 5) ∧
    Reads (withSrc {} [{ phys := 7, val := 0, kind := .division }]) 3 7 ∧ Reads (withSrc {} [{ phys := 7, val := 0, kind := .division }]) 5 3 := by
  decide

/-- A state whose g4 names byte 0x40 of the own scratchpad. -/
def storeAcc : NearAcc := { segs := [{ phys := scratchBase 0 + 0x40, len := 4, at_ := 0x0100000000000040 }] }

theorem witness_Stores : storeForm (.stw ⟨3, 4, 0, 0⟩) = some (⟨3, 4, 0, 0⟩, 4) ∧ goes (exec (.stw ⟨3, 4, 0, 0⟩) s0) = true ∧
    Reads s0 4 0x0100000000000040 ∧ checkNear s0 0 .k 0x0100000000000040 4 true false = .ok storeAcc ∧
    poisonedAt s0 (scratchBase 0) = false := by decide

theorem witness_Publication : publishingDest (.aadd ⟨6, 4, 3, .tile, false, 0⟩) = some 6 ∧ MemInv s0 ∧ s0.poison = [] ∧
    goes (exec (.aadd ⟨6, 4, 3, .tile, false, 0⟩) s0) = true ∧ (cur s0).posted = [] := by decide

theorem witness_OtherWords : encode (.addi ⟨6, 3, false, 5, 0⟩) ≠ none ∧ writesMemory (.addi ⟨6, 3, false, 5, 0⟩) = false ∧
    goes (exec (.addi ⟨6, 3, false, 5, 0⟩) s0) = true ∧ goes (exec (.illegalInstruction 0) s0) = true ∧
    goes (exec .fetchFault s0) = true := by decide

/-! The scalar words. -/

theorem witness_IntegerWords : Issues s0 9 ∧ Reads s0 3 7 ∧ Reads s0 0 0 ∧ Reads s0 5 3 ∧ Writes s0 6 ∧ Writes s0 0 ∧
    (∀ l ∈ (cur s0).landings, l.kind ≠ .division) ∧ physReg (cur s0) 6 ≠ 0 := by decide

theorem test_SarKeepsTheSign :
    (regAt (match exec (.sar ⟨6, 3, 5, false, false, 0⟩) (with1 3 0x8000000000000000) with | .next t => cur t | _ => {}) 6).val =
      0xF000000000000000 := by decide

theorem test_DivideTheLeastByMinusOne :
    ((match exec (.div ⟨6, 3, 5, false, false, 0⟩) (on { stream0 with regs := [(3, { val := BitVec.intMin 64 }),
      (5, { val := BitVec.allOnes 64 })] }) with | .next t => (cur t).landings | _ => []).map Landing.val) = [BitVec.intMin 64] := by decide

theorem witness_ImmediateWords : Issues s0 0 ∧ Reads s0 3 7 ∧ Reads s0 5 3 ∧ Writes s0 31 := by decide

theorem test_LihPlacesTheSelector :
    (regAt (match exec (.lih ⟨5, 0x180, 0⟩) s0 with | .next t => cur t | _ => {}) 5).val = 0x0300000000000000 := by decide

theorem witness_FloatWords : Issues s0 0 ∧ Reads s0 3 7 ∧ Reads s0 5 3 ∧ Writes s0 6 ∧
    floatIn .fp32 0 = .fin false 0 (-149) ∧ (floatOut s0 .fp32 (vadd (floatIn .fp32 7) (floatIn .fp32 3))).1 = 10 ∧
    (frcpOf fp32 1 0 (floatIn .fp32 0)).2 = { dz := true } ∧
    (frsqOf fp32 1 0 (floatIn .fp32 0xBF800000)).2 = { nv := true } := by decide

/-- 1.0 + 1.0 = 2.0 (R137). -/
theorem test_FaddOfOnes :
    ((match exec (.fadd ⟨6, 3, 3, false, false, .fp32, 0⟩) (with1 3 0x3F800000) with | .next t => (cur t).landings | _ => []).map Landing.val)
      = [0x40000000] := by decide

/-- R137: FMIN of −0 and +0 answers −0 whichever comes first. -/
theorem test_FminOrdersZeros :
    ((match exec (.fmin ⟨6, 7, 3, false, false, .fp32, 0⟩) (on { stream0 with regs := [(3, { val := 0x80000000 }), (7, {})] }) with
      | .next t => (cur t).landings | _ => []).map Landing.val) = [0x80000000] := by decide

theorem witness_FloatSelections : Issues s0 0 ∧ Reads s0 3 7 ∧ Writes s0 6 ∧ visNan (floatIn .fp32 7) = false ∧
    visNan (floatIn .fp32 0x7FC00000) = true ∧ vlt (floatIn .fp32 3) (floatIn .fp32 7) = true := by decide

/-! Control flow. -/

theorem witness_BranchesAndJumps : Issues s0 0 ∧ Reads s0 3 7 ∧ Reads s0 5 3 ∧ Writes s0 15 ∧ Writes s0 3 := by decide

theorem test_BneGoesBack : (match exec (.bne ⟨3, 5, false, false, BitVec.ofInt 9 (-2), 0⟩) s0 with | .next t => (cur t).pc | _ => 0) = 0xF8 := by
  decide

theorem witness_LoopWords : Issues s0 0 ∧ Reads s0 3 7 := by decide

/-- A stream at the END of an active loop with three passes left. -/
def looping : Stream := { stream0 with lca := { cnt := 3, start := 0xF0, last := 0x100, act := true } }

theorem witness_Retirement : NoLoopEnd (cur s0) ∧ PushRoom s0 3 := by decide

/-- Both loops at their END: lcb, whose START is the greater, is the inner one. -/
def nested (n m : BitVec 32) : Stream := { stream0 with lca := { cnt := m, start := 0xE0, last := 0x100, act := true }
                                                        lcb := { cnt := n, start := 0xF0, last := 0x100, act := true } }

theorem witness_NestedLoops : (nested 3 1).tctx = false ∧ true = decide ((nested 3 1).lca.start.toNat < (nested 3 1).lcb.start.toNat) ∧
    loopHit (loopOf (nested 3 1) true) (nested 3 1).pc = true ∧ loopHit (loopOf (nested 3 1) (!true)) (nested 3 1).pc = true ∧
    1 < (loopOf (nested 2 1) true).cnt.toNat ∧ (loopOf (nested 1 2) true).cnt.toNat ≤ 1 ∧ 1 < (loopOf (nested 1 2) false).cnt.toNat ∧
    (loopOf (nested 1 1) false).cnt.toNat ≤ 1 := by decide

/-- R150: the inner loop over, the outer one goes back. -/
theorem test_OuterLoopGoesBack : (nextSeq (nested 1 2)).pc = 0xE0 ∧ (nextSeq (nested 1 2)).lcb.act = false := by decide

theorem witness_HardwareLoops : looping.tctx = false ∧ loopHit looping.lcb looping.pc = false ∧
    loopHit looping.lca looping.pc = true ∧ 1 < looping.lca.cnt.toNat ∧
    loopHit { looping.lca with cnt := 1 } looping.pc = true := by decide

/-- Stream K with a full FIFO to its right neighbour L, and TOKEN_OVER enabled. -/
def fullRight : State := setStrm (on { stream0 with tena := 0x400 }) 0 (rightOf .k) { ({} : Stream) with fromLeft := 8 }

theorem witness_FullTokenFifo : NoLoopEnd (cur fullRight) ∧ TakesInContext (cur fullRight) .tokenOver ∧
    (tileOf fullRight 0).cfg = none ∧ tkSR 1 = true ∧ tkSL 1 = false ∧ pushedTokens fullRight 0 .k true = 8 := by decide

/-! Near accesses and atomics. -/

theorem witness_NearAddressChecks : (wf64 0x0100000000000041 55 0 % 4 ≠ 0) ∧ nearSel 0 = 0 ∧ nearSel 0x0100000000000040 = 1 ∧
    (nearSel 0x0200000000000000 = 2 ∧ handleValid s0 0 0 = false) ∧
    (nearSel 0x0300000100000000 = 3 ∧ 2 ^ 32 < wf64 0x0300000100000000 55 0 + 8) ∧
    (nearSel 0x0100000000080000 = 1 ∧ 2 ^ 19 < wf64 0x0100000000080000 55 0 + 8) ∧ ¬ 2 ^ 19 < wf64 0x010000000007FFF8 55 0 + 8 ∧
    (4 ∈ [1, 2, 4, 8] ∧ wf64 0x0300000000000040 55 0 % 4 = 0 ∧ wf64 0x0300000000000040 55 0 + 4 ≤ 2 ^ 32) ∧ 4 < nearSel 0x0500000000000000 ∧
    (wf64 0x0400000000000178 55 0 % 8 = 0 ∧ 0x100 ≤ wf64 0x0400000000000178 55 0 ∧ wf64 0x0400000000000178 55 0 < 0x180) := by decide

theorem witness_NearLoads : Issues s0 0 ∧ Reads s0 4 0x0100000000000040 ∧ Writes s0 6 ∧
    checkNear s0 0 .k (mAddr ⟨6, 4, 0, 0⟩ 0x0100000000000040 4) 4 false false = .ok storeAcc ∧
    segPoison s0 0 .k storeAcc.segs = false ∧ segAtomic s0 0 .k storeAcc.segs = false := by decide

/-- The same word poisoned. -/
def poisoned0 : State := { s0 with poison := [(scratchBase 0 + 0x40) / 8] }

theorem witness_PoisonedLoads : Issues poisoned0 0 ∧ Reads poisoned0 4 0x0100000000000040 ∧ Writes poisoned0 6 ∧
    checkNear poisoned0 0 .k 0x0100000000000040 4 false false = .ok storeAcc ∧ storeAcc.loc = true ∧
    segPoison poisoned0 0 .k storeAcc.segs = true ∧ segAtomic poisoned0 0 .k storeAcc.segs = false := by decide

theorem witness_NearStores : Issues s0 0 ∧ Reads s0 4 0x0100000000000040 ∧ Reads s0 3 7 ∧ NoLoopEnd (cur s0) ∧ PushRoom s0 0 ∧
    checkNear s0 0 .k (mAddr ⟨3, 4, 0, 0⟩ 0x0100000000000040 4) 4 true false =
      .ok { segs := [{ phys := scratchBase 0 + 0x40, len := 4, at_ := 0x0100000000000040 }], loc := (nearSel 0x0100000000000040 == 1) } := by decide

theorem witness_WindowStores : Issues (with1 4 0x0400000000000108) 0 ∧ Reads (with1 4 0x0400000000000108) 4 0x0400000000000108 ∧
    Reads (with1 4 0x0400000000000108) 3 7 ∧
    checkNear (with1 4 0x0400000000000108) 0 .k (mAddr ⟨3, 4, 0, 0⟩ 0x0400000000000108 8) 8 true false = .ok { win := some 0x108 } ∧
    checkNear s0 0 .k 0x0400000000000010 8 true false = .ok { win := some 0x10 } := by decide

theorem witness_OwnLoads : ([1, 2] : List Byte).length = ({ phys := 64, len := 2 } : Seg).len ∧ poisonedAt s0 65 = false := by decide

theorem witness_Atomics : Issues s0 0 ∧ Reads s0 4 0x0100000000000040 ∧ Reads s0 3 7 ∧ Reads s0 5 3 ∧ Writes s0 6 ∧
    passes (checkNear s0 0 .k 0x0100000000000040 8 true true) = true ∧ atomicsOf s0 0 .k = [] ∧
    passes (checkNear s0 0 .k 0x0100000000000040 4 true true) = true ∧ MemInv s0 ∧ s0.poison = [] ∧
    accAddr storeAcc = (scratchBase 0 + 0x40, false) := by decide

/-- An atomic that waits at the port of its word. -/
def portOp0 : PortOp := { kind := .atomic .add false 5 0, addr := scratchBase 0 + 0x40, near := 0x0100000000000040, tile := 0, strm := .k,
                          scope := .tile, path := .core, dest := some 6 }

def withPort : State := { s0 with ports := [portOp0] }

theorem witness_OwnAtomicAhead : Issues withPort 0 ∧ Reads withPort 4 0x0100000000000040 ∧ Writes withPort 6 ∧
    checkNear withPort 0 .k (mAddr ⟨6, 4, 0, 0⟩ 0x0100000000000040 4) 4 false false = .ok storeAcc ∧
    segAtomic withPort 0 .k storeAcc.segs = true ∧ (∃ x ∈ atomicsOf withPort 0 .k, lineOf x.addr = lineOf (scratchBase 0 + 0x40)) ∧
    lineReady (setCur withPort { cur withPort with posted := [{ addr := scratchBase 0 + 0x48, bytes := [1] }] }) (scratchBase 0 + 0x40) = false := by
  decide

theorem witness_AtomicPort : MemInv withPort ∧ withPort.ports[0]? = some portOp0 ∧
    (∀ y ∈ withPort.ports.take 0, ¬ (y.tile = 0 ∧ y.strm = .k ∧ y.path = .core ∧ lineOf y.addr = lineOf portOp0.addr)) ∧
    spanPoisoned withPort (lineOf portOp0.addr * 64) 64 = false ∧ portBytes portOp0.kind ∣ 64 ∧
    portOp0.addr % portBytes portOp0.kind = 0 ∧
    portNew portOp0.kind (readNat withPort portOp0.addr 8) = some 5 ∧
    spanPoisoned { withPort with poison := [portOp0.addr / 8] } (lineOf portOp0.addr * 64) 64 = true ∧
    portNew (.atomic .cas false 5 1) 0 = none := by decide

theorem witness_Waitw : Issues s0 0 ∧ Reads s0 4 0x0100000000000040 ∧ Reads s0 3 7 ∧ Reads s0 0 0 ∧ Writes s0 6 ∧ watchOf s0 0 .k = none ∧
    checkNear s0 0 .k 0x0100000000000040 8 false true =
      .ok { segs := [{ phys := scratchBase 0 + 0x40, len := 8, at_ := 0x0100000000000040 }], loc := true } ∧
    spanPoisoned s0 (scratchBase 0 + 0x40) 8 = false ∧ spanPoisoned poisoned0 (scratchBase 0 + 0x40) 8 = true ∧ atomicsOf s0 0 .k = [] ∧
    ccHolds .eq (watchWord s0.mem (ownBytes (cur s0) (scratchBase 0 + 0x40)) (scratchBase 0 + 0x40)) 0 = true ∧
    ccHolds .eq (watchWord s0.mem (ownBytes (cur s0) (scratchBase 0 + 0x40)) (scratchBase 0 + 0x40)) 7 = false ∧ NoLoopEnd (cur s0) ∧
    PushRoom s0 0 := by decide

/-- A comparison with 7 at the port of the word, without a value and with one. -/
def watch0 (got : Option Word) : Watch := { tile := 0, strm := .k, addr := scratchBase 0 + 0x40, cc := .eq, cmp := 7, got := got }

def waitingK (got : Option Word) : State := { s0 with watches := [watch0 got] }

theorem witness_WaitingWaitw : watchOf (waitingK none) 0 .k = some (watch0 none) ∧ watchOf (waitingK (some 7)) 0 .k = some (watch0 (some 7)) ∧
    Issues (waitingK (some 7)) 0 ∧ watch0 none ∈ (waitingK none).watches ∧ (watch0 none).addr < (scratchBase 0 + 0x47) + 1 ∧
    scratchBase 0 + 0x47 < (watch0 none).addr + 8 ∧ NoLoopEnd (cur (waitingK (some 7))) := by decide

/-- R163: the write that makes the word 7 lets the comparison hold. -/
theorem test_WriteMeetsWaitw : ((writeAt (waitingK none) (feAgent 0) (scratchBase 0 + 0x40) [7]).watches.map (·.got)) = [some 7] := by decide

/-! Tokens, queues, rendezvous, fences and handles. -/

theorem witness_TokenWords : Issues s0 8 ∧ 0 + 1 + 1 ≤ tokens (cur s0) false ∧ 1 + 1 ≤ tokens (cur s0) true ∧
    pushedTokens s0 0 .k true + (6 + 1) + 1 ≤ 8 ∧ 8 < pushedTokens s0 0 .k true + (7 + 1) + 1 := by decide

/-- Stream K with one queue register as given. -/
def withQ (q : QReg) : State := on { stream0 with q := [(2, q)] }

theorem witness_QueueWords : Issues (withQ { held := [9, 8] }) 0 ∧ Writes (withQ { held := [9, 8] }) 6 ∧
    (qreg (cur (withQ { held := [9, 8] })) 2).held = [9, 8] ∧
    Issues (withQ { owed := 1 }) 0 ∧ (qreg (cur (withQ { owed := 1 })) 2).held = [] ∧ 0 < freeOwed (qreg (cur (withQ { owed := 1 })) 2) ∧
    freeOwed (qreg (cur (withQ {})) 2) = 0 ∧
    Reads (withQ { owed := 1, claims := [6] }) 3 7 ∧
    (qreg (cur (withQ { owed := 1, claims := [6] })) 2).held.length + (qreg (cur (withQ { owed := 1, claims := [6] })) 2).owed < 4 ∧
    (qreg (cur (withQ { owed := 1, claims := [6] })) 2).claims = [6] ∧
    4 ≤ (qreg (cur (withQ { held := [1, 2], owed := 2 })) 2).held.length + (qreg (cur (withQ { held := [1, 2], owed := 2 })) 2).owed := by
  decide

/-- A job on tile 0, for context 1. -/
def job1 : Job := { ctxn := 1, qkey := 5, gid := 1, gaddr := 0x1000, node := 0, tiles := [0], started := true }

/-- Stream K of tile 0 in job 1. -/
def inJob (x : Stream) : State :=
  let s := on x
  { setTile s 0 { tileOf s 0 with job := some 1 } with fe := { jobs := [(1, job1)] } }

def reply0 : Reply := { tile := 0, strm := .k, q := 2, word := 0x77, job := 1 }

theorem witness_Replies : ({ inJob stream0 with replies := [reply0] }.replies[0]? = some reply0) ∧
    (tileOf { inJob stream0 with replies := [reply0] } 0).job = some 1 ∧
    (qreg (strmAt { inJob stream0 with replies := [reply0] } 0 .k) 2).claims = [] ∧
    (qreg (strmAt { inJob { stream0 with q := [(2, { owed := 1, claims := [6] })] } with replies := [reply0] } 0 .k) 2).claims = [6] := by
  decide

/-- Stream K with one posted store. -/
def posted0 : Posted := { addr := scratchBase 0 + 0x80, bytes := [1, 2, 3, 4] }

theorem witness_Fences : Issues s0 0 ∧ loadsLanded (cur s0) = true ∧ performed s0 0 .k .tile = true ∧
    performed (on { stream0 with posted := [posted0] }) 0 .k .tile = false ∧ Path.core ≠ .copy ∧ (∀ c ∈ (cur s0).cmds, c.path ≠ .copy) := by
  decide

/-- What a FENCX waits for: a command of its path, and an atomic of its stream. -/
theorem witness_FencesThatWait : Path.core ≠ .copy ∧
    (∃ c ∈ (cur (on { stream0 with cmds := [{ id := 3, path := .copy }] })).cmds, c.path = .copy) ∧ atomicsOf withPort 0 .k ≠ [] ∧
    loadsLanded (cur (on { stream0 with landings := [{ phys := 6, val := 0, kind := .load }] })) = false := by decide

/-- A write of stream L of tile 1 before a release of its stream, which stream K of tile 0 knows. -/
def released0 : WriteRec := { id := 4, addr := 64, old := 0, new := 1, tile := 1, strm := .l, path := .core, scope := .die }

def afterRelease : State :=
  { on { stream0 with know := { rels := [5] } } with
    wlog := [released0], wnext := 6, rels := [(5, { tile := 1, strm := .l, scope := .die, upto := 6, know := {} })] }

theorem witness_Releases : MemInv (on { stream0 with posted := [posted0] }) ∧ (on { stream0 with posted := [posted0] }).poison = [] ∧
    released0.path = .core ∧ afterRelease.wlog.filter (fun x => x.addr == 64) = [] ++ released0 :: [] ∧
    acquirable afterRelease 0 .die (knowAt afterRelease 0 .k .die) (some .core) released0 = true ∧
    postedByte (strmAt afterRelease 0 .k).posted 64 = none := by decide

/-- R180, R183: before the acquire point the load may still return the old byte; after it, it returns the new one. -/
theorem test_AcquireMakesTheWriteCertain : loadByte (acquire afterRelease 0 .k .die .core) 0 .k true 64 = 1 := by decide

/-- Every stream of tile 0 has joined one rendezvous and waits in it. -/
def joined : Stream := { running := true, pc := 0x40, wait := .rdvz false 0, rdvzTile := 1 }

def allJoined : State := setTile State.reset 0 { k := joined, l := joined, c := joined, w := joined }

theorem witness_Rendezvous : Issues s0 0 ∧ loadsLanded (cur s0) = true ∧ atomicsOf s0 0 .k = [] ∧
    0 < rdvzCount joined false ∧ atomicsOf withPort 0 .k ≠ [] ∧ joined.running = true ∧
    ({ joined with running := false } : Stream).running = false ∧
    ([.k, .l, .c, .w].all fun sk => allArrived allJoined false 0 (rdvzCount (strmAt allJoined 0 sk) false)) = true ∧
    (strmAt allJoined 0 .l).wait = .rdvz false 0 ∧ tkSL 0 = false ∧ tkSR 0 = false ∧ NoLoopEnd (strmAt allJoined 0 .l) := by decide

/-- Handle 1 of cluster 0 as given, and g3 naming it. -/
def withHandle (e : Word) : State := setCluster (with1 3 1) 0 { handles := [(1, e)] }

/-- Held by tile 0's stream K; offered to it. -/
def heldEntry : Word := BitVec.ofNat 64 (2 ^ 52)
def offeredEntry : Word := BitVec.ofNat 64 (2 * 2 ^ 52)

theorem witness_Handles : Issues (withHandle heldEntry) 0 ∧ Reads (withHandle heldEntry) 3 1 ∧ Reads (withHandle heldEntry) 5 3 ∧
    NoLoopEnd (cur (withHandle heldEntry)) ∧ PushRoom (withHandle heldEntry) 0 ∧ handleValid (withHandle heldEntry) 0 1 = true ∧
    heldBy (handleAt (withHandle heldEntry) 0 1) 0 .k = true ∧ (cur (withHandle heldEntry)).posted = [] ∧
    (cur (withHandle heldEntry)).cmds = [] ∧ atomicsOf (withHandle heldEntry) 0 .k = [] ∧ loadsLanded (cur (withHandle heldEntry)) = true ∧
    heldBy (handleAt (withHandle (BitVec.ofNat 64 (2 ^ 52 + 2 ^ 47))) 0 1) 0 .k = false ∧ atomicsOf withPort 0 .k ≠ [] ∧
    ¬ (hState (handleAt (withHandle heldEntry) 0 1) = 2) ∧
    (3 : Word).getLsbD 5 = false ∧ (0x20 : Word).getLsbD 5 = true ∧ handleValid s0 0 7 = false ∧
    handleValid (withHandle offeredEntry) 0 1 = true ∧ hState (handleAt (withHandle offeredEntry) 0 1) = 2 ∧
    hOffer (handleAt (withHandle offeredEntry) 0 1) = holderCode 0 .k ∧ Writes (withHandle offeredEntry) 6 := by decide

/-! Traps, interrupts, state registers and waits. -/

theorem witness_Traps : (tileOf s0 0).cfg = none ∧ TakesInContext { stream0 with tena := 2 } .illegal ∧
    (cur s0).tena.getLsbD (causeCode .illegal) = false := by decide

theorem test_TrapEntersTheHandler : (match exec (.trap ⟨0x1234, 0⟩) (on { stream0 with tena := BitVec.ofNat 64 (2 ^ 32), tvec := 0x400 }) with
    | .next t => ((cur t).pc, (cur t).epc, (cur t).cause, (cur t).tval) | _ => (0, 0, 0, 0)) = (0x400, 0x104, 0x20, 0x1234) := by decide

theorem witness_TrapWords : canIssue (cur s0) = true := by decide

theorem witness_FetchFaultsAndEret : canIssue (cur (on { stream0 with pc := 2 })) = true ∧ (2 : Word).toNat % 4 ≠ 0 ∧
    (0x80000 : Word).toNat % 4 = 0 ∧ 2 ^ 19 < (0x80000 : Word).toNat + 4 ∧ ¬ 2 ^ 19 < (0x7FFFC : Word).toNat + 4 ∧ poisonedAt { s0 with poison := [(scratchBase 0 + 0x100) / 8] } (scratchBase 0 + 0x100) = true ∧
    Issues (on { stream0 with tctx := true, epc := 0x200 }) 0 ∧ PushRoom (on { stream0 with tctx := true }) 0 ∧ (cur s0).tctx = false := by
  decide

theorem witness_StateRegisters : Issues s0 0 ∧ Writes s0 6 ∧ Reads s0 3 7 ∧ (0x045 : BitVec 11).toNat = 0x045 ∧
    (plainRegisters.map Prod.fst).contains 0x00F = true ∧ (wholeRegisters.map Prod.fst).contains 0x042 = true ∧
    (cur (on { stream0 with tctx := true })).tctx = true ∧ 0x040 ≤ (0x042 : BitVec 11).toNat ∧ (cur s0).tctx = false := by decide

/-- A stream that takes interrupts, with line 5 pending. -/
def lineUp : Stream := { stream0 with tena := BitVec.ofNat 64 (2 ^ 34), imask := 0x20, ipend := 0x20, tcmp := 3 }

theorem witness_InterruptsAndWaits : Issues s0 0 ∧ Reads s0 0 0 ∧ NoLoopEnd (cur s0) ∧ PushRoom s0 0 ∧ (blockOf s0 0)[0]? = some 0 ∧
    (strmAt s0 0 (strmOf 0)).halted = false ∧ takeableLine (strmAt (on lineUp) 0 .k) = some 5 ∧ (on lineUp |> fun s => (tileOf s 0).cfg) = none ∧
    (strmAt (on lineUp) 0 .k).tcmp ≠ 0 ∧ (strmAt (on lineUp) 0 .k).tcmpFrom < 3 ∧
    3 ≤ (cycleOf { on lineUp with core := 9 } (strmAt (on lineUp) 0 .k)).toNat ∧
    (strmAt (on { stream0 with wait := .sleepUntil 0 0 }) 0 .k).wait = .sleepUntil 0 0 ∧ 0 ≤ s0.fab ∧
    (strmAt { on { stream0 with wait := .yld 2 [] } with core := 6 } 0 .k).wait = .yld 2 [] ∧ 2 + 4 ≤ { s0 with core := 6 }.core ∧
    loadsLanded (cur s0) = true ∧ atomicsOf s0 0 .k = [] ∧ atomicsOf withPort 0 .k ≠ [] ∧ s0.fab = 0 ∧ stream0.overDue = [] := by decide

/-- A stream in SLEEP whose line 5 is pending. -/
theorem witness_InterruptedSleep : (strmAt (on { lineUp with wait := .sleepIntr 0 }) 0 .k).wait = .sleepIntr 0 ∧
    takeableLine (strmAt (on { lineUp with wait := .sleepIntr 0 }) 0 .k) = some 5 ∧ lineUp.running = true ∧ lineUp.halted = false ∧
    (tileOf (on { lineUp with wait := .sleepIntr 0 }) 0).cfg = none ∧ NoLoopEnd lineUp ∧ tkSL 0 = false ∧ tkSR 0 = false := by decide

/-- A translation of context 0 and a store under it that has still to be performed. -/
theorem witness_Tlbi : Issues s0 0 ∧ Reads s0 4 0x0100000000000040 ∧ nearSel 0x0100000000000040 ≠ 0 ∧ nearSel 7 = 0 ∧
    tlbiPending s0 0 .all 7 = false ∧ tlbiPending (on { stream0 with posted := [posted0] }) 0 .all 7 = true ∧
    NoLoopEnd (cur s0) ∧ PushRoom s0 0 := by decide

/-! The words of the units. -/

/-- A template of KIND 5 and SUB 0 (CASKQ), and one whose KIND is none of a command. -/
theorem witness_Templates : Issues (with1 3 0x0100000000000040) 0 ∧ Reads (with1 3 0x0100000000000040) 3 0x0100000000000040 ∧
    Reads (with1 5 0x100) 5 0x100 ∧ wf64 0x100 14 8 = 1 ∧ wf64 0x100 5 0 + wf64 0x100 14 8 ≤ 64 ∧ wf64 0x0100000000000040 4 0 = 0 ∧
    nearSel 0x0100000000000040 = 1 ∧ passes (nearSpan (with1 3 0x0100000000000040) 0x0100000000000040 32) = true ∧
    passes (checkNear (with1 3 0x0100000000000040) 0 .k 0x0100000000000040 32 true false) = true ∧ wf64 0 14 8 = 0 := by decide

theorem witness_Phd : canIssue (cur s0) = true ∧ passes (amend (mget (cur s0).staging 0 0) 63 0) = true ∧
    passes (amend (mget (cur s0).staging 0 5) 0 0) = true := by decide

/-- A GNXT template (KIND 7, SUB 1). -/
def gnxtTmpl : BitVec 256 := 0x17

def withTmpl : State := on { stream0 with templates := [(0, gnxtTmpl)], staging := [(0, gnxtTmpl)] }

theorem witness_Pis : canIssue (cur withTmpl) = true ∧ amend (mget (cur withTmpl).staging 0 0) 63 0 = .ok gnxtTmpl ∧
    headOk 0 = false ∧ headOk gnxtTmpl = true ∧ kindCheck withTmpl 0 .k gnxtTmpl = .ok () ∧ tf gnxtTmpl 3 0 ≠ 2 ∧ tf gnxtTmpl 14 13 = 0 ∧
    tokensReady (cur withTmpl) (BitVec.ofNat 4 (tf gnxtTmpl 11 8)) = .ok () ∧ kindRoom withTmpl 0 gnxtTmpl = true := by decide

/-- What stops a PIS of KIND 2 or of another reply mode: an amended template that is none, a bad OWNER, a full queue register, a reply
word in a buffer of another stream. -/
theorem witness_PisStops : (match amend 0 32 0x10000 with | .error (.trap .template _) => true | _ => false) = true ∧ headOk (gnxtTmpl + 2 ^ 13) = true ∧
    tf (gnxtTmpl + 2 ^ 13) 14 13 = 1 ∧
    4 ≤ (qreg (cur (withQ { held := [1, 2, 3], owed := 1 })) 2).held.length + (qreg (cur (withQ { held := [1, 2, 3], owed := 1 })) 2).owed ∧
    tf (gnxtTmpl + 2 ^ 14) 14 13 = 2 ∧ ownSpanOk s0 0 .k 0 8 = true ∧ tokensReady (cur (on { stream0 with fromLeft := 0 })) 8 = .error .stall ∧
    tf 2 3 0 = 2 ∧ kindRoom s0 0 2 = true := by decide

/-- R73, R100: a command of mode SR captures the generator word, and the stream steps it. -/
theorem test_CommandsStepTheGenerator :
    (makeCmd (on { stream0 with srctr := 9 }) 0 .k (BitVec.ofNat 256 (0x17 + 5 * 2 ^ 24))).srBase = 9 ∧
    (issued s0 0 { stream0 with srctr := 9 } (makeCmd (on { stream0 with srctr := 9 }) 0 .k (BitVec.ofNat 256 (0x17 + 5 * 2 ^ 24))) 0).srctr = 10 := by
  decide

theorem witness_OperandSlots : Issues s0 0 ∧ Reads s0 3 7 ∧ Writes s0 6 ∧ wf64 0 6 0 = 0 ∧ wf64 7 6 0 ≠ 0 ∧ wf64 7 16 16 = 0 ∧
    claimRun s0 (tileCluster 0) 7 0 false = some 0 ∧
    (opSlotOf (setCluster s0 0 { slots := [(7, { claim := some 0 })] }) 0 7).claim = some 0 ∧
    slotReferenced (setCluster s0 0 { slots := [(7, { claim := some 0 })] }) 0 7 = false ∧ wf64 1 6 0 = 1 := by decide

/-- A chain of tile 0, bound to chain number 1 by job 1, and the token that names it. -/
def chain0 : Chain := { tile := 0, chn := 1, gen := 0, job := 1, st := .opened, acc := false }

def withChain : State :=
  let s := setCluster (inJob { stream0 with regs := mset regs0 3 { val := 0x0800 } }) 0 { chains := [chain0] }
  setTile s 0 { tileOf s 0 with chns := [(1, { bound := true, bindings := 1 })] }

theorem witness_Chains : Issues withChain 0 ∧ Reads withChain 3 0x0800 ∧ Reads withChain 4 0x0100000000000040 ∧
    passes (nearSpan withChain 0x0100000000000040 64) = true ∧
    (namedChain withChain 0 0x0800).filter chainLive = some chain0 ∧ epTemplate [] = none ∧
    epChecks withChain 0 .k [0, 0, 0, 0x0100000000001000, 256, 0, 0, 0] = .ok () ∧ epTemplate [0, 0, 0, 0x0100000000001000, 256, 0, 0, 0] = none ∧
    namedChain withChain 0 0 = none ∧
    (chnOf (tileOf { withChain with tiles := mset withChain.tiles 0 { tileOf withChain 0 with chns := [(1, { bound := true, bindings := 2 })] } } 0)
      1).bindings ≠ chain0.gen + 1 ∧ (0x0800 : Word).getLsbD 16 = false ∧ (∀ x ∈ (cur withChain).tasks, x.tag = 0x0800 → x.ended.isSome = true) := by
  decide

/-- Reuse entry 3 as given, g3 naming it. -/
def withEntry (e : REntry) : State := { with1 3 3 with reuse := [(3, e)] }

theorem witness_ReuseWords : Issues (withEntry { kind := .delta }) 0 ∧ Reads (withEntry { kind := .delta }) 3 3 ∧
    entryTenant (withEntry { kind := .delta }) (ctxnOf (withEntry { kind := .delta }) 0) (entryAt (withEntry { kind := .delta }) 3) = none ∧
    (entryAt (withEntry { kind := .delta }) 3).busy = false ∧ Writes (withEntry { kind := .delta }) 6 ∧
    entryOwned (withEntry { kind := .delta }) 0 (entryAt (withEntry { kind := .delta }) 3) = true ∧
    (BitVec.ofNat 64 (2 ^ 63)).getLsbD 63 = true ∧ (3 : Word).getLsbD 63 = false ∧ AtTurn (withEntry { kind := .delta }) 3 ∧
    pagesSettled (withEntry { kind := .delta }) 0 (ownLeaves (withEntry { kind := .delta }) 3) = true ∧
    entryTenant (withEntry {}) 0 (entryAt (withEntry {}) 3) = some 1 ∧
    entryTenant (withEntry { kind := .delta, ctxn := 2 }) 0 (entryAt (withEntry { kind := .delta, ctxn := 2 }) 3) = some 2 ∧
    entryOwned (withEntry { kind := .delta, ctxn := 2 }) 0 { kind := .delta, ctxn := 2 } = false ∧
    (entryAt (withEntry { kind := .delta, busy := true }) 3).busy = true := by decide

/-- A cask command of the stream to entry 3 that has still to reach it. -/
def queuedCask : State := setCluster (withEntry { kind := .step }) 0
  { cask := [{ id := 1, tmpl := BitVec.ofNat 256 (5 + 3 * 2 ^ 240), rm := 1, fte := 0, tile := 0, strm := .k, ctxn := 0 }] }

theorem witness_EntryTurn : ¬ AtTurn queuedCask 3 ∧ Issues queuedCask 0 ∧ Reads queuedCask 3 3 := by decide

/-- A STEP descriptor at 0x40 of the scratchpad, with input and output bins in L2 page 0, which context 0 maps. -/
def stepDesc : List Word := [0, BitVec.ofNat 64 (2 * 2 ^ 46), BitVec.ofNat 64 (2 ^ 40 + 2 ^ 16), 0x0300000000000000, 0x0300000000000040, 0, 0, 0]

def withDesc : State :=
  { s0 with mem := memWrite (memWrite [] 0x1000 (leBytes 8 5)) (scratchBase 0 + 0x40) (stepDesc.flatMap fun w => leBytes 8 w.toNat)
            fe := { ctxs := [(0, { words := [BitVec.ofNat 64 (1 * 2 ^ 16), 0, 0, 0x1000, 8] })] } }

theorem witness_Rbind : Issues withDesc 0 ∧ Reads withDesc 4 0x0100000000000040 ∧ Reads withDesc 3 7 ∧ Writes withDesc 6 ∧
    passes (nearSpan withDesc 0x0100000000000040 64) = true ∧ descFields stepDesc = true ∧
    descRegions (descEntry stepDesc (ctxPasid withDesc 0) 0 7) = true ∧
    (∀ p ∈ (entryRegions (descEntry stepDesc (ctxPasid withDesc 0) 0 7)).flatMap regionPages, pageFault withDesc 0 0 p = none) ∧
    pagesSettled withDesc 0 (regionLeaves withDesc 0 (entryRegions (descEntry stepDesc (ctxPasid withDesc 0) 0 7))) = true ∧
    wf64 0x0100000000000048 55 0 % 64 ≠ 0 ∧ wf64 0x0100000000000040 55 0 % 64 = 0 ∧ descFields [3, 0, 0, 0, 0, 0, 0, 0] = false ∧
    descFields [0, BitVec.ofNat 64 (2 * 2 ^ 46), BitVec.ofNat 64 (2 ^ 40 + 2 ^ 16), 0x0300000000000020, 0x0300000000000040, 0, 0, 0] = true ∧
    descRegions (descEntry [0, BitVec.ofNat 64 (2 * 2 ^ 46), BitVec.ofNat 64 (2 ^ 40 + 2 ^ 16), 0x0300000000000020, 0x0300000000000040, 0, 0, 0]
      0 0 7) = false ∧
    ((((entryRegions (descEntry stepDesc 0 0 7)).flatMap regionPages).find? fun p => (pageFault s0 0 0 p).isSome).isSome) = true := by
  decide

/-- A store to a page of the descriptor's regions that has not been performed. -/
def unsettledDesc : State := setCur withDesc { cur withDesc with posted := [{ addr := 0, bytes := [1], near := 0x0300000000000000 }] }

set_option maxRecDepth 20000 in
theorem witness_BindingWaits :
    pagesSettled unsettledDesc 0 (regionLeaves unsettledDesc 0 (entryRegions (descEntry stepDesc (ctxPasid unsettledDesc 0) 0 7))) = false ∧
    Issues unsettledDesc 0 ∧ Reads unsettledDesc 4 0x0100000000000040 ∧ entriesHeld withDesc 0 < wf64 (ctxWord withDesc 0 0) 27 16 ∧
    (entryAt withDesc 0).kind = .free ∧ 0 < Config.reuseEntries ∧ wf64 (ctxWord s0 0 0) 27 16 ≤ entriesHeld s0 0 := by decide

/-- A configuration image of one AG region on cell 0 with slots 0 and 1, at 0x40 of the scratchpad. -/
def agImage : List Word := [0x20001, 0, 0, 0, 0, 0, 0, 0, 0x3000100, 0, 0, 0, 0, 0, 0, 0]

def agRegion : Region := { state := .stopped, cells := 1, slots := 3, secLen := 1 }

def withImage : State := { s0 with mem := memWrite [] (scratchBase 0 + 0x40) (agImage.flatMap fun w => leBytes 8 w.toNat) }

def withKilnImage : State :=
  { s0 with mem := memWrite [] (scratchBase 0 + 0x40) (kilnBytes 0 1 agRegion), images := [(1, { region := agRegion })] }

def withRegion (r : Region) : State :=
  let s := { s0 with mem := memWrite [] 0x1000 (leBytes 8 5), fe := { ctxs := [(0, { words := [0, 0, 0, 0x1000, 8] })] } }
  setTile s 0 { tileOf s 0 with regions := [(0, r)] }

set_option maxRecDepth 20000 in
theorem witness_Configuration : Issues withImage 0 ∧ Reads withImage 4 0x0100000000000040 ∧ Reads (with1 5 1) 5 1 ∧ Writes withImage 6 ∧
    (tileOf withImage 0).cfg = none ∧ passes (cfgldRegions withImage 0x0100000000000040 1) = true ∧ toRack (tileOf withImage 0) (maskOf 1) = [] ∧
    wf64 1 63 8 = 0 ∧ passes (kilnPages (withRegion agRegion) (toRack (tileOf (withRegion agRegion) 0) (maskOf 1))) = true ∧
    toRack (tileOf (withRegion agRegion) 0) (maskOf 1) ≠ [] ∧
    (stateFail (tileOf (withRegion agRegion) 0) (maskOf 1) fun x => x == .frozen || x == .faulted) = none ∧ maskOf 1 = [0] ∧
    (regionAt (withRegion agRegion) 0 0).state = .stopped ∧ Reads withImage 0 0 := by decide

/-- The unit serves stream L, or stream K itself, whose region has settled or not. -/
def serving (sk : Strm) (done : List Nat) : State :=
  setTile s0 0 { tileOf s0 0 with cfg := some { strm := sk, settle := [0], settled := done } }

theorem witness_ConfigurationWaits : Issues (serving .l []) 0 ∧ Reads (serving .l []) 3 7 ∧ Reads (serving .l []) 5 3 ∧
    (tileOf (serving .l []) 0).cfg = some { strm := .l, settle := [0], settled := [] } ∧ Strm.l ≠ (serving .l []).curStrm ∧
    canIssue (cur (serving .k [])) = true ∧ (tileOf (serving .k []) 0).cfg = some { strm := .k, settle := [0], settled := [] } ∧
    (∃ n ∈ [0], n ∉ ([] : List Nat)) ∧ (∀ n ∈ [0], n ∈ [0]) ∧
    (tileOf (serving .k [0]) 0).cfg = some { strm := .k, settle := [0], settled := [0] } ∧
    (regionAt (withRegion { agRegion with state := .frozen }) 0 0).state = .frozen ∧ (1 : BitVec 16).getLsbD 0 = true := by decide

/-- What THAW reads of the kiln image: its records for mask 1. -/
def kilnRecs : Chk (List RecImg) := do checkedRecs true (← readImage withKilnImage 0x0100000000000040) (maskOf 1)

set_option maxRecDepth 20000 in
theorem witness_Thaw : passes kilnRecs = true ∧ passes (kilnRecs >>= imagesFor withKilnImage) = true ∧
    chkStates (tileOf withKilnImage 0) [(0, agRegion)] (fun x => x == .stopped || x == .running || x == .faulted) (maskOf 1) = none := by decide

/-- Host output ring 0 of context 0, of sixteen records, in a table at 0x2000. -/
def withRing : State :=
  { s0 with mem := memWrite [] 0x2000 ([0, 2 ^ 20 + 4 * 2 ^ 16 + 2 ^ 48, 0, 0, 0, 0, 0, 0].flatMap (leBytes 8)), pkg := { rtbase := 0x2000 } }

theorem witness_FrontEndWords : Issues withRing 0 ∧ Reads withRing 3 7 ∧ withRing.fe.launchq.length < 1024 ∧ (0x80 : Word).toNat % 128 = 0 ∧
    nearSel 0x80 = 0 ∧ (7 : Word).toNat % 128 ≠ 0 ∧ (8 : Word).toNat % 8 = 0 ∧ NoLoopEnd (cur withRing) ∧ PushRoom withRing 0 ∧
    (0x0100000000000040 : Word).toNat % 64 = 0 ∧ nearSel 0x0100000000000040 = 1 ∧ Reads withRing 4 0x0100000000000040 ∧
    passes (nearSpan withRing 0x0100000000000040 64) = true ∧ wf64 0 11 0 = 0 ∧ ringOwned withRing 0 (ctxnOf withRing 0) = true ∧
    ringRoom withRing 0 = true := by decide

/-- The launch queue with 1,024 requests. -/
def fullQueue : State :=
  { s0 with fe := { launchq := List.replicate 1024 { kind := .sigh 0, tile := 0, strm := .k, job := 0, ctxn := 0 } } }

theorem witness_FullLaunchQueue : Issues fullQueue 0 ∧ Reads fullQueue 3 7 ∧ 1024 ≤ fullQueue.fe.launchq.length :=
  ⟨by decide, by decide, by rw [fullQueue, List.length_replicate]⟩

/-! Landings, completions and memory events. -/

def landing0 (kd : LandKind) : State := on { stream0 with landings := [{ phys := 6, val := 9, kind := kd }] }

theorem witness_Landings : ([.fixed, .load, .division].all fun kd =>
    (strmAt (landing0 kd) 0 .k).landings[0]? == some { phys := 6, val := 9, kind := kd }) = true ∧
    (strmAt (landing0 .load) 0 .k).landings[0]? = some { phys := 6, val := 9, kind := .load } ∧ 3 ≠ 6 := by decide

def write0 : WriteRec := { id := 4, addr := 64, old := 0, new := 1, tile := 1, strm := .l, path := .core, scope := .die }

theorem witness_PerformedAndViews : (strmAt (on { stream0 with posted := [posted0] }) 0 .k).posted = posted0 :: [] ∧
    performedAt posted0 .die = false ∧ write0 ∈ { s0 with wlog := [write0] }.wlog ∧
    write0.id ∉ (strmAt { s0 with wlog := [write0] } 0 .k).entered := by decide

/-- A command of stream K in job 1 with a template. -/
def cmdOf (tmpl : BitVec 256) : Cmd := { id := 3, tmpl := tmpl, rm := 1, fte := 0, tile := 0, strm := .k, ctxn := 1, job := 1 }

def done0 (tmpl : BitVec 256) : Done := { cmd := cmdOf tmpl, status := 0, result := 5 }

theorem witness_Completions : { inJob stream0 with done := [done0 3] }.done[0]? = some (done0 3) ∧ (done0 3).cmd.fromFe = false ∧
    (tileOf { inJob stream0 with done := [done0 3] } 0).job = some 1 ∧ (mget? (inJob stream0).fe.jobs 1).isSome = true ∧
    tf 3 12 12 = 0 ∧ tf 3 14 13 = 0 ∧ tf 0x2003 14 13 = 1 ∧ tf 0x2003 12 12 = 0 ∧ tf 0x4003 14 13 = 2 ∧ tf 0x4003 12 12 = 0 ∧
    mget? (inJob stream0).fe.saves 1 = none ∧ MemInv (inJob stream0) := by decide

/-- A command under TKON with SR, where the right neighbour's FIFO has room or is full, before and after HALT. -/
def pushing (full halted : Bool) : State :=
  setStrm { inJob { stream0 with halted := halted } with done := [done0 0x1103] } 0 (rightOf .k) { ({} : Stream) with fromLeft := if full then 8 else 7 }

theorem witness_CompletionPushes : (pushing false false).done[0]? = some (done0 0x1103) ∧ tf 0x1103 12 12 = 1 ∧ tf 0x1103 14 13 = 0 ∧
    tf 0x1103 9 9 = 0 ∧ tf 0x1103 8 8 = 1 ∧ (tileOf (pushing false false) 0).job = some 1 ∧ (mget? (pushing true true).fe.jobs 1).isSome = true ∧
    pushedTokens (pushing false false) 0 .k true < 8 ∧ 8 ≤ pushedTokens (pushing true false) 0 .k true ∧
    (strmAt (pushing true false) 0 .k).halted = false ∧ (strmAt (pushing true true) 0 .k).halted = true ∧
    goes (exec (.commandCompletion 0) (pushing true true)) = true := by decide

theorem witness_DueTokenOver : (strmAt (on { stream0 with tena := 0x400, overDue := [5] }) 0 .k).overDue = 5 :: [] ∧
    TakesInContext (strmAt (on { stream0 with tena := 0x400, overDue := [5] }) 0 .k) .tokenOver ∧ (tileOf s0 0).cfg = none ∧
    stream0.running = true ∧ stream0.halted = false ∧ stream0.wait = .none := by decide

def hold0 : HeldWrite := { ctxn := 1, va := 0x40, die := 0, tile := 0, strm := .k, path := .copy, key := ownKey 3 }

def kept0 : HeldWrite := { hold0 with kept := some (2, 0x10000, 0x40) }

def held0 : State := { s0 with held := [hold0] }

def keptState : State := { on { stream0 with cmds := [{ id := 3, path := .copy }] } with held := [kept0] }

theorem witness_HeldWrites : held0.held[0]? = some hold0 ∧ hold0.kept = none ∧ collapsePage held0 1 0 0x40 = none ∧
    keptState.held[0]? = some kept0 ∧ kept0.kept ≠ none ∧ keyLive keptState kept0.key = true ∧
    keptState.held.find? (performsHeld { tile := 0, strm := .k, path := .copy, scope := .tile, key := ownKey 3 } 0x40 1) = some kept0 := by decide

/-- A read-duplicated page of 1 GiB at 0 of context 1: its leaf entry at 0x20000 names the record at 0x30000, with a copy on die 0. -/
def dupState : State :=
  { s0 with
    mem := memWrite (memWrite (memWrite [] 0x10000 (leBytes 8 0x20001)) 0x20000 (leBytes 8 (2 ^ 62 + 0x30007))) 0x30020 [1]
    fe := { ctxs := [(1, { words := [0, 0, 0x10000] })] } }

theorem witness_Collapses : MemInv dupState ∧ dupState.poison = [] ∧ leafEntry dupState 1 0x40 = some (0x20000, 0, 2 ^ 30) ∧
    (collapsePage dupState 1 0 0x40).map (·.2) = some (0, 0, 0x40) := by decide +kernel

theorem witness_MemoryEvents : 64 < Config.hbmBytes ∧ 16 % 8 = 0 ∧ ([1, 2, 3, 4, 5, 6, 7, 8] : List Byte).length = 8 ∧
    Issues s0 0 ∧ Reads s0 3 7 ∧ nearSel 7 = 0 ∧ NoLoopEnd (cur s0) ∧ PushRoom s0 0 := by decide

/-! Stream commands. -/

/-- A running AG region that hosts slots 0 and 1. -/
def agRuns : Region := { agRegion with state := .running }

/-- Tile 0 with that region, a slot and FIFOs as given. -/
def withSlot (x : Slot) (ips ops : List (Nat × Fifo)) : State :=
  setTile State.reset 0 { regions := [(0, agRuns)], slots := [(0, x)], ips := ips, ops := ops }

theorem witness_SlotStart : (slotAt (withSlot { pending := [cmdOf 1] } [] []) 0 0).active = none ∧
    (slotAt (withSlot { pending := [cmdOf 1] } [] []) 0 0).pending = cmdOf 1 :: [] ∧ cmdSub (cmdOf 1) ≠ 8 ∧
    slotRuns (tileOf (withSlot { pending := [cmdOf 1] } [] []) 0) 0 = true := by decide

/-- A command of SUB sub with a whole word gathered, at the head of its port's feeders. -/
def feeding (sub : Nat) : ActiveCmd :=
  { cmd := cmdOf (BitVec.ofNat 256 (1 + 16 * sub)), buf := List.replicate 64 7, markerSent := true }

def feeder0 : List (Nat × Fifo) := [(0, { feeders := [3] })]

def feedState (sub : Nat) : State := withSlot { active := some (feeding sub) } feeder0 []

theorem witness_Loads : ([0, 2, 6].all fun sub =>
    decide (Works (feedState sub) 0 0 (feeding sub) sub) && decide ((feeding sub).buf.length = 64) &&
    allFeed (feedState sub) (feeding sub).cmd) = true ∧ scTgt (feeding 0).cmd.tmpl = false ∧ (feeding 0).markerSent = true ∧
    ({ feeding 0 with markerSent := false } : ActiveCmd).markerSent = false ∧ scEos (feeding 0).cmd.tmpl = false ∧
    scEos (BitVec.ofNat 256 (1 + 2 ^ 66)) = true := by decide

/-- The command with room in its word, which may read its next element. -/
def reading (sub : Nat) : ActiveCmd :=
  { cmd := cmdOf (BitVec.ofNat 256 (1 + 16 * sub + 2 ^ 80 + 2 ^ 248)), markerSent := true, idx := [0] }

def readState (sub : Nat) : State := withSlot { active := some (reading sub) } feeder0 []

theorem witness_LoadsRead : ([0, 2].all fun sub => decide (Works (readState sub) 0 0 (reading sub) sub) &&
    decide ((reading sub).k < actCount (reading sub)) && mayRead (readState sub) 0 0 (reading sub) && !(reading sub).idx.isEmpty &&
    ((gather 0 0 64 64 (readState sub) (reading sub)).2.2 == none)) = true ∧ actCount (reading 0) ≤ 1 ∧ ouNode (readState 0) 0 0 = none := by decide +kernel

/-- R205: an index below zero is an invalid row, and its elements are zeros. -/
theorem test_NegativeIndexGivesZeros : actElement { reading 2 with idx := [0xFFFFFFFF] } 0 = .const [0] := by decide

/-- An SLD of four bytes of the own scratchpad to operand slot 0. -/
def filling : ActiveCmd :=
  { cmd := { cmdOf (BitVec.ofNat 256 (1 + 2 ^ 65 + 2 * 2 ^ 70 + 1 * 2 ^ 80 + 2 ^ 248)) with fill := 1 } }

def fillState : State := setCluster (withSlot { active := some filling } [] []) 0 { slots := [(0, { claim := some 0, job := 1, facc := 1 })] }

theorem witness_Fill : Works fillState 0 0 filling 0 ∧ scTgt filling.cmd.tmpl = true ∧ filling.cmd.fill ≠ 0 ∧ fillReady fillState filling.cmd = true ∧
    (fillRun 0 0 (64 / actElem { filling with k := 1 }) fillState { filling with k := 0 }).2.2 = none := by decide

theorem witness_FeedTargets : feedTargets (cmdOf 1) = [(0, 0)] := by decide

/-- A storing command of SUB sub at the head of its port's takers, with a word there. -/
def storing (sub : Nat) (buf : List Byte) : ActiveCmd := { cmd := cmdOf (BitVec.ofNat 256 (1 + 16 * sub + 2 ^ 80 + 2 ^ 248)), buf := buf, idx := [0] }

def storeState (sub : Nat) (buf : List Byte) : State :=
  withSlot { active := some (storing sub buf) } [] [(0, { items := [.word 5], takers := [3] })]

theorem witness_Stores2 : ([1, 3].all fun sub => decide (Works (storeState sub []) 0 0 (storing sub []) sub) &&
    decide ((storing sub []).k < actCount (storing sub [])) &&
    (canTake (tileOf (storeState sub []) 0) (scPort (storing sub []).cmd.tmpl) 3 == some (.word 5))) = true ∧
    (storing 1 []).buf.length < actElem (storing 1 []) ∧ actElem (storing 1 [9]) ≤ (storing 1 [9]).buf.length ∧
    (scatter 0 0 64 (storeState 1 [9]) (storing 1 [9])).2.2 = none ∧ actCount (storing 1 []) ≤ 1 ∧ ouNode (storeState 1 [9]) 0 0 = none ∧
    (match engSegs (storeState 1 [9]) (whoOf (storing 1 [9]).cmd .stream) 0x0100000000000000 1 true (actOwn (storing 1 [9])) with
      | .ok _ => true | .error _ => false) = true := by decide +kernel

/-- SSCT before its index, from memory and from port 2, and a storing command that awaits its token. -/
def indexing (port : Bool) : ActiveCmd :=
  { cmd := cmdOf (BitVec.ofNat 256 (1 + 16 * 3 + 2 ^ 80 + 2 ^ 248 + if port then 2 ^ 191 + 2 * 2 ^ 176 else 0)) }

def indexState (port : Bool) (x : Item) : State :=
  withSlot { active := some (indexing port) } [] [(0, { items := [.word 5], takers := [3] }), (2, { items := [x], takers := [3] })]

def eosWaiting : ActiveCmd := { cmd := cmdOf (BitVec.ofNat 256 (1 + 16 + 2 ^ 66 + 2 ^ 80 + 2 ^ 248)), k := 1, awaitEos := true }

def eosState (x : Item) : State := withSlot { active := some eosWaiting } [] [(0, { items := [x], takers := [3] })]

theorem witness_IndicesAndTokens : Works (indexState true .eos) 0 0 (indexing true) 3 ∧ (indexing true).idx = [] ∧
    bitN (scS (indexing false).cmd.tmpl 3) 15 = false ∧ bitN (scS (indexing true).cmd.tmpl 3) 15 = true ∧
    canTake (tileOf (indexState true (.word 1)) 0) (scS (indexing true).cmd.tmpl 3 % 16) 3 = some (.word 1) ∧
    canTake (tileOf (indexState true .eos) 0) (scS (indexing true).cmd.tmpl 3 % 16) 3 = some .eos ∧
    (match slotRead (indexState false .eos) 0 0 (indexing false) (ownAddr 0) 4 with | .ok _ => true | .error _ => false) = true ∧
    Works (eosState .eos) 0 0 eosWaiting 1 ∧ eosWaiting.awaitEos = true ∧ canTake (tileOf (eosState .eos) 0) 0 3 = some .eos ∧
    canTake (tileOf (eosState (.word 1)) 0) 0 3 = some (.word 1) ∧ scEos eosWaiting.cmd.tmpl = true ∧ actCount eosWaiting ≤ eosWaiting.k := by
  decide +kernel

/-- SREC, SCON, SCMP and SCLS active in slot 0. -/
def slotCmd (sub : Nat) (extra : Nat) : ActiveCmd := { cmd := cmdOf (BitVec.ofNat 256 (1 + 16 * sub + 2 ^ 80 + extra)), markerSent := true }

def slotState (sub extra : Nat) : State :=
  withSlot { active := some (slotCmd sub extra) } feeder0 [(0, { items := [.word 5], takers := [3] })]

theorem witness_OtherSlotCommands : Works (slotState 4 0) 0 0 (slotCmd 4 0) 4 ∧ (slotCmd 4 0).awaitEos = false ∧
    (slotCmd 4 0).k < actCount (slotCmd 4 0) ∧ canTake (tileOf (slotState 4 0) 0) 0 3 = some (.word 5) ∧ allFeed (slotState 4 0) (slotCmd 4 0).cmd = true ∧
    Works (slotState 5 0) 0 0 (slotCmd 5 0) 5 ∧ (slotCmd 5 0).k < actCount (slotCmd 5 0) ∧ allFeed (slotState 5 0) (slotCmd 5 0).cmd = true ∧
    Works (slotState 7 0) 0 0 (slotCmd 7 0) 7 ∧ (slotCmd 7 0).pred = none ∧ (slotCmd 7 0).k < actCount (slotCmd 7 0) ∧
    canTake (tileOf (slotState 7 0) 0) (scS (slotCmd 7 0).cmd.tmpl 3 % 16) 3 = some (.word 5) ∧
    Works (slotState 9 0) 0 0 (slotCmd 9 0) 9 ∧ (slotAt (slotState 9 0) 0 0).range = none ∧
    (slotAt (withSlot { active := some (slotCmd 9 0), range := some (0, 64) } [] []) 0 0).range = some (0, 64) := by decide +kernel

/-- A row of one word held after its predicate. -/
def scmpRow : ActiveCmd := { slotCmd 7 (2 ^ 104 + 2 ^ 248) with pred := some 5, buf := List.replicate 64 0 }

theorem witness_ScmpRow : Works (withSlot { active := some scmpRow } [] []) 0 0 scmpRow 7 ∧ scmpRow.awaitEos = false ∧ scmpRow.pred = some 5 ∧
    64 * extent (scN scmpRow.cmd.tmpl 2) ≤ scmpRow.buf.length ∧ lane 5 (scmpRow.k % 16) ≠ 0 ∧ lane 5 ((scmpRow.k + 1) % 16) = 0 ∧
    (match (writeRow (withSlot { active := some scmpRow } [] []) 0 0 scmpRow).1 with | .ok _ => true | .error _ => false) = true ∧
    ouNode (withSlot { active := some scmpRow } [] []) 0 0 = none ∧ scmpRow.k < actCount scmpRow ∧
    ({ slotCmd 7 0 with pred := some 5 } : ActiveCmd).buf.length < 64 * extent (scN (slotCmd 7 0).cmd.tmpl 2) ∧
    canTake (tileOf (slotState 7 0) 0) (scPort (slotCmd 7 0).cmd.tmpl) 3 = some (.word 5) ∧ actCount (slotCmd 4 0) ≤ 1 := by decide +kernel

def sbarCmd : Cmd := cmdOf (BitVec.ofNat 256 (1 + 16 * 8 + 2 ^ 128))

def sbarState : State :=
  let s := withSlot { pending := [sbarCmd] } [] []
  setTile s 0 { tileOf s 0 with barriers := [sbarCmd], swts := [{ cmd := cmdOf (BitVec.ofNat 256 (1 + 16 * 10)), awaits := [77] }] }

theorem witness_BarriersAndWaitedWrites : (tileOf sbarState 0).barriers[0]? = some sbarCmd ∧ barrierReady (tileOf sbarState 0) sbarCmd = true ∧
    (tileOf sbarState 0).swts[0]? = some { cmd := cmdOf (BitVec.ofNat 256 (1 + 16 * 10)), awaits := [77] } ∧
    (∀ i ∈ [77], (tileCmdIds (tileOf sbarState 0)).contains i = false) ∧
    (match engWrite sbarState (whoOf sbarCmd .stream) (ownAddr 0) (leBytes 8 1) false with | .ok _ => true | .error _ => false) = true := by decide

/-- Mesh port 0 of tiles 0 and 1, both in job 1. -/
def spipCmd : Cmd := cmdOf (BitVec.ofNat 256 (6 + 2 ^ 120))

def meshState (sent : Nat) : State :=
  let s : State := { fe := { jobs := [(1, { job1 with tiles := [0, 1] })] } }
  let a := setTile s 0 { job := some 1, mports := [(0, { spip := [(spipCmd, [])], spipSent := sent })] }
  setTile { a with mesh := [{ job := 1, srcTile := 0, srcPort := 0, dstTile := 1, dstPort := 0, pip := { ctxn := 1 } }] } 1
    { job := some 1, mports := [(0, { sprv := [spipCmd], recv := [{ ctxn := 1 }] })] }

theorem witness_Pips : (mportOf (tileOf (meshState 0) 0) 0).spip = (spipCmd, []) :: [] ∧ (mportOf (tileOf (meshState 0) 0) 0).spipInFlight = false ∧
    (mportOf (tileOf (meshState 0) 0) 0).spipSent < mpCount spipCmd.tmpl ∧ mpCount spipCmd.tmpl ≤ (mportOf (tileOf (meshState 1) 0) 0).spipSent ∧
    mpMode spipCmd.tmpl = 0 ∧ ((meshState 0).mesh[0]?).map (·.dstTile) = some 1 ∧ tileServes (meshState 0) 1 1 = true ∧
    (mportOf (tileOf (meshState 0) 1) 0).recv.length < 16 ∧ (tileOf (meshState 0) 0).job = some 1 ∧
    (mportOf (tileOf (meshState 0) 1) 0).sprv = spipCmd :: [] ∧ (mportOf (tileOf (meshState 0) 1) 0).recv = { ctxn := 1 } :: [] := by decide

/-- An ORDERED-UPDATE region whose older section wrote the line that the younger one is about to write. -/
def olderCmd : Cmd := { cmdOf 0x11 with id := 2 }

def section0 : Section := { owner := olderCmd, slot := 1, firstK := 0, writes := [{ phys := scratchBase 0, bytes := [1] }]
                            writeSig := [(Config.lineBank (scratchBase 0 / 64), BitVec.allOnes 256)], sealed := true, fromK := 0 }
def section1 : Section := { owner := (storing 1 [9]).cmd, slot := 0, firstK := 0, fromK := 0 }

def sectionState : State :=
  setTile State.reset 0 { regions := [(0, { agRuns with mode := 2, sections := [section0, section1] })],
                          slots := [(0, { active := some (storing 1 [9]) })] }

def sectionRegion : Region := mget (tileOf sectionState 0).regions 0 {}

theorem witness_Sections : sectionRegion.mode = 2 ∧
    sectionRegion.sections.find? (fun y => secNum sectionRegion y == 1 && !y.sealed) = some section1 ∧
    (slotAt sectionState 0 section1.slot).active = some (storing 1 [9]) ∧ (storing 1 [9]).cmd.id = section1.owner.id ∧
    configured sectionRegion = true ∧
    nextCommit (tileOf (withSlot {} [] []) 0) agRuns = none ∧ nextLines sectionState (storing 1 [9]) = [scratchBase 0 / 64] ∧
    subWrites (cmdSub (storing 1 [9]).cmd) = true := by decide +kernel

theorem witness_SectionCommits : nextCommit (tileOf sectionState 0) sectionRegion = some section0 := by rfl

/-- An access whose line is in an older section's write signature conflicts, whatever the signature of a line is (R188). -/
theorem newHits_ne_nil {r : Region} {x y : Section} {n : Nat} (hy : y ∈ r.sections) (hb : secBefore y x = true)
    (hh : (y.owner.id, y.firstK) ∉ x.hits) (hs : sigHas y.writeSig n = true) : newHits r x [n] true ≠ [] := by
  have m : (y.owner.id, y.firstK) ∈ newHits r x [n] true :=
    List.mem_map_of_mem (List.mem_filter.2 ⟨hy, by simp [hb, hh, hs]⟩)
  exact List.ne_nil_of_mem m

theorem witness_SectionConflict : newHits sectionRegion section1 [scratchBase 0 / 64] true ≠ [] :=
  newHits_ne_nil (y := section0) (List.mem_cons_self ..) (by decide) (by decide)
    (by rw [sigHas, show mget section0.writeSig (Config.lineBank (scratchBase 0 / 64)) 0 = BitVec.allOnes 256 from if_pos rfl,
          BitVec.allOnes_and]; exact beq_self_eq_true _)


/-! The array. -/

/-- A cell whose first stage moves input port 0 to output port 0, in a running COMPUTE region. -/
def moveStage : Word := BitVec.ofNat 64 (0x10 * 2 ^ 54 + 0x10 * 2 ^ 32)

def cell0 (conv : Word) : List Word := [conv, moveStage, 0, 0, 0, 0, 0, BitVec.ofNat 64 (2 ^ 30 - 32)]

def computeRegion (conv : Word) : Region :=
  { state := .running, typ := .compute, cells := 1, ngrp := 1, iports := 1, oports := 1, cellRecs := [(0, cell0 conv)] }

def arrayState (r : Region) (x : Item) : State := setTile State.reset 0 { regions := [(0, r)], ips := [(0, { items := [x] })] }

def marker0 : Marker := { fte := 0, rm := 1, srBase := 0, tile := 0, strm := .k }

theorem witness_ArraySteps : (fireGroup (arrayState (computeRegion 0) (.word 5)) 0 0 0).isSome = true ∧
    (takeMarker (arrayState (computeRegion 0) (.marker marker0)) 0 0 0 0).isSome = true ∧
    (takeEos (arrayState (computeRegion 0) .eos) 0 0 0).isSome = true ∧
    (convStep (arrayState { computeRegion moveStage with convs := [(0, { out := List.replicate 64 1 })] } .eos) 0 0 0).isSome = true ∧
    (regionAt State.reset 0 0).state ≠ .running ∧ (regionAt State.reset 0 0).state ≠ .racking ∧ (regionAt State.reset 0 0).state ≠ .freezing ∧
    swOp (cellWord (regionAt (arrayState (computeRegion 0) .eos) 0 0).cellRecs 0 0) = 0 := by
  decide +kernel

def moving : StageRef := { v := 0, j := 0, w := moveStage }

theorem witness_ReadyGroup : groupStages (computeRegion 0).cellRecs 0 = [moving] ∧ (computeRegion 0).typ = .compute ∧
    (computeRegion 0).state = .running ∧ (computeRegion 0).aligned.contains 0 = false ∧ groupInputs [moving] = [(0x10 + 0, 0)] ∧
    (ipOf (tileOf (arrayState (computeRegion 0) (.word 5)) 0) 0).items = .word 5 :: [] ∧ groupOutputs [moving] = [0x10 + 0] ∧
    swOut moving.w = 0x10 + 0 ∧ swA moving.w = 0x10 + 0 ∧ swB moving.w = 0 ∧ swC moving.w = 0 ∧
    places (opOf (tileOf (arrayState (computeRegion 0) (.word 5)) 0) 0).items < 4 := by decide +kernel

/-- R243, R244: lanes that add with a wrap, and 1.0 + 1.0. -/
theorem test_LanesAdd : laneOp 0x01 0 1 0 0xFFFFFFFF 2 0 = 1 ∧ laneOp 0x10 0 1 0 0x3F800000 0x3F800000 0 = 0x40000000 := by decide +kernel

/-- R245: 2 to the 3 is 8, and the logarithm of 8 is 3. -/
theorem test_PowerOfThree : vexp2Code 0x40400000 = 0x41000000 ∧ vlog2Code 0x41000000 = 0x40400000 := by decide +kernel

theorem witness_Lanes : fdecode fp32 0x7FC00000 = .nan ∧ fdecode fp32 0x7F800000 = .inf false ∧ fdecode fp32 0xFF800000 = .inf true ∧
    fdecode fp32 0x80000000 = .fin true 0 (-149) ∧ vneg? (fdecode fp32 0xBF800000) = true ∧ 276 ∈ List.range 277 ∧ (15 : Nat) < 16 ∧
    swOp 0x10126 = 0x26 ∧ swMod 0x10126 = 1 ∧ (List.replicate 16 0).length = 16 ∧ swOp 0x10128 = 0x28 ∧ swMod 0x10128 = 1 ∧
    ([5, 6] : List Line).length ≤ 2 ^ (swImm 0x10128 % 16) ∧ ([5, 6] : List Line) ≠ [] := by decide +kernel

/-- Tile 0 with a region that is racked, or frozen by a wave. -/
def settling : State := setTile State.reset 0
  { regions := [(0, { agRegion with state := .racking })], cfg := some { strm := .k, settle := [0] } }

def freezing : State := setTile { State.reset with fab := 44000 } 0 { regions := [(0, { agRegion with state := .freezing })] }

theorem witness_RegionsSettleOrFreeze : (tileOf settling 0).cfg = some { strm := .k, settle := [0] } ∧ (regionAt settling 0 0).state = .racking ∧
    [0].contains 0 = true ∧ quiescent settling 0 0 = true ∧ (regionAt freezing 0 0).state = .freezing ∧
    waveAligned (regionAt (alignAll (insertSnaps freezing 0 0) 0 0) 0 0) = true ∧
    (tileOf (readOut (alignAll (insertSnaps freezing 0 0) 0 0) 0 0).1 0).cfg = none ∧ (regionAt freezing 0 0).waveByFe = false ∧
    (tileOf freezing 0).cfg = none ∧ (regionAt freezing 0 0).waveStart + kilnLimit freezing 0 ≤ freezing.fab := by decide +kernel

/-! Matrix tasks. -/

def taskOf (sub : Nat) : Task := { cmd := cmdOf (BitVec.ofNat 256 (2 + 16 * sub)), seq := 1, tile := 0, chn := 0, gen := 0, caps := [] }

def runState (r : Running) (m : Mem) : State := { setCluster State.reset 0 { engines := [(0, { run := some r, alloc := [0] })] } with mem := m }

/-- Byte x of metadata whose codes rise in every group: the codes 0 to 3, twelve bits a group. -/
def risingByte (x : Nat) : Byte := if x % 3 = 2 then 0x88 else if x % 3 = 0 then 0x86 else 0x68

def risingMem (a : Nat) : Nat → Mem
  | 0 => []
  | n + 1 => (a, risingByte a) :: risingMem (a + 1) n

theorem risingMem_get (n : Nat) : ∀ a x, a ≤ x → x < a + n → memGet (risingMem a n) x = risingByte x := by
  induction n with
  | zero => intro a x h1 h2; omega
  | succ n ih =>
    intro a x h1 h2
    simp only [risingMem, memGet]
    by_cases h : a = x
    · simp [h]
    · rw [if_neg h, if_neg (by omega), ih (a + 1) x (by omega) (by omega)]

theorem risingMem_read (a n k : Nat) : ∀ x, a ≤ x → x + k ≤ a + n → memRead (risingMem a n) x k = (span x k).map risingByte := by
  induction k with
  | zero => intro x _ _; rfl
  | succ k ih =>
    intro x h1 h2
    simp only [memRead, span, List.map_cons]
    rw [risingMem_get n a x h1 (by omega), ih (x + 1) (by omega) (by omega)]

theorem witness_Tasks : ([0, 1, 2, 3].all fun sub => decide (TaskRuns (runState { task := taskOf sub } []) 0 0 { task := taskOf sub } sub)) = true ∧
    badGroup (metaBits (runState { task := taskOf 1 } []) 0 (taskOf 1).cmd.tmpl 0) 0 = some 0 := by decide +kernel

/-- An MMS task of formats with 64 logical positions, with metadata that meets the rule. -/
def sparseTask : Task := { taskOf 1 with cmd := { (taskOf 1).cmd with fte := 1 } }

theorem witness_GoodMetadata : TaskRuns (runState { task := sparseTask } (risingMem (slotByte 0 0 0) 1536)) 0 0 { task := sparseTask } 1 ∧
    badGroup (metaBits (runState { task := sparseTask } (risingMem (slotByte 0 0 0) 1536)) 0 sparseTask.cmd.tmpl 1) 1 = none := by
  refine ⟨by decide +kernel, ?_⟩
  have h : slotBytes (runState { task := sparseTask } (risingMem (slotByte 0 0 0) 1536)) 0 0 0 1536 = (span (slotByte 0 0 0) 1536).map risingByte :=
    risingMem_read (slotByte 0 0 0) 1536 1536 _ (Nat.le_refl _) (Nat.le_refl _)
  have e : metaBits (runState { task := sparseTask } (risingMem (slotByte 0 0 0) 1536)) 0 sparseTask.cmd.tmpl 1 =
      leNat (slotBytes (runState { task := sparseTask } (risingMem (slotByte 0 0 0) 1536)) 0 0 0 1536) := rfl
  rw [e, h]
  decide +kernel

theorem witness_DeltaTask : TaskRuns (runState { task := taskOf 3, mmdl := some { vd := 0 } } []) 0 0 { task := taskOf 3, mmdl := some { vd := 0 } } 3 ∧
    ({ task := taskOf 3, mmdl := some { vd := 0 } } : Running).mmdl = some { vd := 0 } := by decide +kernel

theorem witness_TileResults : 0 < ([[]] : List (List Val)).length ∧ (List.replicate 64 ([] : List Val)).length = 64 := by decide

def inboxState : State := setCluster State.reset 0 { taskq := [taskOf 0], engines := [(0, { inbox := [taskOf 0] })] }

def resultRun (d : Bool) : Running := { task := taskOf 0, result := some ([1], false), readDone := d }

theorem witness_TasksPass : (match scanTasks inboxState 0 [] (clusterOf inboxState 0).taskq with | .send _ _ _ => true | _ => false) = true ∧
    (engineOf (clusterOf inboxState 0) 0).run = none ∧ (engineOf (clusterOf inboxState 0) 0).inbox = taskOf 0 :: [] ∧
    ((chainOf (clusterOf inboxState 0) (taskOf 0)).any fun x => x.st == .faulted) = false ∧
    (match startTask inboxState 0 (taskOf 0) none with | .ok _ => true | .error _ => false) = true ∧
    (engineOf (clusterOf (runState (resultRun false) []) 0) 0).run = some (resultRun false) ∧ (resultRun false).result.isSome = true ∧
    (engineOf (clusterOf (runState (resultRun true) []) 0) 0).run = some (resultRun true) ∧ (resultRun true).mmdl = none ∧
    (match scanTasks State.reset 0 [] (clusterOf State.reset 0).taskq with | .none => true | _ => false) = true := by decide +kernel

/-- The chain of the task, open or faulted, in the cluster of the task that closes it. -/
def taskChain (st : ChainSt) : Chain := { tile := 0, chn := 0, gen := 0, job := 1, st := st, acc := false }

theorem witness_WritingEntries : chainOf (clusterOf (setCluster State.reset 0 { chains := [taskChain .opened] }) 0) (taskOf 0) = some (taskChain .opened) ∧
    chainOf (clusterOf (setCluster State.reset 0 { chains := [taskChain .faulted] }) 0) (taskOf 0) = some (taskChain .faulted) ∧
    (taskChain .opened).st ≠ .faulted := by decide +kernel

/-- R279, R281: a faulted chain stays faulted when its closing task writes the entry. -/
theorem test_FaultedChainStaysFaulted : (chainOf (clusterOf (writeEntry (setCluster State.reset 0 { chains := [taskChain .faulted] }) 0 0
    { taskOf 0 with cmd := { (taskOf 0).cmd with tmpl := BitVec.ofNat 256 (2 + 2 ^ 16 - 2 ^ 8) } } ([1], false)) 0) (taskOf 0)).map (·.st) = some .faulted := by
  decide +kernel

def epiRec0 : EpiRec := { words := [0, 0, 0, 0x0100000000001000, 256, 0, 0, 0], tile := 0, strm := .k }

def fullChain : Chain := { chain0 with st := .full, placed := true, epi := some epiRec0, closer := some (taskOf 0).cmd }

def drainState (d : Option Drain) : State :=
  setCluster State.reset 0 { chains := [fullChain], engines := [(0, { alloc := [0], drain := d })],
                             writebacks := [{ task := taskOf 3, st := { vd := 0 } }] }

theorem witness_Drains : (engineOf (clusterOf (drainState none) 0) 0).alloc.head? = some 0 ∧
    entryChain (clusterOf (drainState none) 0) 0 0 = some fullChain ∧ fullChain.st = .full ∧ fullChain.discard = false ∧
    deferred (drainState none) epiRec0 (taskOf 0).cmd = none ∧
    (engineOf (clusterOf (drainState (some { tile := 0, chn := 1, gen := 0, row := 63 })) 0) 0).drain = some { tile := 0, chn := 1, gen := 0, row := 63 } ∧
    (engineOf (clusterOf (drainState (some { tile := 0, chn := 1, gen := 0, row := 64 })) 0) 0).drain = some { tile := 0, chn := 1, gen := 0, row := 64 } ∧
    epCwe epiRec0.words = false ∧ (clusterOf (drainState none) 0).writebacks[0]? = some { task := taskOf 3, st := { vd := 0 } } ∧
    (backRows (taskOf 3).cmd { vd := 0 } [] 0 (cacheEntry (drainState none) 0 (mtRent (taskOf 3).cmd.tmpl))).2 = (0, none) := by decide +kernel

set_option maxRecDepth 20000 in
theorem witness_DrainRows : epSmode epiRec0.words = 0 ∧ epBmode epiRec0.words = 0 ∧ epAct epiRec0.words = 0 ∧
    (match rowOut (drainState none) (taskOf 0).cmd (drainFmt epiRec0.words (taskOf 0).cmd) 0
        ((List.replicate 64 (0 : BitVec 48)).map (entryVal fullChain)) with
      | (bs, sc) => sc.isEmpty && (match engWrite (drainState none) (drainWho epiRec0 (taskOf 0).cmd) (epWord epiRec0.words 3).toNat bs
          (drainOwn (epWord epiRec0.words 3).toNat) with | .ok _ => true | .error _ => false)) = true ∧ epCwe [1, 0, 0, 0, 256, 0, 0x0100000000001000, 5] = true ∧
    (match engWrite (drainState none) (drainWho epiRec0 (taskOf 0).cmd) 0x0100000000001000 (leBytes 8 5) (drainOwn 0x0100000000001000) with
      | .ok _ => true | .error _ => false) = true := by decide +kernel

theorem witness_Activations : fdecode fp32 0x3F800000 = .fin false 0x800000 (-23) ∧
    vlt (.fin false 15 (-3)) (fdecode fp32 0x40000000) = true ∧ vlt (fdecode fp32 0xC0000000) (.fin true 15 (-3)) = true := by decide +kernel

/-- R284: at 2.0 GELU's factor is 1, and at −2.0 it is 0. -/
theorem test_GeluSaturates : epAct32 2 0x40000000 = 0x40000000 ∧ epAct32 2 0xC0000000 = 0x80000000 := by decide +kernel

/-! Copies, gathers and cask commands. -/

def copyCmd (sub : Nat) : Cmd := cmdOf (BitVec.ofNat 256 (3 + 16 * sub))

/-- A layout record of one element in the own scratchpad. -/
def copyRun0 (sub k : Nat) : CopyRun := { cmd := copyCmd sub, checked := true, src := List.replicate 12 0, dst := List.replicate 12 0, k := k }

def dieState (d : Die) : State := setDie State.reset 0 d

theorem witness_Copies : engOf (dieState { copyq := [copyCmd 0] }) 0 0 = none ∧ (dieOf (dieState { copyq := [copyCmd 0] }) 0).copyq = copyCmd 0 :: [] ∧
    ([0, 1, 2, 3].all fun sub => cmdSub (copyCmd sub) == sub) = true ∧
    engOf (dieState { copyEng := [(0, copyRun0 0 0)] }) 0 0 = some (copyRun0 0 0) ∧ (copyRun0 0 0).k < copyCount (copyRun0 0 0) ∧
    copyCount (copyRun0 0 (2 ^ 40)) ≤ (copyRun0 0 (2 ^ 40)).k ∧
    (match engWrite State.reset (engWho (copyCmd 2) .copy 0 0) (ownAddr 0) (leBytes 8 0) false with | .ok _ => true | .error _ => false) = true ∧
    (match readRecs State.reset (engWho { copyCmd 3 with tmpl := BitVec.ofNat 256 (3 + 48 + 2 ^ 248 + 2 ^ 184) } .copy 0 0)
      (BitVec.ofNat 256 (3 + 48 + 2 ^ 248 + 2 ^ 184)) with | .ok _ => true | .error _ => false) = true ∧
    (match recDest (copyRun0 0 0).dst 0 with | .write _ => true | _ => false) = true := by decide +kernel

/-- A copy whose source is the byte at 0 of the own scratchpad. -/
def copyRunOwn : CopyRun := { copyRun0 0 0 with src := 2 ^ 56 :: List.replicate 11 0 }

theorem witness_CopySource : hullsMeet State.reset copyRunOwn.cmd.tile copyRunOwn.src copyRunOwn.dst = false ∧ copyRunOwn.before = State.reset.mem ∧
    (match copySource State.reset (engWho copyRunOwn.cmd .copy 0 0) copyRunOwn with | .ok (some _) => true | _ => false) = true := by decide +kernel

/-- A copy of two elements whose destination begins at its second source byte: a memmove. -/
def ownWindow (off n : Nat) : List Word :=
  [BitVec.ofNat 64 (2 ^ 56 + off), BitVec.ofNat 64 (2 ^ 56 + 2 ^ 52), BitVec.ofNat 64 n, 0, 0, BitVec.ofNat 64 n, 0, 0, 1, 0, 0, 0]

def moveRun (moved : Option (List Byte)) : CopyRun := { copyRun0 0 0 with src := ownWindow 0 2, dst := ownWindow 1 2, moved := moved }

theorem witness_Memmoves : isMemmove State.reset (moveRun none) = true ∧ isMemmove State.reset (moveRun (some [1, 2])) = true ∧
    (match readAll State.reset (engWho (copyCmd 0) .copy 0 0) (moveRun none) (copyCount (moveRun none)) 0 with | .ok _ => true | .error _ => false) = true ∧
    recSource (moveRun none).src 0 = .read (2 ^ 56) ∧ windowStop State.reset (engWho (copyCmd 0) .copy 0 0) false (ownWindow 0 2) (ownWindow 1 2) = none ∧
    hullsMeet State.reset 0 (ownWindow 0 2) (ownWindow 1 2) = true ∧ layPair (ownWindow 0 2) (ownWindow 1 2) = none ∧
    hullsReach State.reset 0 (ownWindow 0 2) (ownWindow 1 2) = true := by decide +kernel

def gatherCmd0 (sub : Nat) : Cmd := cmdOf (BitVec.ofNat 256 (4 + 16 * sub + 2 ^ 104 + 2 ^ 248 + 2 ^ 184))

def gatherRun0 (sub : Nat) (fin : List Nat) : GatherRun := { cmd := gatherCmd0 sub, desc := some [], done := fin }

def gatherState (g : GatherRun) : State := dieState { gatherEng := [(0, g)] }

theorem witness_Gathers : ([0, 1].all fun sub => cmdSub (gatherCmd0 sub) == sub && (gatherOf (gatherState (gatherRun0 sub [])) 0 0 == some (gatherRun0 sub [])) &&
      (settleRows (gatherState (gatherRun0 sub [])) 0 0 (gatherRun0 sub []) == gatherRun0 sub []) && (nextRow (gatherRun0 sub []) == some 0) &&
      (nextRow (gatherRun0 sub [0]) == none)) = true ∧ gaCount (gatherCmd0 0).tmpl ≤ (gatherRun0 0 [0]).done.length ∧
    gaEntry (gatherCmd0 0).tmpl = 4 ∧
    (match gatherRead (gatherState (gatherRun0 0 [])) 0 0 (gatherRun0 0 []) (moveAddr (gaIlist (gatherCmd0 0).tmpl) (4 * 0 : Nat)) 4 with | .ok _ => true | .error _ => false) = true ∧
    entryRow 4 1 0 = some 0 ∧ entryRow 4 0 0 = none ∧ (0xFFFFFFFF : Nat) < 2 ^ (8 * 4) ∧ tdMode [] ≠ 1 ∧
    (match engWrite (gatherState (gatherRun0 0 [])) (engWho (gatherCmd0 0) .gather 0 0) (dataRow (gatherCmd0 0).tmpl 0)
      (List.replicate (tdRowBytes []) 0) true with | .ok _ => true | .error _ => false) = true := by decide +kernel

def stepEntry : REntry := { kind := .step, ctxn := 1, ibin := 1, obin := 1, xaddr := 0x0100000000001000, yaddr := 0x0100000000002000, km1 := 0 }

def caskCmd (sub : Nat) : Cmd := cmdOf (BitVec.ofNat 256 (5 + 16 * sub + 2 ^ 184 + 2 ^ 120))

def caskState (sub : Nat) (e : REntry) : State := { setCluster State.reset 0 { cask := [caskCmd sub] } with reuse := [(0, e)] }

theorem witness_Cask : CaskRuns (caskState 0 { stepEntry with qseen := true }) 0 (caskCmd 0) 0 ∧
    (entryAt (caskState 0 { stepEntry with qseen := true }) 0).stag.toNat = ckStep (caskCmd 0) ∧ CaskRuns (caskState 0 stepEntry) 0 (caskCmd 0) 0 ∧
    (queryEntry (entryAt (caskState 0 stepEntry) 0) (forceBit (caskState 0 stepEntry) 1) 0).bval.getLsbD (binOf stepEntry 0) = false ∧
    CaskRuns (caskState 1 { stepEntry with qseen := true, lqv := vHit }) 0 (caskCmd 1) 1 ∧
    queriedStep (caskCmd 1) { stepEntry with qseen := true, lqv := vHit } = true ∧ ckTgt (caskCmd 1).tmpl = false ∧
    queriedStep (caskCmd 1) stepEntry = false ∧ (clusterOf (caskState 1 stepEntry) 0).caskSent = 0 ∧
    CaskRuns (caskState 2 { stepEntry with qseen := true, lqv := vMiss }) 0 (caskCmd 2) 2 ∧
    queriedStep (caskCmd 2) { stepEntry with qseen := true, lqv := vMiss } = true ∧ vMiss ≠ vHit ∧
    (match engRead (caskState 2 stepEntry) (reuseWho (caskCmd 2)) (ckIaddr (caskCmd 2).tmpl) 64 (ckOwn (ckIaddr (caskCmd 2).tmpl)) with
      | .ok xs => (match engWrite (caskState 2 stepEntry) (reuseWho (caskCmd 2)) (binIn stepEntry 0) xs false (some 0) with | .ok _ => true | .error _ => false)
      | .error _ => false) = true := by decide +kernel

/-- A query whose bin holds values, and the bytes that it reads. -/
def filledEntry : REntry := { stepEntry with bval := 1 }

theorem witness_CaskQueries : CaskRuns (caskState 0 filledEntry) 0 (caskCmd 0) 0 ∧ filledEntry.qseen = false ∧
    (queryEntry filledEntry false 0).bval.getLsbD (binOf filledEntry 0) = true ∧ (clusterOf (cacheEntry (caskState 0 filledEntry) 0 0) 0).rcache = [0] ∧
    (match engRead (cacheEntry (caskState 0 filledEntry) 0 0) (reuseWho (caskCmd 0)) (ckIaddr (caskCmd 0).tmpl) 64 (ckOwn (ckIaddr (caskCmd 0).tmpl)) with
      | .ok _ => true | .error _ => false) = true ∧
    (match engRead (cacheEntry (caskState 0 filledEntry) 0 0) (reuseWho (caskCmd 0)) (binIn filledEntry 0) 64 false with | .ok _ => true | .error _ => false) = true ∧
    entryHeld (caskState 0 filledEntry) 0 (some 0) = false ∧ cmdSaved (caskState 0 filledEntry) (caskCmd 0) = false := by decide +kernel

/-- R314, R315: the distance at THETA is a HIT, and after MMAX hits a forced miss. -/
theorem test_VerdictAtTheta : verdictOf { mmax := 2, hrun := 1 } 0 = (vHit, 2) ∧ verdictOf { mmax := 2, hrun := 2 } 0 = (vForced, 0) ∧
    (verdictOf { mmax := 2 } 0x3F800000).1 = vMiss := by decide +kernel

/-! The front end. -/

/-- Context 1 with L2 pages 0 to 7, page 0 writable, and a queue 7 whose table slot holds it. -/
def ctxWords : List Word := [BitVec.ofNat 64 (2 ^ 31 + 4 * 2 ^ 16), 0, 0, 0x1000, 8, 0, 0, 4, 0, 0, 4, 0]

def queue7 : Qcb := { ctxn := 1, base := 5, cls := .bulk }

def frontState : State :=
  { s0 with
    mem := memWrite [] 0x1000 (leBytes 8 5)
    fe := { ctxs := [(1, { words := ctxWords })], queues := [(7, queue7)],
            qslots := (List.range 64).map fun i => (i, some 7) } }

def feState (kd : FeKind) (gs : List Graph) : State :=
  { frontState with fe := { frontState.fe with launchq := [{ kind := kd, tile := 0, strm := .k, job := 1, ctxn := 1 }], graphs := gs,
                                               jobs := [(1, { job1 with qkey := 7 })] } }

/-- An ACTIVE graph whose node records stand at 0 of L2, one node. -/
def graph1 : Graph := { gid := 9, gaddr := 0x0300000000000400, ctxn := 1, qkey := 7, head := [1, 0x0300000000000000] }

theorem witness_LaunchRequests : (launchAt (feState (.garm 0) []) 0).isSome = true ∧
    graphQueue (feState (.garm 0) []) (cmdOf (BitVec.ofNat 256 (7 + 0xFFFF * 2 ^ 176))) = some (7, queue7) ∧
    mget? (feState (.garm 0) []).fe.jobs 1 = some { job1 with qkey := 7 } ∧ job1.gnxts.length < 16 ∧
    nodeAt (dropLaunch (feState (.garm 0x0300000000000000) [graph1]) 0) 1 0x0300000000000000 = some (9, 0) ∧
    (match frontWrite (dropLaunch (feState (.gset 0x0300000000000008 3) []) 0) 1 0x0300000000000008 (leBytes 8 3) with | .ok _ => true | .error _ => false) = true ∧
    (match signalHost (dropLaunch (feState (.sigh 3) []) 0) queue7 3 with | .ok _ => true | .error _ => false) = true := by decide +kernel

theorem witness_Rings : (ringOf { withRing with fab := 2200, fe := { rings := [(0, { firstAt := some 0 })] } } 0).firstAt = some 0 ∧
    ringTime withRing 0 = 1 ∧ 0 + 2200 * ringTime withRing 0 ≤ 2200 ∧
    ringRoom { withRing with fe := { rings := [(0, { pidx := 16 })] } } 0 = false ∧ (ringOf withRing 0).lastReread + 2200 ≤ 2200 := by decide +kernel

/-- Channel 0 with a packet taken. -/
def packetOf (kind : Nat) (lo : Nat) (ws : List Word) : Packet := { words := BitVec.ofNat 64 (kind * 2 ^ 56 + lo * 2 ^ 32) :: ws, idx := 0 }

def chanState (p : Packet) : State :=
  { frontState with fe := { frontState.fe with channels := [(0, { packet := some p, ectxn := 1, mapped := true })] } }

theorem witness_Packets :
    takePacket (chanState (packetOf 1 7 [0x0300000000000400])) 0 (fun k => k == 1 || !pkAssigned k) =
      some (chanState (packetOf 1 7 [0x0300000000000400]), packetOf 1 7 [0x0300000000000400]) ∧
    pkAssigned (pkKind (packetOf 12 7 [])) = false ∧ pkFields (packetOf 1 7 [0x0300000000000400]) false false true [(1, word64)] = true ∧
    pkQueue (chanState (packetOf 1 7 [0x0300000000000400])) 0 (packetOf 1 7 []) = some (7, queue7) ∧
    pkFields (packetOf 2 7 [0x0300000000000400]) false false false [(1, word64)] = true ∧
    pkQueue (chanState (packetOf 2 8 [])) 0 (packetOf 2 8 []) = none ∧
    pkFields (packetOf 3 0 [0x0300000000000400, 0x101]) false false false [(1, word64), (2, 2 ^ 17 - 1)] = true ∧
    bitsN (pkWord (packetOf 3 0 [0x0300000000000400, 0x101]) 2) 7 0 < Config.tiles ∧
    pkFields (packetOf 4 7 [0, 1, 0]) false false false [(1, word64), (2, 3), (3, word64)] = true ∧
    pkFields (packetOf 5 7 [0x0300000000000008, 1, 0]) false false false [(1, word64), (2, word64), (3, 3)] = true ∧
    (match frontWrite frontState 1 0x0300000000000008 (leBytes 8 (signalValue 0 0 1)) with | .ok _ => true | .error _ => false) = true ∧
    pkFields (packetOf 6 7 [0x0300000000000008, 1, 0]) false false false [(1, word64), (2, word64), (3, 3)] = true ∧
    feNat frontState 1 0x0300000000000008 8 = .ok 0 := by decide +kernel

/-- A BIND record and a configuration image in L2 page 0 of context 1. -/
def bindWords : List Nat := 2 ^ 60 :: List.replicate 15 0

theorem witness_BindAndConfig :
    (bindRecordOk { frontState with mem := memWrite frontState.mem (l2Base 0) (bindWords.flatMap (leBytes 8)) } 1 0x0300000000000000 = true) ∧
    (configTile { frontState with mem := memWrite frontState.mem (l2Base 0) (agImage.flatMap fun w => leBytes 8 w.toNat) }
      { chan := 0, idx := 0, pkind := 3, ptag := 0, cmpl := false } 1 1 0x0300000000000000 [0]).1.isSome = true ∧
    (tileOf frontState 1).job = none ∧ (tileOf frontState 1).standing = none := by decide +kernel

theorem witness_QueuePackets :
    pkFields (packetOf 7 9 [1 + 2 * 2 ^ 16, 8, 0]) false true false [(1, 0xFFF + 3 * 2 ^ 16 + 0x7F * 2 ^ 24), (2, word64), (3, 0x87FF)] = true ∧
    pkQnum (packetOf 7 9 []) ≠ 0xFFFF ∧ pkModify (packetOf 7 9 []) = false ∧
    bitsN (pkWord (packetOf 7 9 [1 + 2 * 2 ^ 16]) 1) 30 24 ≤ ceilOf (classOf (bitsN (pkWord (packetOf 7 9 [1 + 2 * 2 ^ 16]) 1) 17 16)) ∧
    pkQueue (chanState (packetOf 7 9 [])) 0 (packetOf 7 9 []) = none ∧
    pkFields (packetOf 8 7 []) true false false [] = true ∧ pkQueue (chanState (packetOf 8 7 [])) 0 (packetOf 8 7 []) = some (7, queue7) ∧
    pkAbort (packetOf 8 7 []) = false ∧ queueBusy (chanState (packetOf 8 7 [])) 7 = false ∧
    pkFields (packetOf 9 0 [3]) false false false [(1, 2 ^ 32 - 1)] = true ∧ (chanOf (chanState (packetOf 9 0 [3])) 0).paused = false ∧
    (chanOf { s0 with fe := { channels := [(0, { paused := true })] } } 0).paused = true := by decide +kernel

theorem witness_Doorbells : hostOpen s0 = true ∧ (chanOf (chanState (packetOf 1 7 [])) 0).mapped = true ∧ readIndex 0 1 = none ∧
    readIndex 0 (indexWord 0 5) = some 5 ∧ ((5 : BitVec 32) - 0).toNat < 2 ^ 31 ∧
    ((5 : BitVec 32) - 0).toNat ≤ 2 ^ (chanOf { s0 with fe := { channels := [(0, { rlog2 := 4 })] } } 0).rlog2.toNat ∧
    1024 ≤ (chanOf { s0 with fe := { channels := [(0, { sinceRecon := 1024 })] } } 0).sinceRecon := by decide +kernel

/-- A job of tile 0 whose streams have halted. -/
def haltedJob : State :=
  let x : Stream := { running := true, halted := true }
  { setTile State.reset 0 { k := x, l := x, c := x, w := x, job := some 1 } with fe := { jobs := [(1, job1)] } }

theorem witness_Jobs : mget? haltedJob.fe.jobs 1 = some job1 ∧ job1.started = true ∧ ({ job1 with started := false } : Job).started = false ∧
    jobOver haltedJob 1 job1 = true ∧ 0 ∈ job1.tiles ∧ (tileOf haltedJob 0).job = some 1 ∧ jobOver (inJob stream0) 1 job1 = false := by decide +kernel

/-- Graph 9 with a front-end node of a kind ready, its record at 0 of L2. -/
def nodeState (n0 n1 n2 n3 : Nat) : State :=
  { frontState with
    mem := memWrite frontState.mem (l2Base 0) ([n0, n1, n2, n3].flatMap (leBytes 8))
    fe := { frontState.fe with graphs := [graph1], feReady := [{ gid := 9, node := 0 }] } }

theorem witness_Nodes : (takeFeNode (nodeState (4 * 2 ^ 60) 0 0 0x0300000000000040) 0 4).isSome = true ∧
    feNat (nodeState (4 * 2 ^ 60) 0 0 0x0300000000000040) 1 (nodeWord (nodeState (4 * 2 ^ 60) 0 0 0x0300000000000040) graph1 0 3) 8 = .ok 0 ∧
    (takeFeNode (nodeState (5 * 2 ^ 60) 0 0 0) 0 5).isSome = true ∧ bitN (nodeWord (nodeState (5 * 2 ^ 60) 0 0 0) graph1 0 2) 12 = false ∧
    (takeFeNode (nodeState (6 * 2 ^ 60) 0 0 0) 0 6).isSome = true ∧ rearmRange (nodeState (6 * 2 ^ 60) 0 0 0) graph1 0 = [] := by decide +kernel

def bound0 (kind : Nat) : BoundNode := { ref := { gid := 9, node := 0 }, ctxn := 1, qkey := 7, kind := kind }

theorem witness_BoundNodes : ([1, 2, 3].all fun kind => ({ frontState with fe := { frontState.fe with bound := [bound0 kind] } }.fe.bound[0]? == some (bound0 kind)) &&
    (bound0 kind).kind == kind && !preempting frontState (bound0 kind)) = true := by decide +kernel

def pkt0 : PktNode := { chan := 0, idx := 0, pkind := 1, ptag := 0, cmpl := true }

theorem witness_Graphs : { s0 with fe := { graphs := [graph1] } }.fe.graphs[0]? = some graph1 ∧ graphQuiet { s0 with fe := { graphs := [graph1] } } 9 = true ∧
    graphQuiet { s0 with fe := { graphs := [graph1], feReady := [{ gid := 9, node := 0 }] } } 9 = false ∧
    ({ graph1 with pkt := some pkt0 } : Graph).pkt = some pkt0 := by decide +kernel

/-- A LIVE queue whose node became ready at 0, 40 microseconds ago. -/
def lateState : State :=
  { s0 with fab := 88000, fe := { queues := [(7, { queue7 with cls := .live, ready := [{ gid := 9, node := 0 }] })], graphs := [graph1] } }

theorem witness_LiveDeadline : (liveWaiting lateState)[0]? = some { gid := 9, node := 0 } ∧ 0 + 88000 ≤ lateState.fab ∧
    lateState.fe.liveMissed.any (sameNode { gid := 9, node := 0 }) = false ∧ graphOf lateState 9 = some graph1 := by decide +kernel

theorem witness_Watchdog : (strmAt { inJob stream0 with fab := 2 ^ 28 } 0 .k).running = true ∧ (strmAt (inJob stream0) 0 .k).watchdogPosted = false ∧
    (strmAt (inJob stream0) 0 .k).wait ≠ .response ∧ (strmAt (inJob stream0) 0 .k).cmds = [] ∧ (jobOf (inJob stream0) 0).isSome = true ∧
    (strmAt (inJob stream0) 0 .k).lastIssue + watchdogInterval (inJob stream0) (ctxnOf (inJob stream0) 0) ≤ 2 ^ 28 ∧
    acceptStalled (inJob stream0) 0 .k = false := by decide +kernel

def offer0 : Offer := { ctxn := 1, code := 3, src := 1 }

def waitRec0 : WaitRec := { ctxn := 1, fid := 2, code := 1, resume := 0x108, waiter := .trap 1 0 .k }

theorem witness_EventsAndResponses : { frontState with fe := { frontState.fe with offers := [offer0] } }.fe.offers[0]? = some offer0 ∧
    offeredBefore [] offer0 = false ∧ bitN (ctxWord frontState 1 0).toNat 31 = true ∧ eqRoom frontState 1 = true ∧
    eqRoom { frontState with fe := { frontState.fe with ctxs := [(1, { words := ctxWords, eqPidx := 16 })] } } 1 = false ∧
    frontState.fe.blockedEq.contains 1 = false ∧ [1].contains 1 = true ∧ waitFor? s0 0 2 = none ∧
    waitFor? { inJob { stream0 with wait := .response } with fe := { jobs := [(1, job1)], waits := [waitRec0] } } 0 2 = some waitRec0 ∧
    (strmAt (inJob { stream0 with wait := .response }) 0 .k).wait = .response := by decide +kernel

/-! The host. -/

def descWords : List Word := ctxWords ++ List.replicate 9 0

def hostState : State := { State.reset with mem := memWrite [] 0x2000 (descWords.flatMap fun w => leBytes 8 w.toNat), pkg := { ctxbase := 0x1F00 },
                                            boot := { ready := true } }

theorem witness_HostRequests : hostOpen hostState = true ∧ foreignCtx hostState 0 1 = false ∧
    descOk (wordsOf 21 (readAt hostState (hostState.pkg.ctxbase.toNat + 256 * 1) 168)) = true ∧
    descOk (wordsOf 21 (readAt hostState (hostState.pkg.ctxbase.toNat + 256 * 2) 168)) = false ∧ invKind 2 = some .all ∧
    (BitVec.ofNat 64 (2 ^ 31)).getLsbD 31 = true ∧ 1 ≠ 0 ∧ { hostState with pkg := { pause := true } }.pkg.pause = true := by decide +kernel

/-- Slot 0 of tile 0 before an element that a held translation puts in package 0 of the domain, over the mesh. -/
def remoteCmd : Cmd :=
  { id := 1, tmpl := 1, rm := 0, fte := 0, tile := 0, strm := .k, ctxn := 1 }
def heldRemote : TlbEntry :=
  { unit := .slot 0 0, ctxn := 1, l2 := false, base := 0, size := 2 ^ 16, phys := 2 ^ 55, write := true, watch := false }

def remoteState : State :=
  { State.reset with
    tiles := [(0, { slots := [(0, { active := some { cmd := remoteCmd } })] })]
    tlb := [heldRemote] }

/-- Whether a held translation still serves is open (R399): here it does. -/
theorem witness_RemoteRequests (h : Config.useHeld [0, 0, 0, 1, 0, 0] = true) : (remoteRequests remoteState)[0]? = some (.slot 0 0, 0) ∧ (slotAt remoteState 0 0).active.isSome = true := by
  have f : tlbFind remoteState (.slot 0 0) 1 false 0 = some heldRemote := by decide +kernel
  have x : xlVa remoteState (.slot 0 0) 1 0 false = .ok (2 ^ 55) false := by
    unfold xlVa; rw [f]
    show (if (heldRemote.dup && false) || !Config.useHeld [0, 0, 0, 1, 0, 0] then _ else _) = _
    rw [h]; rfl
  have v : vaSegs remoteState (whoOf remoteCmd .stream) false 1 0 1 = .ok [{ phys := 2 ^ 55, len := 1 }] := by
    have u : xlVa remoteState (whoOf remoteCmd .stream).unit (whoOf remoteCmd .stream).ctxn (0 % 2 ^ 56) false = .ok (2 ^ 55) false := x
    simp only [vaSegs, u]; rfl
  have g : reachesRemote remoteState (whoOf remoteCmd .stream) 0 1 false = true := by
    have e : engSegs remoteState (whoOf remoteCmd .stream) 0 1 false false = .ok [{ phys := 2 ^ 55, len := 1 }] := v
    unfold reachesRemote; rw [e]; rfl
  have r : remoteSlots remoteState = [(.slot 0 0, 0)] := by
    have e : actElement { cmd := remoteCmd } 0 = .acc 0 := by decide +kernel
    have n : actElem { cmd := remoteCmd } = 1 := by decide +kernel
    have k : subWrites (cmdSub remoteCmd) = false := by decide +kernel
    simp [remoteSlots, show remoteState.tiles = [(0, { slots := [(0, { active := some { cmd := remoteCmd } })] })] from rfl, e, n, k, g]
  refine ⟨?_, by decide⟩
  unfold remoteRequests; rw [r]; rfl

theorem witness_RegisterWrites : hostOpen hostState = true ∧ 0x8008 % 8 = 0 ∧ 0x8000 ≤ 0x8008 ∧ 0x8008 < 0x10000 ∧ 0x10008 % 8 = 0 ∧
    0x10000 ≤ 0x10008 ∧ 1 ≠ 0 := by decide

theorem witness_Clock : (2200 : BitVec 12).toNat % 100 = 0 ∧ 1100 ≤ (2200 : BitVec 12).toNat ∧ ¬ ((2250 : BitVec 12).toNat % 100 = 0) ∧
    hostState.pkg.capped = false ∧ { hostState with pkg := { limit := some 0 } }.pkg.limit = some 0 ∧ 1100 ≤ hostState.pkg.clkcur.toNat ∧
    hostState.pkg.clkcur.toNat ≤ hostState.pkg.clkreq.toNat := by decide

theorem witness_OutsideAccesses : hostState.boot.ready = true ∧ 0x3000 + 8 ≤ Config.hbmBytes ∧ Config.hbmBytes < Config.hbmBytes + 8 ∧
    MemInv hostState ∧ poisonIn hostState 0x3000 2 = [] ∧ (fnRegs hostState 0).win.toNat + 0x3000 + 8 ≤ Config.hbmBytes ∧
    spanPoisoned hostState ((fnRegs hostState 0).win.toNat + 0x3000) 8 = false ∧ 0x3000 % 8 = 0 ∧
    spanPoisoned hostState (lineOf 0x3000 * 64) 64 = false := by decide +kernel

theorem witness_Recovery : ({ recovery := true, mailbox := [] } : Boot).recovery = true ∧ hostState.boot.recovery = false ∧
    commitStatus { recovery := true } ≠ 0 ∧ ([] : List Byte).length + (0 : BitVec 16).toNat ≤ 256 + 32 * 2 ^ 20 := by decide

theorem witness_Mailbox : (List.replicate 65536 (0 : Byte)).length = 65536 := List.length_replicate

/-- An image of a header and no body. Its key and signature are what the opaque functions of Config judge. -/
def image0 : List Byte := leBytes 4 0x4B544657 ++ List.replicate 252 0

theorem witness_Commit (h1 : Config.sha256 (imgField image0 64 64) = Config.rootKeyHash)
    (h2 : Config.ecdsaVerify (imgField image0 64 64) (Config.sha256 (image0.take 128 ++ imgBody image0)) (imgField image0 128 64) = true) :
    commitStatus { recovery := true, staged := image0 } = 0 := by
  have f : imgForm image0 = true := by decide +kernel
  have g : imgSigned image0 = true := by simp [imgSigned, h1, h2]
  have n : (imgBody image0).length = 0 := by decide +kernel
  have e : image0.isEmpty = false := rfl
  simp [commitStatus, f, g, n, e]

theorem witness_Attestation : spdmReady { s0 with boot := { spdmVersion := true, spdmCaps := true, spdmAlgs := true } } = true ∧
    spdmReady s0 = false ∧ s0.boot.spdmVersion = false := by decide

/-! More witnesses of the front end and the host: one for each clause that the ones above do not meet. -/

/-- A sound running channel whose host index word stands at 0x4000. -/
def soundChan : Channel :=
  { rlog2 := 4, clog2 := 4, hciaddr := 0x4000, cpidx := 2, mapped := true, sinceRecon := 5, blockedAt := some 0 }

def soundState (a : Nat) : State := { s0 with mem := memWrite [] 0x4000 (leBytes 8 a), fab := 220000, fe := { channels := [(0, soundChan)] } }

theorem witness_DoorbellsOutside : 2 ^ 31 ≤ ((0x80000000 : BitVec 32) - soundChan.pidx).toNat ∧
    2 ^ soundChan.rlog2.toNat < ((17 : BitVec 32) - soundChan.dci).toNat ∧ readIndex 0 (indexWord 0 17) = some 17 ∧
    (chanOf (soundState 1) 0).sinceRecon < 1024 ∧ (chanOf (soundState 1) 0).blockedAt = some 0 ∧ 0 + 220000 ≤ (soundState 1).fab ∧
    (chanOf (soundState 1) 0).paused = false ∧ channelSound (chanOf (soundState 1) 0) = true ∧
    readNat (soundState 1) (chanOf (soundState 1) 0).hciaddr.toNat 8 = 1 ∧ readIndex soundChan.chid 1 = none ∧
    readNat (soundState (indexWord 0 2)) 0x4000 8 = indexWord 0 2 ∧ readIndex 0 (indexWord 0 2) = some 2 ∧
    indexInside soundChan 2 = true ∧ indexInside soundChan 3 = false ∧ readIndex 0 (indexWord 0 3) = some 3 := by decide +kernel

theorem witness_BusyQueue : queueBusy { chanState (packetOf 8 7 []) with fe := { (chanState (packetOf 8 7 [])).fe with graphs := [graph1] } } 7 = true ∧
    queueBusy (chanState (packetOf 8 7 [])) 7 = false ∧ mget? frontState.fe.qslots 7 = some (some 7) ∧ (none : Option Nat) ≠ some 7 ∧
    (takePacket (chanState (packetOf 8 7 [])) 0 (fun k => k == 8)).isSome = true ∧
    (takePacket (chanState (packetOf 9 0 [3])) 0 (fun k => k == 9)).isSome = true := by decide +kernel

/-- A job image of one section of 8 bytes, which serves every tile: its header and its section descriptor. -/
def jobWords : List Nat := [1, 0, 0, 0, 0, 0, 0, 0, 0xFF + 8 * 2 ^ 32, 256, 0, 0]

def newJob : Job := { ctxn := 1, qkey := 7, gid := 9, gaddr := 0x0300000000000400, node := 0, tiles := [0], args := [3], jimg := 0x0300000000000000 }

def jobState : State :=
  { frontState with mem := memWrite frontState.mem (l2Base 0) (jobWords.flatMap (leBytes 8)), fe := { frontState.fe with jobs := [(1, newJob)] } }

theorem witness_JobStart : mget? jobState.fe.jobs 1 = some newJob ∧ newJob.started = false ∧ handlesFit jobState newJob = true ∧
    handlesFit jobState { newJob with nhreq := 4097 } = false ∧
    (match readJob jobState 1 newJob.jimg (secIdxs false [0]) with
      | .ok img => (secOf img 0).any fun x => (secBytes jobState 1 newJob.jimg x).isSome
      | .error _ => false) = true ∧
    readReqs jobState newJob = some [] ∧ newJob.tiles.Nodup ∧ (0, 0) ∈ newJob.tiles.zip (secIdxs false newJob.tiles) ∧
    newJob.wholeClusters = false ∧ newJob.nhreq = 0 ∧ Memory.wf jobState.mem = true ∧ newJob.args[0]? = some 3 := by decide +kernel

/-- Graph 9 with node 0 as given: its kind, its state and its count. -/
def countState (kd st cnt : Nat) : State := nodeState (kd * 2 ^ 60 + st * 2 ^ 58 + cnt * 2 ^ 32) 0 0 0

theorem witness_Signals : graphOf (countState 5 0 2) 9 = some graph1 ∧ bitsN (nodeWord (countState 5 0 2) graph1 0 0) 59 58 = 0 ∧
    bitsN (nodeWord (countState 5 0 2) graph1 0 0) 43 32 = 2 ∧ bitsN (nodeWord (countState 5 0 1) graph1 0 0) 43 32 = 1 ∧
    graphOf (putNstate (putCnt (countState 5 0 1) graph1 0 0) graph1 0 1) 9 = some graph1 ∧ graph1.faulted = false ∧
    bitsN (nodeWord (putCnt (countState 5 0 1) graph1 0 0) graph1 0 0) 63 60 = 5 ∧
    bitsN (nodeWord (putCnt (countState 2 0 1) graph1 0 0) graph1 0 0) 63 60 = 2 ∧
    mget? (putNstate (putCnt (countState 2 0 1) graph1 0 0) graph1 0 1).fe.queues graph1.qkey = some queue7 ∧
    bitsN (nodeWord (countState 5 3 0) graph1 0 0) 59 58 ≠ 0 ∧ bitsN (nodeWord (countState 5 0 0) graph1 0 0) 43 32 = 0 ∧ graph1.pkt = none ∧
    (graphOf (putNstate (countState 5 0 1) graph1 0 3) 9).map (·.pkt) = some none ∧
    (match feField (countState 5 0 1) 1 0x0300000000000000 59 58 3 with | .ok _ => true | .error _ => false) = true := by decide +kernel

/-- A bound BIND node of one template, a SLDC to port 0. -/
def bindAt (phase sent : Nat) (cmds : List Nat) : BoundNode := { bound0 1 with tmpls := [1], phase := phase, sent := sent, cmds := cmds }

def boundState (b : BoundNode) : State := { frontState with fe := { frontState.fe with bound := [b], graphs := [graph1] } }

/-- A HOST node with ring 0, which belongs to its context. -/
def hostNode : State :=
  { nodeState (5 * 2 ^ 60) 0 (2 ^ 12) 0 with
    mem := memWrite (nodeState (5 * 2 ^ 60) 0 (2 ^ 12) 0).mem 0x2000 ([0, 2 ^ 20 + 4 * 2 ^ 16 + 2 ^ 48 + 1, 0, 0, 0, 0, 0, 0].flatMap (leBytes 8))
    pkg := { rtbase := 0x2000 } }

theorem witness_BindPhases : (boundState (bindAt 2 0 [])).fe.bound[0]? = some (bindAt 2 0 []) ∧ (bindAt 2 0 []).kind = 1 ∧
    preempting (boundState (bindAt 2 0 [])) (bindAt 2 0 []) = false ∧ (bindAt 2 0 []).fault = 0 ∧ (bindAt 0 0 []).guard = none ∧
    (bindAt 2 0 []).tmpls[0]? = some 1 ∧ streamRoom (boundState (bindAt 2 0 [])) 0 1 = true ∧
    (bindAt 2 1 []).tmpls[1]? = none ∧ (bindAt 2 1 []).sunk = false ∧ ({ bindAt 2 1 [] with sunk := true } : BoundNode).sunk = true ∧
    ({ bindAt 0 0 [] with fault := 3 } : BoundNode).fault ≠ 0 ∧ (bound0 2).kind = 2 ∧ (bound0 3).kind = 3 ∧
    copyRoom (boundState (bound0 2)) 0 = true ∧ gatherRoom (boundState (bound0 3)) 0 = true ∧ 0 < (boundState (bound0 2)).fe.bound.length ∧
    (takeFeNode (nodeState (5 * 2 ^ 60) 0 (2 ^ 12) 0) 0 5).isSome = true ∧
    bitN (nodeWord (nodeState (5 * 2 ^ 60) 0 (2 ^ 12) 0) graph1 0 2) 12 = true ∧ ringOwned hostNode 0 1 = true ∧ (takeFeNode hostNode 0 5).isSome = true := by decide +kernel

/-- Graph 9 with a completion word at 0x200 of L2 page 0. -/
def closing : Graph := { graph1 with head := [1, 0x0300000000000000, 0, 0, 0x0300000000000200, 5, 0, 0] }

def closingState : State := { frontState with fe := { frontState.fe with graphs := [closing] } }

theorem witness_GraphCloses : closingState.fe.graphs[0]? = some closing ∧ graphQuiet closingState 9 = true ∧ closing.pkt = none ∧
    graphOf (graphPut closingState 9 closing.gaddr 63 62 0 0) 9 = some closing ∧ headWord closing 4 ≠ 0 ∧
    (match frontWrite (graphPut closingState 9 closing.gaddr 63 62 0 0) 1 (headWord closing 4) (leBytes 8 5) with
      | .ok s2 => graphOf s2 9 == some closing
      | .error _ => false) = true := by decide +kernel

/-- Queue 7 with node 0 of graph 9, a COPY node, ready. -/
def ready0 : NodeRef := { gid := 9, node := 0 }

def readyQueue : Qcb := { queue7 with ready := [ready0] }

def readyState (d : Die) : State :=
  { setDie (nodeState (2 * 2 ^ 60) 0 0 0) 0 d with fe := { (nodeState (2 * 2 ^ 60) 0 0 0).fe with queues := [(7, readyQueue)] } }

theorem witness_Selection : (∀ m ∈ List.range 128, m ≠ 5 → levelQueues (readyState {}) m = []) ∧ levelQueues (readyState {}) 5 = [(7, readyQueue)] ∧
    readyQueue.ready.head? = some ready0 ∧ graphOf (readyState {}) 9 = some graph1 ∧ nodeKind (readyState {}) graph1 0 = 2 ∧
    fitUnits (readyState {}) graph1 ready0 2 = some [] ∧
    fitUnits (readyState { copyq := List.replicate 64 (copyCmd 0) }) graph1 ready0 2 = none ∧
    mget? (readyState {}).fe.queues 7 = some readyQueue ∧ graphOf s0 9 = none ∧ readyQueue.base ≤ ceilOf readyQueue.cls := by decide +kernel

def waitSlot : WaitRec := { waitRec0 with waiter := .slot 0 0 }

def waitCopy : WaitRec := { waitRec0 with waiter := .copy 0 0 }

theorem witness_UnitResponses :
    waitFor? { feedState 0 with fe := { jobs := [(1, job1)], waits := [waitSlot] } } 0 2 = some waitSlot ∧
    (slotAt (feedState 0) 0 0).active = some (feeding 0) ∧ waitSlot.waiter = .slot 0 0 ∧
    waitFor? { dieState { copyEng := [(0, copyRun0 0 0)] } with fe := { jobs := [(1, job1)], waits := [waitCopy] } } 0 2 = some waitCopy ∧
    waitCopy.waiter = .copy 0 0 := by decide +kernel

/-- A channel of function 1 that uses context 1. -/
def foreignState : State := { hostState with fe := { channels := [(256, { fn := 1, ectxn := 1, mapped := true })] } }

theorem witness_HostWords : foreignCtx foreignState 0 1 = true ∧ foreignCtx foreignState 1 1 = false ∧ hostOpen foreignState = true ∧
    wf64 (BitVec.ofNat 64 (2 ^ 32)) 43 32 = 1 ∧ localOk 0x2000 = true ∧ wf64 (BitVec.ofNat 64 (2 ^ 33)) 33 32 = 2 ∧
    (BitVec.ofNat 64 1).getLsbD 31 = false ∧ { hostState with poison := [0x3000 / 8] }.boot.ready = true ∧
    spanPoisoned { hostState with poison := [0x3000 / 8] } (lineOf 0x3000 * 64) 64 = true ∧ (0x3004 : Nat) % 4 = 0 ∧
    2 ^ 32 < (0xFFFFFFFF : Nat) + 2 ∧ MemInv hostState ∧ hostState.pkg.clkreq.toNat ≤ 3300 := by decide +kernel

/-- R417: BAR2 is a window of 4 GiB: an access that leaves it changes nothing. -/
theorem test_Bar2WindowEnds : exec (.bar2Read 0 0xFFFFFFFF 2) hostState = .next hostState := by rfl

/-! Requests to other packages (R416), where the held translation serves. -/

/-- A unit's held translation of virtual address 0 to package 0 of the domain. -/
def remoteEntry (u : TlbUnit) : TlbEntry := { heldRemote with unit := u }

theorem remote_xlVa (s : State) (w : Who) (wr : Bool) (h : Config.useHeld (accessKey s w.unit 0 wr) = true)
    (f : tlbFind s w.unit w.ctxn false 0 = some (remoteEntry w.unit)) : xlVa s w.unit w.ctxn 0 wr = .ok (2 ^ 55) false := by
  unfold xlVa; rw [f]
  show (if (heldRemote.dup && wr) || !Config.useHeld (accessKey s w.unit 0 wr) then _ else _) = _
  rw [h]; simp [remoteEntry, heldRemote]

theorem reachesRemote_segs (s : State) (w : Who) (a n : Nat) (wr : Bool) (segs : List Seg) (g : engSegs s w a n wr false = .ok segs) :
    reachesRemote s w a n wr = segs.any fun g => g.phys / 2 ^ 54 == 2 := by
  unfold reachesRemote; rw [g]

theorem engSegs_zero (s : State) (w : Who) (n : Nat) (wr : Bool) : engSegs s w 0 n wr false = vaSegs s w wr (pagesOf 0 n) 0 n := by
  have z1 : (0 : Nat) % 2 ^ 56 = 0 := Nat.zero_mod _
  have z2 : (0 : Nat) / 2 ^ 56 = 0 := Nat.zero_div _
  unfold engSegs
  simp only [z1, z2]

theorem vaSegs_remote (s : State) (w : Who) (n m : Nat) (wr : Bool) (hn : 0 < n ∧ n ≤ 64) (x : xlVa s w.unit w.ctxn 0 wr = .ok (2 ^ 55) false) :
    vaSegs s w wr (m + 1) 0 n = .ok [{ phys := 2 ^ 55, len := n }] := by
  have z1 : (0 : Nat) % 2 ^ 56 = 0 := Nat.zero_mod _
  have z2 : (0 : Nat) % 2 ^ 16 = 0 := Nat.zero_mod _
  have l : min n (2 ^ 16 - 0) = n := Nat.min_eq_left (by omega)
  have d : n - n = 0 := Nat.sub_self n
  have v : ∀ m, vaSegs s w wr m n 0 = .ok [] := fun m => by cases m <;> simp [vaSegs]
  rw [vaSegs, if_neg (by omega)]
  simp only [z1, z2, l, d, v, x, Nat.zero_add]

theorem reaches_remote (s : State) (w : Who) (n : Nat) (wr : Bool) (h : Config.useHeld (accessKey s w.unit 0 wr) = true)
    (hn : 0 < n ∧ n ≤ 64) (f : tlbFind s w.unit w.ctxn false 0 = some (remoteEntry w.unit)) : reachesRemote s w 0 n wr = true := by
  obtain ⟨m, hm⟩ : ∃ m, pagesOf 0 n = m + 1 := ⟨0, by unfold pagesOf ceilDiv; omega⟩
  have d : ((2 : Nat) ^ 55 / 2 ^ 54 == 2) = true := by norm_num
  rw [reachesRemote_segs s w 0 n wr [{ phys := 2 ^ 55, len := n }]]
  · simp only [List.any_cons, d, Bool.true_or]
  · rw [engSegs_zero, hm, vaSegs_remote s w n m wr hn (remote_xlVa s w wr h f)]

def remoteCopy : State := { dieState { copyEng := [(0, copyRun0 0 0)] } with tlb := [remoteEntry (.copy 0 0)] }

theorem witness_RemoteCopies (h : ∀ w, Config.useHeld [0, 0, w, 2, 0, 0] = true) : (remoteRequests remoteCopy)[0]? = some (.copy 0 0, 0) ∧ engOf remoteCopy 0 0 = some (copyRun0 0 0) := by
  refine ⟨?_, by decide⟩
  have g : ∀ wr, reachesRemote remoteCopy (engWho (copyCmd 0) .copy 0 0) 0 1 wr = true := fun wr =>
    reaches_remote _ _ 1 wr (h _) (by decide) (by decide +kernel)
  have a : recSource (copyRun0 0 0).src 0 = .read 0 := by decide +kernel
  have b : recDest (copyRun0 0 0).dst 0 = .write 0 := by decide +kernel
  have e : recElem (copyRun0 0 0).src = 1 := by decide +kernel
  have e' : recElem (copyRun0 0 0).dst = 1 := by decide +kernel
  have n : (0 : Nat) < copyCount (copyRun0 0 0) := by decide +kernel
  have r : remoteCopies remoteCopy = [(.copy 0 0, 0)] := by
    simp only [remoteCopies, show remoteCopy.dies = [(0, { copyEng := [(0, copyRun0 0 0)] })] from rfl, List.flatMap_cons, List.flatMap_nil,
      List.filterMap_cons, List.filterMap_nil, show (copyRun0 0 0).k = 0 from rfl, show (copyRun0 0 0).cmd = copyCmd 0 from rfl, a, b, e, e', g, n]
    rfl
  unfold remoteRequests; rw [r]; rfl

def farGather : GatherRun := { cmd := cmdOf (BitVec.ofNat 256 (4 + 2 ^ 104)), desc := some [] }

def remoteGather : State := { gatherState farGather with tlb := [remoteEntry (.gather 0 0)] }

theorem witness_RemoteGathers (h : Config.useHeld [0, 0, 0, 3, 0, 0] = true) :
    (remoteRequests remoteGather)[0]? = some (.gather 0 0 0, 0) ∧ gatherOf remoteGather 0 0 = some farGather := by
  refine ⟨?_, by decide +kernel⟩
  let pick : Nat × Nat × Nat × Bool → Option (RemoteUnit × Nat) := fun (j, a, n, wr) =>
    if reachesRemote remoteGather (engWho farGather.cmd .gather 0 0) a n wr then some (.gather 0 0 j, a) else none
  have g : reachesRemote remoteGather (engWho farGather.cmd .gather 0 0) 0 4 false = true :=
    reaches_remote _ _ 4 _ h (by decide) (by decide +kernel)
  have e : (if gaGoes remoteGather farGather then (nextRow farGather).toList else []).map (fun j =>
      (j, entryAddr farGather.cmd.tmpl j, gaEntry farGather.cmd.tmpl, false)) = [(0, 0, 4, false)] := by decide +kernel
  have r : remoteGathers remoteGather = [(.gather 0 0 0, 0)] := by
    unfold remoteGathers
    rw [show remoteGather.dies = [(0, { gatherEng := [(0, farGather)] })] from rfl]
    show (((((if gaGoes remoteGather farGather then (nextRow farGather).toList else []).map (fun j =>
      (j, entryAddr farGather.cmd.tmpl j, gaEntry farGather.cmd.tmpl, false)) ++ []) ++ []).filterMap pick) ++ []) ++ [] = _
    rw [e]
    simp [pick, g]
  have t : remoteSlots remoteGather = [] := rfl
  have c : remoteCopies remoteGather = [] := rfl
  unfold remoteRequests; rw [r, c, t]; rfl

def farCask : Cmd := cmdOf (BitVec.ofNat 256 (5 + 2 ^ 120))

def remoteCask : State := { setCluster State.reset 0 { cask := [farCask] } with reuse := [(0, stepEntry)], tlb := [remoteEntry (.second 0)] }

theorem witness_RemoteCasks (h : ∀ w, Config.useHeld [0, 0, w, 4, 0] = true) :
    (remoteRequests remoteCask)[0]? = some (.cask 0, 0) ∧ (clusterOf remoteCask 0).cask = farCask :: [] := by
  refine ⟨?_, by decide +kernel⟩
  have g : ∀ wr, reachesRemote remoteCask (reuseWho farCask) 0 64 wr = true := fun wr =>
    reaches_remote _ _ 64 wr (h _) (by decide) (by decide +kernel)
  have r : ∃ rest, remoteCasks remoteCask = (.cask 0, 0) :: rest := by
    simp only [remoteCasks, show remoteCask.clusters = [(0, { cask := [farCask] })] from rfl, List.flatMap_cons, List.flatMap_nil, caskAccesses,
      show cmdSub farCask = 0 by decide +kernel, show ckIaddr farCask.tmpl = 0 by decide +kernel,
      show ckRent farCask.tmpl = 0 by decide +kernel, show entryAt remoteCask 0 = stepEntry by decide +kernel,
      show stepEntry.ibin.toNat = 1 from rfl, List.filterMap_cons, g]
    exact ⟨_, rfl⟩
  obtain ⟨rest, r⟩ := r
  have c : remoteCopies remoteCask = [] := rfl
  have t : remoteSlots remoteCask = [] := rfl
  have d : remoteGathers remoteCask = [] := rfl
  unfold remoteRequests; rw [r, c, t, d]; rfl

/-- R404: an entry that nothing uses, one that is BUSY, and one whose operation is under way. -/
theorem witness_ReuseErrors : (entryAt (caskState 0 stepEntry) 0).kind ≠ .free ∧ (entryAt (caskState 0 stepEntry) 0).busy = false ∧
    entryHeld { State.reset with reuse := [(0, stepEntry)] } 0 none = false ∧
    (entryAt { State.reset with reuse := [(0, { stepEntry with busy := true })] } 0).busy = true := by decide +kernel

/-! Further witnesses: words that wait or trap, and units with work before them. -/

/-- Stream K without tokens, in the trap context, and with an RDVZ that an interrupt can abandon. -/
def tokenless : State := on { stream0 with fromLeft := 0, fromRight := 0 }

theorem witness_TrapWords2 : Issues s0 0 ∧ tkWL 8 = true ∧ (cur tokenless).fromLeft = 0 ∧ tkWR 4 = true ∧ (cur tokenless).fromRight = 0 ∧
    joined.wait = .rdvz false 0 := by decide

/-- R382, R44: a TRAP that waits for a token that is not there changes nothing. -/
theorem test_TrapWaitsForItsToken : exec (.trap ⟨1, 8⟩) tokenless = .next tokenless := by rfl

theorem witness_StateFields : Issues s0 0 ∧ Writes s0 6 ∧ Reads s0 3 7 ∧ ctxnOf s0 0 < 2 ^ 12 ∧ ctxPasid s0 0 < 2 ^ 20 ∧ s0.curTile < 2 ^ 8 ∧
    (cur (on { stream0 with tctx := true })).tctx = true ∧ Reads (on { stream0 with tctx := true }) 3 7 ∧ (0x00C : BitVec 11) = (if true then 0x00C else 0x008) ∧
    0x04C < (0x04D : BitVec 11).toNat ∧ 0x010 ≤ (0x010 : BitVec 11).toNat ∧ (encode (.ssrd ⟨3, 0x010, 0⟩)).isSome = true ∧
    (encode (.sswr ⟨3, 0x04D, 0⟩)).isSome = true := by decide +kernel

set_option maxRecDepth 20000 in
theorem witness_RbindMemory : MemInv withDesc ∧ withDesc.poison = [] ∧ goes (exec (.rbind ⟨6, 4, 3, 0⟩) withDesc) = true ∧
    goes (exec (.rbind ⟨6, 3, 3, 0⟩) withDesc) = true ∧ passes (nearSpan withDesc 7 64) = false ∧
    MemInv (withEntry { kind := .delta }) ∧ goes (exec (.rfree ⟨3, 0⟩) (withEntry { kind := .delta })) = true ∧
    freeEntry withDesc (tileDie 0) = some 0 ∧ AtTurn withDesc 0 := by decide +kernel

/-- Entry 0, the first that is FREE, with a cask command of the stream to it queued. -/
def behindDesc : State := setCluster withDesc 0
  { cask := [{ id := 1, tmpl := BitVec.ofNat 256 5, rm := 1, fte := 0, tile := 0, strm := .k, ctxn := 0 }] }

set_option maxRecDepth 20000 in
theorem witness_RbindTurn : freeEntry behindDesc (tileDie behindDesc.curTile) = some 0 ∧ ¬ AtTurn behindDesc 0 ∧ Issues behindDesc 0 ∧
    Reads behindDesc 4 0x0100000000000040 ∧ passes (nearSpan behindDesc 0x0100000000000040 64) = true := by decide +kernel

theorem witness_ConfigurationTurn : cfgTakes s0 0 .k = true ∧ (tileOf s0 0).cfg = none ∧ cfgTakes (serving .l []) 0 .k = false ∧ cfgTakes withImage 0 .k = true ∧
    (tileOf (serving .l []) 0).cfg ≠ none ∧ cfgTakes withKilnImage 0 .k = true ∧ cfgTakes (withRegion agRegion) 0 .k = true := by decide +kernel

/-- Region 0 FROZEN, with a command still in its slot 0. -/
def frozenSlots : State := setTile State.reset 0
  { regions := [(0, { agRegion with state := .frozen })], slots := [(0, { pending := [{ id := 1, tmpl := 1, rm := 1, fte := 0, tile := 0, strm := .k, ctxn := 0 }] })] }

theorem witness_FrozenSlots : (regionAt frozenSlots 0 0).state = .frozen ∧ ({ region := agRegion } : KilnImage).slots = [] ∧
    (regionAt frozenSlots 0 0).slots.getLsbD 0 = true ∧ (slotAt frozenSlots 0 0).pending ≠ [] := by decide

/-- R252: THAW over a FROZEN region drops the commands that its slots still hold. -/
theorem test_ThawDropsHeldCommands : (slotAt (thawRegion 0 (some .k) frozenSlots (0, { region := agRegion })) 0 0).pending = [] := by decide +kernel

/-- Ring 0 without room, and one of another context. -/
def ringFull : State := { withRing with fe := { rings := [(0, { pidx := 16 })] } }

theorem witness_FrontEndTraps : Issues withRing 0 ∧ Reads withRing 3 7 ∧ Reads withRing 4 0x0100000000000040 ∧ (7 : Word).toNat % 128 ≠ 0 ∧
    (0x0100000000000080 : Word).toNat % 128 = 0 ∧ nearSel 0x0100000000000080 ≠ 0 ∧ (7 : Word).toNat % 8 ≠ 0 ∧
    (0x0100000000000040 : Word).toNat % 8 = 0 ∧ nearSel 0x0100000000000040 ≠ 0 ∧ nearSel 0x0100000000000040 ≠ 3 ∧ (7 : Word).toNat % 64 ≠ 0 ∧
    (0x40 : Word).toNat % 64 = 0 ∧ nearSel 0x40 = 0 ∧ 3 < nearSel 0x0400000000000000 ∧
    (match nearSpan withRing 0x0100000000080000 64 with | .error (.trap _ _ _) => true | _ => false) = true ∧
    ringOwned withRing 5 (ctxnOf withRing 0) = false ∧ ringOwned ringFull 0 (ctxnOf ringFull 0) = true ∧ ringRoom ringFull 0 = false ∧
    passes (nearSpan ringFull 0x0100000000000040 64) = true := by decide +kernel

/-- SIDX that has read a whole word ahead, with its next index in poison. -/
def aheadIndex : ActiveCmd := { cmd := cmdOf (BitVec.ofNat 256 (1 + 16 * 2 + 2 ^ 80 + 2 ^ 248)), markerSent := true, buf := List.replicate 64 0 }

def aheadState : State := { withSlot { active := some aheadIndex } feeder0 [] with poison := [scratchBase 0 / 8] }

theorem witness_IndexAhead : bitN (scS aheadIndex.cmd.tmpl 3) 15 = false ∧
    (match slotRead aheadState 0 0 aheadIndex (ownAddr 0) 4 with | .error _ => true | .ok _ => false) = true ∧ cmdSub aheadIndex.cmd = 2 ∧
    64 ≤ aheadIndex.buf.length := by decide +kernel

/-- A pip on its way to package 2. -/
def farPip : PipMsg := { job := 1, srcTile := 0, srcPort := 0, dstTile := 1, dstPort := 0, pip := { ctxn := 1 }, pkg := some 2 }

def farState : State := { meshState 0 with mesh := [farPip] }

theorem witness_FarPips : farState.mesh[0]? = some farPip ∧ farPip.remote = false ∧ farPip.halted = false ∧ farPip.pkg = some 2 ∧
    (mportOf (tileOf farState 0) 0).spip.head? = some (spipCmd, []) ∧ (tileOf farState 0).job = some 1 ∧
    (remoteRequests farState)[0]? = some (.pip 0, 0) ∧ (remoteRequests State.reset)[0]? = none := by decide +kernel

/-- A task in its engine's inbox whose chain an earlier task has faulted. -/
def lateTask : State := setCluster State.reset 0 { chains := [{ taskChain .faulted with faultId := 1 }], engines := [(0, { inbox := [taskOf 0] })] }

theorem witness_LateTask : (engineOf (clusterOf lateTask 0) 0).run = none ∧ (engineOf (clusterOf lateTask 0) 0).inbox = taskOf 0 :: [] ∧
    chainOf (clusterOf lateTask 0) (taskOf 0) = some { taskChain .faulted with faultId := 1 } ∧ 1 < (taskOf 0).cmd.id ∧
    chainOf (clusterOf inboxState 0) (taskOf 0) = none := by decide +kernel

/-- A gather that holds a row and awaits the reads of another. -/
def gatherBusy : GatherRun := { gatherRun0 0 [] with entries := [(2, some 5)], reads := [(0, none)], rows := [(1, [])] }

theorem witness_GatherActs : gatherOf (gatherState (gatherRun0 0 [])) 0 0 = some (gatherRun0 0 []) ∧
    settleRows (gatherState (gatherRun0 0 [])) 0 0 (gatherRun0 0 []) = gatherRun0 0 [] ∧ (gatherRun0 0 []).desc = some [] ∧
    gaActs (gatherState (gatherRun0 0 [])) (gatherRun0 0 []) [] = [.entry 0] ∧
    gaActs (gatherState gatherBusy) gatherBusy [] = [.issue 2 (some 5), .land 0 none, .put 1 []] ∧ gaGoes (gatherState gatherBusy) gatherBusy = true ∧
    nextRow (gatherRun0 0 [0]) = none ∧ (gatherRun0 0 [0]).entries = [] ∧ (gatherRun0 0 [0]).reads = [] ∧ (gatherRun0 0 [0]).rows = [] ∧ (gatherRun0 0 [0]).halt = none ∧
    (match engWrite (gatherState gatherBusy) (engWho gatherBusy.cmd .gather 0 0) (dataRow gatherBusy.cmd.tmpl 1) [] true with
      | .ok _ => true | .error _ => false) = true ∧
    (match gatherRead (gatherState (gatherRun0 0 [])) 0 0 (gatherRun0 0 []) (dataRow (gatherCmd0 0).tmpl 0) (tdRowBytes []) with
      | .ok _ => true | .error _ => false) = true := by decide +kernel

/-- A replay that has begun, on an entry that has been bound anew since. -/
theorem witness_BegunCask : (clusterOf (setCluster (caskState 1 {}) 0 { cask := [caskCmd 1], caskBegun := true }) 0).caskBegun = true ∧
    CaskRuns (setCluster (caskState 1 {}) 0 { cask := [caskCmd 1], caskBegun := true }) 0 (caskCmd 1) 1 := by decide +kernel

/-- WAIT packets: one whose word is tested at once, and one whose comparison is at the port, before and after it has held. -/
def waitPacket : Packet := packetOf 6 7 [0x0300000000000008, 1, 0]

def waitState (ws : List Watch) : State := { chanState waitPacket with watches := ws }

def chanWatch (got : Option Word) : Watch := { tile := waitTile 0, strm := .k, addr := 0x40, cc := .eq, cmp := 1, got := got }

theorem witness_WaitPackets : (takePacket (waitState []) 0 (fun k => k == 6)).isSome = true ∧ pkWord waitPacket 1 % 8 = 0 ∧
    bitsN (pkWord waitPacket 3) 1 0 ≠ 3 ∧ watchOf (waitState []) (waitTile 0) .k = none ∧
    (match engSegs (waitState []) (feWho (pkCtx (waitState []) 0 waitPacket)) (pkWord waitPacket 1) 8 false false with | .ok (_ :: _) => true | _ => false) = true ∧
    feNat (waitState []) (pkCtx (waitState []) 0 waitPacket) (pkWord waitPacket 1) 8 = .ok 0 ∧
    watchOf (waitState [chanWatch none]) (waitTile 0) .k = some (chanWatch none) ∧ (chanWatch none).got = none ∧
    watchOf (waitState [chanWatch (some 1)]) (waitTile 0) .k = some (chanWatch (some 1)) ∧ (chanWatch (some 1)).got ≠ none := by decide +kernel

/-- Graph 9 of a context without an L2 page: its node record cannot be read. -/
def lostNode : State := { s0 with fe := { graphs := [graph1] } }

theorem witness_SignalReads : feNat (countState 5 0 2) graph1.ctxn (nodeAddr graph1 0) 8 = .ok (nodeWord (countState 5 0 2) graph1 0 0) ∧
    1 < bitsN (nodeWord (countState 5 0 2) graph1 0 0) 43 32 ∧ bitsN (nodeWord (countState 5 0 1) graph1 0 0) 43 32 = 1 ∧
    graphOf lostNode 9 = some graph1 ∧ graph1.lost = false ∧
    (match feNat lostNode graph1.ctxn (nodeAddr graph1 0) 8 with | .error _ => true | .ok _ => false) = true := by decide +kernel

/-- R359: the GNXT of a FAULTED graph's job is dropped, and that of another graph stays. -/
theorem test_FaultedGraphDropsItsNexts :
    ((dropNexts { s0 with fe := { pending := [9, 8].map fun g => { gaddr := 0, ctxn := 1, qkey := 7, awaits := [], from_ := some g } } }
      { graph1 with faulted := true }).fe.pending.map (·.from_)) = [some 8] := by decide +kernel

/-- The machine before its boot is over, in recovery. -/
def recoveryState : State := { s0 with boot := { ready := false, recovery := true } }

theorem witness_RecoveryWrites : hostOpen recoveryState = false ∧ wf64 1 3 0 = 1 ∧ wf64 2 3 0 = 2 ∧ wf64 3 3 0 = 3 := by decide

theorem witness_IncomingAtomics : hostState.boot.ready = true ∧ MemInv hostState ∧ 0x3000 % 4 = 0 ∧ 0x3000 + 4 ≤ Config.hbmBytes ∧
    Config.hbmBytes < Config.hbmBytes + 8 ∧ Config.hbmBytes % 8 = 0 ∧ spanPoisoned hostState (lineOf 0x3000 * 64) 64 = false ∧
    spanPoisoned { hostState with poison := [0x600] } (lineOf 0x3000 * 64) 64 = true ∧
    portNew (.atomic .cas false 1 2) (readNat hostState 0x3000 8) = none := by decide +kernel

/-! Witnesses of turns, guarantees, and of commands that end at their token. -/

theorem witness_ReplyTurns : (∃ x ∈ ([reply0, reply0] : List Reply).take 1, x.tile = reply0.tile ∧ x.strm = reply0.strm ∧ x.q = reply0.q ∧
    x.job = reply0.job) ∧ replyTurn { inJob stream0 with replies := [reply0, reply0] } 1 reply0 = false := by decide

theorem witness_CompletionTurns : EndsNext { inJob stream0 with done := [done0 3] } 0 (done0 3).cmd ∧ EndsNext (pushing false false) 0 (done0 0x1103).cmd ∧
    doneTurn { inJob stream0 with done := [done0 3, done0 3] } 1 (done0 3).cmd = false := by decide

theorem witness_FrontAhead : feAhead { s0 with fe := { launchq := [{ kind := .garm 0, tile := 0, strm := .k, job := 1, ctxn := 1 }] } } 0 .k = true ∧
    feAhead s0 0 .k = false ∧ posted0.placed = none ∧ (stream0.fromLeft < 8) := by decide

/-- A command's agent that is guaranteed the first of two writes of one byte, and not the second. -/
def twoWrites : State := { s0 with wlog := [released0, { released0 with id := 5, new := 2 }] }

def readerOf (ids : List Nat) : Who := { tile := 0, strm := .k, ctxn := 0, path := .stream, die := 0, unit := .slot 0 0, sees := some (0, ids) }

theorem witness_EngineReads : (∀ x ∈ twoWrites.wlog, surelySeen (readerOf [4, 5]) x = true) ∧
    twoWrites.wlog.filter (fun z => z.addr == 64) = [] ++ released0 :: [{ released0 with id := 5, new := 2 }] ∧
    surelySeen (readerOf [4]) released0 = true ∧ { released0 with id := 5, new := 2 } ∈ twoWrites.wlog ∧
    surelySeen (readerOf [4]) { released0 with id := 5, new := 2 } = false ∧ Path.stream ≠ .copy := by decide

/-- R185: where the only write of a byte is not guaranteed to a reader and has not reached it, the byte reads as before the write. -/
theorem test_UnreachedWriteIsNotSeen (h : s0.core < Config.reaches [0, sidx .k, pathNum .stream, 4]) :
    segRead { s0 with wlog := [released0] } (readerOf []) { phys := 64, len := 1 } = [0] := by
  have g : hasReached { s0 with wlog := [released0] } (readerOf []) released0 = false := by
    exact decide_eq_false (Nat.not_le.mpr h)
  have e : ([released0].filter fun x => decide (64 ≤ x.addr) && decide (x.addr < 64 + 1)) = [released0] := by decide
  have f : surelySeen (readerOf []) released0 = false := by decide
  have a : (released0.addr == 64) = true := by decide
  have b : released0.old = 0 := rfl
  simp [segRead, e, f, span, viewBy, g, a, b]

/-- A table descriptor with a default row. -/
def defaultTd : List Word := [0, 2 ^ 46, 0, 0x0100000000000000]

theorem witness_GatherRows : tdMode defaultTd = 1 ∧
    (match gatherRead (gatherState (gatherRun0 0 [])) 0 0 (gatherRun0 0 []) (tdDef defaultTd) (tdRowBytes defaultTd) with
      | .ok _ => true | .error _ => false) = true ∧
    (match gatherRead (gatherState (gatherRun0 0 [])) 0 0 (gatherRun0 0 []) (tableRow [0x0100000000000000] 0) (tdRowBytes [0x0100000000000000]) with
      | .ok _ => true | .error _ => false) = true ∧
    (match gatherRead (gatherState (gatherRun0 0 [])) 0 0 (gatherRun0 0 []) (entryAddr (gatherCmd0 0).tmpl 0) (gaEntry (gatherCmd0 0).tmpl) with
      | .ok _ => true | .error _ => false) = true ∧
    (match rowOps (gatherState (gatherRun0 1 [])) 0 0 (gatherRun0 1 []) [] 0 0 [] (tdLen []) 0 with | .ok _ => true | .error _ => false) = true ∧
    gaGoes (gatherState (gatherRun0 0 [])) (gatherRun0 0 []) = true := by decide +kernel

/-- SREC, SCON and SCMP of one word that has passed, under EOS, with an item at their port. -/
def endingCmd (sub : Nat) : ActiveCmd := { slotCmd sub (2 ^ 66) with k := 1 }

def endingState (a : ActiveCmd) (x : Item) : State := withSlot { active := some a } feeder0 [(0, { items := [x], takers := [3] })]

theorem witness_SlotEnds : ([4, 5, 7].all fun sub => decide (Works (endingState (endingCmd sub) .eos) 0 0 (endingCmd sub) sub) &&
      decide (actCount (endingCmd sub) ≤ (endingCmd sub).k) && scEos (endingCmd sub).cmd.tmpl && (endingCmd sub).markerSent &&
      (endingCmd sub).limit.isNone && allFeed (endingState (endingCmd sub) .eos) (endingCmd sub).cmd) = true ∧
    Works (endingState { endingCmd 4 with markerSent := false } .eos) 0 0 { endingCmd 4 with markerSent := false } 4 ∧
    Works (endingState { endingCmd 7 with awaitEos := true } .eos) 0 0 { endingCmd 7 with awaitEos := true } 7 ∧
    canTake (tileOf (endingState (endingCmd 4) .eos) 0) (scPort (endingCmd 4).cmd.tmpl) 3 = some .eos ∧
    canTake (tileOf (endingState (endingCmd 4) (.word 1)) 0) (scPort (endingCmd 4).cmd.tmpl) 3 = some (.word 1) := by decide +kernel

theorem witness_Survivors : extent (scN scmpRow.cmd.tmpl 2) = 1 ∧ bitN (scS scmpRow.cmd.tmpl 3) 15 = false ∧
    (match slotWrite (withSlot { active := some scmpRow } [] []) 0 0 scmpRow
        (moveAddr (scAddr scmpRow.cmd.tmpl) ((64 * scmpRow.survivors : Nat) : Int)) (scmpRow.buf.take 64) with
      | (.ok _, _) => true | _ => false) = true ∧ bitN (scS (BitVec.ofNat 256 (2 ^ 191)) 3) 15 = true := by decide +kernel

/-- SCLS with a range, in a context whose log has room for 16 records and one in which it has none. -/
def closingRange (pidx : BitVec 32) : State :=
  { withSlot { active := some (slotCmd 9 0), range := some (0, 64) } [] [] with
    fe := { ctxs := [(1, { words := List.replicate 9 0 ++ [0x1000, 4, 0x4000], dlPidx := pidx })] }, pkg := { ctxbase := 0x8000 } }

theorem witness_Closing : Works (closingRange 3) 0 0 (slotCmd 9 0) 9 ∧ (slotAt (closingRange 3) 0 0).range = some (0, 64) ∧ MemInv (closingRange 3) ∧
    (closingRange 3).poison = [] ∧ 0x1000 + 32 * 3 + 32 ≤ (closingRange 3).pkg.ctxbase.toNat + 256 * 1 ∧
    readNat (closingRange 3) 0x4000 4 = 0 ∧ (3 + 2 ^ 32 - 0) % 2 ^ 32 < 2 ^ 4 ∧ Works (closingRange 16) 0 0 (slotCmd 9 0) 9 ∧
    2 ^ 4 ≤ (16 + 2 ^ 32 - 0) % 2 ^ 32 := by decide +kernel

/-- A channel with a packet, and a queue table without a queue. -/
def emptyTable (p : Packet) : State := { chanState p with fe := { (chanState p).fe with qslots := [] } }

theorem witness_CreatedQueues : (createQueue (emptyTable (packetOf 7 9 [1 + 2 * 2 ^ 16, 8, 0])) 0 (packetOf 7 9 [1 + 2 * 2 ^ 16, 8, 0])).2 = 0 ∧
    (createQueue (chanState (packetOf 7 9 [2, 8, 0])) 0 (packetOf 7 9 [2, 8, 0])).2 = 10 ∧
    ctxOfPasid (chanState (packetOf 7 9 [2, 8, 0])) 2 0 = false := by decide +kernel

/-- A function whose INVREQ waits for an atomic of context 1. -/
def invWaiting : State :=
  { hostState with ports := [{ portOp0 with ctxn := 1, near := 0 }], pkg := { fns := [(0, { invreqCtxn := 1, invreqKind := 2, invreqWait := some 0 })] } }

theorem witness_Invreq : (fnRegs hostState 0).invreqWait = none ∧ tlbiPending hostState 1 .all 0 = false ∧
    tlbiPending { hostState with ports := [{ portOp0 with ctxn := 1, near := 0 }] } 1 .all 0 = true ∧ (fnRegs invWaiting 0).invreqWait = some 0 ∧
    (fnRegs invWaiting 0).invreqCtxn = 1 ∧ (fnRegs invWaiting 0).invreqKind = 2 ∧ tlbiPending { invWaiting with ports := [] } 1 .all 0 = false ∧
    foreignCtx invWaiting 0 2 = false ∧ hostOpen invWaiting = true ∧ (fnRegs invWaiting 0).invreqCtxn ≠ 2 := by decide +kernel

theorem witness_Boot (h1 : Config.sha256 (imgField image0 64 64) = Config.rootKeyHash)
    (h2 : Config.ecdsaVerify (imgField image0 64 64) (Config.sha256 (image0.take 128 ++ imgBody image0)) (imgField image0 128 64) = true) :
    imgValid image0 0 = true ∧ imgValid [] 0 = false ∧ ({} : Boot).sealOk = true ∧ ({ sealOk := false } : Boot).sealOk = false := by
  have f : imgForm image0 = true := by decide +kernel
  have g : imgSigned image0 = true := by simp [imgSigned, h1, h2]
  have e : imgForm [] = false := by decide
  simp [imgValid, f, g, e]

theorem witness_RecoveryBusy : ({ recovery := true, busy := true } : Boot).busy = true ∧
    256 + 32 * 2 ^ 20 < (List.replicate (256 + 32 * 2 ^ 20) (0 : Byte)).length + (1 : BitVec 16).toNat := by
  refine ⟨rfl, ?_⟩
  rw [List.length_replicate]
  decide

theorem witness_AttestationTurns : ({ spdmCaps := true } : Boot).spdmCaps = true ∧ s0.boot.spdmCaps = false ∧ (1 : Nat) ≠ 0 := by decide

end Sys2Proof.Tests
end

/-! PROOFS. The turn of a tile's streams, the fetch and the words TRAP and BRK. -/
section

namespace Sys2Proof.Proofs

open Sys2Proof Sys2Proof.Machine Sys2Proof.Claims

/-! Tokens. -/

/-- A FIFO that a word names is empty. -/
theorem tokensReady_stall {st : Stream} {tk : BitVec 4}
    (h : (tkWL tk = true ∧ st.fromLeft = 0) ∨ (tkWR tk = true ∧ st.fromRight = 0)) : tokensReady st tk = .error .stall := by
  rcases h with ⟨hw, h0⟩ | ⟨hw, h0⟩ <;> simp [tokensReady, waitFor, hw, h0]

/-- A token test passes or makes its word wait; it never traps. -/
theorem tokensReady_cases (st : Stream) (tk : BitVec 4) : tokensReady st tk = .ok () ∨ tokensReady st tk = .error .stall := by
  unfold tokensReady waitFor
  split
  · exact .inl rfl
  · exact .inr rfl

/-- Settles O33: the token test comes first; past it TRAP takes its trap at the next word, and BRK at itself. -/
theorem trapWordsTakeTheirCause : Obligations.TrapWordsTakeTheirCause := by
  refine ⟨fun o s h => ⟨?_, ?_, rfl, rfl⟩, fun o s h => ⟨?_, ?_⟩⟩
  · exact issue_ok (canIssue_of_issues h) (by rw [tokensReady_of_issues h]; rfl)
  · exact issue_trap (canIssue_of_issues h) (by rw [tokensReady_of_issues h]; rfl)
  · exact issue_stall (by rw [tokensReady_stall h]; rfl)
  · exact issue_stall (by rw [tokensReady_stall h]; rfl)

/-! The stream that its tile serves (R29). -/

@[simp] theorem serve_curTile (s : State) (t : Nat) (sk : Strm) : (serve s t sk).curTile = t := by
  unfold serve
  dsimp only
  split <;> rfl

@[simp] theorem serve_curStrm (s : State) (t : Nat) (sk : Strm) : (serve s t sk).curStrm = sk := by
  unfold serve
  dsimp only
  split <;> rfl

/-- Being served changes no stream. -/
@[simp] theorem strmAt_serve (s : State) (t u : Nat) (sk j : Strm) : strmAt (serve s t sk) u j = strmAt s u j := by
  unfold serve
  dsimp only
  split
  · rw [strmAt_setTile]
    split
    · next h => subst h; cases j <;> rfl
    · rfl
  · rfl

/-- Being served leaves the configuration unit as it is. -/
@[simp] theorem serve_cfg (s : State) (t u : Nat) (sk : Strm) : (tileOf (serve s t sk) u).cfg = (tileOf s u).cfg := by
  unfold serve
  dsimp only
  split
  · by_cases h : u = t
    · subst h; simp
    · rw [tileOf_setTile_other _ _ _ _ h]; rfl
  · rfl

/-- A ready stream that has been served is the one served last. -/
theorem served_serve {s : State} {t : Nat} {sk : Strm} (h : readyNow s t sk = true) : (tileOf (serve s t sk) t).served = sk := by
  simp [serve, h]

@[simp] theorem intrDue_serve (s : State) (t : Nat) (sk : Strm) : intrDue (serve s t sk) t sk = intrDue s t sk := by
  simp [intrDue, cfgCommitted]

/-- A stream with no late token takes none. -/
theorem takeOverDue_nil {s : State} {t : Nat} {sk : Strm} (h : (strmAt s t sk).overDue = []) : takeOverDue s t sk = s := by
  simp [takeOverDue, h]

/-- A boundary with no late token and no interrupt due runs the stream's word. -/
theorem runStream_of_no_boundary {s : State} {t : Nat} {sk : Strm} (h : boundaryDue s t sk = false) :
    runStream s t sk = runWord (serve s t sk) := by
  obtain ⟨hover, hintr⟩ : (strmAt s t sk).overDue = [] ∧ intrDue s t sk = false := by simpa [boundaryDue] using h
  have hkeep : takeOverDue (serve s t sk) t sk = serve s t sk := takeOverDue_nil (by simpa using hover)
  simp [runStream, hkeep, hintr]

/-- What a mover's outcome becomes once its core cycle has passed. -/
def cyclePassed : Out → Out
  | .next x => .next (passTime x 1)
  | .fault f => .fault f
  | .refused r => .refused r

/-- A named stream moves the stream of its tile whose turn it is, and a core cycle passes. -/
theorem step_stream {s : State} {t : Nat} {named : Strm} {rest : List Mover} (h : s.agenda = .stream t named :: rest) :
    step s = cyclePassed (runStream { s with agenda := rest } t (turnOf { s with agenda := rest } t named)) := by
  unfold step stepOnce
  rw [h]
  rfl

/-- The word at ss.pc fetched, decoded by d and given to a meaning f, as runWord does: the two are named so that no proof evaluates
the decoder. -/
def runFetched (d : List Byte → Option (Instr × List Byte)) (f : Instr → State → Out) (s : State) : Out :=
  match fetchCause s s.curTile (cur s).pc with
  | some _ => f .fetchFault s
  | none =>
    let (s1, w) := fetchNext s s.curTile s.curStrm
    match d (bytesOfWord w) with
    | some (i, _) => f i s1
    | none => f (.illegalInstruction (BitVec.ofNat 32 w)) s1

theorem runWord_eq (s : State) : runWord s = runFetched decodeBytes exec s := rfl

section
variable {d : List Byte → Option (Instr × List Byte)} {f : Instr → State → Out} {s v : State} {w : Nat}

/-- A fetched word that decodes is executed. -/
theorem runFetched_decoded {i : Instr} (hcause : fetchCause s s.curTile (cur s).pc = none)
    (hfetch : fetchNext s s.curTile s.curStrm = (v, w)) (hi : d (bytesOfWord w) = some (i, [])) : runFetched d f s = f i v := by
  simp [runFetched, hcause, hfetch, hi]

/-- A fetched word that decodes to nothing is illegal (R43). -/
theorem runFetched_illegal (hcause : fetchCause s s.curTile (cur s).pc = none)
    (hfetch : fetchNext s s.curTile s.curStrm = (v, w)) (hn : d (bytesOfWord w) = none) :
    runFetched d f s = f (.illegalInstruction (BitVec.ofNat 32 w)) v := by
  simp [runFetched, hcause, hfetch, hn]

end

/-- A step that names a stream runs the word fetched at its ss.pc (R41, R43). -/
theorem namedStreamsRunTheDecodedInstruction : NamedStreamsRunTheDecodedInstruction := by
  intro s s0 u v t named sk rest w hag h0 hturn hdue hserve hcause hfetch
  have hstep : step s = cyclePassed (runWord u) := by
    rw [step_stream hag, h0, hturn, runStream_of_no_boundary hdue, hserve]
  have ht : u.curTile = t := by rw [← hserve, serve_curTile]
  have hk : u.curStrm = sk := by rw [← hserve, serve_curStrm]
  rw [← ht] at hcause
  rw [← ht, ← hk] at hfetch
  refine ⟨fun i hi => ?_, fun hn => ?_⟩
  · rw [hstep, runWord_eq, runFetched_decoded hcause hfetch hi]; rfl
  · rw [hstep, runWord_eq, runFetched_illegal hcause hfetch hn]; rfl

/-- The stream whose turn it is: the first ready one of its tile's order, since no boundary's own work is due. -/
theorem turnOf_first_ready {s : State} {t : Nat} {named sk : Strm} {pre post : List Strm} (hdue : boundaryDue s t named = false)
    (horder : turnOrder (tileOf s t).served = pre ++ sk :: post) (hpre : ∀ x ∈ pre, readyNow s t x = false)
    (hready : readyNow s t sk = true) : turnOf s t named = sk := by
  have hfind : (turnOrder (tileOf s t).served).find? (readyNow s t) = some sk := by
    rw [horder, List.find?_append, List.find?_eq_none.mpr (by simpa using hpre)]
    simp [hready]
  simp [turnOf, hdue, hfind]

theorem readyStreamsAreServedInTurn : ReadyStreamsAreServedInTurn := by
  intro s t named sk pre post hdue horder hpre hready
  refine ⟨turnOf_first_ready hdue horder hpre hready, served_serve hready, ?_, ?_⟩
  · cases sk <;> rfl
  · intro x
    cases sk <;> cases x <;> decide

/-- Settles O4: a step reduces to the word at ss.pc, and the turn to the first ready stream of the tile's order. -/
theorem stepsRunTheDecodedInstruction : Obligations.StepsRunTheDecodedInstruction :=
  ⟨namedStreamsRunTheDecodedInstruction, readyStreamsAreServedInTurn⟩

end Sys2Proof.Proofs
end

/-! PROOFS. The watchdog, the event queue and the responses to its records. -/
section

namespace Sys2Proof.Proofs

open Sys2Proof Sys2Proof.Machine Sys2Proof.Claims

/-! Reads after writes of slots, engines and jobs' streams. -/

@[simp] theorem slotAt_putSlot (s : State) (t n : Nat) (x : Slot) : slotAt (putSlot s t n x) t n = x := by
  simp [slotAt, putSlot, slotOf, setSlot]

@[simp] theorem putSlot_mem (s : State) (t n : Nat) (x : Slot) : (putSlot s t n x).mem = s.mem := rfl

@[simp] theorem engOf_setEng (s : State) (d e : Nat) (r : CopyRun) : engOf (setEng s d e r) d e = some r := by
  simp [engOf, setEng, dieOf, setDie]

/-- A change of a stream for the job that its tile runs is a change of the live stream. -/
theorem updStrm_live {s : State} {job t : Nat} (sk : Strm) (f : Stream → Stream) (h : (tileOf s t).job = some job) :
    updStrm s job t sk f = setStrm s t sk (f (strmAt s t sk)) := by
  simp [updStrm, updTile, h, setStrm, strmAt]

/-! The watchdog (R35). -/

/-- A stream whose stall has been reported is not reported again. -/
theorem watchdog_posted {s : State} {t : Nat} {sk : Strm} (h : (strmAt s t sk).watchdogPosted = true) :
    exec (.watchdog t sk) s = .next s := by
  simp [exec_watchdog, execWatchdog, h]

theorem watchdogReportsOnce : WatchdogReportsOnce := by
  intro s t sk hrun hhalt hpost hwait hcmds hjob hlate hacc
  have hexec : exec (.watchdog t sk) s =
      .next (offer (setStrm s t sk { strmAt s t sk with watchdogPosted := true }) (offerFor s t sk .watchdog 6)) := by
    rw [exec_watchdog]
    simp [execWatchdog, hrun, hhalt, hpost, hwait, hcmds, hlate, hacc, Option.isSome_iff_ne_none.mp hjob]
  refine ⟨_, _, hexec, rfl, rfl, rfl, rfl, by simp, rfl, watchdog_posted (by simp)⟩

/-! Event records (R388, R389). -/

theorem eventRecordsEnterTheirQueue : EventRecordsEnterTheirQueue := by
  refine ⟨fun s n o ho hfirst hvalid => ⟨fun hroom => ?_, fun hfull hopen => ?_⟩, fun s o => ?_, fun s c hc => ?_⟩
  · simp [exec_eventRecordWrite, execEventRecordWrite, ho, hfirst, hvalid, hroom]
  · rw [exec_eventRecordWrite]
    unfold execEventRecordWrite
    rw [ho]
    simp only [hfirst, hvalid, hfull, hopen]
    rfl
  · unfold acceptRecord
    dsimp only
    split <;> simp [msix, setCtx, ctxOf]
  · refine ⟨_, (exec_eventQueueReread c s).trans (if_pos hc), ?_, ?_, rfl⟩
    · simp [setCtx]
    · simp

/-! Responses (R380, R390). -/

theorem resume_waiting {s : State} {fn fid : Nat} {w : WaitRec} (h : waitFor? s fn fid = some w) :
    exec (.resume fn fid) s = .next (resumeUnit (dropWait s w) w) := by
  simp [exec_resume, execResume, h]

theorem terminate_waiting {s : State} {fn fid : Nat} {w : WaitRec} (h : waitFor? s fn fid = some w) :
    exec (.terminate fn fid) s = .next (terminateUnit (dropWait s w) w) := by
  simp [exec_terminate, execTerminate, h]

/-- Resuming a delivered trap lets its stream go on at the recorded offset. -/
theorem resumeUnit_trap {s : State} {w : WaitRec} {job t : Nat} {sk : Strm} (hw : w.waiter = .trap job t sk)
    (hjob : (tileOf s t).job = some job) (hwait : (strmAt s t sk).wait = .response) :
    resumeUnit s w = setStrm s t sk { strmAt s t sk with wait := .none, pc := w.resume, lastIssue := s.fab } := by
  unfold resumeUnit
  rw [hw]
  dsimp only
  rw [updStrm_live sk _ hjob, if_pos hwait]

theorem responsesResumeOrTerminate : ResponsesResumeOrTerminate := by
  refine ⟨?none, ?trap, fun s fn fid w h => terminate_waiting h, ?slot, ?copy, ?active⟩
  case none =>
    intro s fn fid h
    exact ⟨by simp [exec_resume, execResume, h], by simp [exec_terminate, execTerminate, h]⟩
  case trap =>
    intro s fn fid job t sk w h hw hjob hwait
    refine ⟨_, (resume_waiting h).trans (congrArg _ (resumeUnit_trap (s := dropWait s w) hw hjob hwait)), ?_⟩
    simp only [strmAt_setStrm_same, setStrm_mem, setStrm_fe, true_and]
    exact ⟨rfl, rfl, rfl⟩
  case slot =>
    intro s fn fid t n w h hw
    refine ⟨_, resume_waiting h, ?_⟩
    rw [resumeUnit, hw]
    exact ⟨slotAt_putSlot .., rfl⟩
  case copy =>
    intro s fn fid d e w r h hw hr
    have hr' : engOf (dropWait s w) d e = some r := hr
    refine ⟨_, resume_waiting h, ?_⟩
    rw [resumeUnit, hw]
    simp only [hr', engOf_setEng]
    rfl
  case active =>
    intro s fn fid t n w a h hw ha
    have ha' : (slotAt (dropWait s w) t n).active = some a := ha
    rw [terminate_waiting h, terminateUnit, hw]
    simp only [ha']

/-- Settles O57: the watchdog posts its own mark, the arbiter writes or blocks, and a response acts on the unit that its record names. -/
theorem eventsAndResponsesReachTheirQueue : Obligations.EventsAndResponsesReachTheirQueue :=
  ⟨watchdogReportsOnce, eventRecordsEnterTheirQueue, responsesResumeOrTerminate⟩

end Sys2Proof.Proofs
end

/-! PROOFS. Retirement: the next word, the pushes to both neighbours, taken branches and hardware loops. -/
section

namespace Sys2Proof.Proofs

open Sys2Proof Sys2Proof.Machine Sys2Proof.Claims

/-! The pushes of a retiring word (R155, R156). -/

/-- A stream's tokens as its neighbour on a side counts those pushed to it. -/
theorem pushedTokens_setStrm_own (s : State) (t : Nat) (sk : Strm) (x : Stream) (right : Bool) :
    pushedTokens (setStrm s t sk x) t sk right = pushedTokens s t sk right := by
  have h : (t, neighbour sk right) ≠ (t, sk) := fun h => neighbour_ne sk right (congrArg Prod.snd h)
  unfold pushedTokens
  rw [strmAt_setStrm_other _ _ _ _ _ _ h]

/-- A push on a side adds its tokens there. -/
theorem pushedTokens_pushN_same (s : State) (t : Nat) (sk : Strm) (right : Bool) (n : Nat) :
    pushedTokens (pushN s t sk right n) t sk right = pushedTokens s t sk right + n := by
  cases right <;> simp [pushedTokens, pushN, tokens, addTokens]

/-- A push on a side leaves the FIFO on the other side as it is. -/
theorem pushedTokens_pushN_opposite (s : State) (t : Nat) (sk : Strm) (right : Bool) (n : Nat) :
    pushedTokens (pushN s t sk right n) t sk (!right) = pushedTokens s t sk (!right) := by
  have h : (t, neighbour sk (!right)) ≠ (t, neighbour sk right) := by cases sk <;> cases right <;> simp [neighbour, leftOf, rightOf]
  unfold pushedTokens pushN
  rw [strmAt_setStrm_other _ _ _ _ _ _ h]

/-- The pushes of SL and SR where both find room. -/
theorem pushBits_room {s : State} {t : Nat} {sk : Strm} {sl sr : Bool} (hl : sl = true → pushedTokens s t sk false < 8)
    (hr : sr = true → pushedTokens s t sk true < 8) :
    (pushBits s t sk sl sr).2 = (false, false) ∧ (pushBits s t sk sl sr).1.fe = s.fe ∧
      pushedTokens (pushBits s t sk sl sr).1 t sk false = pushedTokens s t sk false + (if sl then 1 else 0) ∧
      pushedTokens (pushBits s t sk sl sr).1 t sk true = pushedTokens s t sk true + (if sr then 1 else 0) := by
  have opp : ∀ (s : State) (right : Bool), pushedTokens (pushN s t sk right 1) t sk (!right) = pushedTokens s t sk (!right) :=
    fun s right => pushedTokens_pushN_opposite s t sk right 1
  have hf := fun s => opp s false
  have ht := fun s => opp s true
  simp only [Bool.not_false, Bool.not_true] at hf ht
  cases sl <;> cases sr
  case false.false => simp [pushBits]
  case false.true =>
    simp only [pushBits, if_true, Bool.false_eq_true, if_false, pushOne_room (hr rfl)]
    exact ⟨trivial, rfl, ht s, pushedTokens_pushN_same ..⟩
  case true.false =>
    simp only [pushBits, if_true, Bool.false_eq_true, if_false, pushOne_room (hl rfl)]
    exact ⟨trivial, rfl, pushedTokens_pushN_same .., hf s⟩
  case true.true =>
    have hr' : pushedTokens (pushN s t sk false 1) t sk true < 8 := by rw [hf]; exact hr rfl
    simp only [pushBits, if_true, pushOne_room (hl rfl), pushOne_room hr']
    exact ⟨trivial, rfl, by rw [ht, pushedTokens_pushN_same], by rw [pushedTokens_pushN_same, hf]⟩

/-- A word whose tokens all find room raises nothing: its stream advances and its tokens are pushed. -/
theorem retireAt_room {s : State} {t : Nat} {sk : Strm} {tk : BitVec 4} (f : Flow)
    (hl : tkSL tk = true → pushedTokens s t sk false < 8) (hr : tkSR tk = true → pushedTokens s t sk true < 8) :
    retireAt s t sk tk f = (pushBits (setStrm s t sk (advanced s (strmAt s t sk) f)) t sk (tkSL tk) (tkSR tk)).1 := by
  obtain ⟨hnone, -, -, -⟩ := pushBits_room (s := setStrm s t sk (advanced s (strmAt s t sk) f)) (t := t) (sk := sk)
    (by rw [pushedTokens_setStrm_own]; exact hl) (by rw [pushedTokens_setStrm_own]; exact hr)
  change pushRetired (setStrm s t sk (advanced s (strmAt s t sk) f)) t sk (tkSL tk) (tkSR tk) = _
  unfold pushRetired
  simp [hnone]

/-! The stream that acts, after it has retired. -/

/-- What no retirement changes outside the tiles, the records and the watches. -/
theorem sameOutside_retire (s : State) (tk : BitVec 4) (f : Flow) : SameOutside s (retire s tk f) := sameOutside_retireAt ..

@[simp] theorem retire_curTile (s : State) (tk : BitVec 4) (f : Flow) : (retire s tk f).curTile = s.curTile := by
  rw [sameOutside_retire s tk f]

@[simp] theorem retire_curStrm (s : State) (tk : BitVec 4) (f : Flow) : (retire s tk f).curStrm = s.curStrm := by
  rw [sameOutside_retire s tk f]

@[simp] theorem retire_mem (s : State) (tk : BitVec 4) (f : Flow) : (retire s tk f).mem = s.mem := by
  rw [sameOutside_retire s tk f]

theorem cur_retire (s : State) (tk : BitVec 4) (f : Flow) :
    cur (retire s tk f) = strmAt (retire s tk f) s.curTile s.curStrm := by
  rw [cur, retire_curTile, retire_curStrm]

/-- The acting stream of a word whose tokens all find room. -/
theorem cur_retire_room {s : State} {tk : BitVec 4} (f : Flow) (h : PushRoom s tk) : cur (retire s tk f) = advanced s (cur s) f := by
  rw [cur_retire]
  exact (strmAt_retireAt_room s s.curTile s.curStrm tk f h.1 h.2).1

/-- What a word whose tokens all find room leaves of the front end, and the tokens that its neighbours then hold. -/
theorem retire_room_tokens {s : State} {tk : BitVec 4} (f : Flow) (h : PushRoom s tk) :
    (retire s tk f).fe = s.fe ∧
      pushedTokens (retire s tk f) s.curTile s.curStrm false = pushedTokens s s.curTile s.curStrm false + (if tkSL tk then 1 else 0) ∧
      pushedTokens (retire s tk f) s.curTile s.curStrm true = pushedTokens s s.curTile s.curStrm true + (if tkSR tk then 1 else 0) := by
  obtain ⟨-, hfe, hl, hr⟩ := pushBits_room
    (s := setStrm s s.curTile s.curStrm (advanced s (strmAt s s.curTile s.curStrm) f)) (t := s.curTile) (sk := s.curStrm)
    (sl := tkSL tk) (sr := tkSR tk) (by rw [pushedTokens_setStrm_own]; exact h.1) (by rw [pushedTokens_setStrm_own]; exact h.2)
  unfold retire
  rw [retireAt_room f h.1 h.2]
  rw [pushedTokens_setStrm_own] at hl hr
  exact ⟨hfe, hl, hr⟩

/-- A stream that has retired a word and goes on at p, no loop having counted a pass. -/
def movedTo (s : State) (st : Stream) (p : Word) : Stream :=
  { st with pc := p, lastIssue := s.fab, watchdogPosted := false, issued := st.issued + 1 }

theorem advanced_no_loop {s : State} {st : Stream} (h : NoLoopEnd st) : advanced s st .seq = movedTo s st (st.pc + 4) := by
  simp [advanced, movedTo, nextSeq_no_loop h]

theorem advanced_jump (s : State) (st : Stream) (p : Word) : advanced s st (.jump p) = movedTo s st p := rfl

/-- A retirement with room to a place p: what RetiresTo says, once the advanced stream is known. -/
theorem retiresTo_of_advanced {s : State} {tk : BitVec 4} {f : Flow} {p : Word} (h : PushRoom s tk)
    (hadv : advanced s (cur s) f = movedTo s (cur s) p) : RetiresTo s (retire s tk f) tk p := by
  obtain ⟨hfe, hl, hr⟩ := retire_room_tokens f h
  have hcur := (cur_retire_room f h).trans hadv
  exact ⟨by rw [hcur]; rfl, by rw [hcur]; rfl, by rw [hcur]; rfl, by rw [hcur]; rfl, by rw [hcur]; rfl, retire_mem .., hfe, hl, hr⟩

theorem retirementMovesToTheNextWord : RetirementMovesToTheNextWord := by
  intro s tk h
  refine ⟨fun hloop => retiresTo_of_advanced h (advanced_no_loop hloop), fun p => ⟨retiresTo_of_advanced h (advanced_jump ..), ?_, ?_⟩⟩
  · rw [cur_retire_room _ h]; rfl
  · rw [cur_retire_room _ h]; rfl

/-! Taken branches (R151). -/

/-- A taken branch changes nothing of its stream but its loops. -/
theorem clearActs_outside_loops (st : Stream) (target : Word) : { clearActs st target with lca := st.lca, lcb := st.lcb } = st := by
  unfold clearActs
  split <;> rfl

theorem takenBranchesLeaveLoops : TakenBranchesLeaveLoops := by
  intro st target lcb l hl
  refine ⟨?_, clearActs_outside_loops st target⟩
  subst hl
  cases htctx : st.tctx with
  | true => simp [clearActs, htctx]
  | false => cases lcb <;> simp [clearActs, htctx, loopOf, leavesLoop]

/-! Hardware loops (R150). -/

/-- One pass of the loop that a flag names, as passA and passB count it. -/
def passOf (st : Stream) (lcb : Bool) : Stream × Bool := if lcb then passB st else passA st

/-- A loop with more than one pass left goes back to its START. -/
theorem passOf_back {st : Stream} {lcb : Bool} {l : LoopRegs} (hl : loopOf st lcb = l) (h : 1 < l.cnt.toNat) :
    passOf st lcb = ({ withLoop st lcb (onePass l) with pc := l.start.zeroExtend 64 }, true) := by
  subst hl
  cases lcb <;> simp_all [passOf, passA, passB, loopPass, loopOf, withLoop, onePass]

/-- A loop with one pass left, or none, ends. -/
theorem passOf_last {st : Stream} {lcb : Bool} {l : LoopRegs} (hl : loopOf st lcb = l) (h : l.cnt.toNat ≤ 1) :
    passOf st lcb = (withLoop st lcb (lastPass l), false) := by
  subst hl
  cases lcb <;> simp_all [passOf, passA, passB, loopPass, loopOf, withLoop, lastPass, Nat.not_lt.mpr]

/-- At the END of one active loop the loop counts its pass. -/
theorem nextSeq_one_loop {st : Stream} {lcb : Bool} (ht : st.tctx = false) (hit : loopHit (loopOf st lcb) st.pc = true)
    (hmiss : loopHit (loopOf st (!lcb)) st.pc = false) :
    nextSeq st = if (passOf st lcb).2 then (passOf st lcb).1 else { (passOf st lcb).1 with pc := st.pc + 4 } := by
  cases lcb
  · have h1 : loopHit st.lca st.pc = true := hit
    have h2 : loopHit st.lcb st.pc = false := hmiss
    simp [nextSeq, ht, h1, h2, passOf]
  · have h1 : loopHit st.lcb st.pc = true := hit
    have h2 : loopHit st.lca st.pc = false := hmiss
    simp [nextSeq, ht, h1, h2, passOf]

/-- At the END of both loops the inner one counts its pass, and the outer one where the inner has ended. -/
theorem nextSeq_both_loops {st : Stream} {lcb : Bool} (ht : st.tctx = false) (hin : lcb = decide (st.lca.start.toNat < st.lcb.start.toNat))
    (hit : loopHit (loopOf st lcb) st.pc = true) (hit' : loopHit (loopOf st (!lcb)) st.pc = true) :
    nextSeq st = if (passOf st lcb).2 then (passOf st lcb).1
      else if (passOf (passOf st lcb).1 (!lcb)).2 then (passOf (passOf st lcb).1 (!lcb)).1
      else { (passOf (passOf st lcb).1 (!lcb)).1 with pc := st.pc + 4 } := by
  cases lcb
  · have h1 : loopHit st.lca st.pc = true := hit
    have h2 : loopHit st.lcb st.pc = true := hit'
    have h3 : st.lcb.start.toNat ≤ st.lca.start.toNat := by simpa using hin.symm
    simp [nextSeq, ht, h1, h2, h3, passOf]
  · have h1 : loopHit st.lcb st.pc = true := hit
    have h2 : loopHit st.lca st.pc = true := hit'
    have h3 : ¬ st.lcb.start.toNat ≤ st.lca.start.toNat := by simpa using hin.symm
    simp [nextSeq, ht, h1, h2, h3, passOf]

/-- A change of one loop leaves the other. -/
theorem loopOf_withLoop_not (st : Stream) (lcb : Bool) (l : LoopRegs) : loopOf (withLoop st lcb l) (!lcb) = loopOf st (!lcb) := by
  cases lcb <;> rfl

theorem hardwareLoopsGoBackAtTheirEnd : HardwareLoopsGoBackAtTheirEnd := by
  refine ⟨?one, ?both, fun st h => nextSeq_no_loop h⟩
  case one =>
    intro st lcb l ht hl hit hmiss
    rw [nextSeq_one_loop ht (by rw [hl]; exact hit) hmiss]
    exact ⟨fun h => by simp [passOf_back hl h], fun h => by simp [passOf_last hl h]⟩
  case both =>
    intro st lcb l m ht hin hl hm hit hit'
    rw [nextSeq_both_loops ht hin (by rw [hl]; exact hit) (by rw [hm]; exact hit')]
    have hm' : loopOf (withLoop st lcb (lastPass l)) (!lcb) = m := (loopOf_withLoop_not ..).trans hm
    refine ⟨fun h => by simp [passOf_back hl h], fun h h' => ?_, fun h h' => ?_⟩
    · simp [passOf_last hl h, passOf_back hm' h']
    · simp [passOf_last hl h, passOf_last hm' h']

/-! A push to a full FIFO (R156). -/

/-- The state in which a failed SR push traps: the stream has advanced, and nothing is pushed. -/
theorem retireAt_full_right {s : State} {t : Nat} {sk : Strm} {tk : BitVec 4} (f : Flow) (hsr : tkSR tk = true) (hsl : tkSL tk = false)
    (hfull : pushedTokens s t sk true = 8) :
    retireAt s t sk tk f = takeTrapAt (setStrm s t sk (advanced s (strmAt s t sk) f)) t sk .tokenOver 1
      (advanced s (strmAt s t sk) f).pc := by
  change pushRetired (setStrm s t sk (advanced s (strmAt s t sk) f)) t sk (tkSL tk) (tkSR tk) = _
  simp [pushRetired, pushBits, pushOne, hsr, hsl, pushedTokens_setStrm_own, hfull, overTval]

/-- What a stream that a failed push has trapped then holds (R378). -/
theorem strmAt_retire_full_right {s : State} {tk : BitVec 4} (hloop : NoLoopEnd (cur s)) (htakes : TakesInContext (cur s) .tokenOver)
    (hsr : tkSR tk = true) (hsl : tkSL tk = false) (hfull : pushedTokens s s.curTile s.curStrm true = 8) :
    cur (retire s tk .seq) = enterTrap (movedTo s (cur s) ((cur s).pc + 4)) .tokenOver 1 ((cur s).pc + 4) := by
  obtain ⟨htctx, hena⟩ := htakes
  have hin : takenInContext (movedTo s (cur s) ((cur s).pc + 4)) .tokenOver = true := by
    simp [takenInContext, movedTo, htctx, hena]
  have hadv : advanced s (strmAt s s.curTile s.curStrm) .seq = movedTo s (cur s) ((cur s).pc + 4) := advanced_no_loop hloop
  rw [cur_retire, retire, retireAt_full_right .seq hsr hsl hfull, strmAt_takeTrapAt, strmAt_setStrm_same, hadv, trapped, if_pos hin]
  rfl

theorem fullTokenFifoRaisesTokenOver : FullTokenFifoRaisesTokenOver := by
  intro s tk hloop htakes _ hsr hsl hfull
  have htrap := strmAt_retire_full_right hloop htakes hsr hsl hfull
  have hne : (s.curTile, neighbour s.curStrm true) ≠ (s.curTile, s.curStrm) := fun h => neighbour_ne _ true (congrArg Prod.snd h)
  refine ⟨by rw [htrap]; rfl, by rw [htrap]; rfl, by rw [htrap]; rfl, by rw [htrap]; rfl, by rw [htrap]; rfl, by rw [htrap]; rfl, ?_⟩
  rw [retire, retireAt_full_right .seq hsr hsl hfull, pushedTokens, strmAt_takeTrapAt_other _ _ _ _ _ _ _ _ hne,
    strmAt_setStrm_other _ _ _ _ _ _ hne]
  exact hfull

/-- Settles O21: with room the pushes change only the neighbours, loops follow their passes, and a full FIFO traps the stream advanced. -/
theorem retirementsGoOnLoopBackOrReportTokens : Obligations.RetirementsGoOnLoopBackOrReportTokens :=
  ⟨retirementMovesToTheNextWord, takenBranchesLeaveLoops, hardwareLoopsGoBackAtTheirEnd, fullTokenFifoRaisesTokenOver⟩

end Sys2Proof.Proofs
end

/-! PROOFS. What a word that writes one general register leaves alone. -/
section

namespace Sys2Proof.Proofs

open Sys2Proof Sys2Proof.Machine Sys2Proof.Claims

/-! Streams that keep everything but one register. -/

/-- A stream that keeps its registers but that of one number, its flags and its other state registers. -/
def KeepsBut (p : Nat) (x y : Stream) : Prop :=
  (∀ q, q ≠ p → regAt y q = regAt x q) ∧ y.fe = x.fe ∧ y.srctr = x.srctr ∧ RegistersKept x y

/-- The same, where the stream also stays in or out of its trap context. -/
def KeepsContextBut (p : Nat) (x y : Stream) : Prop := KeepsBut p x y ∧ y.tctx = x.tctx

section
variable {p : Nat} {x y : Stream}

theorem KeepsBut.refl (p : Nat) (x : Stream) : KeepsBut p x x := by simp [KeepsBut, RegistersKept]

theorem KeepsContextBut.refl (p : Nat) (x : Stream) : KeepsContextBut p x x := ⟨.refl p x, rfl⟩

/-- A stream that keeps its context keeps what it has kept before. -/
theorem KeepsContextBut.keeps {z : Stream} (h : KeepsContextBut p x y) (g : KeepsBut p y z) : KeepsBut p x z := by
  obtain ⟨⟨hr, hfe, hsr, hk⟩, ht⟩ := h
  obtain ⟨gr, gfe, gsr, gk⟩ := g
  refine ⟨fun q hq => (gr q hq).trans (hr q hq), gfe.trans hfe, gsr.trans hsr, ?_⟩
  simp only [RegistersKept] at hk gk ⊢
  simp_all

theorem KeepsContextBut.trans {z : Stream} (h : KeepsContextBut p x y) (g : KeepsContextBut p y z) : KeepsContextBut p x z :=
  ⟨h.keeps g.1, g.2.trans h.2⟩

theorem keepsContextBut_popBits (p : Nat) (x : Stream) (tk : BitVec 4) : KeepsContextBut p x (popBits x tk) := by
  simp [KeepsContextBut, KeepsBut, RegistersKept]

theorem keepsContextBut_learn (p : Nat) (x : Stream) (k : Know) : KeepsContextBut p x (learn x k) := by
  simp [KeepsContextBut, KeepsBut, RegistersKept, learn, regAt]

theorem keepsContextBut_noteSeen (p : Nat) (x : Stream) (hs : List SeqHead) : KeepsContextBut p x (noteSeen x hs) := by
  simp [KeepsContextBut, KeepsBut, RegistersKept, noteSeen, regAt]

/-- The rotating base is kept, so a field still names the same register. -/
theorem KeepsContextBut.physReg_eq (h : KeepsContextBut p x y) (d : BitVec 5) : physReg y d = physReg x d := by
  obtain ⟨⟨-, -, -, hrrb, -⟩, -⟩ := h
  simp [physReg, hrrb]

theorem KeepsContextBut.putReg {d : BitVec 5} (h : KeepsContextBut (physReg x d) x y) (v : Word) :
    KeepsContextBut (physReg x d) x (putReg y d v) := by
  refine h.trans ⟨⟨fun q hq => ?_, by simp, by simp, by simp [RegistersKept]⟩, by simp⟩
  simp [Machine.putReg, regAt_putPhys, h.physReg_eq, hq]

/-- Emptying a register leaves every other. -/
theorem regAt_clearFull_other (x : Stream) {p q : Nat} (h : q ≠ p) : regAt (clearFull x p) q = regAt x q := by
  unfold clearFull
  split
  · rfl
  · simp [regAt_setReg, h]

theorem KeepsContextBut.landLater {d : BitVec 5} (h : KeepsContextBut (physReg x d) x y) (v : Word) (kd : LandKind) (m : Option Word) :
    KeepsContextBut (physReg x d) x (landLater y d v kd m) := by
  refine h.trans ⟨⟨fun q hq => ?_, by simp, by simp, by simp [RegistersKept]⟩, by simp⟩
  unfold Machine.landLater
  dsimp only
  split
  · rfl
  · exact regAt_clearFull_other y (by rw [h.physReg_eq]; exact hq)

/-- The next word's place, a loop's pass and the count of the word are all that a retirement changes of its stream. -/
theorem keepsContextBut_advanced (p : Nat) (s : State) (x : Stream) (f : Flow) : KeepsContextBut p x (advanced s x f) := by
  have key : KeepsContextBut p x (nextSeq x) := by
    unfold nextSeq passA passB
    dsimp only
    repeat' split
    all_goals exact .refl p x
  cases f with
  | seq => exact key
  | jump target => exact .refl p x

/-- A trap changes of its stream's registers only the trap record, and that only on entering the trap context (R378). -/
theorem keepsBut_trapped (p : Nat) (x : Stream) (c : Cause) (v r : Word) : KeepsBut p x (trapped x c v r) := by
  unfold trapped
  split
  · next h =>
    have hout : x.tctx = false := by
      simp only [takenInContext, Bool.and_eq_true, Bool.not_eq_true'] at h
      exact h.1
    simp [KeepsBut, RegistersKept, enterTrap, regAt, hout]
  · exact .refl p x

end

/-! Taking a trap, whatever its sub-reason. -/

theorem strmAt_takeTrapAt_sub (s : State) (t : Nat) (sk : Strm) (c : Cause) (v r : Word) (n : Nat) :
    strmAt (takeTrapAt s t sk c v r n) t sk = trapped (strmAt s t sk) c v r := by
  unfold takeTrapAt trapped
  simp only [strmAt_abandonCfg, strmAt_dropWatch]
  split <;> simp [deliverTrap]

theorem strmAt_takeTrapAt_sub_other (s : State) {t u : Nat} {sk j : Strm} (c : Cause) (v r : Word) (n : Nat) (h : (u, j) ≠ (t, sk)) :
    strmAt (takeTrapAt s t sk c v r n) u j = strmAt s u j := by
  unfold takeTrapAt
  simp only [strmAt_abandonCfg, strmAt_dropWatch]
  split <;> simp [deliverTrap, strmAt_setStrm_other _ _ _ _ _ _ h]

theorem sameOutside_takeTrapAt_sub (s : State) (t : Nat) (sk : Strm) (c : Cause) (v r : Word) (n : Nat) :
    SameOutside s (takeTrapAt s t sk c v r n) := by
  have h := (sameOutside_dropWatch s t sk).trans (sameOutside_abandonCfg (dropWatch s t sk) t sk)
  unfold takeTrapAt
  dsimp only
  split
  · exact h.trans (sameOutside_setStrm _ _ _ _)
  · exact (h.trans (sameOutside_setStrm _ _ _ _)).trans (sameOutside_offer _ _)

/-! States that keep everything but one register of the acting stream. -/

/-- The next state keeps every register but one of the acting stream, the other streams, and the units. -/
def ChangesOnly (p : Nat) (s t : State) : Prop := KeepsBut p (cur s) (cur t) ∧ OthersKept s t ∧ UnitsKept s t

theorem ChangesOnly.refl (p : Nat) (s : State) : ChangesOnly p s s := by
  simp [ChangesOnly, KeepsBut.refl, OthersKept, RegistersKept, UnitsKept]

/-- What lies outside the tiles and the records is kept in whole. -/
theorem unitsKept_of_sameOutside {s t : State} (h : SameOutside s t) : UnitsKept s t := by
  rw [h]
  simp [UnitsKept]

theorem cur_of_sameOutside {s t : State} (h : SameOutside s t) : cur t = strmAt t s.curTile s.curStrm := by
  have ht : t.curTile = s.curTile := by rw [h]
  have hk : t.curStrm = s.curStrm := by rw [h]
  rw [cur, ht, hk]

theorem changesOnly_takeTrap (p : Nat) (s : State) (c : Cause) (v r : Word) (n : Nat) : ChangesOnly p s (takeTrap s c v r n) := by
  have hout : SameOutside s (takeTrap s c v r n) := sameOutside_takeTrapAt_sub s s.curTile s.curStrm c v r n
  refine ⟨?_, fun u sk hne => ?_, unitsKept_of_sameOutside hout⟩
  · rw [cur_of_sameOutside hout, takeTrap, strmAt_takeTrapAt_sub]
    exact keepsBut_trapped ..
  · rw [takeTrap, strmAt_takeTrapAt_sub_other _ _ _ _ _ hne]
    simp [RegistersKept]

/-- A word that retires with its stream changed in one register alone changes nothing else. -/
theorem changesOnly_retire {p : Nat} {s : State} {x : Stream} (tk : BitVec 4) (f : Flow) (h : KeepsContextBut p (cur s) x) :
    ChangesOnly p s (retire (setCur s x) tk f) := by
  have hout : SameOutside s (retire (setCur s x) tk f) := (sameOutside_setCur s x).trans (sameOutside_retire ..)
  have hx : strmAt (setCur s x) s.curTile s.curStrm = x := strmAt_setStrm_same ..
  refine ⟨?_, fun u sk hne => ?_, unitsKept_of_sameOutside hout⟩
  · have hadv := h.trans (keepsContextBut_advanced p (setCur s x) x f)
    rw [cur_of_sameOutside hout]
    rcases strmAt_retireAt (setCur s x) s.curTile s.curStrm tk f with hr | ⟨v, hr⟩
    · exact (hr.trans (by rw [hx])) ▸ hadv.1
    · exact (hr.trans (by rw [hx])) ▸ hadv.keeps (keepsBut_trapped ..)
  · obtain ⟨l, r, a, b, hr⟩ := strmAt_retireAt_other (setCur s x) s.curTile u s.curStrm sk tk f hne
    rw [setCur, strmAt_setStrm_other _ _ _ _ _ _ hne] at hr
    have hr' : strmAt (retire (setCur s x) tk f) u sk = withTokens (strmAt s u sk) l r a b := hr
    rw [hr']
    simp [RegistersKept]

/-! Words whose checks end in such a state. -/

/-- Whatever a list of checks lets through satisfies a condition. -/
def EndsIn (P : State → Prop) (m : Chk State) : Prop := ∀ t, m = .ok t → P t

theorem endsIn_ok {P : State → Prop} {t : State} (h : P t) : EndsIn P (.ok t) := fun _ e => by
  injection e with e
  exact e ▸ h

theorem endsIn_error {P : State → Prop} {e : Stop} : EndsIn P (.error e) := fun _ h => nomatch h

theorem endsIn_bind {α : Type} {P : State → Prop} {x : Chk α} {f : α → Chk State} (h : ∀ a, EndsIn P (f a)) : EndsIn P (x >>= f) := by
  cases x with
  | ok a => exact h a
  | error e => exact endsIn_error

/-- A word whose checks end in a state that keeps all but a register does so when it goes on, waits or traps. -/
theorem changesOnly_issue {p : Nat} {s t : State} {m : Chk State} (hm : EndsIn (ChangesOnly p s) m) (h : issue s m = .next t) :
    ChangesOnly p s t := by
  rcases issue_cases h with hok | rfl | ⟨c, v, n, -, rfl⟩
  · exact hm t hok
  · exact .refl p t
  · exact changesOnly_takeTrap p s c v _ n

/-! The shapes of the words that write one register. Each reads its sources, waits for its tokens and its destination, and retires. -/

/-- An outcome that goes on, waits or traps with one register of the acting stream changed. -/
def WritesOnly (s : State) (d : BitVec 5) (out : Out) : Prop := ∀ t, out = .next t → ChangesOnly (physReg (cur s) d) s t

theorem writesOnly_issue {s : State} {d : BitVec 5} {m : Chk State} (h : EndsIn (ChangesOnly (physReg (cur s) d) s) m) :
    WritesOnly s d (issue s m) := fun _ => changesOnly_issue h

/-- A word that retires with a result put in its register. -/
theorem endsIn_put {s : State} {d : BitVec 5} {tk tk' : BitVec 4} {v : Word} {f : Flow} :
    EndsIn (ChangesOnly (physReg (cur s) d) s) (.ok (retire (setCur s (putReg (popBits (cur s) tk) d v)) tk' f)) :=
  endsIn_ok (changesOnly_retire tk' f ((keepsContextBut_popBits ..).putReg v))

/-- A word that retires with a result on its way to its register. -/
theorem endsIn_later {s : State} {d : BitVec 5} {tk tk' : BitVec 4} {v : Word} {kd : LandKind} {f : Flow} :
    EndsIn (ChangesOnly (physReg (cur s) d) s) (.ok (retire (setCur s (landLater (popBits (cur s) tk) d v kd)) tk' f)) :=
  endsIn_ok (changesOnly_retire tk' f ((keepsContextBut_popBits ..).landLater v kd none))

theorem alu2_writesOnly (f : Word → Word → Word) (o : FormA2) (s : State) : WritesOnly s o.d (alu2 f o s) :=
  writesOnly_issue (endsIn_bind fun _ => endsIn_bind fun _ => endsIn_bind fun _ => endsIn_bind fun _ => endsIn_put)

theorem alu3_writesOnly (f : Word → Word → Word → Word) (o : FormA2) (s : State) : WritesOnly s o.d (alu3 f o s) :=
  writesOnly_issue (endsIn_bind fun _ => endsIn_bind fun _ => endsIn_bind fun _ => endsIn_bind fun _ => endsIn_bind fun _ =>
    endsIn_put)

theorem alu2Later_writesOnly (f : Word → Word → Word) (o : FormA2) (s : State) : WritesOnly s o.d (alu2Later f o s) :=
  writesOnly_issue (endsIn_bind fun _ => endsIn_bind fun _ => endsIn_bind fun _ => endsIn_bind fun _ => endsIn_later)

theorem aluDiv_writesOnly (f : Word → Word → Word) (o : FormA2) (s : State) : WritesOnly s o.d (aluDiv f o s) :=
  writesOnly_issue (endsIn_bind fun _ => endsIn_bind fun _ => endsIn_bind fun _ => endsIn_bind fun _ => endsIn_bind fun _ =>
    endsIn_later)

theorem alu1_writesOnly (f : Word → Word) (o : FormA1) (s : State) : WritesOnly s o.d (alu1 f o s) :=
  writesOnly_issue (endsIn_bind fun _ => endsIn_bind fun _ => endsIn_bind fun _ => endsIn_put)

theorem aluImm_writesOnly (f : Word → Word → Word) (o : FormI) (s : State) : WritesOnly s o.d (aluImm f o s) :=
  writesOnly_issue (endsIn_bind fun _ => endsIn_bind fun _ => endsIn_bind fun _ => endsIn_put)

theorem aluShift_writesOnly (f : Word → Nat → Word) (o : FormISh) (s : State) : WritesOnly s o.d (aluShift f o s) :=
  writesOnly_issue (endsIn_bind fun _ => endsIn_bind fun _ => endsIn_bind fun _ => endsIn_put)

theorem aluLea_writesOnly (f : Word → Word → Word) (o : FormALea) (s : State) : WritesOnly s o.d (aluLea f o s) :=
  writesOnly_issue (endsIn_bind fun _ => endsIn_bind fun _ => endsIn_bind fun _ => endsIn_bind fun _ => endsIn_put)

theorem execLih_writesOnly (o : FormLih) (s : State) : WritesOnly s o.d (execLih o s) :=
  writesOnly_issue (endsIn_bind fun _ => endsIn_bind fun _ => endsIn_put)

theorem execJl_writesOnly (o : FormJ) (s : State) : WritesOnly s 15 (execJl o s) :=
  writesOnly_issue (endsIn_bind fun _ => endsIn_bind fun _ => endsIn_put)

theorem execJli_writesOnly (o : FormA1) (s : State) : WritesOnly s o.d (execJli o s) :=
  writesOnly_issue (endsIn_bind fun _ => endsIn_bind fun _ => endsIn_bind fun _ => endsIn_put)

theorem fpCode2_writesOnly (f : FloatFmt → Nat → Nat → Nat) (o : FormF2) (s : State) : WritesOnly s o.d (fpCode2 f o s) :=
  writesOnly_issue (endsIn_bind fun _ => endsIn_bind fun _ => endsIn_bind fun _ => endsIn_bind fun _ => endsIn_later)

theorem fpCode1_writesOnly (f : FloatFmt → Nat → Nat) (o : FormF1) (s : State) : WritesOnly s o.d (fpCode1 f o s) :=
  writesOnly_issue (endsIn_bind fun _ => endsIn_bind fun _ => endsIn_bind fun _ => endsIn_put)

theorem nearLoad_writesOnly (signed : Bool) (n : Nat) (o : FormM) (s : State) : WritesOnly s o.r (nearLoad signed n o s) :=
  writesOnly_issue (endsIn_bind fun _ => endsIn_bind fun _ => endsIn_bind fun _ => endsIn_bind fun _ => endsIn_bind fun _ =>
    endsIn_bind fun _ => endsIn_ok (changesOnly_retire _ _
      (((keepsContextBut_popBits ..).trans (keepsContextBut_noteSeen ..)).landLater ..)))

theorem execSsrd_writesOnly (o : FormSReg) (s : State) : WritesOnly s o.r (execSsrd o s) := by
  refine writesOnly_issue ?_
  dsimp only
  split
  · exact endsIn_error
  · exact endsIn_bind fun _ => endsIn_bind fun _ => endsIn_put

theorem execHqry_writesOnly (o : FormDA) (s : State) : WritesOnly s o.d (execHqry o s) :=
  writesOnly_issue (endsIn_bind fun _ => endsIn_bind fun _ => endsIn_bind fun _ => endsIn_later)

theorem execCfgq_writesOnly (o : FormDA) (s : State) : WritesOnly s o.d (execCfgq o s) :=
  writesOnly_issue (endsIn_bind fun _ => endsIn_bind fun _ => endsIn_bind fun _ => endsIn_later)

theorem execQcnt_writesOnly (o : FormQCnt) (s : State) : WritesOnly s o.d (execQcnt o s) :=
  writesOnly_issue (endsIn_bind fun _ => endsIn_bind fun _ => endsIn_put)

theorem execQpeek_writesOnly (o : FormQPop) (s : State) : WritesOnly s o.d (execQpeek o s) := by
  refine writesOnly_issue (endsIn_bind fun _ => endsIn_bind fun _ => ?_)
  dsimp only
  split
  · exact endsIn_ok (changesOnly_retire _ _ (((keepsContextBut_popBits ..).trans (keepsContextBut_learn ..)).putReg _))
  · exact endsIn_bind fun _ => endsIn_error

/-- A word that writes one general register changes nothing else, by its shape. -/
theorem plain_writesOnly {i : Instr} {d : BitVec 5} (s : State) (h : plainDest i = some d) : WritesOnly s d (exec i s) := by
  cases i with
  | add o | sub o | and o | or o | xor o | andn o | shl o | shr o | sar o | rot o | min o | max o | minz o | maxz o | slt o | sltz o
  | seq o | bext o | addw o => cases h; exact alu2_writesOnly _ o s
  | sel o | bins o => cases h; exact alu3_writesOnly _ o s
  | mul o | mulh o | mulhz o => cases h; exact alu2Later_writesOnly _ o s
  | div o | divz o | rem o | remz o => cases h; exact aluDiv_writesOnly _ o s
  | clz o | popc o => cases h; exact alu1_writesOnly _ o s
  | addi o => cases h; rw [exec_addi]; exact aluImm_writesOnly _ o s
  | andi o => cases h; rw [exec_andi]; exact aluImm_writesOnly _ o s
  | ori o => cases h; rw [exec_ori]; exact aluImm_writesOnly _ o s
  | xori o => cases h; rw [exec_xori]; exact aluImm_writesOnly _ o s
  | slti o => cases h; rw [exec_slti]; exact aluImm_writesOnly _ o s
  | shli o => cases h; rw [exec_shli]; exact aluShift_writesOnly _ o s
  | shri o => cases h; rw [exec_shri]; exact aluShift_writesOnly _ o s
  | sari o => cases h; rw [exec_sari]; exact aluShift_writesOnly _ o s
  | lea o | leas o => cases h; exact aluLea_writesOnly _ o s
  | lih o => cases h; exact execLih_writesOnly o s
  | jl o => cases h; exact execJl_writesOnly o s
  | jli o => cases h; exact execJli_writesOnly o s
  | fmin o => cases h; rw [exec_fmin]; exact fpCode2_writesOnly _ o s
  | fmax o => cases h; rw [exec_fmax]; exact fpCode2_writesOnly _ o s
  | fcmp o => cases h; rw [exec_fcmp]; exact fpCode2_writesOnly _ o s
  | fabs o => cases h; rw [exec_fabs]; exact fpCode1_writesOnly _ o s
  | fneg o => cases h; rw [exec_fneg]; exact fpCode1_writesOnly _ o s
  | ldb o | ldbz o | ldh o | ldhz o | ldw o | ldwz o | ldd o => cases h; exact nearLoad_writesOnly _ _ o s
  | ssrd o => cases h; exact execSsrd_writesOnly o s
  | hqry o => cases h; exact execHqry_writesOnly o s
  | cfgq o => cases h; exact execCfgq_writesOnly o s
  | qpeek o => cases h; exact execQpeek_writesOnly o s
  | qcnt o => cases h; exact execQcnt_writesOnly o s
  | _ => cases h

/-- Settles O8: each shape retires with one register changed, waits with nothing changed, or traps with its record alone changed. -/
theorem registerWordsChangeOnlyTheirDestination : Obligations.RegisterWordsChangeOnlyTheirDestination := by
  intro i d s t hd hexec
  obtain ⟨⟨hregs, hfe, hsr, hkept⟩, hothers, hunits⟩ := plain_writesOnly s hd t hexec
  exact ⟨hregs, hfe, hsr, hkept, hothers, hunits⟩

end Sys2Proof.Proofs
end

/-! PROOFS. The order in which a word tests its sources, its tokens and its destination. -/
section

namespace Sys2Proof.Proofs

open Sys2Proof Sys2Proof.Machine Sys2Proof.Claims

/-! Sources and destinations that stop a word (R119 to R122). -/

section
variable {st : Stream} {r : BitVec 5} {p : Nat}

/-- An empty source under its trap bit raises EMPTY_REG (R120). -/
theorem readSrc_empty_trap (hp : physReg st r = p) (h0 : p ≠ 0) (hf : (regAt st p).full = false) :
    readSrc st r true = .error (.trap .emptyReg (BitVec.ofNat 64 (r.toNat + 2 ^ 8 * p))) := by
  subst hp
  simp [readSrc, h0, hf]

/-- An empty source without its trap bit is waited for (R120). -/
theorem readSrc_empty_wait (hp : physReg st r = p) (h0 : p ≠ 0) (hf : (regAt st p).full = false) :
    readSrc st r false = .error .stall := by
  subst hp
  simp [readSrc, h0, hf]

/-- A source with a result still to land is waited for (R121). -/
theorem readSrc_landing (hp : physReg st r = p) (h0 : p ≠ 0) (hf : (regAt st p).full = true) (hl : landPending st p = true) (ta : Bool) :
    readSrc st r ta = .error .stall := by
  subst hp
  simp [readSrc, h0, hf, hl]

/-- A marked source raises POISON with the address of its mark (R122). -/
theorem readSrc_poisoned {a : Word} (hp : physReg st r = p) (h0 : p ≠ 0) (hf : (regAt st p).full = true)
    (hl : landPending st p = false) (hm : (regAt st p).poison = some a) (ta : Bool) :
    readSrc st r ta = .error (.trap .poison a) := by
  subst hp
  simp [readSrc, h0, hf, hl, hm]

end

/-- A destination that cannot be written is waited for (R121). -/
theorem destReady_stall {s : State} {d : BitVec 5} (h : ¬ Writes s d) : destReady (cur s) d = .error .stall := by
  simp only [Writes, not_or, not_and, Bool.not_eq_false] at h
  obtain ⟨h0, hl⟩ := h
  cases hf : (regAt (cur s) (physReg (cur s) d)).full with
  | false => simp [destReady, waitFor, h0, hf]
  | true => simp [destReady, waitFor, h0, hf, hl hf]

/-! The tests of a word in their order. -/

/-- A list of checks that begins with the reading of some sources in turn, what follows satisfying a condition for every value read. -/
def ReadsFirst (st : Stream) (P : Chk State → Prop) : List (BitVec 5 × Bool) → Chk State → Prop
  | [], m => P m
  | x :: xs, m => ∃ k : Word → Chk State, m = (readSrc st x.1 x.2 >>= k) ∧ ∀ v, ReadsFirst st P xs (k v)

/-- Checks that make their word wait where its tokens are missing or its destination cannot be written. -/
def WaitsFor (s : State) (n : Needs) (m : Chk State) : Prop :=
  ((cur s).fromLeft < n.left ∨ (cur s).fromRight < n.right → m = .error .stall) ∧
    ∀ d, n.dst = some d → ¬ Writes s d → m = .error .stall

/-- A word that reads the sources of its form in turn and then waits for its tokens and its destination, before anything else. -/
def TestsItsNeeds (s : State) (i : Instr) : Prop :=
  ∃ m, exec i s = issue s m ∧ ReadsFirst (cur s) (WaitsFor s (needsOf i)) (needsOf i).srcs m

/-- Past sources that read as values, the checks that follow decide. -/
theorem readsFirst_values {s : State} {P : Chk State → Prop} {m : Chk State} (pre : List (BitVec 5 × Bool)) {rest : List (BitVec 5 × Bool)}
    (hpre : ∀ x ∈ pre, ∃ v, Reads s x.1 v) (h : ReadsFirst (cur s) P (pre ++ rest) m) : ReadsFirst (cur s) P rest m := by
  induction pre generalizing m with
  | nil => exact h
  | cons x xs ih =>
    obtain ⟨k, rfl, hk⟩ := h
    obtain ⟨v, hv⟩ := hpre x List.mem_cons_self
    rw [readSrc_of_reads hv, chk_bind_ok]
    exact ih (fun y hy => hpre y (List.mem_cons_of_mem x hy)) (hk v)

/-- The first source that does not read as a value stops the checks. -/
theorem readsFirst_stops {s : State} {P : Chk State → Prop} {m : Chk State} {pre post : List (BitVec 5 × Bool)} {r : BitVec 5} {ta : Bool}
    {e : Stop} (hpre : ∀ x ∈ pre, ∃ v, Reads s x.1 v) (h : ReadsFirst (cur s) P (pre ++ (r, ta) :: post) m)
    (he : readSrc (cur s) r ta = .error e) : m = .error e := by
  obtain ⟨k, hm, -⟩ := readsFirst_values pre hpre h
  rw [hm, he, chk_bind_error]

/-! Tokens and destinations after the sources. -/

theorem lt_one_if {b : Bool} {n : Nat} (h : n < if b then 1 else 0) : b = true ∧ n = 0 := by
  cases b <;> simp_all

/-- The tokens of a token field are missing where a FIFO holds fewer than the word needs. -/
theorem tokensReady_missing {st : Stream} {tk : BitVec 4} (h : st.fromLeft < (if tkWL tk then 1 else 0) ∨ st.fromRight < (if tkWR tk then 1 else 0)) :
    tokensReady st tk = .error .stall := tokensReady_stall (h.imp lt_one_if lt_one_if)

section
variable {s : State} {i : Instr} {tk : BitVec 4} {a b c d : BitVec 5} {ta tb tc : Bool}

/-- A word without a destination waits for its tokens. -/
theorem waitsFor_tokens {srcs : List (BitVec 5 × Bool)} (k : Unit → Chk State) :
    WaitsFor s (needTk tk srcs none) (tokensReady (cur s) tk >>= k) :=
  ⟨fun h => by rw [tokensReady_missing h, chk_bind_error], fun _ h => nomatch h⟩

/-- A word with a destination waits for its tokens, and then for its destination. -/
theorem waitsFor_tokens_dest {srcs : List (BitVec 5 × Bool)} (k : Unit → Chk State) :
    WaitsFor s (needTk tk srcs (some d)) (tokensReady (cur s) tk >>= fun _ => destReady (cur s) d >>= k) := by
  refine ⟨fun h => by rw [tokensReady_missing h, chk_bind_error], fun e he hw => ?_⟩
  cases he
  rcases tokensReady_cases (cur s) tk with ht | ht
  · rw [ht, chk_bind_ok, destReady_stall hw, chk_bind_error]
  · rw [ht, chk_bind_error]

/-! The forms of R45 to R60: no, one, two or three sources, with and without a destination. -/

theorem tests_none {k : Unit → Chk State} (hn : needsOf i = needTk tk [] none) (h : exec i s = issue s (tokensReady (cur s) tk >>= k)) :
    TestsItsNeeds s i := by
  refine ⟨_, h, ?_⟩
  rw [hn]
  exact waitsFor_tokens k

theorem tests_none_dest {k : Unit → Chk State} (hn : needsOf i = needTk tk [] (some d))
    (h : exec i s = issue s (tokensReady (cur s) tk >>= fun _ => destReady (cur s) d >>= k)) : TestsItsNeeds s i := by
  refine ⟨_, h, ?_⟩
  rw [hn]
  exact waitsFor_tokens_dest k

theorem tests_one {k : Word → Unit → Chk State} (hn : needsOf i = needTk tk [(a, ta)] none)
    (h : exec i s = issue s (readSrc (cur s) a ta >>= fun x => tokensReady (cur s) tk >>= k x)) : TestsItsNeeds s i := by
  refine ⟨_, h, ?_⟩
  rw [hn]
  exact ⟨_, rfl, fun x => waitsFor_tokens (k x)⟩

theorem tests_one_dest {k : Word → Unit → Chk State} (hn : needsOf i = needTk tk [(a, ta)] (some d))
    (h : exec i s = issue s (readSrc (cur s) a ta >>= fun x => tokensReady (cur s) tk >>= fun _ => destReady (cur s) d >>= k x)) :
    TestsItsNeeds s i := by
  refine ⟨_, h, ?_⟩
  rw [hn]
  exact ⟨_, rfl, fun x => waitsFor_tokens_dest (k x)⟩

theorem tests_two {k : Word → Word → Unit → Chk State} (hn : needsOf i = needTk tk [(a, ta), (b, tb)] none)
    (h : exec i s = issue s (readSrc (cur s) a ta >>= fun x => readSrc (cur s) b tb >>= fun y => tokensReady (cur s) tk >>= k x y)) :
    TestsItsNeeds s i := by
  refine ⟨_, h, ?_⟩
  rw [hn]
  exact ⟨_, rfl, fun x => ⟨_, rfl, fun y => waitsFor_tokens (k x y)⟩⟩

theorem tests_two_dest {k : Word → Word → Unit → Chk State} (hn : needsOf i = needTk tk [(a, ta), (b, tb)] (some d))
    (h : exec i s = issue s (readSrc (cur s) a ta >>= fun x => readSrc (cur s) b tb >>= fun y =>
      tokensReady (cur s) tk >>= fun _ => destReady (cur s) d >>= k x y)) : TestsItsNeeds s i := by
  refine ⟨_, h, ?_⟩
  rw [hn]
  exact ⟨_, rfl, fun x => ⟨_, rfl, fun y => waitsFor_tokens_dest (k x y)⟩⟩

theorem tests_three_dest {k : Word → Word → Word → Unit → Chk State} (hn : needsOf i = needTk tk [(a, ta), (b, tb), (c, tc)] (some d))
    (h : exec i s = issue s (readSrc (cur s) a ta >>= fun x => readSrc (cur s) b tb >>= fun y => readSrc (cur s) c tc >>= fun z =>
      tokensReady (cur s) tk >>= fun _ => destReady (cur s) d >>= k x y z)) : TestsItsNeeds s i := by
  refine ⟨_, h, ?_⟩
  rw [hn]
  exact ⟨_, rfl, fun x => ⟨_, rfl, fun y => ⟨_, rfl, fun z => waitsFor_tokens_dest (k x y z)⟩⟩⟩

end

/-! Words whose tests take another form. -/

/-- What TKW needs: no register, the tokens of its field, and those that it counts on its side (R157). -/
theorem needsOf_tkw (o : FormTk) :
    needsOf (.tkw o) = { left := (if tkWL o.tk then 1 else 0) + (if o.right then 0 else o.n1.toNat + 1)
                         right := (if tkWR o.tk then 1 else 0) + (if o.right then o.n1.toNat + 1 else 0) } := by
  cases h : o.right <;> simp [needsOf, needTk, h, Nat.add_assoc]

/-- TKW waits for its own tokens and for those that it counts, in two tests. -/
theorem tkw_tests (o : FormTk) (s : State) : TestsItsNeeds s (.tkw o) := by
  refine ⟨_, exec_tkw o s, ?_⟩
  rw [needsOf_tkw]
  refine ⟨fun h => ?_, fun _ h => nomatch h⟩
  rcases tokensReady_cases (cur s) o.tk with ht | ht
  · dsimp only
    rw [ht, chk_bind_ok]
    have hown : ¬ ((cur s).fromLeft < (if tkWL o.tk then 1 else 0) ∨ (cur s).fromRight < (if tkWR o.tk then 1 else 0)) := fun h' => by
      rw [tokensReady_missing h'] at ht
      cases ht
    have hfew : ¬ o.n1.toNat + 1 + (if (if o.right then tkWR o.tk else tkWL o.tk) then 1 else 0) ≤ tokens (cur s) o.right := by
      cases hr : o.right <;> simp [hr, tokens] at h hown ⊢ <;> omega
    simp only [waitFor, decide_eq_false hfew]
    rfl
  · dsimp only
    rw [ht, chk_bind_error]

/-- An atomic other than ACAS reads two sources (R169). -/
theorem atomic_tests {i : Instr} {op : AtomicOp} (o : FormAtomic) (s : State) (hop : op ≠ .cas) (hi : exec i s = atomicOp op o s)
    (hn : needsOf i = needTk o.tk [(o.a, false), (o.b, false)] (some o.d)) : TestsItsNeeds s i := by
  refine ⟨_, hi, ?_⟩
  rw [hn]
  refine ⟨_, rfl, fun x => ⟨_, rfl, fun y => ?_⟩⟩
  rw [if_neg hop, chk_bind_ok]
  exact waitsFor_tokens_dest _

/-- ACAS also reads its destination. -/
theorem acas_tests (o : FormAtomic) (s : State) : TestsItsNeeds s (.acas o) := by
  refine ⟨_, rfl, _, rfl, fun x => ⟨_, rfl, fun y => ?_⟩⟩
  rw [if_pos rfl]
  exact ⟨_, rfl, fun z => waitsFor_tokens_dest _⟩

/-- A stream whose tile's configuration unit serves nobody has no instruction of its own in service there (R253). -/
theorem myCfg_none {s : State} (h : (tileOf s s.curTile).cfg = none) : myCfg s = none := by
  simp [myCfg, h]

theorem cfgld_tests (o : FormAB) {s : State} (h : (tileOf s s.curTile).cfg = none) : TestsItsNeeds s (.cfgld o) := by
  refine ⟨_, rfl, ?_⟩
  rw [myCfg_none h]
  exact ⟨_, rfl, fun x => ⟨_, rfl, fun y => waitsFor_tokens _⟩⟩

theorem rack_tests (o : FormA) {s : State} (h : (tileOf s s.curTile).cfg = none) : TestsItsNeeds s (.rack o) := by
  refine ⟨_, rfl, ?_⟩
  rw [myCfg_none h]
  exact ⟨_, rfl, fun x => waitsFor_tokens _⟩

theorem kiln_tests (o : FormA) {s : State} (h : (tileOf s s.curTile).cfg = none) : TestsItsNeeds s (.kiln o) := by
  refine ⟨_, rfl, ?_⟩
  rw [myCfg_none h]
  exact ⟨_, rfl, fun x => waitsFor_tokens _⟩


/-- Every word but SSWR that has sources or a destination of its form, or names tokens, tests them first; ERET, SSRD, SSWR, RDVZ and PIS
have tests of their own before. -/
theorem word_tests {i : Instr} {s : State} (hcfg : (tileOf s s.curTile).cfg = none) (h1 : ∀ o, i ≠ .sswr o) :
    TestsItsNeeds s i ∨ (needsOf i).srcs = [] ∧
      (needsOf i = {} ∨ (∃ o, i = .eret o) ∨ (∃ o, i = .ssrd o) ∨ ∃ o, i = .rdvz o) := by
  cases i with
  | add o | sub o | and o | or o | xor o | andn o | shl o | shr o | sar o | rot o | min o | max o | minz o | maxz o | slt o | sltz o
  | seq o | bext o | addw o | mul o | mulh o | mulhz o | div o | divz o | rem o | remz o => exact .inl (tests_two_dest rfl rfl)
  | sel o | bins o | ffma o => exact .inl (tests_three_dest rfl rfl)
  | clz o | popc o | jli o => exact .inl (tests_one_dest rfl rfl)
  | lea o | leas o => exact .inl (tests_two_dest rfl rfl)
  | ji o => exact .inl (tests_one rfl rfl)
  | fadd o | fsub o | fmul o | fmin o | fmax o | fcmp o => exact .inl (tests_two_dest rfl rfl)
  | fabs o | fneg o | frcp o | frsq o | fcvt o => exact .inl (tests_one_dest rfl rfl)
  | addi o | andi o | ori o | xori o | slti o | shli o | shri o | sari o => exact .inl (tests_one_dest rfl rfl)
  | ldb o | ldbz o | ldh o | ldhz o | ldw o | ldwz o | ldd o => exact .inl (tests_one_dest rfl rfl)
  | stb o | sth o | stw o | std o => exact .inl (tests_two rfl rfl)
  | lih o | jl o | qpop o | qpeek o | qcnt o => exact .inl (tests_none_dest rfl rfl)
  | beq o | bne o | blt o | bge o | blo o | bhs o => exact .inl (tests_two rfl rfl)
  | j o | brloop o | tks o | phase o | fencx o | sleep o | halt o | yld o | rrbs o | trap o | brk o => exact .inl (tests_none rfl rfl)
  | loop o | qpush o | tlbi o | ireg o | accd o | rfree o | rinv o | rgo o | garm o | sigh o => exact .inl (tests_one rfl rfl)
  | waitw o | rbind o => exact .inl (tests_two_dest rfl rfl)
  | hgive o | orel o | epil o | thaw o | gset o | tbld o | tbsv o | ared o | emit o => exact .inl (tests_two rfl rfl)
  | htake o | hqry o | oclm o | taskw o | rqry o | cfgq o | rcnt o => exact .inl (tests_one_dest rfl rfl)
  | aadd o | amin o | amax o | aminz o | amaxz o | aand o | aor o | axor o | axch o =>
    exact .inl (atomic_tests o s (by decide) rfl rfl)
  | acas o => exact .inl (acas_tests o s)
  | tkw o => exact .inl (tkw_tests o s)
  | cfgld o => exact .inl (cfgld_tests o hcfg)
  | rack o => exact .inl (rack_tests o hcfg)
  | kiln o => exact .inl (kiln_tests o hcfg)
  | sswr o => exact absurd rfl (h1 o)
  | eret o => exact .inr ⟨rfl, .inr (.inl ⟨o, rfl⟩)⟩
  | ssrd o => exact .inr ⟨rfl, .inr (.inr (.inl ⟨o, rfl⟩))⟩
  | rdvz o => exact .inr ⟨rfl, .inr (.inr (.inr ⟨o, rfl⟩))⟩
  | _ => exact .inr ⟨rfl, .inl rfl⟩

theorem emptyAndMarkedSourcesStopTheWord : EmptyAndMarkedSourcesStopTheWord := by
  intro i s pre post r ta p hsswr hsrcs hissue hcfg hpre hp h0
  obtain ⟨m, hexec, hreads⟩ | ⟨hnone, -⟩ := word_tests hcfg hsswr
  case inr => simp [hnone] at hsrcs
  rw [hsrcs] at hreads
  have stops : ∀ {e}, readSrc (cur s) r ta = .error e → m = .error e := readsFirst_stops hpre hreads
  refine ⟨fun hf hta => ?_, fun hf hta => ?_, fun hf hl => ?_, fun a hf hl hm => ?_⟩
  · subst hta
    exact hexec.trans (issue_trap hissue (stops (readSrc_empty_trap hp h0 hf)))
  · subst hta
    exact hexec.trans (issue_stall (stops (readSrc_empty_wait hp h0 hf)))
  · exact hexec.trans (issue_stall (stops (readSrc_landing hp h0 hf hl ta)))
  · exact hexec.trans (issue_trap hissue (stops (readSrc_poisoned hp h0 hf hl hm ta)))

theorem wordsWaitForTokensAndDestination : WordsWaitForTokensAndDestination := by
  intro i s heret hssrd hsswr hrdvz _ hissue hcfg hsrcs
  obtain ⟨m, hexec, hreads⟩ | ⟨-, hnone | ⟨o, rfl⟩ | ⟨o, rfl⟩ | ⟨o, rfl⟩⟩ := word_tests hcfg hsswr
  · rw [← List.append_nil (needsOf i).srcs] at hreads
    obtain ⟨htokens, hdest⟩ := readsFirst_values _ hsrcs hreads
    exact ⟨fun h => hexec.trans (issue_stall (htokens h)), fun d hd hw => hexec.trans (issue_stall (hdest d hd hw))⟩
  · simp [hnone]
  · exact absurd rfl (heret o)
  · exact absurd rfl (hssrd o)
  · exact absurd rfl (hrdvz o)

/-- Settles O14: every word of R45 to R60 reads its sources in turn, then tests its tokens, then its destination. -/
theorem wordsWaitForTheirOperandsOrTrap : Obligations.WordsWaitForTheirOperandsOrTrap :=
  ⟨emptyAndMarkedSourcesStopTheWord, wordsWaitForTokensAndDestination⟩

end Sys2Proof.Proofs
end


/-! PROOFS. The interrupts, the waits and the end of a stream (R178, R381, R385 to R387). -/

section

namespace Sys2Proof.Proofs

open Sys2Proof Sys2Proof.Machine Sys2Proof.Claims Sys2Proof.Laws

/-! Interrupt lines. -/

theorem KeepsBut.ipend_eq {p : Nat} {x y : Stream} (h : KeepsBut p x y) : y.ipend = x.ipend := by
  obtain ⟨-, -, -, -, -, -, -, -, hp, -⟩ := h
  exact hp

/-- Retirement moves no interrupt line of any stream. -/
theorem retire_ipend (s : State) (tk : BitVec 4) (f : Flow) (u : Nat) (j : Strm) :
    (strmAt (retire s tk f) u j).ipend = (strmAt s u j).ipend := by
  unfold retire
  by_cases h : (u, j) = (s.curTile, s.curStrm)
  · obtain ⟨rfl, rfl⟩ := Prod.mk.inj h
    have hadv := keepsContextBut_advanced 0 s (strmAt s s.curTile s.curStrm) f
    rcases strmAt_retireAt s s.curTile s.curStrm tk f with hr | ⟨v, hr⟩
    · rw [hr, hadv.1.ipend_eq]
    · rw [hr, (hadv.keeps (keepsBut_trapped ..)).ipend_eq]
  · obtain ⟨l, r, a, b, hr⟩ := strmAt_retireAt_other s s.curTile u s.curStrm j tk f h
    rw [hr]

theorem setLine_ipend {st : Stream} (l : Nat) (h : st.halted = false) : (setLine st l).ipend = st.ipend ||| (1#64 <<< l) := by
  simp [setLine, h]

/-- A stream with a line to take is out of its trap context and has interrupts enabled. -/
theorem takesInContext_of_line {st : Stream} {l : Nat} (h : takeableLine st = some l) : TakesInContext st .intr := by
  unfold takeableLine at h
  split at h
  · exact absurd h (by simp)
  · next hn =>
    rw [Bool.not_eq_true, Bool.or_eq_false_iff, Bool.not_eq_false'] at hn
    exact hn

/-- A cause that the stream takes in its context enters the handler there. -/
theorem trapped_in_context {st : Stream} {c : Cause} (v r : Word) (h : TakesInContext st c) : trapped st c v r = enterTrap st c v r := by
  simp [trapped, takenInContext, h.1, h.2]

theorem takeTrapAt_mem (s : State) (t : Nat) (sk : Strm) (c : Cause) (v r : Word) : (takeTrapAt s t sk c v r).mem = s.mem := by
  rw [sameOutside_takeTrapAt s t sk c v r]

theorem cfgCommitted_none {s : State} {t : Nat} (sk : Strm) (h : (tileOf s t).cfg = none) : cfgCommitted s t sk = false := by
  simp [cfgCommitted, h]

/-- At a boundary of a stream that waits for nothing, an enabled pending line is taken as an interrupt. -/
theorem execIntr_boundary {s : State} {t : Nat} {sk : Strm} {l : Nat} (hl : takeableLine (strmAt s t sk) = some l)
    (hrun : (strmAt s t sk).running = true) (hhalt : (strmAt s t sk).halted = false) (hwait : (strmAt s t sk).wait = .none)
    (hcfg : (tileOf s t).cfg = none) :
    exec (.intr t sk) s = .next (takeTrapAt (setStrm s t sk (strmAt s t sk)) t sk .intr (BitVec.ofNat 64 l) (strmAt s t sk).pc) := by
  change execIntr t sk s = _
  simp [execIntr, hl, hrun, hhalt, hwait, cfgCommitted_none sk hcfg, abandon]

/-- The state of a stream that has issued a word, its WL and WR tokens popped. -/
def issuedState (s : State) (tk : BitVec 4) : State := setCur s (popBits (cur s) tk)

/-- Issue moves no interrupt line, and neither starts nor ends a stream. -/
theorem strmAt_issuedState_line (s : State) (tk : BitVec 4) (u : Nat) (j : Strm) :
    (strmAt (issuedState s tk) u j).ipend = (strmAt s u j).ipend ∧
      (strmAt (issuedState s tk) u j).halted = (strmAt s u j).halted := by
  by_cases h : (u, j) = (s.curTile, s.curStrm)
  · obtain ⟨rfl, rfl⟩ := Prod.mk.inj h
    simp [issuedState, setCur, cur]
  · rw [issuedState, setCur, strmAt_setStrm_other _ _ _ _ _ _ h]
    exact ⟨rfl, rfl⟩

/-- IREG raises the line of the stream that its operand names in the block. -/
theorem execIreg_line {o : FormIreg} {s : State} {a : Word} {t : Nat} (hi : Issues s o.tk) (ha : Reads s o.a a)
    (ht : (blockOf s s.curTile)[wf64 a 9 2]? = some t) :
    exec (.ireg o) s = .next (retire (setStrm (issuedState s o.tk) t (strmOf (wf64 a 1 0))
      (setLine (strmAt (issuedState s o.tk) t (strmOf (wf64 a 1 0))) o.vec.toNat)) o.tk .seq) := by
  refine issue_ok (canIssue_of_issues hi) ?_
  simp only [readSrc_of_reads ha, tokensReady_of_issues hi, chk_bind_ok, ht]
  rfl

theorem interruptLinesAreRaisedAndTaken : InterruptLinesAreRaisedAndTaken := by
  refine ⟨fun o s a t hi ha _ _ ht hhalt => ?ireg, fun s t sk l hl hrun hhalt hwait hcfg => ?intr,
    fun s t sk h0 hfrom hnow hhalt => ?timer⟩
  case ireg =>
    obtain ⟨hip, hha⟩ := strmAt_issuedState_line s o.tk t (strmOf (wf64 a 1 0))
    refine ⟨_, execIreg_line hi ha ht, ?_⟩
    rw [retire_ipend, strmAt_setStrm_same, setLine_ipend _ (hha.trans hhalt), hip]
  case intr =>
    refine ⟨_, execIntr_boundary hl hrun hhalt hwait hcfg, ?_⟩
    rw [strmAt_takeTrapAt, takeTrapAt_mem, strmAt_setStrm_same, trapped_in_context _ _ (takesInContext_of_line hl)]
    exact ⟨rfl, rfl, rfl, rfl, rfl, rfl, rfl⟩
  case timer =>
    refine ⟨_, if_pos ⟨h0, hfrom, hnow⟩, ?_⟩
    rw [strmAt_setStrm_same]
    simp [setLine, hhalt]

/-! SLEEP and YLD. -/

/-- A stream that no wait holds any more. -/
def awake (st : Stream) : Stream := { st with wait := .none }

/-- The stream that a sleep leaves when it ends, where nothing is due and its word pushes no token. -/
theorem strmAt_endSleep {s : State} {t : Nat} {sk : Strm} {tk : BitVec 4} (hover : (strmAt s t sk).overDue = [])
    (hloop : NoLoopEnd (strmAt s t sk)) (hl : tkSL tk = false) (hr : tkSR tk = false) :
    strmAt (endSleep s t sk tk) t sk = movedTo s (awake (strmAt s t sk)) ((strmAt s t sk).pc + 4) := by
  have hret := (strmAt_retireAt_room (setStrm s t sk (awake (strmAt s t sk))) t sk tk .seq
    (by simp [hl]) (by simp [hr])).1
  rw [strmAt_setStrm_same, advanced_no_loop (st := awake (strmAt s t sk)) hloop] at hret
  have hsame : endSleep s t sk tk = retireAt (setStrm s t sk (awake (strmAt s t sk))) t sk tk .seq :=
    takeOverDue_nil (s := retireAt (setStrm s t sk (awake (strmAt s t sk))) t sk tk .seq) (by rw [hret]; exact hover)
  rw [hsame, hret]
  rfl

/-- A line that ends a sleep is taken at the word after it. -/
theorem strmAt_intrAfterSleep {s : State} {t : Nat} {sk : Strm} {tk : BitVec 4} {l : Nat} (hl : takeableLine (strmAt s t sk) = some l)
    (hover : (strmAt s t sk).overDue = []) (hloop : NoLoopEnd (strmAt s t sk)) (hsl : tkSL tk = false) (hsr : tkSR tk = false) :
    strmAt (intrAfterSleep (endSleep s t sk tk) t sk l) t sk =
      enterTrap (movedTo s (awake (strmAt s t sk)) ((strmAt s t sk).pc + 4)) .intr (BitVec.ofNat 64 l)
        ((strmAt s t sk).pc + 4) := by
  have he := strmAt_endSleep (tk := tk) hover hloop hsl hsr
  have hl' : takeableLine (movedTo s (awake (strmAt s t sk)) ((strmAt s t sk).pc + 4)) = some l := hl
  unfold intrAfterSleep
  dsimp only
  rw [he, hl', if_pos (by rfl), strmAt_takeTrapAt, he, trapped_in_context _ _ (takesInContext_of_line hl')]
  rfl

theorem execIntr_asleep {s : State} {t : Nat} {sk : Strm} {l : Nat} {tk : BitVec 4}
    (hwait : (strmAt s t sk).wait = .sleepIntr tk ∨ (∃ f, (strmAt s t sk).wait = .sleepUntil f tk))
    (hl : takeableLine (strmAt s t sk) = some l) (hrun : (strmAt s t sk).running = true) (hhalt : (strmAt s t sk).halted = false)
    (hcfg : (tileOf s t).cfg = none) : exec (.intr t sk) s = .next (intrAfterSleep (endSleep s t sk tk) t sk l) := by
  change execIntr t sk s = _
  rcases hwait with hw | ⟨f, hw⟩ <;> simp [execIntr, hl, hrun, hhalt, hw, cfgCommitted_none sk hcfg]

theorem mem_yldOthers (s : State) (t : Nat) (sk j : Strm) (n : Nat) :
    (j, n) ∈ yldOthers s t sk ↔ j ≠ sk ∧ readyNow s t j = true ∧ n = (strmAt s t j).issued := by
  have hall : j ∈ [Strm.k, Strm.l, Strm.c, Strm.w] := by cases j <;> simp
  unfold yldOthers
  rw [List.mem_map]
  constructor
  · rintro ⟨i, hi, he⟩
    obtain ⟨rfl, rfl⟩ := Prod.mk.inj he
    simpa using (List.mem_filter.mp hi).2
  · rintro ⟨hne, hready, rfl⟩
    exact ⟨j, List.mem_filter.mpr ⟨hall, by simp [hne, hready]⟩, rfl⟩

/-! Writes at the ports, which leave the tiles and the front end as they were. -/

/-- The two states agree but for memory, its log and its poison, the dies' counters, the watches and the versions of reuse entries. -/
def PortsOnly (s t : State) : Prop :=
  t = { s with mem := t.mem, poison := t.poison, wlog := t.wlog, wnext := t.wnext, dies := t.dies, watches := t.watches, reuse := t.reuse }

theorem PortsOnly.refl (s : State) : PortsOnly s s := rfl

theorem PortsOnly.trans {s t u : State} (h : PortsOnly s t) (g : PortsOnly t u) : PortsOnly s u := by
  unfold PortsOnly at h g ⊢
  rw [h] at g
  exact g

theorem portsOnly_foldl {α : Type} {f : State → α → State} (h : ∀ s x, PortsOnly s (f s x)) (xs : List α) (s : State) :
    PortsOnly s (xs.foldl f s) := by
  induction xs generalizing s with
  | nil => exact .refl s
  | cons x xs ih => exact (h s x).trans (ih (f s x))

theorem portsOnly_putByte (s : State) (g : Agent) (p : Nat) (v : Byte) : PortsOnly s (putByte s g p v) := rfl

theorem portsOnly_putBytes (s : State) (g : Agent) (p : Nat) (bs : List Byte) : PortsOnly s (putBytes s g p bs) := by
  induction bs generalizing s p with
  | nil => exact .refl s
  | cons b bs ih => exact (portsOnly_putByte s g p b).trans (ih ..)

theorem portsOnly_putBelow (s : State) (g : Agent) (n p : Nat) (v : Byte) : PortsOnly s (putBelow s g n p v) := by
  unfold putBelow
  dsimp only
  split <;> rfl

theorem portsOnly_scrubGranule (s : State) (g : Agent) (p n gr : Nat) : PortsOnly s (scrubGranule s g p n gr) := by
  unfold scrubGranule
  split
  · rfl
  · exact (portsOnly_foldl (fun t a => portsOnly_putByte t g a 0) _ s).trans rfl

theorem portsOnly_writeAt (s : State) (g : Agent) (p : Nat) (bs : List Byte) : PortsOnly s (writeAt s g p bs) :=
  ((portsOnly_foldl (fun t gr => portsOnly_scrubGranule t g p bs.length gr) _ s).trans (portsOnly_putBytes ..)).trans rfl

theorem portsOnly_raiseSpan (s : State) (c : List Nat) (b : Option Nat) (w : Bool) : PortsOnly s (raiseSpan s c b w) := by
  unfold raiseSpan
  split <;> rfl

theorem portsOnly_writePlaced (n : Nat) (g : Agent) (s : State) (x : Nat × Byte) : PortsOnly s (writePlaced n g s x) := by
  unfold writePlaced
  split
  · exact portsOnly_putBelow ..
  · exact portsOnly_writeAt ..

theorem portsOnly_publishOne (t : Nat) (sk : Strm) (sc : Scope) (s : State) (x : Posted) : PortsOnly s (publishOne t sk sc s x) := by
  have hraised : ∀ c, PortsOnly s (if x.watch then raiseSpan s c else s) := fun c => by
    split
    · exact portsOnly_raiseSpan ..
    · exact .refl s
  unfold publishOne
  dsimp only
  split
  · exact (hraised _).trans (portsOnly_writeAt ..)
  · exact (hraised _).trans (portsOnly_foldl (portsOnly_writePlaced _ _) _ _)

/-! Publication (R178). -/

/-- A stream whose every earlier write a release point of number n has published. -/
def published (st : Stream) (n : Nat) : Stream :=
  { st with posted := [], know := { st.know with rels := st.know.rels ++ [n] }, rels := st.rels ++ [n] }

/-- A store counts towards a publication of every address. -/
theorem publishes_all (x : Posted) : (x.bytes.isEmpty || (span x.addr x.bytes.length).any fun _ => true) = true := by
  cases hx : x.bytes <;> simp [span]

/-- The ports after a stream's posted stores are published, and its earlier ones at a wider scope. -/
def portsAfter (s : State) (t : Nat) (sk : Strm) (sc : Scope) : State :=
  widen ((strmAt s t sk).posted.foldl (publishOne t sk sc) s) t sk sc fun _ => true

theorem portsOnly_portsAfter (s : State) (t : Nat) (sk : Strm) (sc : Scope) : PortsOnly s (portsAfter s t sk sc) :=
  (portsOnly_foldl (portsOnly_publishOne t sk sc) _ s).trans rfl

theorem PortsOnly.strmAt_eq {s t : State} (h : PortsOnly s t) (u : Nat) (j : Strm) : strmAt t u j = strmAt s u j := by
  rw [h]
  rfl

/-- A stream that holds no store. -/
def emptied (st : Stream) : Stream := { st with posted := [] }

/-- A publication of every write acts on the ports, and leaves its stream without a store. -/
theorem publishIf_all (s : State) (t : Nat) (sk : Strm) (sc : Scope) :
    publishIf s t sk sc (fun _ => true) = setStrm (portsAfter s t sk sc) t sk (emptied (strmAt s t sk)) := by
  have h : publishIf s t sk sc (fun _ => true) =
      setStrm (portsAfter s t sk sc) t sk (emptied (strmAt (portsAfter s t sk sc) t sk)) := by
    simp only [publishIf, publishes_all, List.filter_true, Bool.not_true, List.filter_false]
    rfl
  rw [h, (portsOnly_portsAfter s t sk sc).strmAt_eq]

/-- The release point that a publication of every write notes. -/
def relPtOf (s : State) (t : Nat) (sk : Strm) (sc : Scope) (q : Option Path) : RelPt :=
  { tile := t, strm := sk, scope := sc, upto := (portsAfter s t sk sc).wnext, know := (published (strmAt s t sk) s.nextRel).know
    span := none, toPath := q }

/-- A state with one release point more. -/
def noted (s : State) (r : RelPt) : State := { s with rels := mset s.rels s.nextRel r, nextRel := s.nextRel + 1 }

theorem publish_eq (s : State) (t : Nat) (sk : Strm) (sc : Scope) (q : Option Path) :
    publish s t sk sc q = setStrm (noted (setStrm (portsAfter s t sk sc) t sk (emptied (strmAt s t sk))) (relPtOf s t sk sc q)) t sk
      (published (strmAt s t sk) s.nextRel) := by
  have hrel : (portsAfter s t sk sc).nextRel = s.nextRel := by rw [portsOnly_portsAfter s t sk sc]
  unfold publish releaseIn relPtOf
  dsimp only
  rw [publishIf_all, strmAt_setStrm_same, ← hrel]
  rfl

/-- Where a publication of every write leaves its stream, and what it notes. -/
theorem publish_effect (s : State) (t : Nat) (sk : Strm) (sc : Scope) (q : Option Path) :
    strmAt (publish s t sk sc q) t sk = published (strmAt s t sk) s.nextRel ∧
      mget? (publish s t sk sc q).rels s.nextRel = some (relPtOf s t sk sc q) ∧
      (publish s t sk sc q).wnext = (relPtOf s t sk sc q).upto ∧ (publish s t sk sc q).curTile = s.curTile ∧
      (publish s t sk sc q).curStrm = s.curStrm := by
  have hout := portsOnly_portsAfter s t sk sc
  rw [publish_eq]
  refine ⟨strmAt_setStrm_same .., ?_, rfl, ?_, ?_⟩
  · change mget? (mset (portsAfter s t sk sc).rels (portsAfter s t sk sc).nextRel _) s.nextRel = _
    have hrel : (portsAfter s t sk sc).nextRel = s.nextRel := by rw [hout]
    rw [hrel, mget?_mset_same]
  · exact (congrArg State.curTile hout :)
  · exact (congrArg State.curStrm hout :)

/-- A publication moves no token. -/
theorem pushedTokens_publish (s : State) (t : Nat) (sk : Strm) (sc : Scope) (q : Option Path) (right : Bool) :
    pushedTokens (publish s t sk sc q) t sk right = pushedTokens s t sk right := by
  rw [publish_eq, pushedTokens_setStrm_own]
  change pushedTokens (setStrm (portsAfter s t sk sc) t sk (emptied (strmAt s t sk))) t sk right = _
  rw [pushedTokens_setStrm_own]
  simp only [pushedTokens, (portsOnly_portsAfter s t sk sc).strmAt_eq]

/-! HALT. -/

theorem haltPush_room {s : State} {t : Nat} {sk : Strm} {tk : BitVec 4} (hl : tkSL tk = true → pushedTokens s t sk false < 8)
    (hr : tkSR tk = true → pushedTokens s t sk true < 8) : haltPush s t sk tk = (pushBits s t sk (tkSL tk) (tkSR tk)).1 := by
  obtain ⟨hnone, -⟩ := pushBits_room hl hr
  simp [haltPush, hnone]

/-- A stream that HALT ends: it has published what it holds, and counts as arrived at every later rendezvous. -/
def ended (s : State) (x : Stream) : Stream :=
  { x with halted := true, pc := (cur s).pc + 4, lastIssue := s.fab, issued := (cur s).issued + 1, rdvzKnow := x.know }

/-- The state in which HALT has published every earlier write, before its pushes. -/
def haltedState (s : State) (tk : BitVec 4) : State :=
  setCur (publish (issuedState s tk) s.curTile s.curStrm .system)
    (ended s (cur (publish (issuedState s tk) s.curTile s.curStrm .system)))

theorem execHalt_ends {o : FormS0} {s : State} (hi : Issues s o.tk) (hland : loadsLanded (cur s) = true)
    (hat : atomicsOf s s.curTile s.curStrm = []) : exec (.halt o) s = .next (haltPush (haltedState s o.tk) s.curTile s.curStrm o.tk) := by
  refine issue_ok (canIssue_of_issues hi) ?_
  simp only [tokensReady_of_issues hi, hland, hat, List.isEmpty_nil, waitFor_true, chk_bind_ok]
  rfl

theorem execHalt_waits {o : FormS0} {s : State} (h : loadsLanded (cur s) = false ∨ atomicsOf s s.curTile s.curStrm ≠ []) :
    exec (.halt o) s = .next s := by
  refine issue_stall ?_
  rcases tokensReady_cases (cur s) o.tk with ht | ht
  · cases hland : loadsLanded (cur s)
    · simp [ht, hland, waitFor]
    · have hat : (atomicsOf s s.curTile s.curStrm).isEmpty = false := by simpa [hland] using h
      simp [ht, hland, hat, waitFor]
  · simp [ht]

/-- What HALT leaves where its pushes find room: its stream has ended, with everything published at SYSTEM. -/
theorem halt_effect {s : State} {tk : BitVec 4} (hroom : PushRoom s tk) :
    cur (haltPush (haltedState s tk) s.curTile s.curStrm tk) = ended s (published (popBits (cur s) tk) s.nextRel) ∧
      (haltPush (haltedState s tk) s.curTile s.curStrm tk).rels = (publish (issuedState s tk) s.curTile s.curStrm .system).rels ∧
      (haltPush (haltedState s tk) s.curTile s.curStrm tk).wnext = (publish (issuedState s tk) s.curTile s.curStrm .system).wnext := by
  obtain ⟨hst, -, -, htile, hstrm⟩ := publish_effect (issuedState s tk) s.curTile s.curStrm .system none
  have hcur : cur (publish (issuedState s tk) s.curTile s.curStrm .system) = published (popBits (cur s) tk) s.nextRel := by
    rw [cur, htile, hstrm]
    exact hst.trans (by simp [issuedState, setCur])
  have hhalted : haltedState s tk = setStrm (publish (issuedState s tk) s.curTile s.curStrm .system) s.curTile s.curStrm
      (ended s (published (popBits (cur s) tk) s.nextRel)) := by
    rw [haltedState, hcur, setCur, htile, hstrm]
    rfl
  have hpush : ∀ right, pushedTokens (haltedState s tk) s.curTile s.curStrm right = pushedTokens s s.curTile s.curStrm right := by
    intro right
    rw [hhalted, pushedTokens_setStrm_own, pushedTokens_publish]
    exact pushedTokens_setStrm_own ..
  have hout := sameOutside_pushBits (haltedState s tk) s.curTile s.curStrm (tkSL tk) (tkSR tk)
  rw [haltPush_room (by rw [hpush]; exact hroom.1) (by rw [hpush]; exact hroom.2)]
  refine ⟨?_, by rw [hout]; rfl, by rw [hout]; rfl⟩
  have htile' : (haltedState s tk).curTile = s.curTile := by rw [hhalted]; exact htile
  have hstrm' : (haltedState s tk).curStrm = s.curStrm := by rw [hhalted]; exact hstrm
  rw [cur_of_sameOutside hout, htile', hstrm', pushBits_own, hhalted, strmAt_setStrm_same]

/-- YLD that retires where no loop ends waits for the streams that are ready. -/
theorem execYld_waits {o : FormS0} {s : State} (hi : Issues s o.tk) (hloop : NoLoopEnd (cur s)) (hroom : PushRoom s o.tk) :
    ∃ t, exec (.yld o) s = .next t ∧ cur t = { movedTo (issuedState s o.tk) (popBits (cur s) o.tk) ((cur s).pc + 4) with
      wait := .yld s.core (yldOthers s s.curTile s.curStrm) } := by
  have hroom' : PushRoom (issuedState s o.tk) o.tk :=
    ⟨fun h => by exact (pushedTokens_setStrm_own ..).trans_lt (hroom.1 h), fun h => by exact (pushedTokens_setStrm_own ..).trans_lt (hroom.2 h)⟩
  have hcur : cur (retire (issuedState s o.tk) o.tk .seq) = movedTo (issuedState s o.tk) (popBits (cur s) o.tk) ((cur s).pc + 4) := by
    rw [cur_retire_room .seq hroom', issuedState, cur_setCur, advanced_no_loop (by simpa [NoLoopEnd] using hloop)]
    simp
  have hwait : (cur (retire (issuedState s o.tk) o.tk .seq)).wait = .none := by
    rw [hcur]
    obtain ⟨-, -, hnone, -⟩ := hi
    simpa [movedTo] using hnone
  refine ⟨setCur (retire (issuedState s o.tk) o.tk .seq) { cur (retire (issuedState s o.tk) o.tk .seq) with
    wait := .yld s.core (yldOthers s s.curTile s.curStrm) }, issue_ok (canIssue_of_issues hi) ?_, by rw [cur_setCur, hcur]⟩
  simp only [tokensReady_of_issues hi, chk_bind_ok]
  exact congrArg Except.ok (if_pos hwait)

theorem waitsEndAndHaltPublishes : WaitsEndAndHaltPublishes := by
  refine ⟨fun o s hi => ?sleep, fun s t sk l tk hwait hl hrun hhalt hcfg hover hloop hsl hsr => ?wake,
    fun s t sk f tk hwait hf hover hloop hsl hsr => ?expiry, fun o s hi hloop hroom => ?yld, mem_yldOthers,
    fun s t sk c xs hwait hover => ?yldExpiry, fun o s hi hland hat hroom => ?halt, fun o s _ h => execHalt_waits h⟩
  case sleep =>
    refine ⟨_, issue_ok (canIssue_of_issues hi) (by simp only [tokensReady_of_issues hi, chk_bind_ok]; rfl), ?_⟩
    rw [cur_setCur]
    simp
  case wake =>
    refine ⟨_, execIntr_asleep hwait hl hrun hhalt hcfg, ?_⟩
    rw [strmAt_intrAfterSleep hl hover hloop hsl hsr]
    exact ⟨rfl, rfl, rfl, rfl⟩
  case expiry =>
    refine ⟨endSleep s t sk tk, by change execSleepExpiry t sk s = _; simp [execSleepExpiry, hwait, hf], ?_⟩
    rw [strmAt_endSleep hover hloop hsl hsr]
    exact ⟨rfl, rfl⟩
  case yld =>
    obtain ⟨t, ht, hcur⟩ := execYld_waits hi hloop hroom
    refine ⟨t, ht, ?_⟩
    rw [hcur]
    simp [movedTo]
  case yldExpiry =>
    refine ⟨setStrm s t sk (awake (strmAt s t sk)), ?_, strmAt_setStrm_same ..⟩
    have hdue : (decide (c + 4 ≤ s.core) || xs.all fun (j, n) => decide (n < (strmAt s t j).issued)) = true := by
      simpa [List.all_eq_true] using hover
    change execYldExpiry t sk s = _
    simp only [execYldExpiry, hwait, hdue, if_true]
    rfl
  case halt =>
    obtain ⟨-, hrel, hupto, -, -⟩ := publish_effect (issuedState s o.tk) s.curTile s.curStrm .system none
    obtain ⟨hcur, hrels, hwnext⟩ := halt_effect hroom
    refine ⟨_, relPtOf (issuedState s o.tk) s.curTile s.curStrm .system none, execHalt_ends hi hland hat, ?_⟩
    rw [hcur, hrels, hwnext]
    exact ⟨rfl, rfl, by simp [ended, published], rfl, by simp [ended, published], hrel, rfl, hupto.symm⟩

/-- Settles O36: an interrupt enters the handler through the rule of taking a trap, a sleep ends by a retirement before it, and HALT's
publication is the writes of its posted stores at the ports, followed by a release point at SYSTEM. -/
theorem interruptsAndWaitsActOnTheirStream : Obligations.InterruptsAndWaitsActOnTheirStream :=
  ⟨interruptLinesAreRaisedAndTaken, waitsEndAndHaltPublishes⟩

end Sys2Proof.Proofs
end


/-! PROOFS. The words of the reuse table (R293 to R301). -/

section

namespace Sys2Proof.Proofs

open Sys2Proof Sys2Proof.Machine Sys2Proof.Claims Sys2Proof.Laws

/-- A STEP descriptor whose input and output bins lie in L2 page 0. -/
def binsDesc : List Word :=
  [0, BitVec.ofNat 64 (2 * 2 ^ 46), BitVec.ofNat 64 (2 ^ 40 + 2 ^ 16), 0x0300000000000000, 0x0300000000000040, 0, 0, 0]

/-- A stream that can issue, with the near address of a descriptor and a LID in two of its registers. -/
def binder : Stream := { running := true, regs := [(3, { val := 7 }), (4, { val := 0x0100000000000040 })] }

/-- Tile 0 standing for a context whose number has 13 bits, 4096, that maps L2 page 0 by the entry at 0x1000; context 0 maps it by the entry
at 0x2000. An entry of the reuse table holds 12 bits of its context's number, so the two share one. -/
def wideContext : State :=
  { tiles := [(0, { k := binder, standing := some 4096 })]
    mem := memWrite (memWrite [] 0x1000 (leBytes 8 5)) (scratchBase 0 + 0x40) (binsDesc.flatMap fun w => leBytes 8 w.toNat)
    fe := { ctxs := [(0, { words := [BitVec.ofNat 64 (1 * 2 ^ 16), 0, 0, 0x2000, 8] }), (4096, { words := [0, 0, 0, 0x1000, 8] })] } }

/-- An RBIND of the descriptor at 0x40 of the scratchpad. -/
def rbindDesc : FormDAB := ⟨6, 4, 3, 0⟩

/-- The entry that RBIND reads from the descriptor. -/
def wideEntry : REntry := descEntry binsDesc (ctxPasid wideContext 4096) 4096 7

/-- Whether a step completes with the byte at an address changed. -/
def changesByte (s : State) (q : Nat) : Out → Bool
  | .next t => memGet t.mem q != memGet s.mem q
  | _ => false

theorem exists_of_changesByte {s : State} {q : Nat} {out : Out} (h : changesByte s q out = true) :
    ∃ t, out = .next t ∧ memGet t.mem q ≠ memGet s.mem q := by
  cases out with
  | next t => exact ⟨t, rfl, by simpa [changesByte] using h⟩
  | _ => exact absurd h Bool.false_ne_true

theorem wideContext_reads : Reads wideContext rbindDesc.a 0x0100000000000040 ∧ Reads wideContext rbindDesc.b 7 := by decide +kernel

/-- What RBIND reads of the descriptor. -/
theorem nearSpan_wideContext : nearSpan wideContext 0x0100000000000040 64 = .ok (binsDesc.flatMap fun w => leBytes 8 w.toNat) := by
  decide +kernel

theorem descEntry_wideContext : descEntry (wordsOf 8 (binsDesc.flatMap fun w => leBytes 8 w.toNat))
    (ctxPasid wideContext (ctxnOf wideContext wideContext.curTile)) (ctxnOf wideContext wideContext.curTile) (wf64 7 15 0) = wideEntry := by
  decide +kernel

/-- RBIND marks the leaf of the context of 12 bits, at 0x2000. -/
theorem rbind_marks_other_context : changesByte wideContext 0x2007 (exec (.rbind rbindDesc) wideContext) = true := by decide +kernel

/-- The leaves of the regions in the context of the tile lie elsewhere. -/
theorem leaves_wideContext : ∀ l ∈ regionLeaves wideContext (ctxnOf wideContext wideContext.curTile) (entryRegions wideEntry),
    0x2007 < l.1 ∨ l.1 + 8 ≤ 0x2007 := by decide +kernel

/-- Refutes O39: a context of a tile may have any number in the model, while an entry holds 12 bits of it. On a tile that stands for
context 4096, RBIND binds for context 0 and sets the watch mark in that context's table, which is none of the leaves of the tile's own
context. -/
theorem not_reuseWordsAndEntriesAct : ¬ Obligations.ReuseWordsAndEntriesAct := by
  rintro ⟨-, ⟨hmarks, -, -⟩, -, -⟩
  obtain ⟨t, ht, hne⟩ := exists_of_changesByte rbind_marks_other_context
  obtain ⟨ha, hb⟩ := wideContext_reads
  exact hne (hmarks rbindDesc wideContext t _ _ _ wideEntry (by decide +kernel) rfl ha hb nearSpan_wideContext descEntry_wideContext ht _
    leaves_wideContext)

end Sys2Proof.Proofs
end


/-! PROOFS. Jobs (R25, R361, R429): the start of a job on its block, and what its completion leaves. -/

section

namespace Sys2Proof.Proofs

open Sys2Proof Sys2Proof.Machine Sys2Proof.Claims Sys2Proof.Laws

/-! Memory, as a job's section is loaded. -/

/-- The bytes of memory at the addresses of a test. -/
theorem memGet_filter {m : Mem} {lo : Nat} (f : Nat → Bool) (h : memSorted lo m = true) (y : Nat) :
    memGet (m.filter fun c => f c.1) y = if f y then memGet m y else memDefault := by
  induction m generalizing lo with
  | nil => simp [memGet]
  | cons p rest ih =>
    obtain ⟨a, b⟩ := p
    simp only [memSorted, Bool.and_eq_true] at h
    obtain ⟨⟨-, -⟩, hrest⟩ := h
    have hlow : y ≤ a → memGet rest y = memDefault := fun hy => memGet_low hrest (Nat.lt_succ_of_le hy)
    have hi := ih hrest
    by_cases hya : a = y
    · subst hya
      rw [hlow (Nat.le_refl a), ite_self] at hi
      cases hf : f a <;> simp [hf, memGet, hi]
    · by_cases hlt : y < a
      · rw [hlow hlt.le, ite_self] at hi
        cases hf : f a <;> simp [hf, memGet, hya, hlt, hi]
      · cases hf : f a <;> simp [hf, memGet, hya, hlt, hi]

/-- A byte of a write. -/
theorem memGet_write_in {m : Mem} (h : Memory.wf m = true) (x i : Nat) (bs : List Byte) (hi : i < bs.length) :
    memGet (memWrite m x bs) (x + i) = bs.getD i 0 := by
  induction bs generalizing m x i with
  | nil => exact absurd hi (Nat.not_lt_zero i)
  | cons b bs ih =>
    have hput : Memory.wf (memPut m x b) = true := memSorted_put x b h (Nat.zero_le x)
    cases i with
    | zero =>
      rw [memWrite, memGet_write_other hput _ _ _ (by omega), memGet_put h]
      simp
    | succ i =>
      rw [memWrite, show x + (i + 1) = x + 1 + i by omega, ih hput _ _ (by simpa using hi)]
      simp

/-- A tile's scratchpad, and the rest of memory, once a section is loaded. -/
theorem memGet_loadScratch {s : State} (u : Nat) (bs : List Byte) (h : Memory.wf s.mem = true) :
    (∀ m, m < bs.length → memGet (loadScratch s u bs).mem (scratchBase u + m) = bs.getD m 0) ∧
      ∀ q, q < scratchBase u ∨ scratchBase u + bs.length ≤ q →
        memGet (loadScratch s u bs).mem q = if inScratch u q then 0 else memGet s.mem q := by
  have hwf : Memory.wf (s.mem.filter fun c => !inScratch u c.1) = true := memSorted_filter _ h
  refine ⟨fun m hm => memGet_write_in hwf _ _ _ hm, fun q hq => ?_⟩
  change memGet (memWrite (s.mem.filter fun c => !inScratch u c.1) (scratchBase u) bs) q = _
  rw [memGet_write_other hwf _ _ _ hq, memGet_filter (fun x => !inScratch u x) h]
  cases inScratch u q <;> rfl

/-! The streams of a started job. -/

/-- The registers of a fresh stream hold its arguments from g1 on. -/
theorem mget_args (args : List Word) (k m : Nat) (a : Word) (h : args[m]? = some a) :
    mget ((args.zipIdx k).map fun p => (p.2 + 1, ({ val := p.1 } : Reg))) (k + m + 1) {} = { val := a } := by
  induction args generalizing k m with
  | nil => simp at h
  | cons b args ih =>
    cases m with
    | zero => simp_all [mget]
    | succ m =>
      have := ih (k + 1) m (by simpa using h)
      rw [show k + 1 + m + 1 = k + (m + 1) + 1 by omega] at this
      simpa [mget] using this

/-- A stream that a job has started at an entry of its section. -/
def StartedAt (j : Job) (pc : Nat) (st : Stream) : Prop :=
  st.running = true ∧ st.halted = false ∧ st.pc = BitVec.ofNat 64 pc ∧ st.fe = 1 ∧ st.tctx = false ∧
    ∀ m a, j.args[m]? = some a → mget st.regs (m + 1) {} = { val := a }

theorem startedAt_fresh (s : State) (j : Job) (pc : Nat) : StartedAt j pc (freshStream s pc j.args) := by
  refine ⟨rfl, rfl, rfl, rfl, rfl, fun m a h => ?_⟩
  have hreg := mget_args j.args 0 m a h
  rw [Nat.zero_add] at hreg
  exact hreg

/-- A tile whose streams a job has started at the entries of a section. -/
def TileStarted (no : Nat) (j : Job) (x : JobSec) (t : Tile) : Prop :=
  t.job = some no ∧ ∀ sk, StartedAt j (x.entries.getD (sidx sk) 0) (streamIn t sk)

theorem startTile_own {img : JobImage} {no : Nat} {j : Job} {s : State} {u i : Nat} {x : JobSec} (h : secOf img i = some x) :
    TileStarted no j x (tileOf (startTile img no j s (u, i)) u) := by
  simp only [startTile, h, tileOf_setTile_same]
  refine ⟨rfl, fun sk => ?_⟩
  cases sk <;> exact startedAt_fresh ..

theorem tileOf_loadScratch (s : State) (t u : Nat) (bs : List Byte) : tileOf (loadScratch s t bs) u = tileOf s u := rfl

theorem startTile_other {img : JobImage} {no : Nat} {j : Job} {s : State} {p : Nat × Nat} {u : Nat} (h : u ≠ p.1) :
    tileOf (startTile img no j s p) u = tileOf s u := by
  unfold startTile
  split
  · rfl
  · exact (tileOf_setTile_other _ _ _ _ h).trans (tileOf_loadScratch ..)

/-- The tiles of a block are started one after the other, each once. -/
theorem startTile_foldl {img : JobImage} {no : Nat} {j : Job} {x : JobSec} {u i : Nat} (ps : List (Nat × Nat)) (s : State)
    (hnd : (ps.map Prod.fst).Nodup) (hmem : (u, i) ∈ ps) (hsec : secOf img i = some x) :
    TileStarted no j x (tileOf (ps.foldl (startTile img no j) s) u) := by
  have later : ∀ (qs : List (Nat × Nat)) (s : State), u ∉ qs.map Prod.fst →
      tileOf (qs.foldl (startTile img no j) s) u = tileOf s u := by
    intro qs
    induction qs with
    | nil => exact fun _ _ => rfl
    | cons q qs ih =>
      intro s hq
      rw [List.map_cons, List.mem_cons, not_or] at hq
      exact (ih _ hq.2).trans (startTile_other hq.1)
  induction ps generalizing s with
  | nil => exact absurd hmem List.not_mem_nil
  | cons p ps ih =>
    rw [List.map_cons, List.nodup_cons] at hnd
    rcases List.mem_cons.mp hmem with rfl | hin
    · rw [List.foldl_cons, later ps _ hnd.1]
      exact startTile_own hsec
    · exact ih _ hnd.2 hin

/-! Handles, and the start of a job. -/

/-- What each step of a fold keeps, the fold keeps. -/
theorem foldl_keeps {α β γ : Type} (proj : β → γ) {f : β → α → β} (h : ∀ s x, proj (f s x) = proj s) (xs : List α) (s : β) :
    proj (xs.foldl f s) = proj s :=
  List.foldlRecOn xs f (motive := fun t => proj t = proj s) rfl fun t ht x _ => (h t x).trans ht

/-- The handles of a cluster are created in its table, in the scratchpads and in the job alone. -/
theorem createHandles_tiles (reqs : List Nat) (no : Nat) (s : State) (cl : Nat) : (createHandles reqs no s cl).tiles = s.tiles := by
  unfold createHandles
  split
  · rfl
  · dsimp only
    exact (foldl_keeps State.tiles (by exact fun _ _ => rfl) _ _).trans rfl

theorem createHandles_started {reqs : List Nat} {no : Nat} {s : State} (cl : Nat) (h : (mget? s.fe.jobs no).map (·.started) = some true) :
    (mget? (createHandles reqs no s cl).fe.jobs no).map (·.started) = some true := by
  unfold createHandles
  split
  · exact h
  · next j hj =>
    dsimp only
    rw [mget?_mset_same]
    rw [hj] at h
    exact h

/-- A job without requests writes no handle. -/
theorem createHandles_nil_mem (no : Nat) (s : State) (cl : Nat) : (createHandles [] no s cl).mem = s.mem := by
  unfold createHandles
  split
  · rfl
  · exact foldl_keeps State.mem (fun _ _ => rfl) _ _

/-- The job as its start leaves it, before its handles. -/
def startedJob (s : State) (img : JobImage) (j : Job) : Job :=
  { j with started := true, startedAt := s.fab, spans := jobSpans img j.tiles (secIdxs j.wholeClusters j.tiles) }

/-- The block of a job with its tiles started, before the handles are created. -/
def blockStarted (s : State) (no : Nat) (img : JobImage) (j : Job) : State :=
  let t := (j.tiles.zip (secIdxs j.wholeClusters j.tiles)).foldl (startTile img no j) s
  { t with fe := { t.fe with jobs := mset t.fe.jobs no (startedJob s img j) } }

theorem execJobStart_bound {s : State} {no : Nat} {j : Job} {img : JobImage} {reqs : List Nat} (hj : mget? s.fe.jobs no = some j)
    (hst : j.started = false) (hfit : handlesFit s j = true)
    (himg : readJob s j.ctxn j.jimg (secIdxs j.wholeClusters j.tiles) = .ok img) (hreqs : readReqs s j = some reqs) :
    exec (.jobStart no) s = .next ((blockClusters j.tiles).foldl (createHandles reqs no) (blockStarted s no img j)) := by
  change execJobStart no s = _
  simp only [execJobStart, hj, hst, startJob, hfit, himg, hreqs, Bool.not_true, Bool.false_eq_true, if_false]
  rfl

theorem secIdxs_length (wholeClusters : Bool) (tiles : List Nat) : (secIdxs wholeClusters tiles).length = tiles.length := by
  cases wholeClusters <;> simp [secIdxs]

/-- A job that starts is marked, and each tile of its block runs from its section. -/
theorem jobStart_effect {s : State} {no : Nat} {j : Job} {img : JobImage} (reqs : List Nat) (hnd : j.tiles.Nodup) :
    (mget? ((blockClusters j.tiles).foldl (createHandles reqs no) (blockStarted s no img j)).fe.jobs no).map (·.started) = some true ∧
      ∀ u i x, (u, i) ∈ j.tiles.zip (secIdxs j.wholeClusters j.tiles) → secOf img i = some x →
        TileStarted no j x (tileOf ((blockClusters j.tiles).foldl (createHandles reqs no) (blockStarted s no img j)) u) := by
  refine ⟨List.foldlRecOn _ _ (motive := fun t : State => (mget? t.fe.jobs no).map (·.started) = some true) ?_
    fun t ht cl _ => createHandles_started cl ht, fun u i x hmem hsec => ?_⟩
  · simp [blockStarted, startedJob]
  · have htiles := foldl_keeps State.tiles (createHandles_tiles reqs no) (blockClusters j.tiles) (blockStarted s no img j)
    have hfst : (j.tiles.zip (secIdxs j.wholeClusters j.tiles)).map Prod.fst = j.tiles :=
      List.map_fst_zip (secIdxs_length ..).ge
    rw [tileOf, htiles]
    exact startTile_foldl _ s (by rwa [hfst]) hmem hsec

/-- A job of one tile without requests, that starts. -/
theorem jobStart_one_tile {s : State} {no u : Nat} {j : Job} {img : JobImage} {x : JobSec} {bs : List Byte} (htiles : j.tiles = [u])
    (hwhole : j.wholeClusters = false) (hsec : secOf img 0 = some x) (hbs : secBytes s j.ctxn j.jimg x = some bs) :
    ((blockClusters j.tiles).foldl (createHandles [] no) (blockStarted s no img j)).mem = (loadScratch s u bs).mem := by
  rw [foldl_keeps State.mem (createHandles_nil_mem no)]
  simp [blockStarted, htiles, hwhole, secIdxs, startTile, hsec, hbs, setTile]

/-! The completion of a job. -/

/-- A tile is given up by a job that ends. -/
def freeTile (no : Nat) (s : State) (t : Nat) : State :=
  if (tileOf s t).job = some no then setTile s t { savedJobs := (tileOf s t).savedJobs }
  else setTile s t { tileOf s t with savedJobs := (tileOf s t).savedJobs.filter (· != no) }

theorem freeTile_same (no : Nat) (s : State) (t : Nat) : (tileOf (freeTile no s t) t).job ≠ some no := by
  unfold freeTile
  split
  · simp
  · next h => simpa using h

theorem freeTile_other (no : Nat) (s : State) {t u : Nat} (h : (tileOf s u).job ≠ some no) : (tileOf (freeTile no s t) u).job ≠ some no := by
  by_cases hu : u = t
  · subst hu
    exact freeTile_same no s u
  · unfold freeTile
    split <;> rwa [tileOf_setTile_other _ _ _ _ hu]

theorem freeTile_foldl (no : Nat) (ts : List Nat) (s : State) {u : Nat} (h : u ∈ ts) :
    (tileOf (ts.foldl (freeTile no) s) u).job ≠ some no := by
  induction ts generalizing s with
  | nil => exact absurd h List.not_mem_nil
  | cons t ts ih =>
    rw [List.foldl_cons]
    rcases List.mem_cons.mp h with rfl | hin
    · exact List.foldlRecOn ts (freeTile no) (motive := fun s => (tileOf s u).job ≠ some no) (freeTile_same no s u)
        fun s hs t _ => freeTile_other no s hs
    · exact ih _ hin

theorem mget?_mdel_same {α : Type} (m : FMap α) (k : Nat) : mget? (mdel m k) k = none := by
  induction m with
  | nil => rfl
  | cons p m ih =>
    by_cases h : p.1 = k <;> simp_all [mdel, mget?]

/-- A job that is released is no longer bound, and its tiles are free of it. -/
theorem releaseJob_effect (s : State) (no : Nat) (j : Job) : mget? (releaseJob s no j).fe.jobs no = none ∧
    ∀ t ∈ j.tiles, (tileOf (releaseJob s no j) t).job ≠ some no :=
  ⟨mget?_mdel_same _ _, fun t ht => by exact freeTile_foldl no j.tiles _ ht⟩

/-- A job is over once the streams of its tiles are, but for the launches that they wait with. -/
theorem streamOver_of_jobOver {s : State} {no : Nat} {j : Job} {t : Nat} (h : jobOver s no j = true) (ht : t ∈ j.tiles)
    (hjob : (tileOf s t).job = some no) (sk : Strm) : streamOver (waitingNexts s no) (strmAt s t sk) = true := by
  have htile : jobTile s no t = tileOf s t := if_pos hjob
  simp only [jobOver, Bool.and_eq_true, List.all_eq_true] at h
  obtain ⟨-, hall⟩ := h
  obtain ⟨⟨⟨hk, hl⟩, hc⟩, hw⟩ := hall t ht
  rw [htile] at hk hl hc hw
  cases sk
  · exact hk
  · exact hl
  · exact hc
  · exact hw

theorem jobsStartAndComplete : JobsStartAndComplete := by
  refine ⟨fun s no j hj => ⟨fun hst hfit => ?short, fun hst => ?started, fun hover => ?ended, fun hover => ?busy⟩,
    fun s no j img reqs hj hst hfit himg hreqs hnd => ⟨_, execJobStart_bound hj hst hfit himg hreqs, jobStart_effect reqs hnd⟩,
    fun s no u j img x bs hj hst htiles hwhole hreq himg hsec hbs hwf => ?image, fun s no j t hover ht hjob sk => ?streams,
    releaseJob_effect⟩
  case short =>
    change execJobStart no s = _
    simp [execJobStart, hj, hst, startJob, hfit]
  case started =>
    change execJobStart no s = _
    simp [execJobStart, hj, hst]
  case ended =>
    change execJobComplete no s = _
    simp [execJobComplete, hj, hover]
  case busy =>
    change execJobComplete no s = _
    simp [execJobComplete, hj, hover]
  case image =>
    have hfit : handlesFit s j = true := by simp [handlesFit, hreq]
    have hidx : secIdxs j.wholeClusters j.tiles = [0] := by rw [hwhole, htiles]; rfl
    refine ⟨_, execJobStart_bound (reqs := []) hj hst hfit (by rw [hidx]; exact himg) (by simp [readReqs, hreq]), ?_⟩
    rw [jobStart_one_tile htiles hwhole hsec hbs]
    obtain ⟨hin, hout⟩ := memGet_loadScratch u bs hwf
    refine ⟨hin, fun m hm hlt => ?_, fun q hq hside => ?_⟩
    · rw [hout _ (.inr (by omega)), if_pos (by simp [inScratch, hlt])]
    · rw [hout q hside, hq]
      rfl
  case streams =>
    have h := streamOver_of_jobOver hover ht hjob sk
    simpa [streamOver, and_assoc] using h

end Sys2Proof.Proofs
end


/-! PROOFS. The records of a graph (R355, R357, R358, R359, R433): what the front end's writes leave, signals, and the completion of a
graph. -/

section

namespace Sys2Proof.Proofs

open Sys2Proof Sys2Proof.Machine Sys2Proof.Claims Sys2Proof.Laws

/-! The front end's writes, which leave its graphs and queues as they were. -/

/-- The two states agree but for what a write of the front end reaches: the ports, the translations that a collapse drops, the writes that
waited for it, and the records offered. -/
def WritesPort (s t : State) : Prop :=
  t = { s with mem := t.mem, poison := t.poison, wlog := t.wlog, wnext := t.wnext, dies := t.dies, watches := t.watches, reuse := t.reuse
               tlb := t.tlb, held := t.held, fe := { s.fe with offers := t.fe.offers } }

theorem WritesPort.trans {s t u : State} (h : WritesPort s t) (g : WritesPort t u) : WritesPort s u := by
  unfold WritesPort at h g ⊢
  rw [h] at g
  exact g

theorem PortsOnly.writesPort {s t : State} (h : PortsOnly s t) : WritesPort s t := by
  unfold PortsOnly at h
  unfold WritesPort
  rw [h]

theorem WritesPort.graphs_eq {s t : State} (h : WritesPort s t) : t.fe.graphs = s.fe.graphs := by
  rw [h]

theorem writesPort_noteCollapse (s : State) (g : Agent) (p n : Nat) : WritesPort s (noteCollapse s g p n) := by
  unfold noteCollapse
  split
  · rfl
  · rfl

theorem writesPort_segsWrite (g : Agent) (but : Option Nat) (segs : List Seg) (bs : List Byte) (s : State) :
    WritesPort s (segsWrite s g but segs bs) := by
  induction segs generalizing s bs with
  | nil => rfl
  | cons x xs ih =>
    have hraised : PortsOnly s (if x.watch then raiseSpan s (changedBy s x.phys (bs.take x.len)) but else s) := by
      split
      · exact portsOnly_raiseSpan ..
      · exact .refl s
    exact ((hraised.trans (portsOnly_writeAt ..)).writesPort.trans (writesPort_noteCollapse ..)).trans (ih ..)

theorem writesPort_engWrite {s s1 : State} {w : Who} {a : Nat} {bs : List Byte} {own : Bool} {but : Option Nat}
    (h : engWrite s w a bs own but = .ok s1) : WritesPort s s1 := by
  unfold engWrite at h
  split at h
  · exact absurd h (by simp)
  · split at h
    · exact absurd h (by simp)
    · rw [← Except.ok.inj h]
      exact writesPort_segsWrite ..

theorem writesPort_collapsePage {s s1 : State} {ctxn die va keep base at_ : Nat} (h : collapsePage s ctxn die va = some (s1, keep, base, at_)) :
    WritesPort s s1 := by
  unfold collapsePage at h
  split at h
  · exact absurd h (by simp)
  · dsimp only at h
    split at h
    · exact absurd h (by simp)
    · obtain ⟨rfl, -⟩ := Prod.mk.inj (Option.some.inj h)
      have hdrop : ∀ f : TlbEntry → Bool, WritesPort s { s with tlb := s.tlb.filter f } := fun f => rfl
      exact ((hdrop _).trans (portsOnly_writeAt ..).writesPort).trans (portsOnly_writeAt ..).writesPort

theorem writesPort_frontWrite {s s1 : State} {ctxn a : Nat} {bs : List Byte} {k : Know} (h : frontWrite s ctxn a bs k = .ok s1) :
    WritesPort s s1 := by
  unfold frontWrite at h
  dsimp only at h
  split at h
  · split at h
    · split at h
      · exact absurd h (by simp)
      · next s2 keep base at_ hpage =>
        cases hw : engWrite s2 { feWho ctxn with know := k } a bs false with
        | error e => rw [hw] at h; exact absurd h (by simp [Except.map])
        | ok s3 =>
          rw [hw] at h
          rw [← Except.ok.inj h]
          exact ((writesPort_collapsePage hpage).trans (writesPort_engWrite hw)).trans rfl
    · exact writesPort_engWrite h
  · exact absurd h (by simp)

theorem writesPort_feField {s s1 : State} {ctxn a hi lo v : Nat} (h : feField s ctxn a hi lo v = .ok s1) : WritesPort s s1 := by
  unfold feField at h
  split at h
  · exact absurd h (by simp)
  · exact writesPort_frontWrite h

theorem writesPort_quietField (s : State) (ctxn a hi lo v : Nat) : WritesPort s (quietField s ctxn a hi lo v) := by
  unfold quietField
  split
  · next s1 h => exact writesPort_feField h
  · rfl

/-! The graphs of the front end. -/

theorem gid_of_graphOf {s : State} {gid : Nat} {g : Graph} (h : graphOf s gid = some g) : g.gid = gid := by
  simpa using List.find?_some h

/-- A graph found after an update of some graphs. -/
theorem graphOf_updGraph (s : State) (gid n : Nat) {f : Graph → Graph} (hf : ∀ g, (f g).gid = g.gid) :
    graphOf (updGraph s n f) gid = (graphOf s gid).map fun g => if g.gid = n then f g else g := by
  unfold graphOf updGraph
  dsimp only
  rw [List.find?_map]
  congr 2
  funext g
  simp only [Function.comp_apply]
  split <;> simp [hf]

/-- What a graph keeps of its first fault, once a write of its state has failed. -/
def lostMark (code : BitVec 8) (node : Nat) (g : Graph) : Graph :=
  { g with lost := true, faulted := true, fcode := if g.faulted then g.fcode else code, fnode := if g.faulted then g.fnode else node }

/-- A failed write of a graph's state marks the graph, and no other. -/
theorem graphLost_graphs (s : State) {g : Graph} (a node : Nat) (e : AccFault) (h : g.lost = false) :
    ∃ code, (graphLost s g a node e).fe.graphs = (updGraph s g.gid (lostMark code node)).fe.graphs := by
  refine ⟨if (accCause e).1 = .poison then causeByte .poison else causeByte .page, ?_⟩
  unfold graphLost
  rw [h]
  simp only [Bool.false_eq_true, if_false]
  split
  · rfl
  · refine ((writesPort_quietField ..).trans (writesPort_quietField ..)).trans (writesPort_quietField ..) |>.graphs_eq.trans ?_
    rfl

/-! Signals (R357, R433). -/

/-- A node of the front end that becomes READY waits there. -/
theorem makeReady_front {s : State} {g g1 : Graph} {n : Nat} (hg : graphOf (putNstate s g n 1) g.gid = some g1) (hf : g1.faulted = false)
    (hk : 4 ≤ bitsN (nodeWord s g n 0) 63 60) :
    makeReady s g n = { putNstate s g n 1 with fe := { (putNstate s g n 1).fe with
      feReady := (putNstate s g n 1).fe.feReady ++ [{ gid := g.gid, node := n, since := s.fab }] } } := by
  unfold makeReady
  simp only [hg, hf, Bool.false_eq_true, if_false, feKind, hk, decide_true, if_true]

/-- Another node that becomes READY waits in the queue of its graph. -/
theorem makeReady_queue {s : State} {g g1 : Graph} {n : Nat} (hg : graphOf (putNstate s g n 1) g.gid = some g1) (hf : g1.faulted = false)
    (hk : bitsN (nodeWord s g n 0) 63 60 < 4) :
    makeReady s g n = queueReady (putNstate s g n 1) g.qkey { gid := g.gid, node := n, since := s.fab } := by
  unfold makeReady
  simp only [hg, hf, Bool.false_eq_true, if_false, feKind, decide_eq_false (Nat.not_le.mpr hk)]

theorem queueReady_queue {s : State} {key : Nat} {q : Qcb} (r : NodeRef) (h : mget? s.fe.queues key = some q) :
    mget? (queueReady s key r).fe.queues key =
      some { q with ready := q.ready ++ [r], since := if q.ready.isEmpty then s.fab else q.since } := by
  simp [queueReady, h]

/-- signalNode with its read of the node's record as a parameter, so that no proof evaluates the read. -/
def signalWith (read : State → Nat → Nat → Nat → Except AccFault Nat) (s : State) (gid n : Nat) : State :=
  match graphOf s gid with
  | none => s
  | some g =>
    match read s g.ctxn (nodeAddr g n) 8 with
    | .error e => graphLost s g (nodeAddr g n) n e
    | .ok n0 =>
      let cnt := bitsN n0 43 32
      if bitsN n0 59 58 = 0 ∧ 0 < cnt then
        let s1 := putCnt s g n (cnt - 1)
        if cnt = 1 then makeReady s1 g n else s1
      else
        let ovs := bitsN (headNow s g 7) 15 0
        graphPut s gid (g.gaddr + 56) 15 0 (min (ovs + 1) 65535) 0

theorem signalNode_eq (s : State) (gid n : Nat) : signalNode s gid n = signalWith feNat s gid n := rfl

section
variable {read : State → Nat → Nat → Nat → Except AccFault Nat} {s : State} {gid n : Nat} {g : Graph}

/-- A signal to a WAITING node lowers its count; one that brings it to zero makes it READY. -/
theorem signalWith_waiting {w : Nat} (hg : graphOf s gid = some g) (hw : read s g.ctxn (nodeAddr g n) 8 = .ok w) (hst : bitsN w 59 58 = 0)
    (hc : 0 < bitsN w 43 32) : signalWith read s gid n =
      if bitsN w 43 32 = 1 then makeReady (putCnt s g n (bitsN w 43 32 - 1)) g n else putCnt s g n (bitsN w 43 32 - 1) := by
  simp only [signalWith, hg, hw]
  exact if_pos ⟨hst, hc⟩

/-- Another signal is counted in the graph's overflow field. -/
theorem signalWith_overflow {w : Nat} (hg : graphOf s gid = some g) (hw : read s g.ctxn (nodeAddr g n) 8 = .ok w)
    (h : bitsN w 59 58 ≠ 0 ∨ bitsN w 43 32 = 0) :
    signalWith read s gid n = graphPut s gid (g.gaddr + 56) 15 0 (min (bitsN (headNow s g 7) 15 0 + 1) 65535) 0 := by
  simp only [signalWith, hg, hw]
  exact if_neg fun ⟨h0, hpos⟩ => h.elim (fun hn => hn h0) fun hz => absurd hz hpos.ne'

theorem signalWith_unreadable {e : AccFault} (hg : graphOf s gid = some g) (he : read s g.ctxn (nodeAddr g n) 8 = .error e) :
    signalWith read s gid n = graphLost s g (nodeAddr g n) n e := by
  simp only [signalWith, hg, he]

end

/-- A write of its state that fails faults a graph. -/
theorem graphLost_faulted {s : State} {gid : Nat} {g : Graph} (a n : Nat) (e : AccFault) (hg : graphOf s gid = some g) (hl : g.lost = false) :
    (graphOf (graphLost s g a n e) gid).map (·.faulted) = some true := by
  obtain ⟨code, hgr⟩ := graphLost_graphs s a n e hl
  have hsame : graphOf (graphLost s g a n e) gid = graphOf (updGraph s g.gid (lostMark code n)) gid := by
    rw [graphOf, hgr, graphOf]
  rw [hsame, graphOf_updGraph s gid g.gid (f := lostMark code n) fun _ => rfl, hg]
  simp [lostMark]

theorem nodeDone_signals {s : State} {gid n : Nat} {g g1 : Graph} (hg : graphOf s gid = some g) (hp : g.pkt = none)
    (hg1 : graphOf (putNstate s g n 3) gid = some g1) (hp1 : g1.pkt = none) :
    nodeDone s gid n =
      (successors (putNstate s g n 3) g1 n 0 (nsucc s g n)).foldl (fun s m => signalNode s gid m) (putNstate s g n 3) := by
  simp [nodeDone, signalSome, hg, hp, hg1, hp1]

theorem signalsCountDownToReady : SignalsCountDownToReady := by
  refine ⟨fun s gid n w g hg hw hst => ⟨fun hc => ?lower, fun s1 s2 g1 hc h1 h2 hg1 hf => ?ready⟩,
    fun s gid n g e hg he hl => ?unreadable, fun s gid n w g hg hw h => (signalNode_eq s gid n).trans (signalWith_overflow hg hw h),
    fun s gid n g g1 hg hp hg1 hp1 => nodeDone_signals hg hp hg1 hp1, fun s s1 gid a hi lo v n g hg hp hw => ?put⟩
  case lower =>
    rw [signalNode_eq, signalWith_waiting hg hw hst (by omega), if_neg (by omega)]
  case ready =>
    obtain rfl := gid_of_graphOf hg
    subst h1 h2
    have hsig : signalNode s g.gid n = makeReady (putCnt s g n 0) g n := by
      rw [signalNode_eq, signalWith_waiting hg hw hst (by omega), if_pos hc, hc]
    refine ⟨fun hk => hsig.trans (makeReady_front hg1 hf hk), fun hk q hq => ?_⟩
    rw [hsig, makeReady_queue hg1 hf hk, queueReady_queue _ hq]
    exact ⟨_, rfl, rfl, by simp⟩
  case unreadable =>
    rw [signalNode_eq, signalWith_unreadable hg he]
    exact graphLost_faulted _ n e hg hl
  case put =>
    simp [graphPut, hg, hp, hw]

/-! The completion of a graph (R358, R359). -/

theorem execGraphComplete_at {s : State} {n : Nat} {g : Graph} (h : s.fe.graphs[n]? = some g) :
    exec (.graphComplete n) s = .next (if !graphQuiet s g.gid then s else
      match g.pkt with
      | some p => afterGraph (completion (dropGraph s g) p (if g.faulted then 12 else 0) g.fcode) g 0
      | none => afterGraph (dropGraph (closeGraph s g) ((graphOf (closeGraph s g) g.gid).getD g))
          ((graphOf (closeGraph s g) g.gid).getD g) (headWord g 6)) := by
  change execGraphComplete n s = _
  unfold execGraphComplete
  rw [h]
  dsimp only
  split
  · rfl
  · cases g.pkt <;> rfl

/-- A graph with a completion word is closed by GSTATE and that word. -/
theorem closeGraph_word {s s1 s2 : State} {g g1 : Graph} (h1 : (if g.faulted then s else graphPut s g.gid g.gaddr 63 62 0 0) = s1)
    (hg1 : graphOf s1 g.gid = some g1) (ha : headWord g 4 ≠ 0)
    (hw : frontWrite s1 g.ctxn (headWord g 4) (leBytes 8
      (if g1.faulted then 2 ^ 63 + g1.fcode.toNat * 2 ^ 16 + g1.fnode else bitsN (headWord g 5) 62 0)) g.know = .ok s2) :
    closeGraph s g = s2 := by
  unfold closeGraph
  dsimp only
  rw [h1, hg1, Option.getD_some, if_neg ha, hw]

theorem dropGraph_graphs (s : State) (g : Graph) : (dropGraph s g).fe.graphs = s.fe.graphs.filter fun x => x.gid != g.gid := by
  unfold dropGraph
  dsimp only
  split <;> rfl

theorem mem_dropNexts (s : State) (g : Graph) (p : PendLaunch) :
    p ∈ (dropNexts s g).fe.pending ↔ p ∈ s.fe.pending ∧ ¬ (g.faulted = true ∧ p.from_ = some g.gid) := by
  unfold dropNexts
  split
  · next h => simp [h]
  · next h => simp [h]

theorem graphsCompleteWhenQuiet : GraphsCompleteWhenQuiet := by
  refine ⟨fun s n g h hq => ?busy, fun s n g p h hq hp => ?packet, fun s s1 s2 n g g1 h hq hp h1 hg1 ha hw hg2 => ?word,
    fun s g => ⟨fun x hx => ?_, fun x hx hne => ?_⟩, mem_dropNexts⟩
  case busy => rw [execGraphComplete_at h, hq]; rfl
  case packet => rw [execGraphComplete_at h, hq, hp]; rfl
  case word =>
    rw [execGraphComplete_at h, hq, hp, closeGraph_word h1 hg1 ha hw, hg2]
    rfl
  · rw [dropGraph_graphs] at hx
    simpa using (List.mem_filter.mp hx).2
  · rw [dropGraph_graphs]
    exact List.mem_filter.mpr ⟨hx, by simpa using hne⟩

end Sys2Proof.Proofs
end


/-! PROOFS. Bound nodes (R363 to R368), the selection pass and the deadline of a LIVE start (R32, R34, R372 to R374). -/

section

namespace Sys2Proof.Proofs

open Sys2Proof Sys2Proof.Machine Sys2Proof.Claims Sys2Proof.Laws

/-! BIND nodes. -/

theorem execBindNode_at {s : State} {n : Nat} {b : BoundNode} (h : s.fe.bound[n]? = some b) (hk : b.kind = 1) (hp : preempting s b = false) :
    exec (.bindNode n) s = .next (bindStep s n b) := by
  change execBindNode n s = _
  simp [execBindNode, h, hk, hp]

section
variable {s : State} {n : Nat} {b : BoundNode}

theorem bindStep_unguarded (hc : b.cmds = []) (hf : b.fault = 0) (hp : b.phase = 0) (hg : b.guard = none) :
    bindStep s n b = setBound s n { b with phase := 2 } := by
  simp [bindStep, hc, hf, hp, hg]

/-- A guarded BIND node asks its guard first. -/
theorem bindStep_query {x : Guard} (hc : b.cmds = []) (hf : b.fault = 0) (hp : b.phase = 0) (hg : b.guard = some x) :
    bindStep s n b = issueGuard s n b x 0 1 := by
  simp [bindStep, hc, hf, hp, hg]

/-- The guard's verdict decides between a replay and the node's commands. -/
theorem bindStep_verdict {x : Guard} (hc : b.cmds = []) (hf : b.fault = 0) (hp : b.phase = 1) (hg : b.guard = some x) :
    bindStep s n b = if b.verdict = 1 then issueGuard s n b x 1 3 else setBound s n { b with phase := 2 } := by
  simp [bindStep, hc, hf, hp, hg]

/-- A BIND node issues its next stream command where there is room, whatever it has in progress. -/
theorem bindStep_command {t : BitVec 256} (hf : b.fault = 0) (hp : b.phase = 2) (ht : b.tmpls[b.sent]? = some t)
    (hroom : streamRoom s b.tile t = true) :
    bindStep s n b = streamAccept (withCmd s n { b with
        sent := b.sent + 1, sinkCmd := if b.sent = b.sink then (feCmd s b b.tile t).id else b.sinkCmd } (feCmd s b b.tile t))
      (feCmd s b b.tile t) := by
  obtain ⟨hlt, rfl⟩ := List.getElem?_eq_some_iff.mp ht
  simp [bindStep, hf, hp, hroom, hlt]

/-- A guarded BIND node captures what its commands have computed. -/
theorem bindStep_capture {x : Guard} (hc : b.cmds = []) (hf : b.fault = 0) (hp : b.phase = 2) (ht : b.tmpls[b.sent]? = none)
    (hg : b.guard = some x) : bindStep s n b = issueGuard s n b x 2 3 := by
  simp [bindStep, hc, hf, hp, ht, hg]

/-- A BIND node without a guard ends once its sink has taken its end-of-stream token. -/
theorem bindStep_sink (hc : b.cmds = []) (hf : b.fault = 0) (hp : b.phase = 2) (ht : b.tmpls[b.sent]? = none) (hg : b.guard = none) :
    bindStep s n b = if b.sunk then endBound s n b else s := by
  simp [bindStep, hc, hf, hp, ht, hg]

theorem bindStep_over (hc : b.cmds = []) (hf : b.fault = 0) (hp : b.phase = 3) : bindStep s n b = endBound s n b := by
  simp [bindStep, hc, hf, hp]

/-- A faulted BIND node ends once its commands have. -/
theorem bindStep_faulted (hc : b.cmds = []) (hf : b.fault ≠ 0) : bindStep s n b = endBound s n b := by
  have hrest : ¬ (!b.cmds.isEmpty && !(b.phase == 2 && decide (b.sent < b.tmpls.length) && b.fault == 0)) = true := by simp [hc]
  exact (if_neg hrest).trans (if_pos hf)

end

/-! COPY and GATHER nodes. -/

theorem moveStep_eq (s : State) (n : Nat) (b : BoundNode) : (b.phase = 0 → moveStep s n b = placeMove s n b) ∧
    (b.phase ≠ 0 → moveStep s n b = if b.cmds = [] then endBound s n b else s) :=
  ⟨fun h => if_pos h, fun h => by simp [moveStep, h]⟩

theorem execCopyNode_at {s : State} {n : Nat} {b : BoundNode} (h : s.fe.bound[n]? = some b) (hk : b.kind = 2) :
    exec (.copyNode n) s = .next (moveStep s n b) := by
  change execCopyNode n s = _
  simp [execCopyNode, h, hk]

theorem execGatherNode_at {s : State} {n : Nat} {b : BoundNode} (h : s.fe.bound[n]? = some b) (hk : b.kind = 3) :
    exec (.gatherNode n) s = .next (moveStep s n b) := by
  change execGatherNode n s = _
  simp [execGatherNode, h, hk]

theorem dieOf_setDie (s : State) (d : Nat) (x : Die) : dieOf (setDie s d x) d = x := by
  simp [dieOf, setDie]

theorem withCmd_dieOf (s : State) (n : Nat) (b : BoundNode) (c : Cmd) (d : Nat) : dieOf (withCmd s n b c) d = dieOf s d := rfl

theorem placeMove_copyq {s : State} {n : Nat} {b : BoundNode} (hk : b.kind = 2) (hroom : copyRoom s b.die = true) :
    (dieOf (placeMove s n b) b.die).copyq = (dieOf s b.die).copyq ++ [feCmd s b 0xFF (b.tmpls.headD 0)] := by
  simp [placeMove, hk, hroom, copyAccept, dieOf_setDie, withCmd_dieOf]

theorem placeMove_gatherq {s : State} {n : Nat} {b : BoundNode} (hk : b.kind = 3) (hroom : gatherRoom s b.die = true) :
    (dieOf (placeMove s n b) b.die).gatherq = (dieOf s b.die).gatherq ++ [feCmd s b 0xFF (b.tmpls.headD 0)] := by
  simp [placeMove, hk, hroom, gatherAccept, dieOf_setDie, withCmd_dieOf]

/-! COND, HOST and REARM. -/

/-- COND with its read of the tested word as a parameter, so that no proof evaluates the read. -/
def condWith (read : State → Nat → Nat → Nat → Except AccFault Nat) (n : Nat) (s : State) : Out :=
  match takeFeNode s n 4 with
  | none => .next s
  | some (s1, g, i) =>
    let a := nodeWord s g i 3
    match read s1 g.ctxn a 8 with
    | .error e => .next (nodeFault s1 g.gid i e a)
    | .ok v =>
      let nt := bitsN (nodeWord s g i 1) 47 32
      let s2 := putNstate s1 g i 3
      if ccHolds (Machine.ccOf (bitsN (nodeWord s g i 2) 1 0)) (BitVec.ofNat 64 v) (BitVec.ofNat 64 (nodeWord s g i 4)) then
        .next (signalSome s2 g.gid i 0 nt)
      else .next (signalSome s2 g.gid i nt (nsucc s g i))

theorem exec_cond_eq (n : Nat) (s : State) : exec (.cond n) s = condWith feNat n s := rfl

/-- COND signals one of its two ranges of successors, by the word that it reads. -/
theorem condWith_read {read : State → Nat → Nat → Nat → Except AccFault Nat} {s s1 : State} {n i v : Nat} {g : Graph}
    (h : takeFeNode s n 4 = some (s1, g, i)) (hv : read s1 g.ctxn (nodeWord s g i 3) 8 = .ok v) : condWith read n s = .next (
      if ccHolds (Machine.ccOf (bitsN (nodeWord s g i 2) 1 0)) (BitVec.ofNat 64 v) (BitVec.ofNat 64 (nodeWord s g i 4)) then
        signalSome (putNstate s1 g i 3) g.gid i 0 (bitsN (nodeWord s g i 1) 47 32)
      else signalSome (putNstate s1 g i 3) g.gid i (bitsN (nodeWord s g i 1) 47 32) (nsucc s g i)) := by
  simp only [condWith, h, hv]
  split <;> rfl

theorem execHost_at {s s1 : State} {n i : Nat} {g : Graph} (h : takeFeNode s n 5 = some (s1, g, i)) :
    (bitN (nodeWord s g i 2) 12 = false → exec (.host n) s = .next (nodeDone (hostSignal s1 g i) g.gid i)) ∧
      (bitN (nodeWord s g i 2) 12 = true → ringOwned s (bitsN (nodeWord s g i 2) 11 0) g.ctxn = true →
        exec (.host n) s = .next (nodeDone (hostSignal (ringPut s1 (bitsN (nodeWord s g i 2) 11 0)
          ((List.range 8).flatMap fun w => leBytes 8 (nodeWord s g i (8 + w)))) g i) g.gid i)) := by
  refine ⟨fun hb => ?_, fun hb ho => ?_⟩
  · change execHost n s = _
    simp only [execHost, h, hb, Bool.false_and, Bool.false_eq_true, if_false]
  · change execHost n s = _
    simp only [execHost, h, hb, ho, Bool.not_true, Bool.and_false, Bool.false_eq_true, if_false, if_true]

theorem execRearm_at {s s1 s2 s3 : State} {n i : Nat} {g : Graph} (h : takeFeNode s n 6 = some (s1, g, i))
    (h2 : (rearmRange s g i).foldl (fun s m => resetNode s g m) s1 = s2)
    (h3 : ((rearmRange s g i).filter fun m => bitsN (nodeWord s2 g m 0) 55 44 == 0).foldl (fun s m => makeReady s g m) s2 = s3) :
    exec (.rearm n) s = .next (signalSome (resetNode
      (graphPut s3 g.gid g.gaddr 47 32 (bitsN (headNow s3 g 0) 47 32 + 1) 0) g i) g.gid i 0 (nsucc s g i)) := by
  subst h2 h3
  change execRearm n s = _
  simp only [execRearm, h]

theorem nodesRunByTheirKind : NodesRunByTheirKind := by
  refine ⟨fun s n b hb hk hp hf => ?bind, fun s n b hb hk hp hf hc => ?faulted, fun s n b hb => ⟨fun hk => ?copy, fun hk => ?gather⟩,
    fun s n b _ => ⟨fun hk hroom => placeMove_copyq hk hroom, fun hk hroom => placeMove_gatherq hk hroom⟩,
    fun s s1 n i v g h hv => (exec_cond_eq n s).trans (condWith_read h hv), fun s s1 n i g record h hr => hr ▸ execHost_at h,
    fun s s1 s2 s3 n i g h h2 h3 => execRearm_at h h2 h3⟩
  case bind =>
    have hstep := execBindNode_at hb hk hp
    rw [hstep]
    refine ⟨fun h0 hc hg => ?_, fun x h0 hc hg => ?_, fun x h1 hc hg => ?_, fun t c h2 ht hroom hcmd => ?_,
      fun x h2 hc ht hg => ?_, fun h2 hc ht hg => ?_, fun h3 hc => ?_⟩
    · rw [bindStep_unguarded hc hf h0 hg]
    · rw [bindStep_query hc hf h0 hg]
    · rw [bindStep_verdict hc hf h1 hg]
    · rw [bindStep_command hf h2 ht hroom, hcmd]
    · rw [bindStep_capture hc hf h2 ht hg]
    · rw [bindStep_sink hc hf h2 ht hg]
    · rw [bindStep_over hc hf h3]
  case faulted =>
    rw [execBindNode_at hb hk hp, bindStep_faulted hc hf]
  case copy =>
    rw [execCopyNode_at hb hk]
    exact ⟨fun h => congrArg _ ((moveStep_eq s n b).1 h), fun h => congrArg _ ((moveStep_eq s n b).2 h)⟩
  case gather =>
    rw [execGatherNode_at hb hk]
    exact ⟨fun h => congrArg _ ((moveStep_eq s n b).1 h), fun h => congrArg _ ((moveStep_eq s n b).2 h)⟩

end Sys2Proof.Proofs
end


/-! PROOFS. Selection and the deadline of a LIVE start (R32, R34, R372 to R374). -/

section

namespace Sys2Proof.Proofs

open Sys2Proof Sys2Proof.Machine Sys2Proof.Claims Sys2Proof.Laws

/-! One queue in a pass. -/

theorem passQueue_bound {lvl : Nat} {p : Pass} (x : Nat × Qcb) (h : p.bound = true) : passQueue lvl p x = p := by
  simp [passQueue, h]

section
variable {lvl : Nat} {p : Pass} {key : Nat} {q : Qcb} {r : NodeRef} {g : Graph}

theorem passQueue_blocked (hr : q.ready.head? = some r) (hg : graphOf p.st r.gid = some g)
    (h : p.blocked.contains (nodeKind p.st g r.node) = true) : passQueue lvl p (key, q) = p := by
  simp only [passQueue, hr, Option.bind_some, hg, h, if_true, ite_self]

/-- A head whose units are not free starts a pre-emption and holds its unit kind back. -/
theorem passQueue_unfit (hr : q.ready.head? = some r) (hg : graphOf p.st r.gid = some g) (hb : p.bound = false)
    (hk : p.blocked.contains (nodeKind p.st g r.node) = false) (hu : fitUnits p.st g r (nodeKind p.st g r.node) = none) :
    passQueue lvl p (key, q) =
      { st := startPreempt p.st g r key (nodeKind p.st g r.node), blocked := nodeKind p.st g r.node :: p.blocked } := by
  simp only [passQueue, hr, Option.bind_some, hg, hb, hk, hu, Bool.false_eq_true, if_false]

/-- A head whose units are free is bound. -/
theorem passQueue_fit {units : List Nat} (hr : q.ready.head? = some r) (hg : graphOf p.st r.gid = some g) (hb : p.bound = false)
    (hk : p.blocked.contains (nodeKind p.st g r.node) = false) (hu : fitUnits p.st g r (nodeKind p.st g r.node) = some units) :
    passQueue lvl p (key, q) =
      { p with st := bindNode (selected p.st key lvl r) g r (nodeKind p.st g r.node) lvl units, bound := true } := by
  simp only [passQueue, hr, Option.bind_some, hg, hb, hk, hu, Bool.false_eq_true, if_false]

end

/-! The levels of a pass. -/

/-- One level of a pass. -/
def passLevel (p : Pass) (lvl : Nat) : Pass := if p.bound then p else (levelQueues p.st lvl).foldl (passQueue lvl) p

theorem passLevels_eq (s : State) : passLevels s = (List.range 128).reverse.foldl passLevel { st := s } := rfl

/-- Levels without a ready queue change nothing. -/
theorem passLevel_foldl_idle {s : State} (ls : List Nat) (h : ∀ m ∈ ls, levelQueues s m = []) :
    ls.foldl passLevel { st := s } = { st := s } :=
  List.foldlRecOn ls passLevel (motive := fun p => p = { st := s }) rfl fun p hp m hm => by
    subst hp
    simp [passLevel, h m hm]

/-- Nothing changes once a node is bound. -/
theorem passLevel_foldl_bound {p : Pass} (ls : List Nat) (h : p.bound = true) : ls.foldl passLevel p = p :=
  List.foldlRecOn ls passLevel (motive := fun q => q = p) rfl fun q hq m _ => by
    subst hq
    simp [passLevel, h]

theorem passQueue_foldl_bound {lvl : Nat} {p : Pass} (qs : List (Nat × Qcb)) (h : p.bound = true) : qs.foldl (passQueue lvl) p = p :=
  List.foldlRecOn qs (passQueue lvl) (motive := fun q => q = p) rfl fun q hq x _ => by
    subst hq
    exact passQueue_bound x h

/-- The levels of a pass down to one of them: those above it, itself, and those below. -/
theorem levels_split {lvl : Nat} (h : lvl < 128) : ∃ above below, (List.range 128).reverse = above ++ lvl :: below ∧
    ∀ m ∈ above, lvl < m ∧ m < 128 := by
  obtain ⟨above, below, hsplit⟩ := List.append_of_mem (List.mem_reverse.mpr (List.mem_range.mpr h))
  have hsorted : (List.range 128).reverse.Pairwise fun a b => b < a := List.pairwise_reverse.mpr List.pairwise_lt_range
  refine ⟨above, below, hsplit, fun m hm => ⟨?_, ?_⟩⟩
  · rw [hsplit, List.pairwise_append] at hsorted
    obtain ⟨-, -, hacross⟩ := hsorted
    exact hacross m hm lvl List.mem_cons_self
  · have hmem : m ∈ (List.range 128).reverse := hsplit ▸ List.mem_append_left _ hm
    exact List.mem_range.mp (List.mem_reverse.mp hmem)

/-- A pass binds the head of the first queue of the highest level that has a ready queue, where its units are free. -/
theorem passLevels_binds {s : State} {lvl key : Nat} {q : Qcb} {rest : List (Nat × Qcb)} {r : NodeRef} {g : Graph} {units : List Nat}
    (hlvl : lvl < 128) (hidle : ∀ m, lvl < m → m < 128 → levelQueues s m = []) (hqs : levelQueues s lvl = (key, q) :: rest)
    (hr : q.ready.head? = some r) (hg : graphOf s r.gid = some g) (hu : fitUnits s g r (nodeKind s g r.node) = some units) :
    passLevels s = { st := bindNode (selected s key lvl r) g r (nodeKind s g r.node) lvl units, bound := true } := by
  obtain ⟨above, below, hsplit, habove⟩ := levels_split hlvl
  have hfit := passQueue_fit (lvl := lvl) (p := { st := s }) (key := key) hr hg rfl (by simp) hu
  have hlevel : passLevel { st := s } lvl = { st := bindNode (selected s key lvl r) g r (nodeKind s g r.node) lvl units, bound := true } := by
    rw [passLevel, if_neg (by simp), hqs, List.foldl_cons, hfit, passQueue_foldl_bound _ rfl]
  rw [passLevels_eq, hsplit, List.foldl_append, passLevel_foldl_idle above fun m hm => hidle m (habove m hm).1 (habove m hm).2,
    List.foldl_cons, hlevel, passLevel_foldl_bound _ rfl]

/-! Queues and priorities. -/

theorem queue_of_levelQueues {s : State} {lvl key : Nat} {q : Qcb} (h : (key, q) ∈ levelQueues s lvl) :
    mget? s.fe.queues key = some q := by
  unfold levelQueues at h
  obtain ⟨i, -, hi⟩ := List.mem_filterMap.mp h
  obtain ⟨q', hq', he⟩ := Option.map_eq_some_iff.mp hi
  obtain ⟨rfl, rfl⟩ := Prod.mk.inj he
  exact hq'

/-- The queue of a selected node moves on. -/
theorem selected_queue {s : State} {key : Nat} (lvl : Nat) {r : NodeRef} {q : Qcb} (hq : mget? s.fe.queues key = some q)
    (hg : graphOf s r.gid = none) :
    mget? (selected s key lvl r).fe.queues key =
        some { q with ready := q.ready.filter (fun x => !sameNode x r), sels := q.sels + 1, since := s.fab, eff := q.base } ∧
      mget (selected s key lvl r).fe.rr lvl 0 = key + 1 := by
  have hg' : s.fe.graphs.find? (fun g => g.gid == r.gid) = none := hg
  simp [selected, hq, graphOf, hg']

theorem effOf_bounds (s : State) (q : Qcb) : effOf s q ≤ ceilOf q.cls ∧ (q.base ≤ ceilOf q.cls → q.base ≤ effOf s q) ∧
    (q.since = s.fab → q.base ≤ ceilOf q.cls → effOf s q = q.base) := by
  unfold effOf
  refine ⟨Nat.min_le_left .., fun h => Nat.le_min.mpr ⟨h, Nat.le_add_right ..⟩, fun hs h => ?_⟩
  rw [hs, Nat.sub_self, Nat.zero_div, Nat.add_zero, Nat.min_eq_right h]

/-- The report of a LIVE node that is late. -/
def lateReport (s : State) (g : Graph) (r : NodeRef) : Offer :=
  { ctxn := g.ctxn, code := causeByte .kilnTimeout, src := 6, stage := nodeStage s g r.node, gaddr := BitVec.ofNat 64 g.gaddr }

/-- A missed start counted in the queue of its graph, if it is this one. -/
def countMiss (g : Graph) (p : Nat × Qcb) : Nat × Qcb := if p.1 = g.qkey then (p.1, { p.2 with lmiss := p.2.lmiss + 1 }) else p

/-- The state with the missed start of a LIVE node counted, once. -/
def missCounted (s : State) (g : Graph) (r : NodeRef) : State :=
  { s with fe := { s.fe with liveMissed := s.fe.liveMissed ++ [r], queues := s.fe.queues.map (countMiss g) } }

/-- A LIVE node that is late is counted and reported. -/
theorem execLiveStartDeadline_late {s : State} {n : Nat} {r : NodeRef} {g : Graph} (hr : (liveWaiting s)[n]? = some r)
    (hlate : r.since + 88000 ≤ s.fab) (hmissed : s.fe.liveMissed.any (sameNode r) = false) (hg : graphOf s r.gid = some g) :
    exec (.liveStartDeadline n) s = .next (offer (missCounted s g r) (lateReport s g r)) := by
  have hdue : ¬ (s.fab < r.since + 88000 ∨ s.fe.liveMissed.any (sameNode r) = true) := by
    rw [hmissed]
    simpa using hlate
  change execLiveStartDeadline n s = _
  simp only [execLiveStartDeadline, hr, if_neg hdue, hg]
  rfl

theorem selectionAndDeadlinesAct : SelectionAndDeadlinesAct := by
  refine ⟨fun _ => rfl, fun s lvl key q rest r g units hlvl hidle hqs hr hg hu => ?binds, fun lvl p key q r g hr hg => ?queue,
    fun s lvl key q h => queue_of_levelQueues h, fun s key lvl r q hq hg => ?selects, effOf_bounds,
    fun s n r g hr hlate hmissed hg => ⟨_, _, execLiveStartDeadline_late hr hlate hmissed hg, rfl, rfl, rfl, rfl, rfl, rfl⟩⟩
  case binds =>
    rw [passLevels_binds hlvl hidle hqs hr hg hu]
    exact ⟨rfl, rfl⟩
  case queue =>
    refine ⟨fun hb => passQueue_bound _ hb, fun hk => passQueue_blocked hr hg hk, fun hb hk hu => ?_⟩
    rw [passQueue_unfit hr hg hb hk hu]
    exact ⟨rfl, rfl, rfl⟩
  case selects =>
    obtain ⟨hqueue, hrr⟩ := selected_queue lvl hq hg
    exact ⟨_, hqueue, rfl, rfl, rfl, rfl, hrr⟩

/-- Settles O56: each part by the equation of its event: a job's start by the tiles that it starts one after the other, signals and graph
records by the writes that leave the front end's graphs as they were, and a selection pass by its levels from the highest down. -/
theorem jobsNodesAndGraphsRunAndComplete : Obligations.JobsNodesAndGraphsRunAndComplete :=
  ⟨jobsStartAndComplete, signalsCountDownToReady, nodesRunByTheirKind, graphsCompleteWhenQuiet, selectionAndDeadlinesAct⟩

end Sys2Proof.Proofs
end

/-! PROOFS. The forms of an instruction word: a word and its fields determine each other. -/
section

namespace Sys2Proof.Proofs

open Sys2Proof Sys2Proof.Machine Sys2Proof.Claims Sys2Proof.Laws

/-! Fields of a word. -/

@[simp] theorem toNat_fld (w lo n : Nat) : (fld w lo n).toNat = fldN w lo n := rfl

@[simp] theorem toNat_fldB (w i : Nat) : (fldB w i).toNat = fldN w i 1 := by
  rcases Nat.mod_two_eq_zero_or_one (w / 2 ^ i) with h | h <;> simp [fldB, fldN, h]

theorem fld_eq_iff {w lo n : Nat} {x : BitVec n} : fld w lo n = x ↔ fldN w lo n = x.toNat := by
  rw [← toNat_fld, BitVec.toNat_inj]

theorem fldB_eq_iff {w i : Nat} {x : Bool} : fldB w i = x ↔ fldN w i 1 = x.toNat := by
  rw [← toNat_fldB]
  cases fldB w i <;> cases x <;> decide

/-- A field within a field. -/
theorem fldN_within {w lo n : Nat} (k m : Nat) (h : k + m ≤ n) : fldN w (lo + k) m = fldN w lo n / 2 ^ k % 2 ^ m := by
  unfold fldN
  obtain ⟨j, rfl⟩ := Nat.exists_eq_add_of_le h
  rw [pow_add, pow_add, pow_add, mul_assoc, Nat.mod_mul_right_div_self, Nat.mod_mul_right_mod, Nat.div_div_eq_div_mul]

theorem fld_eq_ofNat (w lo n : Nat) : fld w lo n = BitVec.ofNat n (fldN w lo n) := by simp [fld_eq_iff, fldN]

/-! Codes: the encoder's are those that the decoder reads. -/

theorem scopeOf_eq_some {n : Nat} {x : Scope} : scopeOf n = some x ↔ x.code = n := by
  refine ⟨fun h => ?_, fun h => by subst h; cases x <;> rfl⟩
  unfold scopeOf at h
  split at h <;> cases h <;> rfl

theorem pathOf_eq_some {n : Nat} {x : Path} : pathOf n = some x ↔ x.code = n := by
  refine ⟨fun h => ?_, fun h => by subst h; cases x <;> rfl⟩
  unfold pathOf at h
  split at h <;> cases h <;> rfl

theorem ccOf_eq_some {n : Nat} {x : Cc} : ccOf n = some x ↔ x.code = n := by
  refine ⟨fun h => ?_, fun h => by subst h; cases x <;> rfl⟩
  unfold ccOf at h
  split at h <;> cases h <;> rfl

theorem fpFmtOf_eq_some {n : Nat} {x : FpFmt} : fpFmtOf n = some x ↔ x.code = n := by
  refine ⟨fun h => ?_, fun h => by subst h; cases x <;> rfl⟩
  unfold fpFmtOf at h
  split at h <;> cases h <;> rfl

theorem cvtDstOf_eq_some {n : Nat} {x : CvtDst} : cvtDstOf n = some x ↔ x.code = n := by
  refine ⟨fun h => ?_, fun h => by subst h; cases x <;> rfl⟩
  unfold cvtDstOf at h
  split at h <;> cases h <;> rfl

theorem cvtSrcOf_eq_some {n : Nat} {x : CvtSrc} : cvtSrcOf n = some x ↔ x.code = n := by
  refine ⟨fun h => ?_, fun h => by subst h; cases x <;> rfl⟩
  unfold cvtSrcOf at h
  split at h <;> cases h <;> rfl

theorem rCounterOf_eq_some {n : Nat} {x : RCounter} : rCounterOf n = some x ↔ x.code = n := by
  refine ⟨fun h => ?_, fun h => by subst h; cases x <;> rfl⟩
  unfold rCounterOf at h
  split at h <;> cases h <;> rfl

theorem tlbiKindOf_eq_some {n : Nat} {x : TlbiKind} : tlbiKindOf n = some x ↔ x.code = n := by
  refine ⟨fun h => ?_, fun h => by subst h; cases x <;> rfl⟩
  unfold tlbiKindOf at h
  split at h <;> cases h <;> rfl

@[simp] theorem scopeOf_code (x : Scope) : scopeOf x.code = some x := scopeOf_eq_some.2 rfl
@[simp] theorem pathOf_code (x : Path) : pathOf x.code = some x := pathOf_eq_some.2 rfl
@[simp] theorem ccOf_code (x : Cc) : ccOf x.code = some x := ccOf_eq_some.2 rfl
@[simp] theorem fpFmtOf_code (x : FpFmt) : fpFmtOf x.code = some x := fpFmtOf_eq_some.2 rfl
@[simp] theorem cvtDstOf_code (x : CvtDst) : cvtDstOf x.code = some x := cvtDstOf_eq_some.2 rfl
@[simp] theorem cvtSrcOf_code (x : CvtSrc) : cvtSrcOf x.code = some x := cvtSrcOf_eq_some.2 rfl
@[simp] theorem rCounterOf_code (x : RCounter) : rCounterOf x.code = some x := rCounterOf_eq_some.2 rfl
@[simp] theorem tlbiKindOf_code (x : TlbiKind) : tlbiKindOf x.code = some x := tlbiKindOf_eq_some.2 rfl

theorem cvtSrc_code_lt (x : CvtSrc) : x.code < 32 := by cases x <;> decide

/-! A word and its fields, by form (R47 to R54): the encoder's word of a form is the one word with those fields. -/

/-- A word of form A and its fields (R47). -/
structure IsA (w cls : Nat) (d a b : BitVec 5) (ta tb : Bool) (fn : Nat) (tk : BitVec 4) : Prop where
  lt : w < 2 ^ 32
  cls : fldN w 28 4 = cls
  d : fld w 23 5 = d
  a : fld w 18 5 = a
  b : fld w 13 5 = b
  ta : fldB w 12 = ta
  tb : fldB w 11 = tb
  fn : fldN w 4 7 = fn
  tk : fld w 0 4 = tk

/-- A word of form I and its fields (R48). -/
structure IsI (w fn : Nat) (d a : BitVec 5) (ta : Bool) (imm : Nat) (tk : BitVec 4) : Prop where
  lt : w < 2 ^ 32
  cls : fldN w 28 4 = 2
  d : fld w 23 5 = d
  a : fld w 18 5 = a
  ta : fldB w 17 = ta
  fn : fldN w 14 3 = fn
  imm : fldN w 4 10 = imm
  tk : fld w 0 4 = tk

/-- A word of form M and its fields (R49). -/
structure IsM (w op : Nat) (o : FormM) : Prop where
  lt : w < 2 ^ 32
  cls : fldN w 28 4 = 3
  r : fld w 23 5 = o.r
  base : fld w 18 5 = o.base
  op : fldN w 14 4 = op
  off : fld w 4 10 = o.off
  tk : fld w 0 4 = o.tk

/-- A word of form B and its fields (R50). -/
structure IsB (w cond : Nat) (o : FormB) : Prop where
  lt : w < 2 ^ 32
  cls : fldN w 28 4 = 4
  a : fld w 23 5 = o.a
  b : fld w 18 5 = o.b
  ta : fldB w 17 = o.ta
  tb : fldB w 16 = o.tb
  cond : fldN w 13 3 = cond
  off : fld w 4 9 = o.off
  tk : fld w 0 4 = o.tk

/-- A word of form J and its fields; rest is bits [25:4] (R51). -/
structure IsJ (w fn2 rest : Nat) (tk : BitVec 4) : Prop where
  lt : w < 2 ^ 32
  cls : fldN w 28 4 = 5
  fn2 : fldN w 26 2 = fn2
  rest : fldN w 4 22 = rest
  tk : fld w 0 4 = tk

/-- A word of form Q, T or G and its fields (R52). -/
structure IsQ (w cls d a b op md : Nat) (tk : BitVec 4) : Prop where
  lt : w < 2 ^ 32
  cls : fldN w 28 4 = cls
  d : fldN w 23 5 = d
  a : fldN w 18 5 = a
  b : fldN w 13 5 = b
  op : fldN w 8 5 = op
  md : fldN w 4 4 = md
  tk : fldN w 0 4 = tk.toNat

/-- A word of form S and its fields (R53). -/
structure IsS (w fn imm : Nat) (tk : BitVec 4) : Prop where
  lt : w < 2 ^ 32
  cls : fldN w 28 4 = 7
  fn : fldN w 20 8 = fn
  imm : fldN w 4 16 = imm
  tk : fldN w 0 4 = tk.toNat

/-- A patch word and its fields (R54). -/
structure IsPatch (w cls : Nat) (o : FormPatch) : Prop where
  lt : w < 2 ^ 32
  cls : fldN w 28 4 = cls
  idx : fld w 22 6 = o.idx
  sel : fld w 16 6 = o.sel
  value : fld w 0 16 = o.value

section
variable {w cls fn op md imm rest d a b : Nat} {ra rb rd : BitVec 5} {ta tb : Bool} {tk : BitVec 4}

theorem encA_eq_iff (hc : cls < 16) (hf : fn < 128) : encA cls rd ra rb ta tb fn tk = w ↔ IsA w cls rd ra rb ta tb fn tk := by
  have hta := bool_toNat_le ta
  have htb := bool_toNat_le tb
  constructor
  · intro h
    constructor
    case lt => exact h ▸ encA_lt rd ra rb ta tb tk hc hf
    all_goals simp only [fld_eq_iff, fldB_eq_iff, fldN, encA] at h ⊢; omega
  · rintro ⟨hlt, hcls, hd, ha, hb, hta', htb', hfn, htk⟩
    simp only [fld_eq_iff, fldB_eq_iff, fldN, encA] at *
    omega

theorem encI_eq_iff (hf : fn < 8) (hi : imm < 1024) : encI fn rd ra ta imm tk = w ↔ IsI w fn rd ra ta imm tk := by
  have hta := bool_toNat_le ta
  constructor
  · intro h
    constructor
    case lt => exact h ▸ encI_lt rd ra ta tk hf hi
    all_goals simp only [fld_eq_iff, fldB_eq_iff, fldN, encI] at h ⊢; omega
  · rintro ⟨hlt, hcls, hd, ha, hta', hfn, himm, htk⟩
    simp only [fld_eq_iff, fldB_eq_iff, fldN, encI] at *
    omega

theorem encM_eq_iff {o : FormM} (ho : op < 16) : encM op o = w ↔ IsM w op o := by
  constructor
  · intro h
    constructor
    case lt => exact h ▸ encM_lt o ho
    all_goals simp only [fld_eq_iff, fldN, encM] at h ⊢; omega
  · rintro ⟨hlt, hcls, hr, hbase, hop, hoff, htk⟩
    simp only [fld_eq_iff, fldN, encM] at *
    omega

theorem encB_eq_iff {o : FormB} (hc : op < 8) : encB op o = w ↔ IsB w op o := by
  have hta := bool_toNat_le o.ta
  have htb := bool_toNat_le o.tb
  constructor
  · intro h
    constructor
    case lt => exact h ▸ encB_lt o hc
    all_goals simp only [fld_eq_iff, fldB_eq_iff, fldN, encB] at h ⊢; omega
  · rintro ⟨hlt, hcls, ha, hb, hta', htb', hop, hoff, htk⟩
    simp only [fld_eq_iff, fldB_eq_iff, fldN, encB] at *
    omega

theorem encJ_eq_iff (hf : fn < 4) (hr : rest < 2 ^ 22) : encJ fn rest tk = w ↔ IsJ w fn rest tk := by
  constructor
  · intro h
    constructor
    case lt => exact h ▸ encJ_lt tk hf hr
    all_goals simp only [fld_eq_iff, fldN, encJ] at h ⊢; omega
  · rintro ⟨hlt, hcls, hfn, hrest, htk⟩
    simp only [fld_eq_iff, fldN, encJ] at *
    omega

theorem encQ_eq_iff (hc : cls < 16) (hd : d < 32) (ha : a < 32) (hb : b < 32) (ho : op < 32) (hm : md < 16) :
    encQ cls d a b op md tk = w ↔ IsQ w cls d a b op md tk := by
  constructor
  · intro h
    constructor
    case lt => exact h ▸ encQ_lt tk hc hd ha hb ho hm
    all_goals simp only [fldN, encQ] at h ⊢; omega
  · rintro ⟨hlt, hcls, hd', ha', hb', hop, hmd, htk⟩
    simp only [fldN, encQ] at *
    omega

theorem encS_eq_iff (hf : fn < 256) (hi : imm < 2 ^ 16) : encS fn imm tk = w ↔ IsS w fn imm tk := by
  constructor
  · intro h
    constructor
    case lt => exact h ▸ encS_lt tk hf hi
    all_goals simp only [fldN, encS] at h ⊢; omega
  · rintro ⟨hlt, hcls, hfn, himm, htk⟩
    simp only [fldN, encS] at *
    omega

theorem encPatch_eq_iff {o : FormPatch} (hc : cls < 16) : encPatch cls o = w ↔ IsPatch w cls o := by
  constructor
  · intro h
    constructor
    case lt => exact h ▸ encPatch_lt o hc
    all_goals simp only [fld_eq_iff, fldN, encPatch] at h ⊢; omega
  · rintro ⟨hlt, hcls, hidx, hsel, hvalue⟩
    simp only [fld_eq_iff, fldN, encPatch] at *
    omega

end

end Sys2Proof.Proofs
end

/-! PROOFS. The decoder gives an instruction back from its word. -/
section

namespace Sys2Proof.Proofs

open Sys2Proof Sys2Proof.Machine Sys2Proof.Claims Sys2Proof.Laws

/-! Decoding of a word with given fields. -/

theorem a2Of_none {fn : Nat} (o : FormA2) (h : 30 ≤ fn) : a2Of fn o = none := by
  obtain ⟨n, rfl⟩ := Nat.exists_eq_add_of_le' h
  rfl

/-- LIH as a word of form M: the high and the low part of its immediate stand in the fields of the base and the offset (R49). -/
def lihForm (o : FormLih) : FormM := ⟨o.d, BitVec.ofNat 5 (o.imm.toNat / 1024), BitVec.ofNat 10 (o.imm.toNat % 1024), o.tk⟩

theorem lihForm_base (o : FormLih) : (lihForm o).base.toNat = o.imm.toNat / 1024 := by simp [lihForm]; omega
theorem lihForm_off (o : FormLih) : (lihForm o).off.toNat = o.imm.toNat % 1024 := by simp [lihForm]

theorem encode_lih (o : FormLih) : encode (.lih o) = some (encM 15 (lihForm o)) := by
  rw [encM, lihForm_base, lihForm_off]
  rfl

section
variable {w fn : Nat} {tk : BitVec 4}

theorem decodeWord_of_isA2 {o : FormA2} {i : Instr} (h : IsA w 1 o.d o.a o.b o.ta o.tb fn o.tk) (hi : a2Of fn o = some i) :
    decodeWord w = some i := by
  simp [decodeWord, decodeA, h.cls, h.d, h.a, h.b, h.ta, h.tb, h.fn, h.tk, hi]

theorem decodeWord_of_isA_lea {o : FormALea} (h : IsA w 1 o.d o.a o.b o.ta o.tb (32 + o.sc.toNat) o.tk) :
    decodeWord w = some (.lea o) := by
  have hsc : fld w 4 2 = o.sc := by
    rw [fld_eq_iff, fldN_within (lo := 4) (n := 7) 0 2 (by decide), h.fn]
    omega
  have hfn : (32 + o.sc.toNat) / 4 = 8 := by omega
  simp [decodeWord, decodeA, h.cls, h.d, h.a, h.b, h.ta, h.tb, h.fn, h.tk, a2Of_none _ (by omega : 30 ≤ 32 + o.sc.toNat), hsc, hfn]

theorem decodeWord_of_isA_leas {o : FormALea} (h : IsA w 1 o.d o.a o.b o.ta o.tb (36 + o.sc.toNat) o.tk) :
    decodeWord w = some (.leas o) := by
  have hsc : fld w 4 2 = o.sc := by
    rw [fld_eq_iff, fldN_within (lo := 4) (n := 7) 0 2 (by decide), h.fn]
    omega
  have hfn : (36 + o.sc.toNat) / 4 = 9 := by omega
  simp [decodeWord, decodeA, h.cls, h.d, h.a, h.b, h.ta, h.tb, h.fn, h.tk, a2Of_none _ (by omega : 30 ≤ 36 + o.sc.toNat), hsc, hfn]

/-- The operation and the format of a word of class 1001 (R56). -/
theorem IsA.fp {d a b : BitVec 5} {ta tb : Bool} {fmt op : Nat} (h : IsA w 9 d a b ta tb (fmt * 32 + op) tk) (hf : fmt < 4) (ho : op < 32) :
    fldN w 4 5 = op ∧ fldN w 9 2 = fmt := by
  rw [fldN_within (lo := 4) (n := 7) 0 5 (by decide), fldN_within (lo := 4) (n := 7) 5 2 (by decide), h.fn]
  omega

/-- The queue of a word of class 0110, which leaves the two bits above it (R59). -/
theorem IsQ.queue {cls d b op md : Nat} {q : BitVec 3} (h : IsQ w cls d q.toNat b op md tk) : fldN w 18 3 = q.toNat ∧ fldN w 21 2 = 0 := by
  rw [fldN_within (lo := 18) (n := 5) 0 3 (by decide), fldN_within (lo := 18) (n := 5) 3 2 (by decide), h.a]
  omega

/-- The two parts of a mode field (R59). -/
theorem IsQ.mode {cls d a b op m3 md : Nat} {m0 : Bool} (h : IsQ w cls d a b op md tk) (hm : md = m3 * 2 + m0.toNat) (h3 : m3 < 8) :
    fldB w 4 = m0 ∧ fldN w 5 3 = m3 := by
  have h0 := bool_toNat_le m0
  rw [fldB_eq_iff, fldN_within (lo := 4) (n := 4) 0 1 (by decide), fldN_within (lo := 4) (n := 4) 1 3 (by decide), h.md]
  omega

/-- The register and the low eleven bits of an immediate of form S (R53). -/
theorem IsS.reg {r : BitVec 5} {num : Nat} (h : IsS w fn (r.toNat * 2 ^ 11 + num) tk) (hn : num < 2 ^ 11) :
    fldN w 15 5 = r.toNat ∧ fldN w 4 11 = num := by
  rw [fldN_within (lo := 4) (n := 16) 11 5 (by decide), fldN_within (lo := 4) (n := 16) 0 11 (by decide), h.imm]
  omega

end

/-- The decoder gives an instruction back from its word. -/
theorem decodeWord_encode {i : Instr} {w : Nat} (hwf : i.wf = true) (h : encode i = some w) : w < 2 ^ 32 ∧ decodeWord w = some i := by
  cases i with
  | add o | sub o | and o | or o | xor o | andn o | shl o | shr o | sar o | rot o | mul o | mulh o | mulhz o | div o | divz o | rem o
  | remz o | min o | max o | minz o | maxz o | slt o | sltz o | seq o | sel o | bext o | bins o | addw o =>
    have h := (encA_eq_iff (by decide) (by decide)).1 (Option.some.inj h)
    exact ⟨h.lt, decodeWord_of_isA2 h rfl⟩
  | clz o | popc o | ji o | jli o =>
    have h := (encA_eq_iff (by decide) (by decide)).1 (Option.some.inj h)
    exact ⟨h.lt, by simp [decodeWord, decodeA, h.cls, h.d, h.a, h.b, h.ta, h.tb, h.fn, h.tk, a2Of]⟩
  | lea o =>
    have h := (encA_eq_iff (by decide) (by omega)).1 (Option.some.inj h)
    exact ⟨h.lt, decodeWord_of_isA_lea h⟩
  | leas o =>
    have h := (encA_eq_iff (by decide) (by omega)).1 (Option.some.inj h)
    exact ⟨h.lt, decodeWord_of_isA_leas h⟩
  | fadd o | fsub o | fmul o | ffma o | fmin o | fmax o | fcmp o | fabs o | fneg o | frcp o | frsq o =>
    have hf := FpFmt.code_le o.fmt
    have h := (encA_eq_iff (by decide) (by omega)).1 (Option.some.inj h)
    obtain ⟨hop, hfmt⟩ := h.fp (by omega) (by decide)
    exact ⟨h.lt, by simp [decodeWord, decodeF, h.cls, h.d, h.a, h.b, h.ta, h.tb, hop, hfmt, h.tk]⟩
  | fcvt o =>
    have hf := CvtDst.code_le o.dst
    have h := (encA_eq_iff (by decide) (by omega)).1 (Option.some.inj h)
    obtain ⟨hop, hfmt⟩ := h.fp (by omega) (by decide)
    have hsrc : fldN w 13 5 = o.src.code := by
      rw [fld_eq_iff.1 h.b, BitVec.toNat_ofNat, Nat.mod_eq_of_lt (cvtSrc_code_lt o.src)]
    exact ⟨h.lt, by simp [decodeWord, decodeF, h.cls, h.d, h.a, hsrc, h.ta, h.tb, hop, hfmt, h.tk]⟩
  | addi o | andi o | ori o | xori o | slti o =>
    have h := (encI_eq_iff (by decide) (by omega)).1 (Option.some.inj h)
    exact ⟨h.lt, by simp [decodeWord, decodeI, h.cls, h.d, h.a, h.ta, h.fn, fld_eq_iff.2 h.imm, h.tk]⟩
  | shli o | shri o | sari o =>
    have h := (encI_eq_iff (by decide) (by omega)).1 (Option.some.inj h)
    have hsh : fld w 4 6 = o.sh := by
      rw [fld_eq_iff, fldN_within (lo := 4) (n := 10) 0 6 (by decide), h.imm]
      omega
    have hhigh : fldN w 10 4 = 0 := by
      rw [fldN_within (lo := 4) (n := 10) 6 4 (by decide), h.imm]
      omega
    exact ⟨h.lt, by simp [decodeWord, decodeI, h.cls, h.d, h.a, h.ta, h.fn, hsh, hhigh, h.tk]⟩
  | ldb o | ldbz o | ldh o | ldhz o | ldw o | ldwz o | ldd o | stb o | sth o | stw o | std o =>
    have h := (encM_eq_iff (by decide)).1 (Option.some.inj h)
    exact ⟨h.lt, by simp [decodeWord, decodeM, h.cls, h.r, h.base, h.op, h.off, h.tk]⟩
  | lih o =>
    rw [encode_lih] at h
    have h := (encM_eq_iff (by decide)).1 (Option.some.inj h)
    have himm : fldN w 18 5 * 1024 + fldN w 4 10 = o.imm.toNat := by
      rw [fld_eq_iff.1 h.base, fld_eq_iff.1 h.off, lihForm_base, lihForm_off]
      omega
    exact ⟨h.lt, by simp [decodeWord, decodeM, h.cls, h.r, h.op, himm, h.tk, lihForm]⟩
  | beq o | bne o | blt o | bge o | blo o | bhs o =>
    have h := (encB_eq_iff (by decide)).1 (Option.some.inj h)
    exact ⟨h.lt, by simp [decodeWord, decodeB, h.cls, h.a, h.b, h.ta, h.tb, h.cond, h.off, h.tk]⟩
  | j o | jl o =>
    have h := (encJ_eq_iff (by decide) (by omega)).1 (Option.some.inj h)
    exact ⟨h.lt, by simp [decodeWord, decodeJ, h.cls, h.fn2, fld_eq_iff.2 h.rest, h.tk]⟩
  | loop o =>
    have hl := bool_toNat_le o.lcb
    have h := (encJ_eq_iff (by decide) (by omega)).1 (Option.some.inj h)
    have hlcb : fldB w 25 = o.lcb := by
      rw [fldB_eq_iff, fldN_within (lo := 4) (n := 22) 21 1 (by decide), h.rest]
      omega
    have ha : fld w 20 5 = o.a := by
      rw [fld_eq_iff, fldN_within (lo := 4) (n := 22) 16 5 (by decide), h.rest]
      omega
    have hoff : fld w 4 16 = o.off := by
      rw [fld_eq_iff, fldN_within (lo := 4) (n := 22) 0 16 (by decide), h.rest]
      omega
    exact ⟨h.lt, by simp [decodeWord, decodeJ, h.cls, h.fn2, hlcb, ha, hoff, h.tk]⟩
  | brloop o =>
    have hl := bool_toNat_le o.lcb
    have h := (encJ_eq_iff (by decide) (by omega)).1 (Option.some.inj h)
    have hlcb : fldB w 25 = o.lcb := by
      rw [fldB_eq_iff, fldN_within (lo := 4) (n := 22) 21 1 (by decide), h.rest]
      omega
    have hoff : fld w 4 21 = o.off := by
      rw [fld_eq_iff, fldN_within (lo := 4) (n := 22) 0 21 (by decide), h.rest]
      omega
    exact ⟨h.lt, by simp [decodeWord, decodeJ, h.cls, h.fn2, hlcb, hoff, h.tk]⟩
  | qpop o | qpeek o =>
    have ht := bool_toNat_le o.t
    have h := (encQ_eq_iff (by decide) (by omega) (by omega) (by decide) (by decide) (by omega)).1 (Option.some.inj h)
    obtain ⟨hq, hqz⟩ := h.queue
    obtain ⟨hm0, hm3⟩ := h.mode (m3 := 0) (Nat.zero_add _).symm (by decide)
    exact ⟨h.lt, by simp [decodeWord, decodeQ, fld_eq_ofNat, h.cls, h.d, h.b, h.op, hm0, hm3, hq, hqz, h.tk]⟩
  | qpush o | qcnt o =>
    have h := (encQ_eq_iff (by decide) (by omega) (by omega) (by omega) (by decide) (by decide)).1 (Option.some.inj h)
    obtain ⟨hq, hqz⟩ := h.queue
    obtain ⟨hm0, hm3⟩ := h.mode (m3 := 0) (m0 := false) rfl (by decide)
    exact ⟨h.lt, by simp [decodeWord, decodeQ, fld_eq_ofNat, h.cls, h.d, h.b, h.op, hm0, hm3, hq, hqz, h.tk]⟩
  | tkw o | tks o =>
    have hr := bool_toNat_le o.right
    have h := (encQ_eq_iff (by decide) (by omega) (by omega) (by omega) (by decide) (by omega)).1 (Option.some.inj h)
    obtain ⟨hq, hqz⟩ := h.queue
    obtain ⟨hm0, hm3⟩ := h.mode (m0 := false) rfl (by omega)
    exact ⟨h.lt, by simp [decodeWord, decodeQ, fld_eq_ofNat, h.cls, h.d, h.b, h.op, hm0, hm3, hq, hqz, h.tk, Nat.lt_succ_of_le hr]⟩
  | rdvz o =>
    have hr := bool_toNat_le o.block
    have h := (encQ_eq_iff (by decide) (by omega) (by omega) (by omega) (by decide) (by omega)).1 (Option.some.inj h)
    obtain ⟨hm0, hm3⟩ := h.mode (m0 := false) rfl (by omega)
    exact ⟨h.lt, by simp [decodeWord, decodeQ, fld_eq_ofNat, h.cls, h.d, h.a, h.b, h.op, hm0, hm3, h.tk, Nat.lt_succ_of_le hr]⟩
  | phase o =>
    have hs := Scope.code_le o.scope
    have h := (encQ_eq_iff (by decide) (by omega) (by omega) (by omega) (by decide) (by omega)).1 (Option.some.inj h)
    obtain ⟨hm0, hm3⟩ := h.mode (m0 := false) rfl (by omega)
    exact ⟨h.lt, by simp [decodeWord, decodeQ, fld_eq_ofNat, h.cls, h.d, h.a, h.b, h.op, hm0, hm3, h.tk]⟩
  | fencx o =>
    have hs := Scope.code_le o.scope
    have h1 := Path.code_le o.p1
    have h2 := Path.code_le o.p2
    have h := (encQ_eq_iff (by decide) (by omega) (by omega) (by omega) (by decide) (by omega)).1 (Option.some.inj h)
    obtain ⟨hm0, hm3⟩ := h.mode (m0 := false) rfl (by omega)
    exact ⟨h.lt, by simp [decodeWord, decodeQ, fld_eq_ofNat, h.cls, h.d, h.a, h.b, h.op, hm0, hm3, h.tk]⟩
  | waitw o =>
    have hcc := Cc.code_le o.cc
    have h := (encQ_eq_iff (by decide) (by omega) (by omega) (by omega) (by decide) (by omega)).1 (Option.some.inj h)
    obtain ⟨hm0, hm3⟩ := h.mode (m0 := false) rfl (by omega)
    exact ⟨h.lt, by simp [decodeWord, decodeQ, fld_eq_ofNat, h.cls, h.d, h.a, h.b, h.op, hm0, hm3, h.tk]⟩
  | hgive o | htake o | hqry o =>
    have h := (encQ_eq_iff (by decide) (by omega) (by omega) (by omega) (by decide) (by decide)).1 (Option.some.inj h)
    obtain ⟨hm0, hm3⟩ := h.mode (m3 := 0) (m0 := false) rfl (by decide)
    exact ⟨h.lt, by simp [decodeWord, decodeQ, fld_eq_ofNat, h.cls, h.d, h.a, h.b, h.op, hm0, hm3, h.tk]⟩
  | aadd o | amin o | amax o | aminz o | amaxz o | aand o | aor o | axor o | axch o | acas o =>
    have hs := Scope.code_le o.scope
    have hn := bool_toNat_le o.narrow
    have h := (encQ_eq_iff (by decide) (by omega) (by omega) (by omega) (by decide) (by omega)).1 (Option.some.inj h)
    obtain ⟨hm0, hm3⟩ := h.mode rfl (by omega)
    exact ⟨h.lt, by simp [decodeWord, decodeQ, fld_eq_ofNat, h.cls, h.d, h.a, h.b, h.op, hm0, hm3, h.tk, atomicOf]⟩
  | ared o =>
    have hs := Scope.code_le o.scope
    have h := (encQ_eq_iff (by decide) (by omega) (by omega) (by omega) (by decide) (by omega)).1 (Option.some.inj h)
    obtain ⟨hm0, hm3⟩ := h.mode (m0 := true) rfl (by omega)
    exact ⟨h.lt, by simp [decodeWord, decodeQ, fld_eq_ofNat, h.cls, h.d, h.a, h.b, h.op, hm0, hm3, h.tk]⟩
  | trap o | sleep o | brk o =>
    have h := (encS_eq_iff (by decide) (by omega)).1 (Option.some.inj h)
    exact ⟨h.lt, by simp [decodeWord, decodeS, fld_eq_ofNat, h.cls, h.fn, h.imm, h.tk]⟩
  | eret o | halt o | yld o =>
    have h := (encS_eq_iff (by decide) (by omega)).1 (Option.some.inj h)
    exact ⟨h.lt, by simp [decodeWord, decodeS, fld_eq_ofNat, h.cls, h.fn, h.imm, h.tk]⟩
  | ssrd o | sswr o =>
    have hnum : ssAssigned o.num = true := hwf
    have h := (encS_eq_iff (by decide) (by omega)).1 (Option.some.inj h)
    obtain ⟨hr, hlow⟩ := h.reg (by omega)
    exact ⟨h.lt, by simp [decodeWord, decodeS, fld_eq_ofNat, h.cls, h.fn, hr, hlow, h.tk, hnum]⟩
  | tlbi o =>
    have hk := TlbiKind.code_le o.kind
    have h := (encS_eq_iff (by decide) (by omega)).1 (Option.some.inj h)
    obtain ⟨hr, -⟩ := h.reg (by omega)
    have hkind : fldN w 12 3 = o.kind.code := by
      rw [fldN_within (lo := 4) (n := 16) 8 3 (by decide), h.imm]
      omega
    have hlow : fldN w 4 16 % 256 = 0 := by
      rw [h.imm]
      omega
    exact ⟨h.lt, by simp [decodeWord, decodeS, fld_eq_ofNat, h.cls, h.fn, hr, hkind, hlow, h.tk]⟩
  | ireg o =>
    have hvec : o.vec.toNat < 63 := by simpa [Instr.wf] using hwf
    have h := (encS_eq_iff (by decide) (by omega)).1 (Option.some.inj h)
    obtain ⟨hr, hlow⟩ := h.reg (by omega)
    exact ⟨h.lt, by simp [decodeWord, decodeS, fld_eq_ofNat, h.cls, h.fn, hr, hlow, h.tk, hvec]⟩
  | rrbs o =>
    have h := (encS_eq_iff (by decide) (by omega)).1 (Option.some.inj h)
    have hn : fldN w 4 4 = o.n.toNat := by
      rw [fldN_within (lo := 4) (n := 16) 0 4 (by decide), h.imm]
      omega
    exact ⟨h.lt, by simp [decodeWord, decodeS, fld_eq_ofNat, h.cls, h.fn, h.imm, hn, h.tk, o.n.isLt]⟩
  | oclm o | orel o | epil o | accd o | taskw o | rbind o | rfree o | rinv o | rqry o | cfgld o | cfgq o | rack o | kiln o | thaw o
  | rgo o | garm o | gset o | emit o | sigh o | tbld o | tbsv o =>
    have h := (encQ_eq_iff (by decide) (by omega) (by omega) (by omega) (by decide) (by decide)).1 (Option.some.inj h)
    exact ⟨h.lt, by simp [decodeWord, decodeT, decodeR, decodeG, fld_eq_ofNat, h.cls, h.d, h.a, h.b, h.op, h.md, h.tk]⟩
  | rcnt o =>
    have hc := RCounter.code_le o.ctr
    have h := (encQ_eq_iff (by decide) (by omega) (by omega) (by omega) (by decide) (by omega)).1 (Option.some.inj h)
    exact ⟨h.lt, by simp [decodeWord, decodeR, fld_eq_ofNat, h.cls, h.d, h.a, h.b, h.op, h.md, h.tk]⟩
  | phd o | pis o =>
    have h := (encPatch_eq_iff (by decide)).1 (Option.some.inj h)
    exact ⟨h.lt, by simp [decodeWord, h.cls, h.idx, h.sel, h.value]⟩
  | _ => cases h

end Sys2Proof.Proofs
end

/-! PROOFS. A word that decodes is the encoding of its instruction. -/
section

namespace Sys2Proof.Proofs

open Sys2Proof Sys2Proof.Machine Sys2Proof.Claims Sys2Proof.Laws

/-- A well-formed instruction and its word. -/
def Encodes (i : Instr) (w : Nat) : Prop := i.wf = true ∧ encode i = some w

theorem a2Of_encodes {fn w : Nat} {o : FormA2} {i : Instr} (h : a2Of fn o = some i) (hw : encA2 fn o = w) : Encodes i w := by
  subst hw
  unfold a2Of at h
  split at h <;> cases h <;> exact ⟨rfl, rfl⟩

theorem atomicOf_encodes {op w : Nat} {o : FormAtomic} {i : Instr} (h : atomicOf op o = some i)
    (hw : encQ 6 o.d.toNat o.a.toNat o.b.toNat op (o.scope.code * 2 + o.narrow.toNat) o.tk = w) : Encodes i w := by
  subst hw
  unfold atomicOf at h
  split at h <;> cases h <;> exact ⟨rfl, rfl⟩

theorem ite_some_eq_some {α : Type} {c : Prop} [Decidable c] {x y : α} : (if c then some x else none) = some y ↔ c ∧ x = y := by
  simp [Option.ite_none_right_eq_some]

section
variable {w : Nat} {i : Instr}

theorem decodeA_encodes (hw : w < 2 ^ 32) (hc : fldN w 28 4 = 1) (h : decodeA w = some i) : Encodes i w := by
  have hA {fn : Nat} (hfn : fldN w 4 7 = fn) :
      encA 1 (fld w 23 5) (fld w 18 5) (fld w 13 5) (fldB w 12) (fldB w 11) fn (fld w 0 4) = w :=
    (encA_eq_iff (by decide) (hfn ▸ Nat.mod_lt _ (by decide))).2 ⟨hw, hc, rfl, rfl, rfl, rfl, rfl, hfn, rfl⟩
  have hsc : fldN w 4 2 = fldN w 4 7 % 4 := by rw [fldN_within (lo := 4) (n := 7) 0 2 (by decide)]; omega
  unfold decodeA at h
  dsimp only at h
  split at h
  case h_1 ha2 => cases h; exact a2Of_encodes ha2 (hA rfl)
  split at h
  case isTrue hlea =>
    cases h
    exact ⟨rfl, congrArg some (hA (by rw [toNat_fld]; omega))⟩
  split at h
  case isTrue hleas =>
    cases h
    exact ⟨rfl, congrArg some (hA (by rw [toNat_fld]; omega))⟩
  split at h
  case isFalse => cases h
  next hb =>
  rw [hb.1, hb.2] at hA
  split at h
  case h_3 hfn =>
    split at h
    case isFalse => cases h
    next hd =>
    rw [hd] at hA
    cases h
    exact ⟨rfl, congrArg some (hA hfn)⟩
  case h_5 => cases h
  all_goals
    next hfn =>
    cases h
    exact ⟨rfl, congrArg some (hA hfn)⟩

theorem decodeF_encodes (hw : w < 2 ^ 32) (hc : fldN w 28 4 = 9) (h : decodeF w = some i) : Encodes i w := by
  have hA {fmt op : Nat} (hop : fldN w 4 5 = op) (hfmt : fmt = fldN w 9 2) :
      encA 9 (fld w 23 5) (fld w 18 5) (fld w 13 5) (fldB w 12) (fldB w 11) (fmt * 32 + op) (fld w 0 4) = w := by
    rw [fldN_within (lo := 4) (n := 7) 0 5 (by decide)] at hop
    rw [fldN_within (lo := 4) (n := 7) 5 2 (by decide)] at hfmt
    have hfn : fldN w 4 7 < 128 := Nat.mod_lt _ (by decide)
    exact (encA_eq_iff (by decide) (by omega)).2 ⟨hw, hc, rfl, rfl, rfl, rfl, rfl, by omega, rfl⟩
  unfold decodeF at h
  dsimp only at h
  split at h
  case isTrue hop =>
    split at h
    case isTrue => cases h
    next htb =>
    split at h
    case h_2 => cases h
    next dst src hdst hsrc =>
    cases h
    rw [cvtDstOf_eq_some] at hdst
    rw [cvtSrcOf_eq_some] at hsrc
    have hb : fld w 13 5 = BitVec.ofNat 5 src.code := by rw [fld_eq_ofNat, hsrc]
    rw [hb, eq_false_of_ne_true htb] at hA
    exact ⟨rfl, congrArg some (hA hop hdst)⟩
  split at h
  case h_1 => cases h
  next f hf =>
  rw [fpFmtOf_eq_some] at hf
  split at h
  case h_1 hop | h_2 hop | h_3 hop | h_4 hop | h_5 hop | h_6 hop | h_7 hop =>
    cases h
    exact ⟨rfl, congrArg some (hA hop hf)⟩
  case h_12 => cases h
  all_goals
    next hop =>
    split at h
    case isFalse => cases h
    next hb =>
    rw [hb.1, hb.2] at hA
    cases h
    exact ⟨rfl, congrArg some (hA hop hf)⟩

theorem decodeI_encodes (hw : w < 2 ^ 32) (hc : fldN w 28 4 = 2) (h : decodeI w = some i) : Encodes i w := by
  have hI {fn imm : Nat} (hfn : fldN w 14 3 = fn) (himm : fldN w 4 10 = imm) :
      encI fn (fld w 23 5) (fld w 18 5) (fldB w 17) imm (fld w 0 4) = w :=
    (encI_eq_iff (hfn ▸ Nat.mod_lt _ (by decide)) (himm ▸ Nat.mod_lt _ (by decide))).2 ⟨hw, hc, rfl, rfl, rfl, hfn, himm, rfl⟩
  have hshort (hs : (fldN w 10 4 == 0) = true) : fldN w 4 10 = fldN w 4 6 := by
    rw [beq_iff_eq, fldN_within (lo := 4) (n := 10) 6 4 (by decide)] at hs
    rw [fldN_within (lo := 4) (n := 10) 0 6 (by decide)]
    have himm : fldN w 4 10 < 1024 := Nat.mod_lt _ (by decide)
    omega
  unfold decodeI at h
  dsimp only at h
  split at h
  case h_1 hfn | h_2 hfn | h_3 hfn | h_4 hfn | h_8 hfn =>
    cases h
    exact ⟨rfl, congrArg some (hI hfn rfl)⟩
  case h_9 => cases h
  all_goals
    next hfn =>
    split at h
    case isFalse => cases h
    next hs =>
    cases h
    exact ⟨rfl, congrArg some (hI hfn (hshort hs))⟩

theorem decodeM_encodes (hw : w < 2 ^ 32) (hc : fldN w 28 4 = 3) (h : decodeM w = some i) : Encodes i w := by
  have hM {op : Nat} (hop : fldN w 14 4 = op) : encM op ⟨fld w 23 5, fld w 18 5, fld w 4 10, fld w 0 4⟩ = w :=
    (encM_eq_iff (hop ▸ Nat.mod_lt _ (by decide))).2 ⟨hw, hc, rfl, rfl, hop, rfl, rfl⟩
  unfold decodeM at h
  dsimp only at h
  split at h
  case h_13 => cases h
  case h_12 hop =>
    cases h
    have hform : lihForm ⟨fld w 23 5, BitVec.ofNat 15 (fldN w 18 5 * 1024 + fldN w 4 10), fld w 0 4⟩ =
        ⟨fld w 23 5, fld w 18 5, fld w 4 10, fld w 0 4⟩ := by
      have hbase : fldN w 18 5 < 32 := Nat.mod_lt _ (by decide)
      have hoff : fldN w 4 10 < 1024 := Nat.mod_lt _ (by decide)
      rw [lihForm, BitVec.toNat_ofNat, fld_eq_ofNat w 18 5, fld_eq_ofNat w 4 10]
      congr 2 <;> omega
    exact ⟨rfl, by rw [encode_lih, hform, hM hop]⟩
  all_goals
    next hop =>
    cases h
    exact ⟨rfl, congrArg some (hM hop)⟩

theorem decodeB_encodes (hw : w < 2 ^ 32) (hc : fldN w 28 4 = 4) (h : decodeB w = some i) : Encodes i w := by
  have hB {cond : Nat} (hcond : fldN w 13 3 = cond) :
      encB cond ⟨fld w 23 5, fld w 18 5, fldB w 17, fldB w 16, fld w 4 9, fld w 0 4⟩ = w :=
    (encB_eq_iff (hcond ▸ Nat.mod_lt _ (by decide))).2 ⟨hw, hc, rfl, rfl, rfl, rfl, hcond, rfl, rfl⟩
  unfold decodeB at h
  dsimp only at h
  split at h
  case h_7 => cases h
  all_goals
    next hcond =>
    cases h
    exact ⟨rfl, congrArg some (hB hcond)⟩

theorem decodeJ_encodes (hw : w < 2 ^ 32) (hc : fldN w 28 4 = 5) (h : decodeJ w = some i) : Encodes i w := by
  have hJ {fn rest : Nat} (hfn : fldN w 26 2 = fn) (hrest : fldN w 4 22 = rest) : encJ fn rest (fld w 0 4) = w :=
    (encJ_eq_iff (hfn ▸ Nat.mod_lt _ (by decide)) (hrest ▸ Nat.mod_lt _ (by decide))).2 ⟨hw, hc, hfn, hrest, rfl⟩
  have hlt : fldN w 26 2 < 4 := Nat.mod_lt _ (by decide)
  unfold decodeJ at h
  dsimp only at h
  split at h
  case h_1 hfn | h_2 hfn =>
    cases h
    exact ⟨rfl, congrArg some (hJ hfn rfl)⟩
  case h_3 hfn =>
    cases h
    refine ⟨rfl, congrArg some (hJ hfn ?_)⟩
    rw [toNat_fldB, toNat_fld, toNat_fld]
    simp only [fldN]
    omega
  case h_4 h0 h1 h2 =>
    cases h
    have hfn : fldN w 26 2 = 3 := by
      change _ ≠ _ at h0 h1 h2
      omega
    refine ⟨rfl, congrArg some (hJ hfn ?_)⟩
    rw [toNat_fldB, toNat_fld]
    simp only [fldN]
    omega

theorem decodeS_encodes (hw : w < 2 ^ 32) (hc : fldN w 28 4 = 7) (h : decodeS w = some i) : Encodes i w := by
  have hS {fn imm : Nat} (hfn : fldN w 20 8 = fn) (himm : fldN w 4 16 = imm) : encS fn imm (fld w 0 4) = w :=
    (encS_eq_iff (hfn ▸ Nat.mod_lt _ (by decide)) (himm ▸ Nat.mod_lt _ (by decide))).2 ⟨hw, hc, hfn, himm, rfl⟩
  have hreg : fldN w 4 16 = (fld w 15 5).toNat * 2 ^ 11 + (fld w 4 11).toNat := by
    rw [toNat_fld, toNat_fld]
    simp only [fldN]
    omega
  unfold decodeS at h
  dsimp only at h
  split at h
  case h_1 hfn | h_5 hfn | h_10 hfn =>
    cases h
    exact ⟨rfl, congrArg some (hS hfn rfl)⟩
  case h_2 hfn | h_6 hfn | h_7 hfn =>
    split at h
    case isFalse => cases h
    next himm =>
    cases h
    exact ⟨rfl, congrArg some (hS hfn himm)⟩
  case h_3 hfn | h_4 hfn =>
    split at h
    case isFalse => cases h
    next hnum =>
    cases h
    exact ⟨hnum, congrArg some (hS hfn hreg)⟩
  case h_8 hfn =>
    split at h
    case isFalse => cases h
    next hlow =>
    obtain ⟨k, hk, rfl⟩ := Option.map_eq_some_iff.1 h
    rw [tlbiKindOf_eq_some] at hk
    refine ⟨rfl, congrArg some (hS hfn ?_)⟩
    rw [toNat_fld, hk]
    simp only [fldN] at hlow ⊢
    omega
  case h_9 hfn =>
    split at h
    case isFalse => cases h
    next hvec =>
    cases h
    exact ⟨decide_eq_true hvec, congrArg some (hS hfn hreg)⟩
  case h_11 hfn =>
    split at h
    case isFalse => cases h
    next hn =>
    cases h
    refine ⟨rfl, congrArg some (hS hfn ?_)⟩
    rw [toNat_fld, fldN_within (lo := 4) (n := 16) 0 4 (by decide)]
    omega
  case h_12 => cases h

/-- A word of the classes of forms Q, T and G is its fields' (R52). -/
theorem encQ_of_fields {cls d a b op md : Nat} (hw : w < 2 ^ 32) (hc : fldN w 28 4 = cls) (hd : fldN w 23 5 = d)
    (ha : fldN w 18 5 = a) (hb : fldN w 13 5 = b) (hop : fldN w 8 5 = op) (hmd : fldN w 4 4 = md) :
    encQ cls d a b op md (fld w 0 4) = w :=
  (encQ_eq_iff (hc ▸ Nat.mod_lt _ (by decide)) (hd ▸ Nat.mod_lt _ (by decide)) (ha ▸ Nat.mod_lt _ (by decide))
    (hb ▸ Nat.mod_lt _ (by decide)) (hop ▸ Nat.mod_lt _ (by decide)) (hmd ▸ Nat.mod_lt _ (by decide))).2
    ⟨hw, hc, hd, ha, hb, hop, hmd, rfl⟩

theorem decodeT_encodes (hw : w < 2 ^ 32) (hc : fldN w 28 4 = 10) (h : decodeT w = some i) : Encodes i w := by
  unfold decodeT at h
  dsimp only at h
  split at h
  case isFalse => cases h
  next hmd =>
  split at h
  case h_1 hop | h_5 hop =>
    obtain ⟨hb, rfl⟩ := ite_some_eq_some.1 h
    exact ⟨rfl, congrArg some (encQ_of_fields hw hc rfl rfl (fld_eq_iff.1 hb) hop hmd)⟩
  case h_2 hop | h_3 hop =>
    obtain ⟨hd, rfl⟩ := ite_some_eq_some.1 h
    exact ⟨rfl, congrArg some (encQ_of_fields hw hc (fld_eq_iff.1 hd) rfl rfl hop hmd)⟩
  case h_4 hop =>
    obtain ⟨⟨hd, hb⟩, rfl⟩ := ite_some_eq_some.1 h
    exact ⟨rfl, congrArg some (encQ_of_fields hw hc (fld_eq_iff.1 hd) rfl (fld_eq_iff.1 hb) hop hmd)⟩
  case h_6 => cases h

theorem decodeR_encodes (hw : w < 2 ^ 32) (hc : fldN w 28 4 = 11) (h : decodeR w = some i) : Encodes i w := by
  unfold decodeR at h
  dsimp only at h
  split at h
  case h_1 hop =>
    obtain ⟨hmd, rfl⟩ := ite_some_eq_some.1 h
    exact ⟨rfl, congrArg some (encQ_of_fields hw hc rfl rfl rfl hop hmd)⟩
  case h_2 hop | h_3 hop =>
    obtain ⟨⟨hmd, hd, hb⟩, rfl⟩ := ite_some_eq_some.1 h
    exact ⟨rfl, congrArg some (encQ_of_fields hw hc (fld_eq_iff.1 hd) rfl (fld_eq_iff.1 hb) hop hmd)⟩
  case h_4 hop =>
    obtain ⟨⟨hmd, hb⟩, rfl⟩ := ite_some_eq_some.1 h
    exact ⟨rfl, congrArg some (encQ_of_fields hw hc rfl rfl (fld_eq_iff.1 hb) hop hmd)⟩
  case h_5 hop =>
    obtain ⟨hb, h⟩ := Option.ite_none_right_eq_some.1 h
    obtain ⟨ctr, hctr, rfl⟩ := Option.map_eq_some_iff.1 h
    exact ⟨rfl, congrArg some (encQ_of_fields hw hc rfl rfl (fld_eq_iff.1 hb) hop (rCounterOf_eq_some.1 hctr).symm)⟩
  case h_6 => cases h

theorem decodeG_encodes (hw : w < 2 ^ 32) (hc : fldN w 28 4 = 12) (h : decodeG w = some i) : Encodes i w := by
  unfold decodeG at h
  dsimp only at h
  split at h
  case isFalse => cases h
  next hmd =>
  split at h
  case h_1 hop | h_5 hop | h_8 hop | h_9 hop | h_11 hop | h_12 hop =>
    obtain ⟨hd, rfl⟩ := ite_some_eq_some.1 h
    exact ⟨rfl, congrArg some (encQ_of_fields hw hc (fld_eq_iff.1 hd) rfl rfl hop hmd)⟩
  case h_2 hop =>
    obtain ⟨hb, rfl⟩ := ite_some_eq_some.1 h
    exact ⟨rfl, congrArg some (encQ_of_fields hw hc rfl rfl (fld_eq_iff.1 hb) hop hmd)⟩
  case h_3 hop | h_4 hop | h_6 hop | h_7 hop | h_10 hop =>
    obtain ⟨⟨hd, hb⟩, rfl⟩ := ite_some_eq_some.1 h
    exact ⟨rfl, congrArg some (encQ_of_fields hw hc (fld_eq_iff.1 hd) rfl (fld_eq_iff.1 hb) hop hmd)⟩
  case h_13 => cases h

/-- A mode field whose parts are given (R59). -/
theorem mode_of_parts {m3 : Nat} {m0 : Bool} (h0 : fldB w 4 = m0) (h3 : fldN w 5 3 = m3) : fldN w 4 4 = m3 * 2 + m0.toNat := by
  rw [fldB_eq_iff] at h0
  simp only [fldN] at *
  omega

/-- A field of five bits whose two high bits are zero is a queue (R59). -/
theorem queue_of_high_zero (h : fldN w 21 2 = 0) : fldN w 18 5 = (fld w 18 3).toNat := by
  rw [toNat_fld]
  simp only [fldN] at *
  omega

theorem bit_of_lt_two {n : Nat} (h : n < 2) : n = (n == 1).toNat := by
  interval_cases n <;> rfl

theorem decodeQ_encodes (hw : w < 2 ^ 32) (hc : fldN w 28 4 = 6) (h : decodeQ w = some i) : Encodes i w := by
  have hQ {d a b op md : Nat} := encQ_of_fields (d := d) (a := a) (b := b) (op := op) (md := md) hw hc
  unfold decodeQ at h
  simp only [Bool.and_eq_true, beq_iff_eq, Bool.not_eq_true', decide_eq_true_eq] at h
  split at h
  case h_1 hop | h_2 hop =>
    obtain ⟨⟨⟨hqz, hb⟩, h3⟩, rfl⟩ := ite_some_eq_some.1 h
    exact ⟨rfl, congrArg some (hQ rfl (queue_of_high_zero hqz) (fld_eq_iff.1 hb) hop ((mode_of_parts rfl h3).trans (Nat.zero_add _)))⟩
  case h_3 hop =>
    obtain ⟨⟨⟨⟨hd, hqz⟩, h3⟩, h0⟩, rfl⟩ := ite_some_eq_some.1 h
    exact ⟨rfl, congrArg some (hQ (fld_eq_iff.1 hd) (queue_of_high_zero hqz) rfl hop (mode_of_parts h0 h3))⟩
  case h_4 hop =>
    obtain ⟨⟨⟨⟨hqz, hb⟩, h3⟩, h0⟩, rfl⟩ := ite_some_eq_some.1 h
    exact ⟨rfl, congrArg some (hQ rfl (queue_of_high_zero hqz) (fld_eq_iff.1 hb) hop (mode_of_parts h0 h3))⟩
  case h_5 hop | h_6 hop =>
    obtain ⟨⟨⟨⟨⟨hd, hqz⟩, hb⟩, h0⟩, h3⟩, rfl⟩ := ite_some_eq_some.1 h
    exact ⟨rfl, congrArg some (hQ (fld_eq_iff.1 hd) (queue_of_high_zero hqz) (fld_eq_iff.1 hb) hop (mode_of_parts h0 (bit_of_lt_two h3)))⟩
  case h_7 hop =>
    obtain ⟨⟨⟨⟨⟨hd, ha⟩, hb⟩, h0⟩, h3⟩, rfl⟩ := ite_some_eq_some.1 h
    exact ⟨rfl, congrArg some (hQ (fld_eq_iff.1 hd) (fld_eq_iff.1 ha) (fld_eq_iff.1 hb) hop (mode_of_parts h0 (bit_of_lt_two h3)))⟩
  case h_8 hop =>
    obtain ⟨⟨⟨⟨hd, ha⟩, hb⟩, h0⟩, h⟩ := Option.ite_none_right_eq_some.1 h
    obtain ⟨x, hx, rfl⟩ := Option.map_eq_some_iff.1 h
    exact ⟨rfl, congrArg some (hQ (fld_eq_iff.1 hd) (fld_eq_iff.1 ha) (fld_eq_iff.1 hb) hop (mode_of_parts h0 (scopeOf_eq_some.1 hx).symm))⟩
  case h_9 hop =>
    obtain ⟨⟨hd, h0⟩, h⟩ := Option.ite_none_right_eq_some.1 h
    split at h
    case h_2 => cases h
    next p1 p2 x h1 h2 hx =>
    cases h
    exact ⟨rfl, congrArg some (hQ (fld_eq_iff.1 hd) (pathOf_eq_some.1 h1).symm (pathOf_eq_some.1 h2).symm hop
      (mode_of_parts h0 (scopeOf_eq_some.1 hx).symm))⟩
  case h_10 hop =>
    obtain ⟨h0, h⟩ := Option.ite_none_right_eq_some.1 h
    obtain ⟨cc, hcc, rfl⟩ := Option.map_eq_some_iff.1 h
    exact ⟨rfl, congrArg some (hQ rfl rfl rfl hop (mode_of_parts h0 (ccOf_eq_some.1 hcc).symm))⟩
  case h_11 hop =>
    obtain ⟨⟨⟨hd, h3⟩, h0⟩, rfl⟩ := ite_some_eq_some.1 h
    exact ⟨rfl, congrArg some (hQ (fld_eq_iff.1 hd) rfl rfl hop (mode_of_parts h0 h3))⟩
  case h_12 hop | h_13 hop =>
    obtain ⟨⟨⟨hb, h3⟩, h0⟩, rfl⟩ := ite_some_eq_some.1 h
    exact ⟨rfl, congrArg some (hQ rfl rfl (fld_eq_iff.1 hb) hop (mode_of_parts h0 h3))⟩
  case h_14 hop =>
    obtain ⟨⟨hd, h0⟩, h⟩ := Option.ite_none_right_eq_some.1 h
    obtain ⟨x, hx, rfl⟩ := Option.map_eq_some_iff.1 h
    exact ⟨rfl, congrArg some (hQ (fld_eq_iff.1 hd) rfl rfl hop (mode_of_parts h0 (scopeOf_eq_some.1 hx).symm))⟩
  case h_15 =>
    split at h
    case h_2 => cases h
    next x hx => exact atomicOf_encodes h (hQ rfl rfl rfl rfl (mode_of_parts rfl (scopeOf_eq_some.1 hx).symm))

theorem decodeWord_encodes (hw : w < 2 ^ 32) (h : decodeWord w = some i) : Encodes i w := by
  unfold decodeWord at h
  split at h
  case h_1 hc => exact decodeA_encodes hw hc h
  case h_2 hc => exact decodeI_encodes hw hc h
  case h_3 hc => exact decodeM_encodes hw hc h
  case h_4 hc => exact decodeB_encodes hw hc h
  case h_5 hc => exact decodeJ_encodes hw hc h
  case h_6 hc => exact decodeQ_encodes hw hc h
  case h_7 hc => exact decodeS_encodes hw hc h
  case h_8 hc => exact decodeF_encodes hw hc h
  case h_9 hc => exact decodeT_encodes hw hc h
  case h_10 hc => exact decodeR_encodes hw hc h
  case h_11 hc => exact decodeG_encodes hw hc h
  case h_12 hc | h_13 hc =>
    cases h
    exact ⟨rfl, congrArg some ((encPatch_eq_iff (by decide)).2 ⟨hw, hc, rfl, rfl, rfl⟩)⟩
  case h_14 => cases h

end

/-- Settles O2, class by class: a word with the fields that its decoded instruction shows is the word that the encoder packs from them. -/
theorem decodedWordsAreTheirInstructionsEncoding : Obligations.DecodedWordsAreTheirInstructionsEncoding :=
  fun _ _ hw h => decodeWord_encodes hw h

/-- The four bytes of a word are read as the word (R41). -/
theorem wordOfBytes_bytesOfWord {w : Nat} (h : w < 2 ^ 32) : wordOfBytes (bytesOfWord w) = some w := by
  simp only [bytesOfWord, wordOfBytes, BitVec.toNat_ofNat, Option.some.injEq]
  omega

theorem decodeBytes_bytesOfWord {w : Nat} (h : w < 2 ^ 32) : decodeBytes (bytesOfWord w) = (decodeWord w).map (·, []) := by
  rw [decodeBytes, wordOfBytes_bytesOfWord h]
  dsimp only
  cases decodeWord w <;> rfl

/-- Settles O1: the four bytes are read as the word, and the word of each form is decoded by its fields. -/
theorem decodeGivesBackTheEncodedInstruction : Obligations.DecodeGivesBackTheEncodedInstruction := by
  intro i w hwf h
  obtain ⟨hw, hi⟩ := decodeWord_encode hwf h
  exact ⟨hw, by rw [decodeBytes_bytesOfWord hw, hi, Option.map_some]⟩

/-! Words that the spec prints, and reserved words. -/

theorem decodeTableWord_of_encode {i : Instr} {w : Nat} (hwf : i.wf = true) (h : encode i = some w) : decodeTableWord 32 w = some i := by
  obtain ⟨hw, hi⟩ := decodeWord_encode hwf h
  rw [decodeTableWord, if_pos (Nat.le_refl 32), Nat.mod_eq_of_lt hw, decodeBytes_bytesOfWord hw, hi]
  rfl

theorem reservedClassesAreIllegal : ReservedClassesAreIllegal := by
  intro w hw hcls
  have hnone : decodeWord w = none := by
    have hc : fldN w 28 4 = w / 2 ^ 28 := Nat.mod_eq_of_lt (by omega)
    rw [decodeWord, hc]
    rcases hcls with h | h | h <;> rw [h] <;> rfl
  rw [decodeTableWord, if_pos (Nat.le_refl 32), Nat.mod_eq_of_lt hw, decodeBytes_bytesOfWord hw, hnone]
  rfl

theorem sampleWordsDecode : SampleWordsDecode := by
  refine ⟨?_, ?_, ?_, ?_, ?_, ?_, ?_, ?_, ?_, ?_, ?_, ?_, ?_, ?_, ?_, ?_, ?_, ?_, ?_, ?_, ?_, ?_, ?_,
    reservedClassesAreIllegal 0 (by decide) (.inl rfl)⟩ <;> exact decodeTableWord_of_encode rfl rfl

/-- Settles O3: each printed word is the encoding of its instruction, and no class that is reserved has a decoder. -/
theorem sampleWordsAndReservedWordsDecode : Obligations.SampleWordsAndReservedWordsDecode :=
  ⟨sampleWordsDecode, reservedClassesAreIllegal⟩

end Sys2Proof.Proofs
end

/-! PROOFS. Fetch faults, illegal words and ERET (R41, R43, R148, R375, R379). -/
section

namespace Sys2Proof.Proofs

open Sys2Proof Sys2Proof.Machine Sys2Proof.Claims

/-- A fetch that raises a cause traps at its own offset. -/
theorem exec_fetchFault_of_cause {s : State} {c : Cause} (h : canIssue (cur s) = true)
    (hc : fetchCause s s.curTile (cur s).pc = some c) :
    exec .fetchFault s = .next (takeTrap s c (if c = .poison then 0 else (cur s).pc) (cur s).pc) := by
  change execFetchFault s = _
  simp [execFetchFault, h, hc]

/-- The cause of a fetch: ALIGN, then NEAR_BOUNDS, then POISON. -/
theorem fetchFaultsNameTheirOffset : FetchFaultsNameTheirOffset := by
  intro s h
  have hbytes : Config.scratchBytes = 2 ^ 19 := rfl
  refine ⟨fun halign => ?_, fun haligned hfar => ?_, fun haligned hnear hpoison => ?_, fun w => ?_⟩
  · exact exec_fetchFault_of_cause (c := .align) h (by simp [fetchCause, halign])
  · have hc : fetchCause s s.curTile (cur s).pc = some .nearBounds := by
      rw [fetchCause, hbytes, if_neg (not_not.mpr haligned), if_pos hfar]
    exact exec_fetchFault_of_cause h hc
  · have hc : fetchCause s s.curTile (cur s).pc = some .poison := by
      rw [fetchCause, hbytes, if_neg (not_not.mpr haligned), if_neg (Nat.not_lt.mpr hnear), if_pos hpoison]
    exact exec_fetchFault_of_cause h hc
  · change execIllegalInstruction w s = _
    simp [execIllegalInstruction, h]

/-- A push finds the room that it found before its own stream changed. -/
theorem pushRoom_setCur {s : State} {tk : BitVec 4} (x : Stream) (h : PushRoom s tk) : PushRoom (setCur s x) tk := by
  simp only [PushRoom, setCur_curTile, setCur_curStrm]
  rw [setCur, pushedTokens_setStrm_own, pushedTokens_setStrm_own]
  exact h

/-- ERET in the trap context goes on at ss.epc. -/
theorem exec_eret_returns {o : FormS0} {s : State} (hi : Issues s o.tk) (ht : (cur s).tctx = true) :
    exec (.eret o) s = .next (jumpsTo s (leaveTrap (popped s o.tk)) o.tk (cur s).epc) :=
  issue_ok (canIssue_of_issues hi) (by simp only [need_true ht, tokensReady_of_issues hi, chk_bind_ok])

theorem eretReturnsFromTheTrapContext : EretReturnsFromTheTrapContext := by
  intro o s hi
  refine ⟨fun ht hroom => ⟨_, exec_eret_returns hi ht, ?_⟩, fun hu => ?_⟩
  · rw [cur_retire_room _ (pushRoom_setCur _ hroom), cur_setCur]
    simp [advanced, leaveTrap]
  · exact issue_trap (canIssue_of_issues hi) (by simp only [hu]; rfl)

/-- Settles O34: a fetch takes the first of its causes that holds, and ERET jumps to ss.epc with TCTX cleared. -/
theorem fetchFaultsAndEretChangeContext : Obligations.FetchFaultsAndEretChangeContext :=
  ⟨fetchFaultsNameTheirOffset, eretReturnsFromTheTrapContext⟩

end Sys2Proof.Proofs
end

/-! PROOFS. The completion of commands: their replies, their tokens, and a TOKEN_OVER that falls due (R70 to R72, R156, R158). -/
section

namespace Sys2Proof.Proofs

open Sys2Proof Sys2Proof.Machine Sys2Proof.Claims

/-! Fields of a template and of a reply word. -/

theorem tf_lt (t : BitVec 256) (hi lo : Nat) : tf t hi lo < 2 ^ (hi + 1 - lo) := Nat.mod_lt _ (Nat.two_pow_pos _)

/-- A bit of a template's token field (R62). -/
theorem getLsbD_tokenField (t : BitVec 256) (i : Nat) (h : i < 4) :
    (BitVec.ofNat 4 (tf t 11 8)).getLsbD i = (tf t (8 + i) (8 + i) == 1) := by
  have hn : 8 + i + 1 - (8 + i) = 1 := by omega
  simp only [tf, bitsN, hn, BitVec.getLsbD_ofNat, h, decide_true, Bool.true_and, Nat.testBit_mod_two_pow]
  simp only [Nat.testBit_eq_decide_div_mod_eq, Nat.div_div_eq_div_mul, ← pow_add]
  rfl

theorem cmdTag_toNat (c : Cmd) : (cmdTag c).toNat = tf c.tmpl 47 32 := by
  rw [cmdTag, BitVec.toNat_ofNat, Nat.mod_eq_of_lt (tf_lt ..)]

/-- The three fields of a reply word (R70). -/
theorem replyWord_fields (d : Done) : wf64 (replyWord d) 63 48 = tf d.cmd.tmpl 47 32 ∧ wf64 (replyWord d) 47 40 = d.status.toNat ∧
    wf64 (replyWord d) 39 0 = d.result.toNat := by
  have htag : tf d.cmd.tmpl 47 32 < 2 ^ 16 := tf_lt ..
  have hs := d.status.isLt
  have hr := d.result.isLt
  simp only [wf64, bitsN, replyWord, cmdTag_toNat, BitVec.toNat_ofNat]
  omega

theorem doneTurn_of_endsNext {s : State} {n : Nat} {c : Cmd} (h : EndsNext s n c) : doneTurn s n c = true := by
  simpa [doneTurn, EndsNext] using h

/-- The stream of a command that has completed. -/
def commandLeft (s : State) (c : Cmd) (st : Stream) : Stream :=
  { st with cmds := st.cmds.filter (fun r => r.id != c.id), lastIssue := s.fab, ended := st.ended ++ [(kindPath (cmdKind c), ownKey c.id)] }

/-- The state in which the stream of command n of those ended is rid of it, before its reply and its tokens. -/
def commandOver (s : State) (n : Nat) (c : Cmd) : State :=
  setStrm { s with done := ldrop s.done n } c.tile c.strm (commandLeft s c (strmAt s c.tile c.strm))

section
variable {s : State} {n : Nat} {d : Done}

/-- A command of a standing job completes in its turn: it leaves its stream, replies and pushes its tokens. -/
theorem exec_commandCompletion_standing (hd : s.done[n]? = some d) (hfe : d.cmd.fromFe = false)
    (hlive : (tileOf s d.cmd.tile).job = some d.cmd.job)
    (hjob : (mget? s.fe.jobs d.cmd.job).isSome = true) (hturn : EndsNext s n d.cmd) :
    exec (.commandCompletion n) s = .next (if tf d.cmd.tmpl 12 12 = 1 ∧ d.status = 0
      then completionTokens (sendReply (commandOver s n d.cmd) d) d.cmd else sendReply (commandOver s n d.cmd) d) := by
  have hupd : updStrm { s with done := ldrop s.done n } d.cmd.job d.cmd.tile d.cmd.strm (commandLeft s d.cmd) = commandOver s n d.cmd :=
    updStrm_live d.cmd.strm _ hlive
  have hnot : ¬ (d.cmd.job ≠ 0 ∧ (mget? s.fe.jobs d.cmd.job).isNone = true) := by
    simp [Option.isNone_eq_false_iff.mpr hjob]
  rw [exec_commandCompletion]
  simp only [execCommandCompletion, hd, doneTurn_of_endsNext hturn, hfe, Bool.not_true, Bool.false_eq_true, if_false]
  simp only [streamCmdDone, if_neg hnot]
  rw [← hupd]
  rfl

/-- Without TKON, or with a fault, no token is pushed at the completion. -/
theorem exec_commandCompletion_untokened (hd : s.done[n]? = some d) (hfe : d.cmd.fromFe = false)
    (hlive : (tileOf s d.cmd.tile).job = some d.cmd.job) (hjob : (mget? s.fe.jobs d.cmd.job).isSome = true) (hturn : EndsNext s n d.cmd)
    (hno : tf d.cmd.tmpl 12 12 = 0 ∨ d.status ≠ 0) :
    exec (.commandCompletion n) s = .next (sendReply (commandOver s n d.cmd) d) := by
  rw [exec_commandCompletion_standing hd hfe hlive hjob hturn, if_neg]
  rintro ⟨h1, h0⟩
  exact hno.elim (fun h => absurd (h.symm.trans h1) (by decide)) (fun h => h h0)

end

theorem tokens_commandOver (s : State) (n : Nat) (c : Cmd) (u : Nat) (sk : Strm) (right : Bool) :
    tokens (strmAt (commandOver s n c) u sk) right = tokens (strmAt s u sk) right := by
  by_cases h : (u, sk) = (c.tile, c.strm)
  · obtain ⟨rfl, rfl⟩ := Prod.mk.inj h
    rw [commandOver, strmAt_setStrm_same]
    rfl
  · rw [commandOver, strmAt_setStrm_other _ _ _ _ _ _ h]
    rfl

/-- No reply is sent under reply mode 0 (R70). -/
theorem sendReply_none {s : State} {d : Done} (h : tf d.cmd.tmpl 14 13 = 0) : sendReply s d = s := by
  simp [sendReply, h]

/-! The reply word in own scratchpad (R70). -/

@[simp] theorem noteCollapse_mem (s : State) (g : Agent) (p n : Nat) : (noteCollapse s g p n).mem = s.mem := by
  unfold noteCollapse
  split <;> rfl

/-- Bytes just written at a port are read there. -/
theorem readAt_writeAt {s : State} (g : Agent) (p : Nat) (bs : List Byte) (h : MemInv s) : readAt (writeAt s g p bs) p bs.length = bs := by
  have hmem : (writeAt s g p bs).mem = memWrite
        ((poisonIn s p bs.length).foldl (fun t gr => scrubGranule t g p bs.length gr) s).mem p bs := by
    simp [writeAt]
  rw [readAt, hmem]
  exact memRead_write (scrubAll_wf g p bs.length _ s h) p bs

/-- An engine's write to its tile's own scratchpad, which no link loses, is one write at the port (R199). -/
theorem engWrite_own {s : State} {w : Who} {off : Nat} {bs : List Byte} (h : off + bs.length ≤ Config.scratchBytes) :
    engWrite s w (ownAddr off) bs false = .ok (noteCollapse (writeAt s (agentOf w) (scratchBase w.tile + off) bs) (agentOf w)
      (scratchBase w.tile + off) bs.length) := by
  have hb : Config.scratchBytes = 2 ^ 19 := rfl
  have hsel : ownAddr off / 2 ^ 56 = 1 := by unfold ownAddr; omega
  have hoff : ownAddr off % 2 ^ 56 = off := by unfold ownAddr; omega
  have hspace : (scratchBase w.tile + off) / 2 ^ 54 ≠ 2 := by unfold scratchBase; omega
  have hsegs : engSegs s w (ownAddr off) bs.length true false =
      .ok [{ phys := scratchBase w.tile + off, len := bs.length, at_ := ownAddr off }] := by
    simp only [engSegs, hsel, hoff, if_neg (Nat.not_lt.mpr h)]
    rfl
  have hlink : linkLost s [{ phys := scratchBase w.tile + off, len := bs.length, at_ := ownAddr off }] = none := by
    unfold linkLost
    split
    · rfl
    · split
      · simp only [List.find?_cons, beq_eq_false_iff_ne.mpr hspace, Bool.false_and, List.find?_nil, Option.map_none]
      · rfl
  simp only [engWrite, hsegs, hlink, segsWrite, List.take_length]
  rfl

/-- The agent that writes a command's reply word. -/
def replyAgent (d : Done) : Agent := agentOf { whoOf d.cmd (kindPath (cmdKind d.cmd)) with know := doneKnow d.cmd }

/-- Where the template puts the reply word. -/
def replyAt (d : Done) : Nat := scratchBase d.cmd.tile + tf d.cmd.tmpl 63 48 * 8

def replyBytes (d : Done) : List Byte := leBytes 8 (replyWord d).toNat

theorem replyBytes_length (d : Done) : (replyBytes d).length = 8 := leBytes_length ..

/-- Under reply mode 2 the word of a live job is written once, in own scratchpad (R70). -/
theorem sendReply_near {s : State} {d : Done} (hmode : tf d.cmd.tmpl 14 13 = 2) (hsaved : mget? s.fe.saves d.cmd.job = none) :
    sendReply s d = noteCollapse (writeAt s (replyAgent d) (replyAt d) (replyBytes d)) (replyAgent d) (replyAt d)
        (replyBytes d).length := by
  have hoff : tf d.cmd.tmpl 63 48 * 8 + (replyBytes d).length ≤ Config.scratchBytes := by
    have h : tf d.cmd.tmpl 63 48 < 2 ^ 16 := tf_lt ..
    rw [replyBytes_length, show Config.scratchBytes = 2 ^ 19 from rfl]
    omega
  have hnot : ¬ (d.cmd.job ≠ 0 ∧ jobSaved s d.cmd.job = true) := by simp [jobSaved, hsaved]
  have hwrite := engWrite_own (s := s) (w := { whoOf d.cmd (kindPath (cmdKind d.cmd)) with know := doneKnow d.cmd }) hoff
  rw [replyBytes] at hwrite
  simp only [sendReply, hmode, if_neg hnot, hwrite]
  rfl

theorem noteCollapse_replies (s : State) (g : Agent) (p n : Nat) : (noteCollapse s g p n).replies = s.replies := by
  unfold noteCollapse
  split <;> rfl

theorem writeAt_replies (s : State) (g : Agent) (p : Nat) (bs : List Byte) : (writeAt s g p bs).replies = s.replies := by
  rw [portsOnly_writeAt s g p bs]

theorem readNat_sendReply {s : State} {d : Done} (hmode : tf d.cmd.tmpl 14 13 = 2) (hsaved : mget? s.fe.saves d.cmd.job = none)
    (hmem : MemInv s) :
    readNat (sendReply s d) (replyAt d) 8 = (replyWord d).toNat := by
  have hread := readAt_writeAt (replyAgent d) (replyAt d) (replyBytes d) hmem
  rw [replyBytes_length] at hread
  rw [sendReply_near hmode hsaved, readNat, readAt, noteCollapse_mem]
  rw [readAt] at hread
  rw [hread, replyBytes, leNat_leBytes]
  exact Nat.mod_eq_of_lt (replyWord d).isLt

/-- A command's own accesses happen before its completion (R181). -/
theorem ownKey_mem_doneKnow (c : Cmd) : ownKey c.id ∈ (doneKnow c).cmds := by
  by_cases h : ownKey c.id ∈ c.know.cmds <;> simp [doneKnow, kmerge, h]

theorem completedCommandsLeaveTheirStream : CompletedCommandsLeaveTheirStream := by
  intro s n d hd hfe hlive hjob hno hturn
  have hexec := exec_commandCompletion_untokened hd hfe hlive hjob hturn hno
  refine ⟨fun hmode => ⟨_, hexec, ?_⟩, fun hmode => ?_, fun hmode hsaved hmem => ⟨_, hexec, ?_, ?_⟩⟩
  · rw [sendReply_none hmode]
    exact ⟨rfl, rfl, rfl, by rw [commandOver, strmAt_setStrm_same]; rfl, tokens_commandOver s n d.cmd⟩
  · obtain ⟨htag, hstatus, hresult⟩ := replyWord_fields d
    exact ⟨_, _, hexec, by simp only [sendReply, hmode]; rfl, rfl, rfl, rfl, htag, hstatus, hresult, by simp only [sendReply, hmode]; rfl,
      ownKey_mem_doneKnow d.cmd⟩
  · rw [sendReply_near (s := commandOver s n d.cmd) hmode hsaved, noteCollapse_replies, writeAt_replies]
    rfl
  · exact readNat_sendReply hmode hsaved hmem

/-! The tokens of a completion (R72). -/

theorem overWord_eq (c : Cmd) : overWord c = BitVec.ofNat 64 (tf c.tmpl 47 32 + tf c.tmpl 3 0 * 2 ^ 16) := by
  rw [overWord, cmdTag_toNat, cmdKind]

/-- A stream at whose next boundary the TOKEN_OVER of a command is due. -/
def overReported (c : Cmd) (st : Stream) : Stream := { st with overDue := st.overDue ++ [overWord c] }

/-- The record of a failed completion push of a stream that has executed HALT. -/
def overOffer (s : State) (c : Cmd) : Offer := { cmdOffer s c .tokenOver 0 0 with detail := overWord c }

/-- A tile written back as it is. -/
abbrev rewritten (s : State) (t : Nat) : State := setTile s t (tileOf s t)

theorem strmAt_rewritten (s : State) (t u : Nat) (sk : Strm) : strmAt (rewritten s t) u sk = strmAt s u sk := by
  rw [strmAt_setTile]
  split
  · next h => rw [h]; rfl
  · rfl

theorem pushedTokens_rewritten (s : State) (t : Nat) (sk : Strm) :
    pushedTokens (rewritten s t) t sk true = pushedTokens s t sk true := by
  rw [pushedTokens, strmAt_rewritten]
  rfl

theorem jobTile_live {s : State} {job t : Nat} (h : (tileOf s t).job = some job) : jobTile s job t = tileOf s t := by simp [jobTile, h]

theorem updTile_live {s : State} {job t : Nat} (f : Tile → Tile) (h : (tileOf s t).job = some job) :
    updTile s job t f = setTile s t (f (tileOf s t)) := by simp [updTile, h]

section
variable {s : State} {c : Cmd}

/-- The SR push of a completion in its tile, as the tokens that the neighbour holds: one more where there is room. -/
theorem pushDone_right (hsl : tf c.tmpl 9 9 = 0) (hsr : tf c.tmpl 8 8 = 1) :
    pushDone (tileOf s c.tile) c = if pushedTokens s c.tile c.strm true < 8
      then (withStream (tileOf s c.tile) (neighbour c.strm true)
        (addTokens (strmAt s c.tile (neighbour c.strm true)) false 1 (doneKnow c)), false)
      else (tileOf s c.tile, true) := by
  have hl : tkSL (BitVec.ofNat 4 (tf c.tmpl 11 8)) = false := by rw [tkSL, getLsbD_tokenField _ _ (by decide), hsl]; rfl
  have hr : tkSR (BitVec.ofNat 4 (tf c.tmpl 11 8)) = true := by rw [tkSR, getLsbD_tokenField _ _ (by decide), hsr]; rfl
  simp only [pushDone, hl, hr, Bool.false_eq_true, if_false, if_true, Bool.false_or]
  rfl

variable (hlive : (tileOf s c.tile).job = some c.job) (hsl : tf c.tmpl 9 9 = 0) (hsr : tf c.tmpl 8 8 = 1)
include hlive hsl hsr

/-- With room the neighbour holds one more token. -/
theorem completionTokens_room (h : pushedTokens s c.tile c.strm true < 8) :
    completionTokens s c = setStrm s c.tile (neighbour c.strm true)
      (addTokens (strmAt s c.tile (neighbour c.strm true)) false 1 (doneKnow c)) := by
  have hpush := pushDone_right (s := s) hsl hsr
  rw [if_pos h] at hpush
  simp only [completionTokens, updTile_live _ hlive, jobTile_live hlive, hpush]
  rfl

/-- Without room TOKEN_OVER falls due, or is an engine fault of a stream that has executed HALT. -/
theorem completionTokens_full (h : 8 ≤ pushedTokens s c.tile c.strm true) :
    completionTokens s c = if (strmAt s c.tile c.strm).halted then offer (rewritten s c.tile) (overOffer (rewritten s c.tile) c)
      else setStrm (rewritten s c.tile) c.tile c.strm (overReported c (strmAt s c.tile c.strm)) := by
  have hpush := pushDone_right (s := s) hsl hsr
  rw [if_neg (Nat.not_lt.mpr h)] at hpush
  have hlive' : (tileOf (rewritten s c.tile) c.tile).job = some c.job := by rw [tileOf_setTile_same]; exact hlive
  have hlate : updStrm (rewritten s c.tile) c.job c.tile c.strm (overReported c) =
      setStrm (rewritten s c.tile) c.tile c.strm (overReported c (strmAt s c.tile c.strm)) := by
    rw [updStrm_live _ _ hlive', strmAt_rewritten]
  rw [← hlate]
  simp only [completionTokens, updTile_live _ hlive, jobTile_live hlive, jobTile_live hlive', tileOf_setTile_same, hpush]
  rfl

end

theorem pushedTokens_commandOver (s : State) (n : Nat) (c : Cmd) (right : Bool) :
    pushedTokens (commandOver s n c) c.tile c.strm right = pushedTokens s c.tile c.strm right := tokens_commandOver ..

theorem strmAt_commandOver (s : State) (n : Nat) (c : Cmd) :
    strmAt (commandOver s n c) c.tile c.strm = commandLeft s c (strmAt s c.tile c.strm) := strmAt_setStrm_same ..

theorem job_commandOver (s : State) (n : Nat) (c : Cmd) : (tileOf (commandOver s n c) c.tile).job = (tileOf s c.tile).job := by
  rw [commandOver, tileOf_setStrm, if_pos rfl, withStream_job]
  rfl

theorem completionPushesTokens : CompletionPushesTokens := by
  intro s n d t hd hfe hlive hjob hton hstatus hmode hsl hsr hturn hexec
  rw [exec_commandCompletion_standing hd hfe hlive hjob hturn, if_pos ⟨hton, hstatus⟩, sendReply_none hmode] at hexec
  injection hexec with ht
  have hlive' := (job_commandOver s n d.cmd).trans hlive
  rw [← pushedTokens_commandOver s n d.cmd]
  refine ⟨fun hroom => ?_, fun hfull => ?_⟩
  · rw [completionTokens_room hlive' hsl hsr hroom] at ht
    have hne : (d.cmd.tile, d.cmd.strm) ≠ (d.cmd.tile, neighbour d.cmd.strm true) :=
      fun h => neighbour_ne d.cmd.strm true (congrArg Prod.snd h).symm
    rw [← ht]
    constructor
    · rw [pushedTokens, strmAt_setStrm_same]
      rfl
    · rw [strmAt_setStrm_other _ _ _ _ _ _ hne, strmAt_commandOver]
      rfl
  · rw [completionTokens_full hlive' hsl hsr hfull, strmAt_commandOver] at ht
    have hsame := pushedTokens_rewritten (commandOver s n d.cmd) d.cmd.tile d.cmd.strm
    cases hhalt : (strmAt s d.cmd.tile d.cmd.strm).halted with
    | false =>
      rw [if_neg (by simp [commandLeft, hhalt])] at ht
      rw [← ht, pushedTokens_setStrm_own, strmAt_setStrm_same]
      exact ⟨hsame, fun _ => by rw [← overWord_eq]; rfl, fun h => absurd h (by decide)⟩
    | true =>
      rw [if_pos (by simp [commandLeft, hhalt])] at ht
      rw [← ht]
      exact ⟨hsame, fun h => absurd h (by decide), fun _ => ⟨_, rfl, rfl, rfl, rfl⟩⟩

/-! A TOKEN_OVER that falls due (R72). -/

theorem dueTokenOversAreTaken : DueTokenOversAreTaken := by
  intro s t sk v rest hdue hcfg hrun hhalt hwait htakes
  have htake : takeOverDue s t sk =
      takeTrapAt (setStrm s t sk { strmAt s t sk with overDue := rest }) t sk .tokenOver v (strmAt s t sk).pc := by
    simp [takeOverDue, hdue, hhalt, hrun, hwait, asleep, cfgCommitted_none sk hcfg, abandon]
  have hin : strmAt (takeOverDue s t sk) t sk = enterTrap { strmAt s t sk with overDue := rest } .tokenOver v (strmAt s t sk).pc := by
    rw [htake, strmAt_takeTrapAt, strmAt_setStrm_same]
    exact trapped_in_context _ _ htakes
  rw [hin]
  exact ⟨rfl, rfl, rfl, rfl, rfl, rfl⟩

/-- Settles O43: a completion takes its command from its stream's list, then sends the reply of its mode, then pushes its tokens. -/
theorem completedCommandsReplyAndPush : Obligations.CompletedCommandsReplyAndPush :=
  ⟨completedCommandsLeaveTheirStream, completionPushesTokens, dueTokenOversAreTaken⟩

end Sys2Proof.Proofs
end

/-! PROOFS. A TLBI places the stores of the streams beside it, so a unit word can change what another stream holds (R384). -/
section

namespace Sys2Proof.Proofs

open Sys2Proof Sys2Proof.Machine Sys2Proof.Claims

/-- A store to the first page of L2 that is performed for every agent and not yet published, so a TLBI of its page waits no more for it
and gives it its place in coherence order (R177, R384). -/
def performedStore : Posted := { addr := l2Base 0, bytes := [1], near := 3 * 2 ^ 56, performed := some .system }

/-- Stream K of tile 0 runs, and stream L of the same tile holds the performed store. -/
def besideAPerformedStore : State :=
  setStrm (setStrm State.reset 0 .k { running := true }) 0 .l { running := true, posted := [performedStore] }

/-- A TLBI of every translation of the context. -/
def tlbiAll : Instr := .tlbi { a := 0, kind := .all, tk := 0 }

/-- The stores that stream L of tile 0 holds after a step. -/
def storesOfL : Host.Outcome State Fault Refusal → List Posted
  | .next t => (strmAt t 0 .l).posted
  | _ => []

theorem storesOfL_tlbiAll : storesOfL (exec tlbiAll besideAPerformedStore) = [{ performedStore with placed := some 0 }] := by decide

/-- The unit words do not all keep the other streams: a TLBI settles the posted stores of every stream of its context. -/
theorem not_unitWordsChangeNoOtherRegister : ¬ UnitWordsChangeNoOtherRegister := by
  intro hkeep
  have hplaced := storesOfL_tlbiAll
  cases hexec : exec tlbiAll besideAPerformedStore with
  | next t =>
    obtain ⟨-, -, -, hothers⟩ := hkeep tlbiAll besideAPerformedStore t rfl hexec
    have hposted : (strmAt t 0 .l).posted = [performedStore] := by simp only [hothers 0 .l (by decide)]; rfl
    rw [hexec, storesOfL, hposted] at hplaced
    exact absurd hplaced (by decide)
  | _ => rw [hexec] at hplaced; exact absurd hplaced (by simp [storesOfL])

/-- Refutes O10: TLBI is one of the unit words, and it places the posted store of stream L (R384), which the statement says it keeps. -/
theorem not_controlAndUnitWordsChangeNoOtherRegister : ¬ Obligations.ControlAndUnitWordsChangeNoOtherRegister :=
  fun h => not_unitWordsChangeNoOtherRegister h.2.1

end Sys2Proof.Proofs
end

/-! PROOFS. Templates: what TBLD, TBSV and PHD move, what stops a PIS, and what one that passes sends (R62 to R77, R100). -/
section

namespace Sys2Proof.Proofs

open Sys2Proof Sys2Proof.Machine Sys2Proof.Claims

/-! A part of the machine written twice holds what was written last. -/

theorem mset_mset {α : Type} (m : FMap α) (k : Nat) (a b : α) : mset (mset m k a) k b = mset m k b := by
  induction m with
  | nil => simp [mset]
  | cons p rest ih =>
    simp only [mset]
    split
    · simp [mset]
    · split
      · simp [mset]
      · simp [mset, *]

theorem withStream_withStream (t : Tile) (sk : Strm) (x y : Stream) : withStream (withStream t sk x) sk y = withStream t sk y := by
  cases sk <;> rfl

theorem setCur_setCur (s : State) (x y : Stream) : setCur (setCur s x) y = setCur s y := by
  simp only [setCur, setStrm, setTile, tileOf, mget_mset_same, withStream_withStream, mset_mset]

/-! Checks that fail. -/

theorem need_false {ok : Bool} {c : Cause} {v : Word} (h : ok = false) : need ok c v = .error (.trap c v) := by simp [need, h]

theorem waitFor_false {ok : Bool} (h : ok = false) : waitFor ok = .error .stall := by simp [waitFor, h]

/-! TBLD and TBSV (R74, R75). -/

section
variable {a b : Word}

theorem tbChecks_ok (hn : wf64 b 14 8 ≠ 0) (hfit : wf64 b 5 0 + wf64 b 14 8 ≤ 64) (halign : wf64 a 4 0 = 0)
    (hsel : nearSel a = 1 ∨ nearSel a = 2 ∨ nearSel a = 3) : tbChecks a b = .ok (wf64 b 5 0, wf64 b 14 8) := by
  have hpath : (nearSel a == 1 || nearSel a == 2 || nearSel a == 3) = true := by
    rcases hsel with h | h | h <;> simp [h]
  simp [tbChecks, need, hn, hfit, halign, hpath]

theorem tbChecks_template (h : wf64 b 14 8 = 0 ∨ 64 < wf64 b 5 0 + wf64 b 14 8) : tbChecks a b = .error (.trap .template 0) := by
  have hbad : (wf64 b 14 8 != 0 && decide (wf64 b 5 0 + wf64 b 14 8 ≤ 64)) = false := by
    rcases h with h | h <;> simp [h]
  simp only [tbChecks, need_false hbad, chk_bind_error]

end

/-- A stream with a template and its staging copy written, as one pass of a TBLD does. -/
def withTemplate (st : Stream) (first : Nat) (bs : List Byte) : Stream :=
  { st with templates := mset st.templates first (BitVec.ofNat 256 (leNat (bs.take 32)))
            staging := mset st.staging first (BitVec.ofNat 256 (leNat (bs.take 32))) }

section
variable (st : Stream) (first n : Nat) (bs : List Byte)

theorem loadTemplates_succ :
    loadTemplates st first (n + 1) bs = loadTemplates (withTemplate st first bs) (first + 1) n (bs.drop 32) := rfl

theorem loadTemplates_regs : (loadTemplates st first n bs).regs = st.regs := by
  induction n generalizing st first bs with
  | zero => rfl
  | succ n ih => exact ih ..

theorem loadTemplates_pc : (loadTemplates st first n bs).pc = st.pc := by
  induction n generalizing st first bs with
  | zero => rfl
  | succ n ih => exact ih ..

/-- The templates beside the loaded ones, and their staging copies, stay. -/
theorem loadTemplates_outside {j : Nat} (h : j < first ∨ first + n ≤ j) :
    mget (loadTemplates st first n bs).templates j 0 = mget st.templates j 0 ∧
      mget (loadTemplates st first n bs).staging j 0 = mget st.staging j 0 := by
  induction n generalizing st first bs with
  | zero => exact ⟨rfl, rfl⟩
  | succ n ih =>
    obtain ⟨ht, hs⟩ := ih (withTemplate st first bs) (first + 1) (bs.drop 32) (by omega)
    have hj : j ≠ first := by omega
    exact ⟨ht.trans (mget_mset_other _ _ _ _ _ hj), hs.trans (mget_mset_other _ _ _ _ _ hj)⟩

/-- Template i of those loaded, and its staging copy, hold the i-th 32 bytes. -/
theorem loadTemplates_inside {i : Nat} (h : i < n) :
    mget (loadTemplates st first n bs).templates (first + i) 0 = BitVec.ofNat 256 (leNat ((bs.drop (32 * i)).take 32)) ∧
      mget (loadTemplates st first n bs).staging (first + i) 0 = BitVec.ofNat 256 (leNat ((bs.drop (32 * i)).take 32)) := by
  induction n generalizing st first bs i with
  | zero => exact absurd h (Nat.not_lt_zero i)
  | succ n ih =>
    rw [loadTemplates_succ]
    cases i with
    | zero =>
      obtain ⟨ht, hs⟩ := loadTemplates_outside (withTemplate st first bs) (first + 1) n (bs.drop 32) (.inl (Nat.lt_succ_self first))
      exact ⟨ht.trans (mget_mset_same ..), hs.trans (mget_mset_same ..)⟩
    | succ i =>
      have hi := ih (withTemplate st first bs) (first + 1) (bs.drop 32) (Nat.lt_of_succ_lt_succ h)
      rwa [List.drop_drop, Nat.add_comm 32, Nat.add_right_comm first 1] at hi

end

/-- The stream that a TBLD leaves: it has read the span, has popped its tokens, and holds the templates. -/
def tbldStream (s : State) (tk : BitVec 4) (a : Word) (first n : Nat) (bs : List Byte) : Stream :=
  loadTemplates (popBits (noteSeen (cur s) (spanSeen s a (32 * n))) tk) first n bs

section
variable {o : FormAB} {s : State} {a b : Word} (hissues : Issues s o.tk) (ha : Reads s o.a a) (hb : Reads s o.b b)
include hissues ha hb

theorem exec_tbld_ok {first n : Nat} {bs : List Byte} (hchecks : tbChecks a b = .ok (first, n)) (hspan : nearSpan s a (32 * n) = .ok bs) :
    exec (.tbld o) s = .next (goesOn s (tbldStream s o.tk a first n bs) o.tk) :=
  issue_ok (canIssue_of_issues hissues) (by
    simp only [readSrc_of_reads ha, readSrc_of_reads hb, tokensReady_of_issues hissues, hchecks, hspan, chk_bind_ok, seeSpan, noteCur,
      cur_setCur, setCur_setCur]
    rfl)

theorem exec_tbsv_ok {first n : Nat} {acc : NearAcc} (hchecks : tbChecks a b = .ok (first, n))
    (hacc : checkNear s s.curTile s.curStrm a (32 * n) true false = .ok acc) :
    exec (.tbsv o) s = .next (retire (postSegs (setCur s (popped s o.tk)) s.curTile s.curStrm acc.segs
      ((span first n).flatMap fun i => leBytes 32 (mget (cur s).templates i 0).toNat)) o.tk .seq) :=
  issue_ok (canIssue_of_issues hissues) (by
    simp only [readSrc_of_reads ha, readSrc_of_reads hb, tokensReady_of_issues hissues, hchecks, hacc, chk_bind_ok])

theorem exec_tbld_trap {c : Cause} {v : Word} (hchecks : tbChecks a b = .error (.trap c v)) :
    exec (.tbld o) s = .next (takeTrap s c v (cur s).pc) :=
  issue_trap (canIssue_of_issues hissues) (by
    simp only [readSrc_of_reads ha, readSrc_of_reads hb, tokensReady_of_issues hissues, hchecks, chk_bind_ok, chk_bind_error])

theorem exec_tbsv_trap {c : Cause} {v : Word} (hchecks : tbChecks a b = .error (.trap c v)) :
    exec (.tbsv o) s = .next (takeTrap s c v (cur s).pc) :=
  issue_trap (canIssue_of_issues hissues) (by
    simp only [readSrc_of_reads ha, readSrc_of_reads hb, tokensReady_of_issues hissues, hchecks, chk_bind_ok, chk_bind_error])

end

theorem templateWordsMoveImages : TemplateWordsMoveImages := by
  refine ⟨fun o s a b bs hissues ha hb hn hfit halign hsel hspan => ?_, fun o s a b acc hissues ha hb hn hfit halign hsel hacc => ?_,
    fun o s a b hissues ha hb hbad => ?_⟩
  · refine ⟨tbldStream s o.tk a (wf64 b 5 0) (wf64 b 14 8) bs,
      exec_tbld_ok hissues ha hb (tbChecks_ok hn hfit halign hsel) hspan, ?_, ?_,
      fun i hi => ?_, fun j hj => ?_⟩
    · rw [tbldStream, loadTemplates_regs, popBits_regs]
      rfl
    · rw [tbldStream, loadTemplates_pc, popBits_pc]
      rfl
    · obtain ⟨ht, hs⟩ := loadTemplates_inside (popBits (noteSeen (cur s) (spanSeen s a (32 * wf64 b 14 8))) o.tk) (wf64 b 5 0) _ bs hi
      exact ⟨ht, hs.trans ht.symm⟩
    · obtain ⟨ht, hs⟩ := loadTemplates_outside (popBits (noteSeen (cur s) (spanSeen s a (32 * wf64 b 14 8))) o.tk) (wf64 b 5 0) _ bs hj
      rw [popBits_templates] at ht
      rw [popBits_staging] at hs
      exact ⟨ht, hs⟩
  · exact exec_tbsv_ok hissues ha hb (tbChecks_ok hn hfit halign hsel) hacc
  · exact ⟨exec_tbld_trap hissues ha hb (tbChecks_template hbad), exec_tbsv_trap hissues ha hb (tbChecks_template hbad)⟩

/-! PHD (R66, R76). -/

theorem phdPatchesTheStagingCopy : PhdPatchesTheStagingCopy := fun o s t hcan hamend =>
  issue_ok hcan (by
    simp only [hamend, chk_bind_ok]
    split <;> rfl)

/-! PIS: what stops it, in the order of its tests (R67 to R69, R71, R77). -/

section
variable {o : FormPatch} {s : State} {t : BitVec 256} (hcan : canIssue (cur s) = true)
include hcan

theorem exec_pis_badPatch {c : Cause} {v : Word}
    (hamend : amend (mget (cur s).staging o.idx.toNat 0) o.sel.toNat o.value.toNat = .error (.trap c v)) :
    exec (.pis o) s = .next (takeTrap s c v (cur s).pc) :=
  issue_trap hcan (by simp only [hamend, chk_bind_error])

variable (hamend : amend (mget (cur s).staging o.idx.toNat 0) o.sel.toNat o.value.toNat = .ok t)
include hamend

theorem exec_pis_badHead (hhead : headOk t = false) : exec (.pis o) s = .next (takeTrap s .template 0 (cur s).pc) :=
  issue_trap hcan (by simp only [hamend, need_false hhead, chk_bind_ok, chk_bind_error])

variable (hhead : headOk t = true)
include hhead

omit hcan in
theorem exec_pis_kindWaits (hkind : kindCheck s s.curTile s.curStrm t = .error .stall) : exec (.pis o) s = .next s :=
  issue_stall (by simp only [hamend, need_true hhead, hkind, chk_bind_ok, chk_bind_error])

theorem exec_pis_kindTraps {c : Cause} {v : Word} {n : Nat} (hkind : kindCheck s s.curTile s.curStrm t = .error (.trap c v n)) :
    exec (.pis o) s = .next (takeTrap s c v (cur s).pc n) :=
  issue_trap hcan (by simp only [hamend, need_true hhead, hkind, chk_bind_ok, chk_bind_error])

variable (hkind : kindCheck s s.curTile s.curStrm t = .ok ())
include hkind

theorem exec_pis_queueFull (hmode : tf t 14 13 = 1)
    (hfull : 4 ≤ (qreg (cur s) (tf t 17 15)).held.length + (qreg (cur s) (tf t 17 15)).owed) :
    exec (.pis o) s = .next (takeTrap s .qover 0 (cur s).pc) :=
  issue_trap hcan (by
    have hq : (tf t 14 13 != 1 || decide ((qreg (cur s) (tf t 17 15)).held.length + (qreg (cur s) (tf t 17 15)).owed < 4)) = false := by
      simp [hmode, hfull]
    simp only [hamend, need_true hhead, hkind, need_false hq, chk_bind_ok, chk_bind_error])

theorem exec_pis_foreignReplyWord (hmode : tf t 14 13 = 2) (howner : ownSpanOk s s.curTile s.curStrm (tf t 63 48 * 8) 8 = false) :
    exec (.pis o) s = .next (takeTrap s .owner 0 (cur s).pc) :=
  issue_trap hcan (by
    have hq : (tf t 14 13 != 1 || decide ((qreg (cur s) (tf t 17 15)).held.length + (qreg (cur s) (tf t 17 15)).owed < 4)) = true := by
      simp [hmode]
    have ho : (tf t 14 13 != 2 || ownSpanOk s s.curTile s.curStrm (tf t 63 48 * 8) 8) = false := by simp [hmode, howner]
    simp only [hamend, need_true hhead, hkind, need_true hq, need_false ho, chk_bind_ok, chk_bind_error])

variable (hqueue : tf t 14 13 = 1 → (qreg (cur s) (tf t 17 15)).held.length + (qreg (cur s) (tf t 17 15)).owed < 4)
  (hword : tf t 14 13 = 2 → ownSpanOk s s.curTile s.curStrm (tf t 63 48 * 8) 8 = true)

omit hcan hamend hhead hkind in
include hqueue in
/-- The queue register of reply mode 1 has room. -/
theorem replyQueue_ok :
    need (tf t 14 13 != 1 || decide ((qreg (cur s) (tf t 17 15)).held.length + (qreg (cur s) (tf t 17 15)).owed < 4)) .qover 0 =
      .ok () := by
  by_cases hmode : tf t 14 13 = 1
  · simp [need, hqueue hmode]
  · simp [need, hmode]

omit hcan hamend hhead hkind in
include hword in
/-- The reply word of mode 2 lies in the stream's own span. -/
theorem replyWord_ok : need (tf t 14 13 != 2 || ownSpanOk s s.curTile s.curStrm (tf t 63 48 * 8) 8) .owner 0 = .ok () := by
  by_cases hmode : tf t 14 13 = 2
  · simp [need, hword hmode]
  · simp [need, hmode]

include hqueue hword

omit hcan in
theorem exec_pis_tokensWait (htokens : tokensReady (cur s) (BitVec.ofNat 4 (tf t 11 8)) = .error .stall) :
    exec (.pis o) s = .next s :=
  issue_stall (by
    simp only [hamend, need_true hhead, hkind, replyQueue_ok hqueue, replyWord_ok hword, htokens, chk_bind_ok, chk_bind_error])

variable (htokens : tokensReady (cur s) (BitVec.ofNat 4 (tf t 11 8)) = .ok ())
include htokens

omit hcan in
theorem exec_pis_unitFull (hroom : kindRoom s s.curTile t = false) : exec (.pis o) s = .next s :=
  issue_stall (by
    simp only [hamend, need_true hhead, hkind, replyQueue_ok hqueue, replyWord_ok hword, htokens, waitFor_false hroom, chk_bind_ok,
      chk_bind_error])

variable (hroom : kindRoom s s.curTile t = true)
include hroom

theorem exec_pis_matrixTraps (h2 : tf t 3 0 = 2) {c : Cause} {v : Word} {n : Nat}
    (hmatrix : matrixCheck s s.curTile s.curStrm t (captureFte s s.curTile (cur s) t) = .error (.trap c v n)) :
    exec (.pis o) s = .next (takeTrap s c v (cur s).pc n) :=
  issue_trap hcan (by
    have hfte : (makeCmd s s.curTile s.curStrm t).fte = captureFte s s.curTile (cur s) t := rfl
    simp only [hamend, need_true hhead, hkind, replyQueue_ok hqueue, replyWord_ok hword, htokens, waitFor_true hroom, if_pos h2, hfte,
      hmatrix, chk_bind_ok, chk_bind_error])

theorem exec_pis_chainTraps (h2 : tf t 3 0 = 2) {c : Cause} {v : Word} {n : Nat}
    (hmatrix : matrixCheck s s.curTile s.curStrm t (captureFte s s.curTile (cur s) t) = .ok ())
    (hchain : chainCheck s s.curTile t (captureFte s s.curTile (cur s) t) = .error (.trap c v n)) :
    exec (.pis o) s = .next (takeTrap s c v (cur s).pc n) :=
  issue_trap hcan (by
    have hfte : (makeCmd s s.curTile s.curStrm t).fte = captureFte s s.curTile (cur s) t := rfl
    simp only [hamend, need_true hhead, hkind, replyQueue_ok hqueue, replyWord_ok hword, htokens, waitFor_true hroom, if_pos h2, hfte,
      hmatrix, hchain, chk_bind_ok, chk_bind_error])

theorem exec_pis_issues {c : Cmd} (hcmd : makeCmd s s.curTile s.curStrm t = c)
    (hmatrix : tf t 3 0 = 2 → matrixCheck s s.curTile s.curStrm t c.fte = .ok () ∧ chainCheck s s.curTile t c.fte = .ok ()) :
    exec (.pis o) s = .next (retire (kindAccept (setCur { s with nextCmd := s.nextCmd + 1 }
      (issued s s.curTile (cur s) c o.idx.toNat)) c) (pisPushes t) .seq) :=
  issue_ok hcan (by
    simp only [hamend, need_true hhead, hkind, replyQueue_ok hqueue, replyWord_ok hword, htokens, waitFor_true hroom, hcmd, chk_bind_ok]
    by_cases h2 : tf t 3 0 = 2
    · obtain ⟨hm, hc⟩ := hmatrix h2
      simp only [if_pos h2, hm, hc, chk_bind_ok]
    · simp only [if_neg h2])

end

theorem pisTrapsAndWaitsInOrder : PisTrapsAndWaitsInOrder := by
  intro o s t hcan
  refine ⟨fun v => exec_pis_badPatch hcan, fun hamend => ⟨exec_pis_badHead hcan hamend, fun hhead => ⟨exec_pis_kindWaits hamend hhead,
    fun c v n => exec_pis_kindTraps hcan hamend hhead, fun hkind => ⟨exec_pis_queueFull hcan hamend hhead hkind,
      exec_pis_foreignReplyWord hcan hamend hhead hkind, fun hqueue hword => ⟨fun hwait => ?_, fun h2 htokens hroom => ⟨fun c v n =>
        exec_pis_matrixTraps hcan hamend hhead hkind hqueue hword htokens hroom h2, fun c v n =>
          exec_pis_chainTraps hcan hamend hhead hkind hqueue hword htokens hroom h2⟩⟩⟩⟩⟩⟩
  rcases tokensReady_cases (cur s) (BitVec.ofNat 4 (tf t 11 8)) with htokens | htokens
  · rcases hwait with hstall | hfull
    · exact exec_pis_tokensWait hamend hhead hkind hqueue hword hstall
    · exact exec_pis_unitFull hamend hhead hkind hqueue hword htokens hfull
  · exact exec_pis_tokensWait hamend hhead hkind hqueue hword htokens

theorem pisIssuesItsCommand : PisIssuesItsCommand := by
  intro o s t c hcan hamend hhead hkind htokens hroom hqueue hword hcmd hmatrix
  refine ⟨exec_pis_issues hcan hamend hhead hkind hqueue hword htokens hroom hcmd hmatrix, fun hton => ?_, fun hton => ?_⟩
  · rw [pisPushes, if_pos hton]
  · rw [pisPushes, if_neg hton]
    rfl

/-! What a command captures, and what issuing it does to its stream (R69, R72, R73, R77, R100). -/

theorem commandsCaptureTheirSettings : CommandsCaptureTheirSettings := by
  intro s tile sk t c st hst hcmd
  subst hst hcmd
  exact ⟨rfl, rfl, rfl, rfl, rfl, rfl, rfl, rfl, rfl, fun h5 => if_pos h5⟩

/-- A pop takes its tokens from one side and leaves the other. -/
theorem tokens_popTokens (st : Stream) (side right : Bool) (n : Nat) :
    tokens (popTokens st side n) right = tokens st right - (if side = right then n else 0) := by
  cases side <;> cases right <;> rfl

/-- WL takes one token from the left, WR one from the right (R45). -/
theorem tokens_popBits (st : Stream) (tk : BitVec 4) (right : Bool) :
    tokens (popBits st tk) right = tokens st right - (if (if right then tkWR else tkWL) tk then 1 else 0) := by
  unfold popBits
  cases hl : tkWL tk <;> cases hr : tkWR tk <;> cases right <;> simp [tokens_popTokens, hl, hr]

/-- The queue registers of a stream that issues a command, by its reply mode. -/
theorem oweReply_eq (st : Stream) (t : BitVec 256) : oweReply st t = { st with q := (oweReply st t).q } := by
  unfold oweReply
  split <;> rfl

theorem oweReply_q_other (st : Stream) {t : BitVec 256} (hmode : tf t 14 13 ≠ 1) : (oweReply st t).q = st.q := by
  rw [oweReply, if_neg hmode]

theorem mget_oweReply_q (st : Stream) {t : BitVec 256} (hmode : tf t 14 13 = 1) :
    mget (oweReply st t).q (tf t 17 15) {} = { qreg st (tf t 17 15) with owed := (qreg st (tf t 17 15)).owed + 1 } := by
  rw [oweReply, if_pos hmode]
  exact mget_mset_same ..

/-- The issuing stream after its command, part by part. -/
theorem issued_eq (s : State) (tile : Nat) (st : Stream) (c : Cmd) (idx : Nat) {x : Stream}
    (hx : popBits st (BitVec.ofNat 4 (tf c.tmpl 11 8)) = x) :
    issued s tile st c idx =
      { x with
          q := (oweReply x c.tmpl).q
          srctr := if c.rm = 5 then x.srctr + 1 else x.srctr
          staging := mset x.staging idx (mget x.templates idx 0)
          cmds := x.cmds ++ [{ id := c.id, path := kindPath (cmdKind c), spans := kindSpans s tile c.tmpl }] } := by
  unfold issued
  rw [hx, oweReply_eq]
  by_cases h5 : c.rm = 5
  · simp only [if_pos h5]
  · simp only [if_neg h5]

theorem issuingUpdatesTheStream : IssuingUpdatesTheStream := by
  intro s tile idx st x c hx
  rw [issued_eq s tile st c idx rfl, popBits_srctr, popBits_staging, popBits_templates, popBits_cmds] at hx
  subst hx
  refine ⟨mget_mset_same .., fun j hj => mget_mset_other _ _ _ _ _ hj, rfl, popBits_regs .., popBits_pc .., popBits_fe ..,
    tokens_popBits st _, fun hmode => ?_, fun hmode => ?_, rfl, _, rfl, rfl, rfl⟩
  · have hq := mget_oweReply_q (popBits st (BitVec.ofNat 4 (tf c.tmpl 11 8))) hmode
    have hst : qreg (popBits st (BitVec.ofNat 4 (tf c.tmpl 11 8))) (tf c.tmpl 17 15) = qreg st (tf c.tmpl 17 15) := by
      rw [qreg, popBits_q, qreg]
    rw [hst] at hq
    exact ⟨(congrArg QReg.owed hq :), (congrArg QReg.held hq :)⟩
  · exact (oweReply_q_other _ hmode).trans (popBits_q ..)

/-! Where an accepted command stands (R71). -/

/-- Every tile keeps its slots. -/
def KeepsSlots (s t : State) : Prop := ∀ u, (tileOf t u).slots = (tileOf s u).slots

theorem KeepsSlots.refl (s : State) : KeepsSlots s s := fun _ => rfl

theorem KeepsSlots.trans {a b c : State} (h : KeepsSlots a b) (g : KeepsSlots b c) : KeepsSlots a c := fun u => (g u).trans (h u)

theorem keepsSlots_setTile {s : State} {t : Nat} {x : Tile} (h : x.slots = (tileOf s t).slots) : KeepsSlots s (setTile s t x) := by
  intro u
  by_cases hu : u = t
  · rw [hu, tileOf_setTile_same, h]
  · rw [tileOf_setTile_other _ _ _ _ hu]

theorem keepsSlots_foldl {α : Type} {f : State → α → State} (h : ∀ s a, KeepsSlots s (f s a)) (l : List α) (s : State) :
    KeepsSlots s (l.foldl f s) := by
  induction l generalizing s with
  | nil => exact .refl s
  | cons a l ih => exact (h s a).trans (ih (f s a))

/-- Joining the order of the array's ports moves no command of a slot. -/
theorem keepsSlots_joinPorts (s : State) (c : Cmd) : KeepsSlots s (joinPorts s c) := by
  refine .trans (keepsSlots_foldl (fun s p => ?_) (feedTargets c) s) (keepsSlots_foldl (fun s p => ?_) (takePorts c) _)
  · exact keepsSlots_setTile rfl
  · exact keepsSlots_setTile rfl

/-- Registering a fill changes no tile, and of the command only its fill number. -/
theorem registerFill_cases (s : State) (c : Cmd) :
    (registerFill s c).1.tiles = s.tiles ∧ ∃ n, (registerFill s c).2 = { c with fill := n } := by
  unfold registerFill
  split
  · dsimp only
    split
    · exact ⟨rfl, _, rfl⟩
    · exact ⟨rfl, c.fill, rfl⟩
  · exact ⟨rfl, c.fill, rfl⟩

theorem slotOf_pushSlot (s : State) (tile n : Nat) (c : Cmd) :
    (slotOf (tileOf (pushSlot s tile n c) tile) n).pending = (slotOf (tileOf s tile) n).pending ++ [c] := by
  simp [pushSlot, slotOf, setSlot]

/-- A command of a slot, other than a barrier or a wait for slots, joins its slot last. -/
theorem streamAccept_slot {s : State} {c : Cmd} (h8 : cmdSub c ≠ 8) (h10 : cmdSub c ≠ 10) :
    streamAccept s c = pushSlot (joinPorts (registerFill s c).1 (registerFill s c).2) c.tile (scSlot c.tmpl) (registerFill s c).2 := by
  unfold streamAccept
  split
  · contradiction
  · contradiction
  · rfl

theorem streamAccept_pending {s : State} {c : Cmd} (h8 : cmdSub c ≠ 8) (h10 : cmdSub c ≠ 10) :
    ∃ n, (slotOf (tileOf (streamAccept s c) c.tile) (scSlot c.tmpl)).pending =
      (slotOf (tileOf s c.tile) (scSlot c.tmpl)).pending ++ [{ c with fill := n }] := by
  obtain ⟨htiles, n, hcmd⟩ := registerFill_cases s c
  refine ⟨n, ?_⟩
  have hslots := keepsSlots_joinPorts (registerFill s c).1 (registerFill s c).2 c.tile
  have htile : tileOf (registerFill s c).1 c.tile = tileOf s c.tile := by rw [tileOf, htiles, tileOf]
  rw [htile] at hslots
  rw [streamAccept_slot h8 h10, slotOf_pushSlot, slotOf, hslots, hcmd, slotOf]

theorem clusterOf_updStrm (s : State) (job t : Nat) (sk : Strm) (f : Stream → Stream) (cl : Nat) :
    clusterOf (updStrm s job t sk f) cl = clusterOf s cl := by
  unfold updStrm updTile
  dsimp only
  split <;> rfl

/-- Binding a chain moves no task of the queue. -/
theorem taskq_bindChain (s : State) (c : Cmd) :
    (clusterOf (bindChain s c).1 (tileCluster c.tile)).taskq = (clusterOf s (tileCluster c.tile)).taskq := by
  unfold bindChain
  dsimp only
  cases mtCont c.tmpl <;> cases mtClose c.tmpl <;> simp [updChain]

theorem matrixAccept_taskq (s : State) (c : Cmd) :
    ∃ k : Task, (clusterOf (matrixAccept s c) (tileCluster c.tile)).taskq = (clusterOf s (tileCluster c.tile)).taskq ++ [k] ∧
      k.cmd = c ∧ k.tile = c.tile ∧ k.chn = mtChn c.tmpl := by
  rw [← taskq_bindChain s c]
  unfold matrixAccept
  dsimp only
  split
  · rw [clusterOf_setCluster]
    exact ⟨_, rfl, rfl, rfl, rfl⟩
  · rw [clusterOf_updStrm, clusterOf_setCluster]
    exact ⟨_, rfl, rfl, rfl, rfl⟩

theorem caskAccept_cask (s : State) (c : Cmd) :
    (clusterOf (caskAccept s c) (tileCluster c.tile)).cask = (clusterOf s (tileCluster c.tile)).cask ++ [c] := by
  unfold caskAccept
  dsimp only
  split <;> simp

theorem mportOf_setMport (t : Tile) (n : Nat) (x : MeshPort) : mportOf (setMport t n x) n = x := mget_mset_same ..

theorem pipAccept_sprv {s : State} {c : Cmd} (h0 : cmdSub c ≠ 0) :
    (mportOf (tileOf (pipAccept s c) c.tile) (mpPort c.tmpl)).sprv = (mportOf (tileOf s c.tile) (mpPort c.tmpl)).sprv ++ [c] := by
  unfold pipAccept
  rw [if_neg h0, tileOf_setTile_same]
  split
  · exact congrArg MeshPort.sprv (mportOf_setMport ..)
  · exact congrArg MeshPort.sprv (mportOf_setMport ..)

theorem pipAccept_spip {s : State} {c : Cmd} (h0 : cmdSub c = 0) :
    (mportOf (tileOf (pipAccept s c) c.tile) (mpPort c.tmpl)).spip = (mportOf (tileOf s c.tile) (mpPort c.tmpl)).spip ++
      [(afterCmds c (heldCmds (tileOf s c.tile) (mpMask c.tmpl)), heldIds (tileOf s c.tile) (mpMask c.tmpl))] := by
  unfold pipAccept
  rw [if_pos h0, tileOf_setTile_same]
  split
  · exact congrArg MeshPort.spip (mportOf_setMport ..)
  · exact congrArg MeshPort.spip (mportOf_setMport ..)

theorem acceptedCommandsJoinTheirUnit : AcceptedCommandsJoinTheirUnit := by
  intro s u c hu
  subst hu
  refine ⟨fun hk h8 h10 => ?_, fun hk => ?_, fun hk => ?_, fun hk => ?_, fun hk => ?_, fun hk h0 => ?_, fun hk h0 => ?_, fun hk => ?_⟩
  all_goals simp only [kindAccept, hk]
  · obtain ⟨n, hpending⟩ := streamAccept_pending (s := s) h8 h10
    exact ⟨_, hpending, rfl, rfl, rfl, rfl⟩
  · exact matrixAccept_taskq s c
  · rw [copyAccept, dieOf_setDie]
  · rw [gatherAccept, dieOf_setDie]
  · exact caskAccept_cask s c
  · exact pipAccept_sprv h0
  · exact ⟨_, pipAccept_spip h0, rfl, rfl⟩
  · exact ⟨_, rfl, rfl, rfl, rfl⟩

/-- Settles O37: the words move what they name, each test of a PIS decides in its turn, and what it sends captures and joins as it says. -/
theorem templateWordsMovePatchAndIssue : Obligations.TemplateWordsMovePatchAndIssue :=
  ⟨templateWordsMoveImages, phdPatchesTheStagingCopy, pisTrapsAndWaitsInOrder, pisIssuesItsCommand, commandsCaptureTheirSettings,
    issuingUpdatesTheStream, acceptedCommandsJoinTheirUnit⟩

end Sys2Proof.Proofs
end

/-! PROOFS. The scalar floating-point words that round: what they leave alone, and the result that they land (R101, R137 to R139). -/
section

namespace Sys2Proof.Proofs

open Sys2Proof Sys2Proof.Machine Sys2Proof.Claims

/-! What a rounding word leaves alone. -/

/-- The stream of a rounding, before its result: under SR its counter has stepped, and the flags are added. -/
def rounded (st : Stream) (f : FFlags) : Stream := setFlags (stepSr st) f

/-- A word that goes on with the environment of its rounding and one register changed, or waits or traps with neither. -/
inductive RoundsOnly (p : Nat) (s t : State) : Prop
  | unrounded (h : ChangesOnly p s t)
  | rounded (f : FFlags) (h : ChangesOnly p (setCur s (rounded (cur s) f)) t)

/-- The flags of a rounding are bits [13:8] of ss.fe (R101). -/
theorem getLsbD_flagBits_outside (f : FFlags) {n : Nat} (h : n < 8 ∨ 13 < n) : (flagBits f).getLsbD n = false := by
  obtain ⟨nv, dz, ovf, uf, nx, sat⟩ := f
  have fits : flagBits ⟨nv, dz, ovf, uf, nx, sat⟩ &&& ~~~ 0x3F00#64 = 0 := by revert nv dz ovf uf nx sat; decide
  have mask : (0x3F00#64).getLsbD n = false := by
    have hn : n < 8 ∨ ¬ n - 8 < 6 := by omega
    rw [show 0x3F00#64 = BitVec.ofNat 64 (2 ^ 6 - 1) <<< 8 by decide, BitVec.getLsbD_shiftLeft, BitVec.getLsbD_ofNat,
      Nat.testBit_two_pow_sub_one]
    rcases hn with hn | hn <;> simp [hn]
  have bit := congrArg (·.getLsbD n) fits
  simp only [BitVec.getLsbD_and, BitVec.getLsbD_not, mask] at bit
  by_cases hn : n < 64
  · simpa [hn] using bit
  · exact BitVec.getLsbD_of_ge _ _ (by omega)

theorem rounded_fe (st : Stream) (f : FFlags) : (rounded st f).fe = st.fe ||| flagBits f := by
  simp only [rounded, stepSr]
  split <;> rfl

theorem rounded_srctr (st : Stream) (f : FFlags) : (rounded st f).srctr = if feRm st = 5 then st.srctr + 1 else st.srctr := by
  simp only [rounded, stepSr]
  split <;> rfl

/-- A rounding touches the environment of its stream and nothing else. -/
theorem rounded_eq (st : Stream) (f : FFlags) : rounded st f = { st with fe := (rounded st f).fe, srctr := (rounded st f).srctr } := by
  simp only [rounded, stepSr]
  split <;> rfl

/-- A rounding is of no account to what else a stream keeps. -/
theorem KeepsContextBut.rounded {p : Nat} {x y : Stream} (h : KeepsContextBut p x y) (f : FFlags) :
    KeepsContextBut p (Proofs.rounded x f) (Proofs.rounded y f) := by
  obtain ⟨⟨hregs, hfe, hsr, hkept⟩, hctx⟩ := h
  have hrm : feRm y = feRm x := by rw [feRm, hfe, feRm]
  refine ⟨⟨?_, by rw [rounded_fe, rounded_fe, hfe], by rw [rounded_srctr, rounded_srctr, hrm, hsr], ?_⟩, ?_⟩
  all_goals rw [rounded_eq x, rounded_eq y]
  · exact hregs
  · exact hkept
  · exact hctx

/-- A result that lands behind a rounding changes its register and the environment. -/
theorem roundsOnly_retire (s : State) (d : BitVec 5) (tk : BitVec 4) (v : Word) (f : FFlags) :
    RoundsOnly (physReg (cur s) d) s (retire (setCur s (landLater (rounded (popBits (cur s) tk) f) d v .fixed)) tk .seq) := by
  have hcur := cur_setCur s (rounded (cur s) f)
  have hphys : physReg (rounded (cur s) f) d = physReg (cur s) d := by rw [rounded_eq, physReg, physReg]
  have hkeeps := ((keepsContextBut_popBits (physReg (rounded (cur s) f) d) (cur s) tk).rounded f).landLater v .fixed none
  rw [hphys, ← hcur] at hkeeps
  have hkept := changesOnly_retire tk .seq hkeeps
  rw [setCur_setCur] at hkept
  exact .rounded f hkept

theorem roundsOnly_issue {p : Nat} {s t : State} {m : Chk State} (hm : EndsIn (RoundsOnly p s) m) (h : issue s m = .next t) :
    RoundsOnly p s t := by
  rcases issue_cases h with hok | rfl | ⟨c, v, n, -, rfl⟩
  · exact hm t hok
  · exact .unrounded (.refl p t)
  · exact .unrounded (changesOnly_takeTrap p s c v _ n)

theorem endsIn_rounded {s : State} {d : BitVec 5} {tk : BitVec 4} {v : Word} {f : FFlags} :
    EndsIn (RoundsOnly (physReg (cur s) d) s)
      (.ok (retire (setCur s (landLater (setFlags (stepSr (popBits (cur s) tk)) f) d v .fixed)) tk .seq)) :=
  endsIn_ok (roundsOnly_retire ..)

theorem fp1_roundsOnly {f : FloatFmt → Nat → Nat → Val → Nat × FFlags} {o : FormF1} {s t : State} (h : fp1 f o s = .next t) :
    RoundsOnly (physReg (cur s) o.d) s t :=
  roundsOnly_issue (endsIn_bind fun _ => endsIn_bind fun _ => endsIn_bind fun _ => endsIn_rounded) h

theorem fp2_roundsOnly {f : FloatFmt → Nat → Nat → Val → Val → Nat × FFlags} {o : FormF2} {s t : State} (h : fp2 f o s = .next t) :
    RoundsOnly (physReg (cur s) o.d) s t :=
  roundsOnly_issue (endsIn_bind fun _ => endsIn_bind fun _ => endsIn_bind fun _ => endsIn_bind fun _ => endsIn_rounded) h

theorem fp3_roundsOnly {f : FloatFmt → Nat → Nat → Val → Val → Val → Nat × FFlags} {o : FormF2} {s t : State} (h : fp3 f o s = .next t) :
    RoundsOnly (physReg (cur s) o.d) s t :=
  roundsOnly_issue (endsIn_bind fun _ => endsIn_bind fun _ => endsIn_bind fun _ => endsIn_bind fun _ => endsIn_bind fun _ =>
    endsIn_rounded) h

theorem execFcvt_roundsOnly {o : FormFCvt} {s t : State} (h : execFcvt o s = .next t) : RoundsOnly (physReg (cur s) o.d) s t :=
  roundsOnly_issue (endsIn_bind fun _ => endsIn_bind fun _ => endsIn_bind fun _ => endsIn_rounded) h

/-- A word that rounds changes its register and the environment, by its shape. -/
theorem rounding_roundsOnly {i : Instr} {d : BitVec 5} {s t : State} (hd : roundingDest i = some d) (h : exec i s = .next t) :
    RoundsOnly (physReg (cur s) d) s t := by
  cases i with
  | fadd o => cases hd; rw [exec_fadd] at h; exact fp2_roundsOnly h
  | fsub o => cases hd; rw [exec_fsub] at h; exact fp2_roundsOnly h
  | fmul o => cases hd; rw [exec_fmul] at h; exact fp2_roundsOnly h
  | ffma o => cases hd; rw [exec_ffma] at h; exact fp3_roundsOnly h
  | frcp o => cases hd; rw [exec_frcp] at h; exact fp1_roundsOnly h
  | frsq o => cases hd; rw [exec_frsq] at h; exact fp1_roundsOnly h
  | fcvt o => cases hd; rw [exec_fcvt] at h; exact execFcvt_roundsOnly h
  | _ => exact (Option.some_ne_none _ hd.symm).elim

/-- Settles O9: beside its register a rounding word adds the flags of its rounding, which lie in [13:8], and steps the counter under SR. -/
theorem roundingWordsOnlyAddFlags : Obligations.RoundingWordsOnlyAddFlags := by
  intro i d s t hd hexec
  rcases rounding_roundsOnly hd hexec with ⟨⟨hregs, hfe, hsr, hkept⟩, hothers, hunits⟩ | ⟨f, ⟨⟨hregs, hfe, hsr, hkept⟩, hothers, hunits⟩⟩
  · exact ⟨hregs, fun _ _ _ => by rw [hfe], fun _ _ hbit => by rw [hfe, hbit], .inl hsr, hkept, hothers, hunits⟩
  · have hcur := cur_setCur s (rounded (cur s) f)
    rw [hcur] at hregs hfe hsr hkept
    rw [rounded_fe] at hfe
    rw [rounded_srctr] at hsr
    rw [rounded_eq] at hregs hkept
    refine ⟨hregs, fun n _ hout => ?_, fun n _ hbit => ?_, ?_, hkept, fun u sk hne => ?_, hunits⟩
    · rw [hfe, BitVec.getLsbD_or, getLsbD_flagBits_outside f hout, Bool.or_false]
    · rw [hfe, BitVec.getLsbD_or, hbit, Bool.true_or]
    · by_cases h5 : feRm (cur s) = 5
      · exact .inr ⟨h5, by rw [hsr, if_pos h5]⟩
      · exact .inl (by rw [hsr, if_neg h5])
    · have key := hothers u sk hne
      rwa [setCur, strmAt_setStrm_other _ _ _ _ _ _ hne] at key

/-! The result that a rounding word lands (R129, R137 to R139). -/

section
variable {s : State} {a b d : Word} {r : Nat} {fl : FFlags}

theorem fp1_rounds {f : FloatFmt → Nat → Nat → Val → Nat × FFlags} {o : FormF1} (hissues : Issues s o.tk) (ha : Reads s o.a a)
    (hd : Writes s o.d) (h : f (fmtOf o.fmt) (feRm (cur s)) (scalarSr s (cur s)) (floatIn o.fmt a) = (r, fl)) :
    fp1 f o s = .next (floatNext s o.d o.tk (BitVec.ofNat 64 r) fl) :=
  issue_ok (canIssue_of_issues hissues) (by
    rw [floatIn] at h
    simp only [readSrc_of_reads ha, tokensReady_of_issues hissues, destReady_of_writes hd, chk_bind_ok, h, floatNext])

theorem fp2_rounds {f : FloatFmt → Nat → Nat → Val → Val → Nat × FFlags} {o : FormF2} (hissues : Issues s o.tk) (ha : Reads s o.a a)
    (hb : Reads s o.b b) (hd : Writes s o.d)
    (h : f (fmtOf o.fmt) (feRm (cur s)) (scalarSr s (cur s)) (floatIn o.fmt a) (floatIn o.fmt b) = (r, fl)) :
    fp2 f o s = .next (floatNext s o.d o.tk (BitVec.ofNat 64 r) fl) :=
  issue_ok (canIssue_of_issues hissues) (by
    simp only [floatIn] at h
    simp only [readSrc_of_reads ha, readSrc_of_reads hb, tokensReady_of_issues hissues, destReady_of_writes hd, chk_bind_ok, h, floatNext])

theorem fp3_rounds {f : FloatFmt → Nat → Nat → Val → Val → Val → Nat × FFlags} {o : FormF2} (hissues : Issues s o.tk) (ha : Reads s o.a a)
    (hb : Reads s o.b b) (hold : Reads s o.d d) (hd : Writes s o.d)
    (h : f (fmtOf o.fmt) (feRm (cur s)) (scalarSr s (cur s)) (floatIn o.fmt a) (floatIn o.fmt b) (floatIn o.fmt d) = (r, fl)) :
    fp3 f o s = .next (floatNext s o.d o.tk (BitVec.ofNat 64 r) fl) :=
  issue_ok (canIssue_of_issues hissues) (by
    simp only [floatIn] at h
    simp only [readSrc_of_reads ha, readSrc_of_reads hb, readSrc_of_reads hold, tokensReady_of_issues hissues, destReady_of_writes hd,
      chk_bind_ok, h, floatNext])

theorem execFcvt_rounds {o : FormFCvt} {w : Word} (hissues : Issues s o.tk) (ha : Reads s o.a a) (hd : Writes s o.d)
    (h : cvtWrite o.dst (feRm (cur s)) (scalarSr s (cur s)) (cvtRead o.src a) = (w, fl)) :
    execFcvt o s = .next (floatNext s o.d o.tk w fl) :=
  issue_ok (canIssue_of_issues hissues) (by
    simp only [readSrc_of_reads ha, tokensReady_of_issues hissues, destReady_of_writes hd, chk_bind_ok, h, floatNext])

end

/-- The scalar rounding of a value keeps the flags of toFloat, but for NV, which says that the operation was invalid. -/
theorem roundScalar_of_floatOut {s : State} {m : FpFmt} {v : Val} {r : Nat} {f : FFlags} (nv : Bool) (h : floatOut s m v = (r, f)) :
    roundScalar (fmtOf m) (feRm (cur s)) (scalarSr s (cur s)) v nv = (r, { f with nv := nv }) := by
  rw [floatOut] at h
  simp only [roundScalar, h]

theorem floatSumsAndProductsRoundOnce : FloatSumsAndProductsRoundOnce := fun o s _ _ hissues ha hb hd =>
  ⟨fun _ _ h => (exec_fadd o s).trans (fp2_rounds hissues ha hb hd (roundScalar_of_floatOut _ h)),
   fun _ _ h => (exec_fsub o s).trans (fp2_rounds hissues ha hb hd (roundScalar_of_floatOut _ h)),
   fun _ _ h => (exec_fmul o s).trans (fp2_rounds hissues ha hb hd (roundScalar_of_floatOut _ h))⟩

/-- The reciprocal of a zero sets DZ alone. -/
theorem frcpOf_zero (f : FloatFmt) (rm u : Nat) (n : Bool) (e : Int) : (frcpOf f rm u (.fin n 0 e)).2 = { dz := true } := rfl

/-- The root of a negative number is NaN and sets NV alone. -/
theorem frsqOf_negative (f : FloatFmt) (rm u : Nat) {m : Nat} (e : Int) (h : m ≠ 0) :
    frsqOf f rm u (.fin true m e) = (fnanCode f, { nv := true }) := by
  simp [frsqOf, h]

theorem fusedReciprocalAndConversionWordsRoundOnce : FusedReciprocalAndConversionWordsRoundOnce := by
  refine ⟨fun o s a b d r f hissues ha hb hold hd h => ?_, fun o s a hissues ha hd => ⟨fun r f h => ⟨?_, ?_⟩, fun r f h => ⟨?_, ?_⟩⟩,
    fun o s a w f hissues ha hd h => ?_⟩
  · exact (exec_ffma o s).trans (fp3_rounds hissues ha hb hold hd (roundScalar_of_floatOut _ h))
  · exact (exec_frcp o s).trans (fp1_rounds hissues ha hd h)
  · intro n e hzero
    rw [hzero] at h
    exact (congrArg Prod.snd h).symm.trans (frcpOf_zero ..)
  · exact (exec_frsq o s).trans (fp1_rounds hissues ha hd h)
  · intro m e hneg hm
    rw [hneg, frsqOf_negative _ _ _ _ hm] at h
    exact ⟨(congrArg Prod.fst h).symm, (congrArg Prod.snd h).symm⟩
  · exact (exec_fcvt o s).trans (execFcvt_rounds hissues ha hd h)

/-- Settles O17: each word's checks pass, its function is the rounding of the exact result, and floatNext lands it with its flags. -/
theorem floatWordsRoundTheirExactResultOnce : Obligations.FloatWordsRoundTheirExactResultOnce :=
  ⟨floatSumsAndProductsRoundOnce, fusedReciprocalAndConversionWordsRoundOnce⟩

end Sys2Proof.Proofs
end

/-! PROOFS. Near stores: the words that post them, the words that write the state window, and the bytes that loads then see (R107, R142,
R143, R145, R180). -/
section

namespace Sys2Proof.Proofs

open Sys2Proof Sys2Proof.Machine Sys2Proof.Claims

/-! The bytes of posted stores. -/

/-- What bytes written at an address give a byte: none outside them. -/
def byteOf (a : Nat) (bs : List Byte) (p : Nat) : Option Byte := if a ≤ p then bs[p - a]? else none

/-- The latest store over a byte decides, whatever stands before it. -/
theorem postedByte_append (ps xs : List Posted) (p : Nat) : postedByte (ps ++ xs) p = (postedByte xs p).or (postedByte ps p) := by
  unfold postedByte
  rw [List.filter_append, List.getLast?_append]
  cases hlast : (xs.filter fun x => decide (x.addr ≤ p) && decide (p < x.addr + x.bytes.length)).getLast? with
  | none => simp
  | some x =>
    obtain ⟨-, hcovers⟩ := List.mem_filter.mp (List.mem_of_getLast? hlast)
    simp only [Bool.and_eq_true, decide_eq_true_eq] at hcovers
    have hin : p - x.addr < x.bytes.length := by omega
    simp [List.getElem?_eq_getElem hin]

theorem postedByte_singleton (x : Posted) (p : Nat) : postedByte [x] p = byteOf x.addr x.bytes p := by
  by_cases hcovers : x.addr ≤ p ∧ p < x.addr + x.bytes.length
  · simp [postedByte, byteOf, hcovers.1, hcovers.2]
  · have hout : x.addr ≤ p → x.bytes[p - x.addr]? = none := fun h => List.getElem?_eq_none (by omega)
    have hskip : ¬ (x.addr ≤ p ∧ p < x.addr + x.bytes.length) := hcovers
    simp only [postedByte, byteOf, List.filter_cons, Bool.and_eq_true, decide_eq_true_eq, if_neg hskip]
    simpa using hout

/-- The stores of a piece cut at its lines give the bytes of the piece. -/
theorem postedByte_posts (heads : List Nat) (w : Bool) (p f : Nat) (g : Seg) (bs : List Byte) (h : bs.length = g.len) :
    postedByte (posts heads w (lineSegs f g) bs) p = byteOf g.phys bs p := by
  have whole : postedByte (posts heads w [g] bs) p = byteOf g.phys bs p := by
    rw [posts, posts, postedByte_singleton, ← h, List.take_length]
  induction f generalizing g bs with
  | zero => exact whole
  | succ f ih =>
    rw [lineSegs]
    split
    · exact whole
    · next hlong =>
      generalize 64 - g.phys % 64 = n at hlong
      have hrest : (bs.drop n).length = g.len - n := by rw [List.length_drop, h]
      rw [posts, ← List.singleton_append, postedByte_append, postedByte_singleton,
        ih { g with phys := g.phys + n, len := g.len - n, at_ := g.at_ + n } (bs.drop n) hrest
          (by rw [posts, posts, postedByte_singleton, ← hrest, List.take_length])]
      simp only [byteOf, List.getElem?_drop, List.getElem?_take]
      by_cases hfirst : g.phys + n ≤ p
      · have hpast : ¬ p - g.phys < n := by omega
        have hplace : n + (p - (g.phys + n)) = p - g.phys := by omega
        simp [hfirst, hpast, hplace, show g.phys ≤ p by omega]
      · by_cases hin : g.phys ≤ p
        · simp [hfirst, hin, show p - g.phys < n by omega]
        · simp [hfirst, hin]

/-! What posting a store changes. -/

/-- Raising versions changes the reuse table alone. -/
theorem raiseSpan_eq (s : State) (c : List Nat) : raiseSpan s c = { s with reuse := (raiseSpan s c).reuse } := by
  unfold raiseSpan
  split <;> rfl

/-- The stores that a piece of bytes posts for a stream, under a watch mark. -/
def newStores (s : State) (t : Nat) (sk : Strm) (g : Seg) (bs : List Byte) (w : Bool) : List Posted :=
  posts (strmAt s t sk).rels w (lineSegs (g.len / 64) g) (bs.take g.len)

/-- A posted piece joins the stores of its stream; beside them only reuse entries change. -/
theorem postSegs_one (s : State) (t : Nat) (sk : Strm) (g : Seg) (bs : List Byte) :
    ∃ w r, postSegs s t sk [g] bs =
      { setStrm s t sk { strmAt s t sk with posted := (strmAt s t sk).posted ++ newStores s t sk g bs w } with reuse := r } :=
  ⟨_, _, raiseSpan_eq ..⟩

/-- A byte as loads see it depends on the stream's view and its posted stores, the log and memory. -/
theorem loadByte_own (s : State) (t : Nat) (sk : Strm) (p : Nat) :
    loadByte s t sk true p = (postedByte (strmAt s t sk).posted p).getD
      (viewOf t sk (strmAt s t sk) (s.wlog.filter fun w => w.addr == p) (memGet s.mem p)) := by
  unfold loadByte
  simp only [if_true]
  split <;> simp_all

/-- After a piece of bytes is posted its stream sees those bytes, and every other as before. -/
theorem loadByte_postSegs_own {s : State} {t : Nat} {sk : Strm} {g : Seg} {bs : List Byte} (p : Nat) (h : bs.length = g.len) :
    loadByte (postSegs s t sk [g] bs) t sk true p = (byteOf g.phys bs p).getD (loadByte s t sk true p) := by
  obtain ⟨w, r, hpost⟩ := postSegs_one s t sk g bs
  have hstrm : strmAt (postSegs s t sk [g] bs) t sk =
      { strmAt s t sk with posted := (strmAt s t sk).posted ++ newStores s t sk g bs w } := by
    rw [hpost]
    exact strmAt_setStrm_same ..
  have hseen : postedByte (newStores s t sk g bs w) p = byteOf g.phys bs p := by
    rw [newStores, ← h, List.take_length]
    exact postedByte_posts _ _ _ _ _ _ h
  rw [loadByte_own, loadByte_own, hstrm, postedByte_append, hseen, hpost]
  cases byteOf g.phys bs p <;> rfl

theorem loadByte_postSegs_other {s : State} {t u : Nat} {sk j : Strm} (g : Seg) (bs : List Byte) (p : Nat) (h : (u, j) ≠ (t, sk)) :
    loadByte (postSegs s t sk [g] bs) u j true p = loadByte s u j true p := by
  obtain ⟨w, r, hpost⟩ := postSegs_one s t sk g bs
  have hstrm : strmAt (postSegs s t sk [g] bs) u j = strmAt s u j := by
    rw [hpost]
    exact strmAt_setStrm_other _ _ _ _ _ _ h
  rw [loadByte_own, loadByte_own, hstrm, hpost]
  rfl

theorem ownLoadsSeeOwnStores : OwnLoadsSeeOwnStores := by
  intro s t sk g bs p hlen _
  refine ⟨fun i hi hp => ?_, fun hout => ?_, fun u j q hne => loadByte_postSegs_other g bs q hne⟩
  · rw [loadByte_postSegs_own p hlen, byteOf, hp, if_pos (Nat.le_add_right ..), Nat.add_sub_cancel_left, List.getElem?_eq_getElem hi]
    rfl
  · have hnone : byteOf g.phys bs p = none := by
      rw [byteOf]
      split
      · exact List.getElem?_eq_none (by omega)
      · rfl
    rw [loadByte_postSegs_own p hlen, hnone, Option.getD_none]

/-! The words that store. -/

/-- The stores by their words, each of fewer bytes than a line. -/
theorem exec_of_nearStores {p : (FormM → Instr) × Nat} (h : p ∈ nearStores) (o : FormM) (s : State) :
    exec (p.1 o) s = nearStore p.2 o s ∧ p.2 < 64 := by
  simp only [nearStores, List.mem_cons, List.not_mem_nil, or_false] at h
  rcases h with rfl | rfl | rfl | rfl
  · exact ⟨exec_stb o s, by decide⟩
  · exact ⟨exec_sth o s, by decide⟩
  · exact ⟨exec_stw o s, by decide⟩
  · exact ⟨exec_std o s, by decide⟩

/-- A store whose checks pass retires once its value is posted, or written to the window. -/
theorem nearStore_ok {o : FormM} {n : Nat} {s : State} {base v : Word} {acc : NearAcc} (hissues : Issues s o.tk)
    (hbase : Reads s o.base base) (hv : Reads s o.r v) (hacc : checkNear s s.curTile s.curStrm (mAddr o base n) n true false = .ok acc) :
    nearStore n o s = .next (retire (storeValue (setCur s (popped s o.tk)) acc n v) o.tk .seq) :=
  issue_ok (canIssue_of_issues hissues) (by
    rw [mAddr] at hacc
    simp only [readSrc_of_reads hbase, readSrc_of_reads hv, tokensReady_of_issues hissues, chk_bind_ok, nearEa, hacc])

theorem noLoopEnd_popBits {x : Stream} (tk : BitVec 4) (h : NoLoopEnd x) : NoLoopEnd (popBits x tk) := by simpa [NoLoopEnd] using h

/-- What a word that retires from a state leaves of it, where there is room and no loop ends. -/
theorem retire_from {u t : State} {x : Stream} {tk : BitVec 4} (ht : retire u tk .seq = t) (hcur : cur u = x) (hroom : PushRoom u tk)
    (hloop : NoLoopEnd x) : t.mem = u.mem ∧ (cur t).regs = x.regs ∧ (cur t).pc = x.pc + 4 ∧ (cur t).posted = x.posted := by
  subst ht hcur
  rw [cur_retire_room _ hroom, advanced_no_loop hloop]
  exact ⟨retire_mem .., rfl, rfl, rfl⟩

/-- A stream with the store of one piece posted behind those before it. -/
def withStore (x : Stream) (g : Seg) (bs : List Byte) (w : Bool) : Stream :=
  { x with posted := x.posted ++ [{ addr := g.phys, bytes := bs, watch := w, heads := x.rels, near := g.at_ }] }

/-- A store within a line, posted by the acting stream before it retires. -/
theorem storeValue_posted {s : State} {x : Stream} {g : Seg} {n : Nat} (loc : Bool) (v : Word) (hlen : g.len = n) (hshort : n < 64) :
    ∃ w u, storeValue (setCur s x) { segs := [g], loc := loc } n v = u ∧ u.mem = s.mem ∧
      cur u = withStore x g (leBytes n v.toNat) w ∧ ∀ tk, PushRoom s tk → PushRoom u tk := by
  obtain ⟨w, r, hpost⟩ := postSegs_one (setCur s x) s.curTile s.curStrm g (leBytes n v.toNat)
  have hstrm : strmAt (setCur s x) s.curTile s.curStrm = x := strmAt_setStrm_same ..
  have hall : (leBytes n v.toNat).take n = leBytes n v.toNat := List.take_of_length_le (leBytes_length ..).le
  have hone : newStores (setCur s x) s.curTile s.curStrm g (leBytes n v.toNat) w =
      [{ addr := g.phys, bytes := leBytes n v.toNat, watch := w, heads := x.rels, near := g.at_ }] := by
    rw [newStores, hstrm, hlen, hall, Nat.div_eq_of_lt hshort, lineSegs, posts, posts, hlen, hall]
  rw [hstrm, hone] at hpost
  exact ⟨w, _, hpost, rfl, cur_setCur (setCur s x) (withStore x g _ w), fun _ h => pushRoom_setCur _ (pushRoom_setCur x h)⟩

theorem nearStoresArePosted : NearStoresArePosted := by
  intro p hp o s base v g hissues hbase hv hloop hroom hacc hlen
  obtain ⟨hexec, hshort⟩ := exec_of_nearStores hp o s
  obtain ⟨w, u, hstored, humem, hucur, huroom⟩ :=
    storeValue_posted (s := s) (x := popped s o.tk) (nearSel (mAddr o base p.2) == 1) v hlen hshort
  have hnext := hexec.trans (nearStore_ok hissues hbase hv hacc)
  rw [hstored] at hnext
  obtain ⟨hmem, hregs, hpc, hposted⟩ := retire_from rfl hucur (huroom _ hroom) (noLoopEnd_popBits o.tk hloop)
  exact ⟨_, w, hnext, hmem.trans humem, hregs.trans (by simp [withStore]), hpc.trans (by simp [withStore]),
    hposted.trans (by simp [withStore])⟩

/-- Every tile keeps its format table. -/
def KeepsTables (s t : State) : Prop := ∀ u, (tileOf t u).ft = (tileOf s u).ft

theorem KeepsTables.trans {s t u : State} (h : KeepsTables s t) (g : KeepsTables t u) : KeepsTables s u := fun n => (g n).trans (h n)

theorem keepsTables_setStrm (s : State) (t : Nat) (sk : Strm) (x : Stream) : KeepsTables s (setStrm s t sk x) := fun u => by
  rw [tileOf_setStrm]
  split
  · next h => subst h; cases sk <;> rfl
  · rfl

theorem keepsTables_pushOne (s : State) (t : Nat) (sk : Strm) (right : Bool) : KeepsTables s (pushOne s t sk right).1 := by
  unfold pushOne
  split
  · exact keepsTables_setStrm _ _ _ _
  · exact fun _ => rfl

theorem keepsTables_pushBits (s : State) (t : Nat) (sk : Strm) (sl sr : Bool) : KeepsTables s (pushBits s t sk sl sr).1 := by
  cases sl <;> cases sr <;> simp only [pushBits, Bool.false_eq_true, if_false, if_true]
  · exact fun _ => rfl
  · exact keepsTables_pushOne _ _ _ _
  · exact keepsTables_pushOne _ _ _ _
  · exact (keepsTables_pushOne s t sk false).trans (keepsTables_pushOne _ _ _ _)

theorem keepsTables_retire {s : State} {tk : BitVec 4} (f : Flow) (h : PushRoom s tk) : KeepsTables s (retire s tk f) := by
  rw [retire, retireAt_room f h.1 h.2]
  exact (keepsTables_setStrm s _ _ _).trans (keepsTables_pushBits _ _ _ _ _)

/-- A window store changes no stream, and of the tiles its own format table alone. -/
theorem strmAt_winWrite (s : State) (t off : Nat) (v : Word) (u : Nat) (sk : Strm) : strmAt (winWrite s t off v) u sk = strmAt s u sk := by
  unfold winWrite
  split
  · rfl
  · rw [strmAt_setTile]
    split
    · next h => subst h; cases sk <;> rfl
    · rfl

theorem winWrite_curs (s : State) (t off : Nat) (v : Word) :
    (winWrite s t off v).mem = s.mem ∧ (winWrite s t off v).curTile = s.curTile ∧ (winWrite s t off v).curStrm = s.curStrm := by
  unfold winWrite
  split <;> exact ⟨rfl, rfl, rfl⟩

theorem cur_winWrite (s : State) (t off : Nat) (v : Word) : cur (winWrite s t off v) = cur s := by
  obtain ⟨-, htile, hstrm⟩ := winWrite_curs s t off v
  rw [cur, htile, hstrm, strmAt_winWrite, cur]

theorem pushRoom_winWrite {s : State} {tk : BitVec 4} (t off : Nat) (v : Word) (h : PushRoom s tk) : PushRoom (winWrite s t off v) tk := by
  obtain ⟨-, htile, hstrm⟩ := winWrite_curs s t off v
  simp only [PushRoom, pushedTokens, strmAt_winWrite, htile, hstrm]
  exact h

theorem ftAt_winWrite {s : State} {t off : Nat} (v : Word) (h : 0x100 ≤ off) : ftAt (winWrite s t off v) t ((off - 0x100) / 8) = v := by
  simp [winWrite, ftAt, Nat.not_lt.mpr h]

theorem windowStoresWriteTheFormatTable : WindowStoresWriteTheFormatTable := by
  intro o s base v off hissues hbase hv hloop hroom hacc
  have hnext := (exec_std o s).trans (nearStore_ok hissues hbase hv hacc)
  have hpush := pushRoom_winWrite s.curTile off v (pushRoom_setCur (popped s o.tk) hroom)
  have htables := keepsTables_retire .seq hpush s.curTile
  obtain ⟨hmem, -, -, hposted⟩ := retire_from rfl ((cur_winWrite ..).trans (cur_setCur ..)) hpush (noLoopEnd_popBits o.tk hloop)
  refine ⟨_, hnext, hmem.trans (winWrite_curs ..).1, hposted.trans (by simp), fun hlow _ => ?_, fun hlow => ?_⟩
  · exact (congrArg (mget · _ _) htables).trans (ftAt_winWrite v hlow)
  · refine htables.trans ?_
    rw [winWrite, if_pos hlow]
    exact keepsTables_setStrm s _ _ _ _

/-- Settles O24: a store's piece joins the posted stores, the window takes a format-table word, and loads see the posted bytes first. -/
theorem nearStoresArePostedOrWriteTheWindow : Obligations.NearStoresArePostedOrWriteTheWindow :=
  ⟨nearStoresArePosted, windowStoresWriteTheFormatTable, ownLoadsSeeOwnStores⟩

end Sys2Proof.Proofs
end

/-! PROOFS. State registers: what SSRD answers, what SSWR changes, and what it refuses (R101, R124 to R126, R376, R383). -/
section

namespace Sys2Proof.Proofs

open Sys2Proof Sys2Proof.Machine Sys2Proof.Claims

/-! Which numbers name a register (R125, R376). -/

theorem ssRead_plain {p : Nat × (Stream → Word)} (h : p ∈ plainRegisters) (s : State) (t : Nat) (sk : Strm) (x : Stream) :
    ssRead s t sk x p.1 = some (p.2 x) :=
  List.map_inj_left.mp (show plainRegisters.map (fun p => ssRead s t sk x p.1) = plainRegisters.map fun p => some (p.2 x) from rfl) p h

theorem ssRead_assigned {n : Nat} (h : n < 0x010 ∨ (0x040 ≤ n ∧ n ≤ 0x04C)) (s : State) (t : Nat) (sk : Strm) (x : Stream) :
    ∃ v, ssRead s t sk x n = some v := by
  have hall : (List.range 0x010 ++ List.range' 0x040 0x00D).all (fun n => (ssRead s t sk x n).isSome) = true := rfl
  exact Option.isSome_iff_exists.mp (List.all_eq_true.mp hall n (by simp; omega))

theorem ssRead_unassigned {n : Nat} (h : (0x010 ≤ n ∧ n < 0x040) ∨ 0x04C < n) (s : State) (t : Nat) (sk : Strm) (x : Stream) :
    ssRead s t sk x n = none := by
  rcases h with ⟨hfrom, hto⟩ | habove
  · have hall : (List.range' 0x010 0x030).all (fun n => (ssRead s t sk x n).isNone) = true := rfl
    exact Option.isNone_iff_eq_none.mp (List.all_eq_true.mp hall n (by simp; omega))
  · obtain ⟨m, rfl⟩ := Nat.exists_eq_add_of_le' (show 0x04D ≤ n from habove)
    rfl

/-! The two words. -/

section
variable {o : FormSReg} {s : State}

theorem exec_ssrd_reads {v : Word} (hissues : Issues s o.tk) (hd : Writes s o.r)
    (hread : ssRead s s.curTile s.curStrm (cur s) o.num.toNat = some v) :
    exec (.ssrd o) s = .next (goesOn s (putReg (popped s o.tk) o.r v) o.tk) := by
  rw [exec_ssrd]
  exact issue_ok (canIssue_of_issues hissues) (by
    simp only [hread, tokensReady_of_issues hissues, destReady_of_writes hd, chk_bind_ok])

theorem exec_sswr_writes {v : Word} (hissues : Issues s o.tk) (hv : Reads s o.r v)
    (hnum : o.num.toNat < 0x010 ∨ (0x040 ≤ o.num.toNat ∧ o.num.toNat ≤ 0x04C))
    (hpriv : (cur s).tctx = true ∨ ¬ (0x040 ≤ o.num.toNat ∧ o.num.toNat ≤ 0x042)) :
    exec (.sswr o) s = .next (goesOn s (ssWrite (popped s o.tk) (cycleOf s (cur s)).toNat o.num.toNat v) o.tk) := by
  obtain ⟨w, hread⟩ := ssRead_assigned hnum s s.curTile s.curStrm (cur s)
  have hallowed : ((cur s).tctx || !ssPriv o.num.toNat) = true := by
    simpa [ssPriv, Bool.or_eq_true, or_iff_not_imp_left] using hpriv
  rw [exec_sswr]
  exact issue_ok (canIssue_of_issues hissues) (by
    simp only [hread, need_true hallowed, readSrc_of_reads hv, tokensReady_of_issues hissues, chk_bind_ok])

theorem exec_sswr_priv (hissues : Issues s o.tk) (hlow : 0x040 ≤ o.num.toNat) (hhigh : o.num.toNat ≤ 0x042) (huser : (cur s).tctx = false) :
    exec (.sswr o) s = .next (takeTrap s .priv 0 (cur s).pc) := by
  obtain ⟨w, hread⟩ := ssRead_assigned (.inr ⟨hlow, by omega⟩) s s.curTile s.curStrm (cur s)
  have hrefused : ((cur s).tctx || !ssPriv o.num.toNat) = false := by simp [huser, ssPriv, hlow, hhigh]
  rw [exec_sswr]
  exact issue_trap (canIssue_of_issues hissues) (by simp only [hread, need_false hrefused, chk_bind_error])

theorem exec_ssrd_illegal {w : Nat} (hissues : Issues s o.tk) (hnum : (0x010 ≤ o.num.toNat ∧ o.num.toNat < 0x040) ∨ 0x04C < o.num.toNat)
    (hw : encode (.ssrd o) = some w) : exec (.ssrd o) s = .next (takeTrap s .illegal (BitVec.ofNat 64 w) (cur s).pc) := by
  rw [exec_ssrd]
  exact issue_trap (canIssue_of_issues hissues) (by simp only [ssRead_unassigned hnum, hw, Option.getD_some])

theorem exec_sswr_illegal {w : Nat} (hissues : Issues s o.tk) (hnum : (0x010 ≤ o.num.toNat ∧ o.num.toNat < 0x040) ∨ 0x04C < o.num.toNat)
    (hw : encode (.sswr o) = some w) : exec (.sswr o) s = .next (takeTrap s .illegal (BitVec.ofNat 64 w) (cur s).pc) := by
  rw [exec_sswr]
  exact issue_trap (canIssue_of_issues hissues) (by simp only [ssRead_unassigned hnum, hw, Option.getD_some])

end

/-! What an SSWR makes of a stream, for a register with a mask and one with a mode. -/

theorem ssWrite_ipend (x : Stream) (cycle : Nat) (v : Word) : ssWrite x cycle 0x046 v = { x with ipend := x.ipend &&& ~~~ v } := rfl

theorem ssWrite_fe (x : Stream) (cycle : Nat) (v : Word) : ssWrite x cycle 0x004 v = { x with fe := feWrite x.fe v } := rfl

/-! Registers that a word replaces whole. -/

/-- A whole register after an SSWR of it is the word written; registers and place stay. -/
theorem ssWrite_whole {p : Nat × (Stream → Word)} (h : p ∈ wholeRegisters) (x : Stream) (cycle : Nat) (v : Word) :
    (p.1 < 0x010 ∨ (0x040 ≤ p.1 ∧ p.1 ≤ 0x04C)) ∧ p.2 (ssWrite x cycle p.1 v) = v ∧ (ssWrite x cycle p.1 v).regs = x.regs ∧
      (ssWrite x cycle p.1 v).pc = x.pc := by
  have hassigned : ∀ p ∈ wholeRegisters, p.1 < 0x010 ∨ (0x040 ≤ p.1 ∧ p.1 ≤ 0x04C) := by decide
  have hwritten : wholeRegisters.map (fun p => (p.2 (ssWrite x cycle p.1 v), (ssWrite x cycle p.1 v).regs, (ssWrite x cycle p.1 v).pc)) =
      wholeRegisters.map fun _ => (v, x.regs, x.pc) := rfl
  obtain ⟨hvalue, hplace⟩ := Prod.mk.inj (List.map_inj_left.mp hwritten p h)
  exact ⟨hassigned p h, hvalue, Prod.mk.inj hplace⟩

theorem wholeRegistersReadAndWrite : WholeRegistersReadAndWrite := by
  refine ⟨fun p hp o s hissues hd hnum => ?_, fun p hp o s v hissues hv hnum hpriv => ?_, fun o s hissues hlow hhigh huser => ?_,
    fun o s v hissues hv hnum => ?_, fun o s hissues hnum => ⟨fun w hw => ?_, fun w hw => ?_⟩⟩
  · exact exec_ssrd_reads hissues hd (hnum ▸ ssRead_plain hp ..)
  · obtain ⟨hassigned, hvalue, hregs, hpc⟩ := ssWrite_whole hp (popped s o.tk) (cycleOf s (cur s)).toNat v
    rw [← hnum] at hassigned hregs hpc hpriv
    exact ⟨_, exec_sswr_writes hissues hv hassigned hpriv, by rw [hnum, hvalue], hregs.trans (by simp), hpc.trans (by simp)⟩
  · exact exec_sswr_priv hissues hlow hhigh huser
  · rw [exec_sswr_writes hissues hv (by omega) (.inr (by omega)), hnum, ssWrite_ipend]
    simp
  · exact exec_ssrd_illegal hissues hnum hw
  · exact exec_sswr_illegal hissues hnum hw

/-! Registers that are composed. -/

/-- The fields of ss.status, for each stream and each of its four marks. -/
theorem status_fields (sk : Strm) (tctx idem a b : Bool) (v : Word) (h : v = BitVec.ofNat 64 (sidx sk + (if tctx then 2 ^ 4 else 0) +
    (if idem then 2 ^ 5 else 0) + (if a then 2 ^ 6 else 0) + (if b then 2 ^ 7 else 0))) :
    wf64 v 3 0 = sidx sk ∧ v.getLsbD 4 = tctx ∧ v.getLsbD 5 = idem ∧ v.getLsbD 6 = a ∧ v.getLsbD 7 = b ∧ wf64 v 63 8 = 0 := by
  subst h
  cases sk <;> revert tctx idem a b <;> decide

/-- Bit i of packed bits is the i-th of them. -/
theorem testBit_packN (xs : List Nat) (i : Nat) : (packN 1 xs).testBit i = decide (xs.getD i 0 % 2 = 1) := by
  induction xs generalizing i with
  | nil => simp [packN]
  | cons x xs ih =>
    cases i with
    | zero => simp [packN, Nat.testBit_zero, Nat.add_mod]
    | succ i =>
      have hrest : (x % 2 ^ 1 + 2 ^ 1 * packN 1 xs) / 2 = packN 1 xs := by omega
      rw [packN, Nat.testBit_succ, hrest, ih]
      simp

theorem packN_one_lt (xs : List Nat) : packN 1 xs < 2 ^ xs.length := by
  induction xs with
  | nil => simp [packN]
  | cons x xs ih =>
    rw [packN, List.length_cons, Nat.pow_succ]
    omega

/-- The fields of ss.full. -/
theorem fullWord_fields (x : Stream) : (fullWord x).getLsbD 0 = true ∧ (∀ p, 0 < p → p < 32 → (fullWord x).getLsbD p = (regAt x p).full) ∧
    wf64 (fullWord x) 63 32 = 0 := by
  have hbit : ∀ p < 32, (fullWord x).getLsbD p = decide (p = 0 ∨ (regAt x p).full = true) := by
    intro p hp
    rw [fullWord, BitVec.getLsbD_ofNat, testBit_packN]
    by_cases h : p = 0 ∨ (regAt x p).full = true
    · simp [hp, h, show p < 64 by omega]
    · simp [hp, h, show p < 64 by omega]
  refine ⟨by rw [hbit 0 (by decide)]; rfl, fun p h0 hp => ?_, ?_⟩
  · simp [hbit p hp, Nat.pos_iff_ne_zero.mp h0]
  · have hlt := packN_one_lt ((List.range 32).map fun p => if p = 0 || (regAt x p).full then 1 else 0)
    rw [List.length_map, List.length_range] at hlt
    rw [fullWord, wf64, bitsN, BitVec.toNat_ofNat]
    omega

/-- The fields of ss.ctx, each within its width. -/
theorem ctx_fields {ctxn pasid tile strm : Nat} (hc : ctxn < 2 ^ 12) (hp : pasid < 2 ^ 20) (ht : tile < 2 ^ 8) (hs : strm < 4) (v : Word)
    (h : v = BitVec.ofNat 64 (ctxn + pasid * 2 ^ 12 + tile * 2 ^ 32 + strm * 2 ^ 40)) :
    wf64 v 11 0 = ctxn ∧ wf64 v 31 12 = pasid ∧ wf64 v 39 32 = tile ∧ wf64 v 41 40 = strm ∧ wf64 v 63 42 = 0 := by
  subst h
  simp only [wf64, bitsN, BitVec.toNat_ofNat]
  omega

theorem sidx_lt (sk : Strm) : sidx sk < 4 := by cases sk <;> decide

theorem composedRegistersRead : ComposedRegistersRead := by
  intro o s hissues hd
  refine ⟨fun hnum => ?_, fun hnum => ?_, fun hnum => ?_, fun hnum hc hp ht => ?_⟩
  · exact ⟨_, exec_ssrd_reads hissues hd (by rw [hnum]; rfl), status_fields _ _ _ _ _ _ rfl⟩
  · exact ⟨_, exec_ssrd_reads hissues hd (by rw [hnum]; rfl), fullWord_fields _⟩
  · exact exec_ssrd_reads hissues hd (by rw [hnum]; rfl)
  · exact ⟨_, exec_ssrd_reads hissues hd (by rw [hnum]; rfl), ctx_fields hc hp ht (sidx_lt _) _ rfl⟩

/-! Registers that keep fields of the word written. -/

/-- The fields of ss.fe after an SSWR: the flags written, and a mode of 1 to 5 or the old one. -/
theorem feWrite_fields (old v : Word) : wf64 (feWrite old v) 13 8 = wf64 v 13 8 ∧ wf64 (feWrite old v) 63 14 = 0 ∧
    wf64 (feWrite old v) 7 3 = 0 ∧ wf64 (feWrite old v) 2 0 = if wf64 v 2 0 ∈ [0, 6, 7] then wf64 old 2 0 else wf64 v 2 0 := by
  have hflags : wf64 v 13 8 < 2 ^ 6 := Nat.mod_lt _ (by decide)
  have hmode : wf64 v 2 0 < 8 := Nat.mod_lt _ (by decide)
  have hold : wf64 old 2 0 < 8 := Nat.mod_lt _ (by decide)
  have hkeep : (if wf64 v 2 0 = 0 || decide (6 ≤ wf64 v 2 0) then wf64 old 2 0 else wf64 v 2 0) =
      if wf64 v 2 0 ∈ [0, 6, 7] then wf64 old 2 0 else wf64 v 2 0 := by
    have hiff : (wf64 v 2 0 = 0 || decide (6 ≤ wf64 v 2 0)) = true ↔ wf64 v 2 0 ∈ [0, 6, 7] := by simp; omega
    simp only [hiff]
  have hlt : (if wf64 v 2 0 ∈ [0, 6, 7] then wf64 old 2 0 else wf64 v 2 0) < 8 := by split <;> assumption
  simp only [feWrite, hkeep]
  generalize (if wf64 v 2 0 ∈ [0, 6, 7] then wf64 old 2 0 else wf64 v 2 0) = keep at hlt
  generalize wf64 v 13 8 = flags at hflags
  simp only [wf64, bitsN, BitVec.toNat_ofNat]
  omega

/-- The fields of ss.tvec after an SSWR. -/
theorem tvec_fields (v w : Word) (h : w = BitVec.ofNat 64 (wf64 v 18 2 * 4)) :
    wf64 w 18 2 = wf64 v 18 2 ∧ wf64 w 1 0 = 0 ∧ wf64 w 63 19 = 0 := by
  have hlt : wf64 v 18 2 < 2 ^ 17 := Nat.mod_lt _ (by decide)
  subst h
  generalize wf64 v 18 2 = f at hlt
  simp only [wf64, bitsN, BitVec.toNat_ofNat]
  omega

theorem causeField_eq (v : Word) : BitVec.ofNat 64 (wf64 v 7 0) = (v.truncate 8).zeroExtend 64 := by
  apply BitVec.eq_of_toNat_eq
  simp [wf64, bitsN]

/-- START and END keep bits [19:2] of the word written. -/
theorem loopOff_eq (v : Word) : loopOff v = v.truncate 20 &&& 0xFFFFC := by
  have hmask : ∀ i < 20, (0xFFFFC : BitVec 20).getLsbD i = decide (2 ≤ i) := by decide
  have hfield (i : Nat) (hi : i < 20) : (wf64 v 19 2 * 4).testBit i = (decide (2 ≤ i) && v.getLsbD i) := by
    rw [wf64, bitsN, show 4 = 2 ^ 2 by rfl, Nat.testBit_mul_two_pow, Nat.testBit_mod_two_pow, Nat.testBit_div_two_pow]
    by_cases h2 : 2 ≤ i
    · simp [h2, show i - 2 < 18 by omega, BitVec.getLsbD]
    · simp [h2]
  refine BitVec.eq_of_getLsbD_eq fun i hi => ?_
  rw [loopOff, BitVec.getLsbD_ofNat, hfield i hi, BitVec.getLsbD_and, hmask i hi]
  simp [hi, Bool.and_comm]

theorem fieldRegistersTakeTheirFields : FieldRegistersTakeTheirFields := by
  intro o s v hissues hv
  have user (n : Nat) (hn : n < 0x010 ∨ (0x043 ≤ n ∧ n ≤ 0x04C)) (hnum : o.num.toNat = n) :
      exec (.sswr o) s = .next (goesOn s (ssWrite (popped s o.tk) (cycleOf s (cur s)).toNat n v) o.tk) :=
    hnum ▸ exec_sswr_writes hissues hv (by omega) (.inr (by omega))
  have num (b : BitVec 11) (h : o.num = b) : o.num.toNat = b.toNat := congrArg BitVec.toNat h
  refine ⟨fun h => user 0x002 (by decide) (num _ h), fun h => user 0x003 (by decide) (num _ h), fun h => ?_, fun h htctx => ?_,
    fun h => ?_, fun lcb base hbase => ?_, fun h => ?_⟩
  · have hfields := feWrite_fields (cur s).fe v
    refine ⟨_, user 0x004 (by decide) (num _ h), rfl, ?_⟩
    simpa [ssWrite_fe] using hfields
  · rw [exec_sswr_writes hissues hv (by rw [h]; decide) (.inl htctx), h]
    exact congrArg (fun c : Word => Host.Outcome.next (goesOn s { popped s o.tk with cause := c } o.tk)) (causeField_eq v)
  · exact ⟨_, user 0x043 (by decide) (num _ h), rfl, tvec_fields v _ rfl⟩
  · have hloop : loopOf (popped s o.tk) lcb = loopOf (cur s) lcb := by cases lcb <;> simp [loopOf]
    rw [← hloop]
    cases lcb
    · subst hbase
      refine ⟨fun h => user 0x008 (by decide) (num _ h), fun h => ?_, fun h => ?_, fun h => user 0x00B (by decide) (num _ h)⟩
      · rw [← loopOff_eq]
        exact user 0x009 (by decide) (num _ h)
      · rw [← loopOff_eq]
        exact user 0x00A (by decide) (num _ h)
    · subst hbase
      refine ⟨fun h => user 0x00C (by decide) (num _ h), fun h => ?_, fun h => ?_, fun h => user 0x00F (by decide) (num _ h)⟩
      · rw [← loopOff_eq]
        exact user 0x00D (by decide) (num _ h)
      · rw [← loopOff_eq]
        exact user 0x00E (by decide) (num _ h)
  · rcases h with h | h | h | h | h
    · exact user 0x000 (by decide) (num _ h)
    · exact user 0x001 (by decide) (num _ h)
    · exact user 0x006 (by decide) (num _ h)
    · exact user 0x007 (by decide) (num _ h)
    · exact user 0x04C (by decide) (num _ h)

/-- Settles O35: a number finds its register in ssRead, SSWR changes it as ssWrite does, and the fields are read off bit by bit. -/
theorem stateRegistersReadAndWrite : Obligations.StateRegistersReadAndWrite :=
  ⟨wholeRegistersReadAndWrite, composedRegistersRead, fieldRegistersTakeTheirFields⟩

end Sys2Proof.Proofs
end

/-! PROOFS. Matrix tasks: the tile that each kind computes, and the place of each element in a tile (R95, R96, R103, R104, R275 to R277,
R281, R307). -/
section

namespace Sys2Proof.Proofs

open Sys2Proof Sys2Proof.Machine Sys2Proof.Claims

/-! Each kind of task. -/

section
variable {s : State} {cl e sub : Nat} {r : Running}

/-- A running task of its kind without poison goes on to its result. -/
theorem runTask_runs (h : TaskRuns s cl e r sub) (f : Running → RingEntry → State → State) :
    runTask sub cl e s f = .next (f r (entryOf (clusterOf s cl) e r.task) s) := by
  obtain ⟨hrun, hsub, hres, hpoison⟩ := h
  simp [runTask, hrun, hsub, hres, hpoison]

theorem execMms_goodMetadata (h : TaskRuns s cl e r 1)
    (hmeta : badGroup (metaBits s cl r.task.cmd.tmpl r.task.cmd.fte) r.task.cmd.fte = none) :
    execMms cl e s = .next (withResult s cl e r (sparseResult (ftAcc r.task.cmd.fte) (entryOf (clusterOf s cl) e r.task).vals
      (metaBits s cl r.task.cmd.tmpl r.task.cmd.fte) r.task.cmd.fte (rowsA s cl r.task.cmd.tmpl r.task.cmd.fte)
      (taskCols s cl r.task.cmd.tmpl r.task.cmd.fte))) := by
  rw [execMms, runTask_runs h]
  simp only [hmeta]
  rfl

theorem execMms_badMetadata {g : Nat} (h : TaskRuns s cl e r 1)
    (hmeta : badGroup (metaBits s cl r.task.cmd.tmpl r.task.cmd.fte) r.task.cmd.fte = some g) :
    execMms cl e s =
      .next (engineFault (setEngine s cl e { engineOf (clusterOf s cl) e with run := none }) cl e r.task .spmeta 0 0 g) := by
  rw [execMms, runTask_runs h]
  simp only [hmeta]

theorem execMmdl_runs {m : MmdlSt} (h : TaskRuns s cl e r 3) (hm : r.mmdl = some m) :
    execMmdl cl e s = .next (withResult s cl e { r with mmdl := some (mmdlCompute s cl r.task.cmd m) }
      ((mmdlCompute s cl r.task.cmd m).yprev, false)) := by
  rw [execMmdl, runTask_runs h]
  simp only [hm]
  rfl

end

theorem tasksComputeTheirTile : TasksComputeTheirTile :=
  ⟨fun s cl e _ h => (exec_mmd cl e s).trans (runTask_runs h _),
   fun s cl e _ h => ⟨fun hmeta => (exec_mms cl e s).trans (execMms_goodMetadata h hmeta),
     fun _ hmeta => (exec_mms cl e s).trans (execMms_badMetadata h hmeta)⟩,
   fun s cl e _ h => (exec_mmg cl e s).trans (runTask_runs h _),
   fun s cl e _ _ h hm => (exec_mmdl cl e s).trans (execMmdl_runs h hm)⟩

/-! The elements of a tile. -/

/-- The rows of a table one behind the other, all of one length: element j of row i stands at that length times i plus j. -/
theorem getElem?_flatMap_rows {α β : Type} {f : α → List β} {n j : Nat} (xs : List α) (i : Nat) (hrow : ∀ x ∈ xs, (f x).length = n)
    (hj : j < n) : (xs.flatMap f)[n * i + j]? = xs[i]?.bind fun x => (f x)[j]? := by
  induction xs generalizing i with
  | nil => simp
  | cons x xs ih =>
    have hx : (f x).length = n := hrow x List.mem_cons_self
    rw [List.flatMap_cons]
    cases i with
    | zero => simp [List.getElem?_append_left, hx, hj]
    | succ i =>
      have hskip : n * (i + 1) + j - n = n * i + j := by rw [Nat.mul_succ]; omega
      rw [List.getElem?_append_right (by rw [hx, Nat.mul_succ]; omega), hx, hskip, ih i fun y hy => hrow y (List.mem_cons_of_mem _ hy)]
      rfl

/-- One element of a tile: a row and a column with the entry's old value. -/
def tileCell (isInt : Bool) (old : List (BitVec 48)) (row col : List Val) (i j : Nat) : BitVec 48 × Bool :=
  if isInt then dotI48 (old.getD (64 * i + j) 0) row col else (dotA48 (old.getD (64 * i + j) 0) row col, false)

/-- One row of a tile. -/
def tileRow (isInt : Bool) (old : List (BitVec 48)) (b : List (List Val)) (row : List Val × Nat) : List (BitVec 48 × Bool) :=
  b.zipIdx.map fun col => tileCell isInt old row.1 col.1 row.2 col.2

theorem tileResult_eq (isInt : Bool) (old : List (BitVec 48)) (a b : List (List Val)) :
    (tileResult isInt old a b).1 = (a.zipIdx.flatMap (tileRow isInt old b)).map (·.1) := rfl

theorem tileRow_length (isInt : Bool) (old : List (BitVec 48)) (b : List (List Val)) (row : List Val × Nat) :
    (tileRow isInt old b row).length = b.length := by simp [tileRow]

theorem tileResultsAccumulateElementwise : TileResultsAccumulateElementwise := by
  intro isInt old a b
  refine ⟨?_, fun i j hi hj h64 => ?_⟩
  · simp [tileResult_eq, List.length_flatMap, tileRow_length]
  · have hcell : (tileResult isInt old a b).1[64 * i + j]? = some (tileCell isInt old a[i] b[j] i j).1 := by
      rw [tileResult_eq, List.getElem?_map,
        getElem?_flatMap_rows a.zipIdx i (fun row _ => (tileRow_length isInt old b row).trans h64) (by omega)]
      simp [tileRow, hi, hj]
    rw [List.getD_eq_getElem a [] hi, List.getD_eq_getElem b [] hj, List.getD_eq_getElem?_getD, hcell]
    cases isInt <;> rfl

/-- Settles O50: a running task's result is its kind's function of operands and entry, and element 64 × i + j is row i by column j. -/
theorem matrixTasksComputeTheirTile : Obligations.MatrixTasksComputeTheirTile := ⟨tasksComputeTheirTile, tileResultsAccumulateElementwise⟩

end Sys2Proof.Proofs
end

/-! PROOFS. Stream slots: the start of a command, and the steps of the load and store commands (R112, R190, R191, R200 to R205). -/
section

namespace Sys2Proof.Proofs

open Sys2Proof Sys2Proof.Machine Sys2Proof.Claims

/-! The start of a command, and a step of one that works. -/

theorem queuedCommandsStartInOrder : QueuedCommandsStartInOrder := by
  intro s tile slot c rest hidle hpending hsbar hruns
  rw [exec_slotCommandStart]
  simp [execSlotCommandStart, hidle, hpending, hsbar, hruns]

section
variable {s : State} {tile slot sub : Nat} {a : ActiveCmd}

/-- A command that works makes a step of its kind. -/
theorem runSlot_works (h : Works s tile slot a sub) (f : ActiveCmd → State) : runSlot sub tile slot s f = .next (f a) := by
  obtain ⟨hactive, hsub, hhalt, hruns, hunfinished, hrecord⟩ := h
  have hloaded : (scLr a.cmd.tmpl && a.record.isNone) = false := by
    cases hlr : scLr a.cmd.tmpl with
    | false => rfl
    | true => simpa using hrecord hlr
  simp [runSlot, hactive, hsub, hhalt, hruns, hunfinished, hloaded]

/-- Outside an ORDERED-UPDATE node no section is opened, and none notes what an element used up. -/
theorem openSection_outside (h : ouNode s tile slot = none) (k : Nat) : openSection s tile slot a k = .ok s := by
  simp only [openSection, h]

theorem onSection_outside (h : ouNode s tile slot = none) (id : Nat) (f : Section → Section) : onSection s tile slot id f = s := by
  simp only [onSection, h]

theorem onSection_mem (s : State) (tile slot id : Nat) (f : Section → Section) : (onSection s tile slot id f).mem = s.mem := by
  unfold onSection
  split <;> rfl

theorem noteDirty_mem (s : State) (tile slot x n : Nat) : (noteDirty s tile slot x n).mem = s.mem := by
  unfold noteDirty
  split <;> rfl

/-! Elements in order. -/

theorem gather_reads {lim f x : Nat} {s1 : State} {bs : List Byte} (hroom : a.buf.length < lim) (hmore : a.k < actCount a)
    (hnode : ouNode s tile slot = none) (helem : actElement a a.k = .acc x)
    (hread : slotRead s tile slot a x (actElem a) = .ok (s1, bs)) :
    gather tile slot lim (f + 1) s a = gather tile slot lim f s1 (pastElem { a with buf := a.buf ++ bs }) := by
  have hgo : ¬ (lim ≤ a.buf.length ∨ actCount a ≤ a.k) := by omega
  rw [gather, if_neg hgo]
  simp only [openSection_outside hnode, helem, hread]

theorem gather_const {lim f : Nat} {bs : List Byte} (hroom : a.buf.length < lim) (hmore : a.k < actCount a)
    (hnode : ouNode s tile slot = none) (helem : actElement a a.k = .const bs) :
    gather tile slot lim (f + 1) s a = gather tile slot lim f s (pastElem { a with buf := a.buf ++ bs }) := by
  have hgo : ¬ (lim ≤ a.buf.length ∨ actCount a ≤ a.k) := by omega
  rw [gather, if_neg hgo]
  simp only [openSection_outside hnode, helem]

/-- The command whose elements are read stays the same. -/
theorem gather_cmd (lim f : Nat) (s : State) (a : ActiveCmd) : (gather tile slot lim f s a).2.1.cmd = a.cmd := by
  induction f generalizing s a with
  | zero => rfl
  | succ f ih =>
    rw [gather]
    split
    · rfl
    · split
      · rfl
      · split
        · rfl
        · rfl
        · exact ih ..
        · split
          · exact ih ..
          · rfl

/-- Outside an ORDERED-UPDATE node a write whose pieces are known is performed at once. -/
theorem slotWrite_outside {x : Nat} {bs : List Byte} {segs : List Seg} (hnode : ouNode s tile slot = none)
    (hsegs : engSegs s (whoOf a.cmd .stream) x bs.length true (actOwn a) = .ok segs) :
    slotWrite s tile slot a x bs = (.ok (noteDirty (segsWrite s (agentOf (whoOf a.cmd .stream)) none segs bs) tile slot x bs.length), s) := by
  simp [slotWrite, hsegs, hnode]

theorem scatter_writes {f x : Nat} {segs : List Seg} (hfull : actElem a ≤ a.buf.length) (hmore : a.k < actCount a)
    (hnode : ouNode s tile slot = none) (helem : actElement a a.k = .acc x)
    (hsegs : engSegs s (whoOf a.cmd .stream) x (min (actElem a) a.buf.length) true (actOwn a) = .ok segs) :
    ∃ t, scatter tile slot (f + 1) s a = scatter tile slot f t (pastElem { a with buf := a.buf.drop (actElem a) }) ∧
      t.mem = (segsWrite s (agentOf (whoOf a.cmd .stream)) none segs (a.buf.take (actElem a))).mem := by
  have hgo : ¬ (a.buf.length < actElem a ∨ actCount a ≤ a.k) := by omega
  rw [← List.length_take] at hsegs
  rw [scatter]
  simp only [if_neg hgo, openSection_outside hnode, helem, slotWrite_outside hnode hsegs]
  exact ⟨_, rfl, (onSection_mem ..).trans (noteDirty_mem ..)⟩

theorem scatter_drops {f : Nat} {bs : List Byte} (hfull : actElem a ≤ a.buf.length) (hmore : a.k < actCount a)
    (hnode : ouNode s tile slot = none) (helem : actElement a a.k = .const bs) :
    scatter tile slot (f + 1) s a = scatter tile slot f s (pastElem { a with buf := a.buf.drop (actElem a) }) := by
  have hgo : ¬ (a.buf.length < actElem a ∨ actCount a ≤ a.k) := by omega
  rw [scatter]
  simp only [if_neg hgo, openSection_outside hnode, helem, noteUse, onSection_outside hnode]

end

/-- The row of an indirect command that holds an index. -/
theorem actElement_indirect {a : ActiveCmd} {x : BitVec 32} {xs : List (BitVec 32)} (i : Nat) (hsub : cmdSub a.cmd = 2 ∨ cmdSub a.cmd = 3)
    (hidx : a.idx = x :: xs) : actElement a i =
      if 0 ≤ x.toInt ∧ (scS a.cmd.tmpl 2 = 0 ∨ x.toInt < scS a.cmd.tmpl 2) then
        .acc (moveAddr (scAddr a.cmd.tmpl)
          ((2 ^ scEsz a.cmd.tmpl : Nat) * (x.toInt * sextN 16 (scS a.cmd.tmpl 0) + (i % extent (scN a.cmd.tmpl 2) : Nat))))
      else .const (List.replicate (2 ^ scEsz a.cmd.tmpl) 0) := by
  rw [actElement, if_pos hsub, indexElem, hidx]

theorem elementsAreHandledInOrder : ElementsAreHandledInOrder := by
  refine ⟨fun s tile slot lim f a hroom hmore hnode => ⟨fun x s1 bs helem hread => gather_reads hroom hmore hnode helem hread,
      fun bs helem => gather_const hroom hmore hnode helem⟩,
    fun s tile slot f a hfull hmore hnode => ⟨fun x segs helem hsegs => scatter_writes hfull hmore hnode helem hsegs,
      fun bs helem => scatter_drops hfull hmore hnode helem⟩,
    fun a i x xs hsub hidx => ⟨fun h0 hlimit => ?_, fun hbad => ?_⟩, fun a i h2 h3 hrecord => ?_⟩
  · rw [actElement_indirect i hsub hidx, if_pos ⟨h0, hlimit⟩]
  · rw [actElement_indirect i hsub hidx, if_neg]
    rintro ⟨h0, hlimit⟩
    omega
  · simp [actElement, h2, h3, hrecord]

/-! Indices. -/

theorem indicesComeFromMemoryOrAPort : IndicesComeFromMemoryOrAPort := by
  intro s tile slot a
  refine ⟨fun s1 bs hmem hread => ?_, fun e hmem hread h2 hahead => ?_, fun w hport hword => ?_, fun hport heos => ?_⟩
  · simp [nextIndex, hmem, hread]
  · simp [nextIndex, hmem, hread, feedsPorts, h2, hahead]
  · simp [nextIndex, hport, hword]
  · simp only [nextIndex, hport, if_true, heos]
    exact ⟨_, rfl⟩

/-! Commands that feed ports. -/

theorem exec_of_feedingEvents {p : (Nat → Nat → Instr) × Nat} (h : p ∈ feedingEvents) {s : State} {tile slot : Nat} {a : ActiveCmd}
    (hworks : Works s tile slot a p.2) (htgt : p.2 = 0 → scTgt a.cmd.tmpl = false) :
    exec (p.1 tile slot) s = .next (feedStep tile slot s a) := by
  simp only [feedingEvents, List.mem_cons, List.not_mem_nil, or_false] at h
  rcases h with rfl | rfl | rfl
  · rw [exec_sld, execSld, runSlot_works hworks, htgt rfl]
    rfl
  · rw [exec_sidx, execSidx, runSlot_works hworks]
  · rw [exec_smcl, execSmcl, runSlot_works hworks]

section
variable {s : State} {tile slot : Nat} {a : ActiveCmd}

theorem feedStep_marker (hmarker : a.markerSent = false) (hroom : allFeed s a.cmd = true) :
    feedStep tile slot s a = putActive (feedAll s a.cmd (cmdMarker a.cmd)) tile slot { a with markerSent := true } := by
  simp [feedStep, hmarker, hroom]

theorem feedStep_word (hmarker : a.markerSent = true) (hheld : a.buf ≠ []) (hdue : actCount a ≤ a.k ∨ 64 ≤ a.buf.length)
    (hroom : allFeed s a.cmd = true) : feedStep tile slot s a =
      putActive (feedAll s a.cmd (.word (lineOfBytes (a.buf.take 64)))) tile slot { a with buf := a.buf.drop 64 } := by
  simp [feedStep, hmarker, hheld, hdue, hroom]

theorem feedStep_end (hmarker : a.markerSent = true) (hover : actCount a ≤ a.k) (hnone : a.buf = []) :
    feedStep tile slot s a = feedEnd s tile slot a := by
  simp [feedStep, hmarker, hover, hnone]

/-- A read that stops nowhere goes on, unless an SIDX then needs an index. -/
theorem feedStep_read {s1 : State} {b : ActiveCmd} (hmarker : a.markerSent = true) (hshort : a.buf.length < 64) (hmore : a.k < actCount a)
    (hmay : mayRead s tile slot a = true) (hgather : gather tile slot 64 64 s a = (s1, b, none)) (hindex : cmdSub a.cmd ≠ 2 ∨ b.idx ≠ []) :
    feedStep tile slot s a = putActive s1 tile slot b := by
  have hcmd : b.cmd = a.cmd := by simpa [hgather] using gather_cmd (tile := tile) (slot := slot) 64 64 s a
  have hlim : (a.buf.length / 64 + 1) * 64 = 64 := by omega
  have hread : readOn tile slot s a = putActive s1 tile slot b := by
    simp only [readOn, hlim, hgather, hcmd]
    rcases hindex with h | h <;> simp [h]
  simp [feedStep, hmarker, hmay, hread, Nat.not_le.mpr hmore, Nat.not_le.mpr hshort]

end

theorem ipOf_setIp_same (t : Tile) (n : Nat) (f : Fifo) : ipOf (setIp t n f) n = f := mget_mset_same ..

/-- An item fed to a port where no snapshot marker is due stands last there. -/
theorem ipOf_feedAll_one {s : State} {c : Cmd} {u p : Nat} (x : Item) (hone : feedTargets c = [(u, p)])
    (hsnap : snapDue (tileOf s u) p = false) : ipOf (tileOf (feedAll s c x) u) p = pushItem (ipOf (tileOf s u) p) x := by
  simp [feedAll, hone, feed, hsnap, ipOf_setIp_same]

theorem fillStep_runs {s s1 : State} {tile slot : Nat} {a b : ActiveCmd} (hclaimed : a.cmd.fill ≠ 0) (hready : fillReady s a.cmd = true)
    (hrun : fillRun tile slot (64 / actElem a) s a = (s1, b, none)) :
    fillStep tile slot s a = if actCount b ≤ b.k then slotDone s1 tile slot b b.k else putActive s1 tile slot b := by
  simp [fillStep, hclaimed, hready, hrun]

theorem loadCommandsFeedWholeWords : LoadCommandsFeedWholeWords := by
  refine ⟨fun p hp s tile slot a hworks htgt => ?_, fun s s1 tile slot a b hworks htgt hclaimed hready hrun => ?_,
    fun s c x u p hone hsnap => ipOf_feedAll_one x hone hsnap⟩
  · rw [exec_of_feedingEvents hp hworks htgt]
    obtain ⟨-, hsub, -, -, -, -⟩ := hworks
    refine ⟨fun hm hroom => congrArg _ (feedStep_marker hm hroom), fun hm hheld hdue hroom => congrArg _ (feedStep_word hm hheld hdue hroom),
      fun s1 b hm hshort hmore hmay hgather hindex => congrArg _ (feedStep_read hm hshort hmore hmay hgather (hsub ▸ hindex)),
      fun hm hover hnone => ?_⟩
    rw [feedStep_end hm hover hnone, feedEnd]
    exact ⟨fun heos => by simp [heos], fun heos hroom => by simp [heos, hroom]⟩
  · rw [exec_sld, execSld, runSlot_works hworks, if_pos htgt, fillStep_runs hclaimed hready hrun]

/-! Commands that store. -/

theorem exec_of_storingEvents {p : (Nat → Nat → Instr) × Nat} (h : p ∈ storingEvents) {s : State} {tile slot : Nat} {a : ActiveCmd}
    (hworks : Works s tile slot a p.2) : exec (p.1 tile slot) s = .next (storeStep tile slot s a) := by
  simp only [storingEvents, List.mem_cons, List.not_mem_nil, or_false] at h
  rcases h with rfl | rfl
  · rw [exec_sst, execSst, runSlot_works hworks]
  · rw [exec_ssct, execSsct, runSlot_works hworks]

section
variable {s : State} {tile slot : Nat} {a : ActiveCmd}

/-- A command that waits for its token ends there, and discards what comes before it. -/
theorem awaitToken_other {x : Item} (result : Nat) (hx : x ≠ .eos) (hhead : canTake (tileOf s tile) (scPort a.cmd.tmpl) a.cmd.id = some x) :
    awaitToken tile slot s a result = takePort s tile (scPort a.cmd.tmpl) := by
  rw [awaitToken, hhead]
  cases x with
  | eos => exact absurd rfl hx
  | _ => rfl

theorem storeStep_awaits (hawait : a.awaitEos = true) : storeStep tile slot s a = awaitToken tile slot s a a.k := by
  simp [storeStep, hawait]

theorem storeStep_over (hawait : a.awaitEos = false) (hover : actCount a ≤ a.k) :
    storeStep tile slot s a = takeEnd tile slot s { a with buf := [] } a.k := by
  simp [storeStep, hawait, hover]

theorem storeStep_index (hawait : a.awaitEos = false) (hmore : a.k < actCount a) (hsub : cmdSub a.cmd = 3) (hidx : a.idx = []) :
    storeStep tile slot s a = nextIndex s tile slot a := by
  simp [storeStep, hawait, Nat.not_le.mpr hmore, hsub, hidx]

/-- An SST, or an SSCT that holds an index, writes the elements that it holds. -/
theorem storeStep_writes {s1 : State} {b : ActiveCmd} (hawait : a.awaitEos = false) (hmore : a.k < actCount a)
    (hidx : a.idx ≠ [] ∨ cmdSub a.cmd = 1) (hfull : actElem a ≤ a.buf.length) (hrun : scatter tile slot 64 s a = (s1, b, none)) :
    storeStep tile slot s a = putActive s1 tile slot b := by
  have hindexed : (cmdSub a.cmd == 3 && a.idx.isEmpty) = false := by rcases hidx with h | h <;> simp [h]
  simp [storeStep, hawait, Nat.not_le.mpr hmore, hindexed, hfull, hrun]

/-- Without a whole element it takes what its port offers: a word, or the token that ends it. -/
theorem storeStep_takes {x : Item} (hawait : a.awaitEos = false) (hmore : a.k < actCount a) (hidx : a.idx ≠ [] ∨ cmdSub a.cmd = 1)
    (hshort : a.buf.length < actElem a) (hhead : canTake (tileOf s tile) (scPort a.cmd.tmpl) a.cmd.id = some x) :
    (∀ w, x = .word w → storeStep tile slot s a =
      putActive (takePort s tile (scPort a.cmd.tmpl)) tile slot { a with buf := lineBytes w }) ∧
    (x = .eos → storeStep tile slot s a = endAt s tile slot a (scPort a.cmd.tmpl) a.k) := by
  have hindexed : (cmdSub a.cmd == 3 && a.idx.isEmpty) = false := by rcases hidx with h | h <;> simp [h]
  refine ⟨fun w hw => ?_, fun heos => ?_⟩
  · subst hw
    simp [storeStep, hawait, Nat.not_le.mpr hmore, hindexed, Nat.not_le.mpr hshort, hhead]
  · subst heos
    simp [storeStep, hawait, Nat.not_le.mpr hmore, hindexed, Nat.not_le.mpr hshort, hhead]

end

theorem storeCommandsTakeWordsAndWriteElements : StoreCommandsTakeWordsAndWriteElements := by
  intro p hp s tile slot a hworks
  rw [exec_of_storingEvents hp hworks]
  obtain ⟨-, hsub, -, -, -, -⟩ := hworks
  refine ⟨fun hawait hmore => ⟨fun h3 hidx => ?_, fun hidx => ?_⟩, fun hawait hover => ⟨fun hfree => ?_, fun heos hlimit => ?_⟩,
    fun hawait => ⟨fun hhead => ?_, fun x hx hhead => ?_⟩⟩
  · rw [storeStep_index hawait hmore (hsub.trans h3) hidx]
  · rw [← hsub] at hidx
    exact ⟨fun w hshort hhead => congrArg _ ((storeStep_takes hawait hmore hidx hshort hhead).1 w rfl),
      fun hshort hhead => congrArg _ ((storeStep_takes hawait hmore hidx hshort hhead).2 rfl),
      fun s1 b hfull hrun => congrArg _ (storeStep_writes hawait hmore hidx hfull hrun)⟩
  · rw [storeStep_over hawait hover, takeEnd, if_neg]
    rcases hfree with h | h <;> simp [h]
  · rw [storeStep_over hawait hover, takeEnd, if_pos]
    simp [heos, hlimit]
  · rw [storeStep_awaits hawait, awaitToken, hhead]
  · rw [storeStep_awaits hawait, awaitToken_other a.k hx hhead]

/-- Settles O45: a command that works makes one step of its kind, and each clause is a branch of that step. -/
theorem slotCommandsLoadAndStoreWords : Obligations.SlotCommandsLoadAndStoreWords :=
  ⟨queuedCommandsStartInOrder, loadCommandsFeedWholeWords, elementsAreHandledInOrder, indicesComeFromMemoryOrAPort,
    storeCommandsTakeWordsAndWriteElements⟩

end Sys2Proof.Proofs
end

/-! PROOFS. The array: the steps of a region change their own tile, a ready group fires, and a region settles, freezes or times out (R110,
R113, R117, R238 to R241, R255, R259, R260). -/
section

namespace Sys2Proof.Proofs

open Sys2Proof Sys2Proof.Machine Sys2Proof.Claims

/-! Steps that write one tile. -/

/-- Nothing but a tile has changed. -/
def WritesTile (tile : Nat) (s t : State) : Prop := ∃ x, t = setTile s tile x

theorem WritesTile.keeps {tile : Nat} {s t : State} (h : WritesTile tile s t) :
    t.mem = s.mem ∧ t.fe = s.fe ∧ ∀ u, u ≠ tile → tileOf t u = tileOf s u := by
  obtain ⟨x, rfl⟩ := h
  exact ⟨rfl, rfl, fun u hu => tileOf_setTile_other s tile u x hu⟩

theorem writesTile_of_map {α : Type} {tile : Nat} {s t : State} {f : α → Tile} {o : Option α}
    (h : (o.map fun a => setTile s tile (f a)) = some t) : WritesTile tile s t := by
  obtain ⟨a, -, rfl⟩ := Option.map_eq_some_iff.mp h
  exact ⟨_, rfl⟩

theorem fireGroup_writesTile {s t : State} {tile n g : Nat} (h : fireGroup s tile n g = some t) : WritesTile tile s t := by
  unfold fireGroup at h
  dsimp only at h
  split at h
  · cases h
  · exact writesTile_of_map h

theorem takeMarker_writesTile {s t : State} {tile n g i : Nat} (h : takeMarker s tile n g i = some t) : WritesTile tile s t := by
  unfold takeMarker at h
  dsimp only at h
  split at h
  · cases h
  · split at h
    · cases h
    · split at h
      · split at h
        · split at h
          · exact ⟨_, (Option.some.inj h).symm⟩
          · cases h
        · exact ⟨_, (Option.some.inj h).symm⟩
      · cases h

theorem takeEos_writesTile {s t : State} {tile n g : Nat} (h : takeEos s tile n g = some t) : WritesTile tile s t := by
  obtain ⟨-, hnext⟩ := Option.ite_none_left_eq_some.mp h
  exact ⟨_, (Option.some.inj hnext).symm⟩

/-! Converters: a step writes its tile, or rejects its marker (R113). -/

/-- The marker in force in a converter gives no formats that it may use. -/
def Rejects (s : State) (tile n v : Nat) : Prop :=
  swOp (cellWord (regionAt s tile n).cellRecs v 0) ≠ 0 ∧
    convResolves (convMarker tile (mget (regionAt s tile n).convs v {})) (cellWord (regionAt s tile n).cellRecs v 0) = false

/-- What a step of a converter may leave: its tile written, or its marker rejected. -/
def ConvSteps (s : State) (tile n v : Nat) (o : Option State) : Prop :=
  ∀ t, o = some t → WritesTile tile s t ∨ (Rejects s tile n v ∧ t = convReject s tile n v)

section
variable {s : State} {tile n v : Nat}

theorem convSteps_none : ConvSteps s tile n v none := fun _ h => nomatch h

theorem convSteps_put (t : Tile) (r : Region) (c : ConvSt) : ConvSteps s tile n v (some (putConv s tile n v t r c)) :=
  fun _ h => .inl ⟨_, (Option.some.inj h).symm⟩

theorem convSteps_ite {c : Prop} [Decidable c] {a b : Option State} (ha : ConvSteps s tile n v a) (hb : ConvSteps s tile n v b) :
    ConvSteps s tile n v (if c then a else b) := by
  split
  · exact ha
  · exact hb

theorem convSteps_reject (h : Rejects s tile n v) : ConvSteps s tile n v (some (convReject s tile n v)) :=
  fun _ e => .inr ⟨h, (Option.some.inj e).symm⟩

theorem convSteps_take : ConvSteps s tile n v (convTake s tile n v) := by
  unfold convTake
  extract_lets t r w c prim outs
  cases nextItem t r (swA w) with
  | none => exact convSteps_none
  | some item =>
    cases item with
    | word x =>
      dsimp only
      split
      · next hrejects => exact convSteps_reject ⟨hrejects.1, (Bool.not_eq_true' _).mp hrejects.2⟩
      · refine convSteps_ite ?_ (convSteps_put _ _ _)
        split
        · exact convSteps_put _ _ _
        · exact convSteps_none
    | marker m => exact convSteps_ite (convSteps_put _ _ _) (convSteps_ite (convSteps_put _ _ _) convSteps_none)
    | eos => exact convSteps_ite (convSteps_put _ _ _) (convSteps_ite (convSteps_put _ _ _) convSteps_none)
    | snap => exact convSteps_none

theorem convSteps_step : ConvSteps s tile n v (convStep s tile n v) := by
  unfold convStep
  extract_lets t r w c prim
  exact convSteps_ite convSteps_none (convSteps_ite (convSteps_put _ _ _) (convSteps_ite (convSteps_ite (convSteps_put _ _ _) convSteps_none)
    (convSteps_ite (convSteps_ite (convSteps_put _ _ _) (convSteps_ite (convSteps_put _ _ _) convSteps_none)) convSteps_take)))

end

/-! What a rejection leaves of memory: it ends commands, and none of them writes. -/

theorem foldl_mem {α : Type} {f : State → α → State} (h : ∀ s a, (f s a).mem = s.mem) (l : List α) (s : State) :
    (l.foldl f s).mem = s.mem := by
  induction l generalizing s with
  | nil => rfl
  | cons a l ih => exact (ih _).trans (h s a)

theorem leaveAll_mem (s : State) (c : Cmd) : (leaveAll s c).mem = s.mem := foldl_mem (fun _ _ => setTile_mem ..) _ s

theorem freeDrained_mem (s : State) (cl n : Nat) : (freeDrained s cl n).mem = s.mem := by
  unfold freeDrained
  split <;> rfl

theorem settleFill_mem (s : State) (c : Cmd) (ok : Bool) : (settleFill s c ok).mem = s.mem := by
  unfold settleFill
  split
  · rfl
  · exact freeDrained_mem ..

theorem closeCmd_mem (s : State) (tile slot : Nat) (c : Cmd) (status : BitVec 8) (result : Nat) :
    (closeCmd s tile slot c status result).mem = s.mem :=
  (settleFill_mem ..).trans ((leaveAll_mem ..).trans (onSection_mem ..))

theorem cancelCmd_mem (tile slot : Nat) (status : BitVec 8) (s : State) (c : Cmd) : (cancelCmd tile slot status s c).mem = s.mem := by
  unfold cancelCmd
  split
  · rfl
  · exact closeCmd_mem ..

theorem failActive_mem (s : State) (tile slot : Nat) (a : ActiveCmd) (status : BitVec 8) (prog : Nat) :
    (failActive s tile slot a status prog).mem = s.mem :=
  (foldl_mem (cancelCmd_mem tile slot status) _ _).trans (closeCmd_mem ..)

theorem scrubDropped_mem (s : State) (n : Nat) : (scrubDropped s n).mem = s.mem := by
  unfold scrubDropped
  dsimp only
  split <;> rfl

theorem endRejected_mem (s : State) (f : Feeding) : (endRejected s f).mem = s.mem := by
  cases f with
  | slot t n a => exact failActive_mem ..
  | sprv t n c => rfl
  | cask cl c => exact scrubDropped_mem ..

theorem convReject_mem (s : State) (tile n v : Nat) : (convReject s tile n v).mem = s.mem := by
  unfold convReject
  dsimp only
  split
  · exact endRejected_mem ..
  · rfl

/-! A region that neither runs, nor is racked or frozen. -/

theorem regionActs_idle {r : Region} (hrun : r.state ≠ .running) (hrack : r.state ≠ .racking) (hfreeze : r.state ≠ .freezing) :
    regionActs r = false := by
  simp [regionActs, hrun, hrack, hfreeze]

section
variable {s : State} {tile n : Nat} (hidle : regionActs (regionAt s tile n) = false)
include hidle

theorem fireGroup_idle (g : Nat) : fireGroup s tile n g = none := by simp [fireGroup, hidle]

theorem takeEos_idle (g : Nat) : takeEos s tile n g = none := by simp [takeEos, hidle]

theorem convStep_idle (v : Nat) : convStep s tile n v = none := by simp [convStep, hidle]

end

theorem arrayStepsChangeOnlyTheirTile : ArrayStepsChangeOnlyTheirTile := by
  refine ⟨fun s t tile region g h => ⟨?_, (fireGroup_writesTile h).keeps⟩, fun s t tile region g i h => ⟨?_, (takeMarker_writesTile h).keeps⟩,
    fun s t tile region g h => ⟨?_, (takeEos_writesTile h).keeps⟩, fun s t tile region v h => ⟨?_, ?_⟩,
    fun s tile region g hrun hrack hfreeze => ?_⟩
  · rw [exec_groupFire, execGroupFire, h, Option.getD_some]
  · rw [exec_formatMarkerTake, execFormatMarkerTake, h, Option.getD_some]
  · rw [exec_endOfStream, execEndOfStream, h, Option.getD_some]
  · rw [exec_converterConvert, execConverterConvert, h, Option.getD_some]
  · rcases convSteps_step t h with hwrites | ⟨⟨hop, hbad⟩, rfl⟩
    · obtain ⟨hmem, hfe, htiles⟩ := hwrites.keeps
      exact ⟨hmem, fun _ => ⟨hfe, htiles⟩⟩
    · refine ⟨convReject_mem .., fun hgood => ?_⟩
      rcases hgood with hgood | hgood
      · exact absurd hgood hop
      · exact absurd hgood (by simp [hbad])
  · have hidle := regionActs_idle hrun hrack hfreeze
    rw [exec_groupFire, execGroupFire, fireGroup_idle hidle, exec_endOfStream, execEndOfStream, takeEos_idle hidle, exec_converterConvert,
      execConverterConvert, convStep_idle hidle]
    exact ⟨rfl, rfl, rfl⟩

/-! Port FIFOs by code (R234). -/

section
variable {t : Tile} {r : Region} {p : Nat} (hp : p < 16)
include hp

theorem srcItems_port : srcItems t r (0x10 + p) = (ipOf t p).items := by
  have h40 : ¬ 0x40 ≤ 0x10 + p := by omega
  have h20 : ¬ 0x20 ≤ 0x10 + p := by omega
  simp [srcItems, h40, h20]

theorem putSrc_port (xs : List Item) : putSrc t r (0x10 + p) xs = (setIp t p { ipOf t p with items := xs }, r) := by
  have h40 : ¬ 0x40 ≤ 0x10 + p := by omega
  have h20 : ¬ 0x20 ≤ 0x10 + p := by omega
  simp [putSrc, h40, h20]

theorem dstRoom_port (n : Nat) : dstRoom t r (0x10 + p) n = decide (places (opOf t p).items + n ≤ 4) := by
  have h40 : ¬ 0x40 ≤ 0x10 + p := by omega
  have h20 : ¬ 0x20 ≤ 0x10 + p := by omega
  simp [dstRoom, h40, h20]

theorem putDst_port (w : Line) : putDst t r (0x10 + p) (.word w) = (setOp t p (pushItem (opOf t p) (.word w)), r) := by
  have h40 : ¬ 0x40 ≤ 0x10 + p := by omega
  have h20 : ¬ 0x20 ≤ 0x10 + p := by omega
  simp [putDst, h40, h20]

end

/-! The firing of a group with one stage, one input port and one output port (R238). -/

section
variable {t : Tile} {r : Region} {x : GroupSt} {st : StageRef} {p o : Nat} {w : Line} {rest : List Item}

/-- The word at the head of an input port of a running region, where the group holds none. -/
theorem nextItem_port (hp : p < 16) (hrun : r.state = .running) (hitems : (ipOf t p).items = .word w :: rest) :
    nextItem t r (0x10 + p) = some (.word w) := by
  simp [nextItem, mayTake, hrun, srcItems_port hp, hitems]

theorem inputWord_port (hp : p < 16) (hrun : r.state = .running) (hheld : mget? x.held (0x10 + p) = none)
    (hitems : (ipOf t p).items = .word w :: rest) : inputWord t r x (0x10 + p) = some w := by
  simp only [inputWord, hheld, nextItem_port hp hrun hitems]

theorem spendInput_port (hp : p < 16) (hrun : r.state = .running) (hheld : mget? x.held (0x10 + p) = none)
    (hitems : (ipOf t p).items = .word w :: rest) : spendInput t r x (0x10 + p, 0) = (setIp t p { ipOf t p with items := rest }, r, x) := by
  simp [spendInput, hheld, nextItem_port hp hrun hitems, dropSrc, srcItems_port hp, hitems, putSrc_port hp]

/-- A source field of a port reads the port's word. -/
theorem laneSrc_port (inp : Nat → List Nat) (st : StageRef) (prev q : List Nat) (p : Nat) :
    laneSrc inp st prev q (0x10 + p) = inp (0x10 + p) := by
  unfold laneSrc
  split
  case h_6 => rfl
  all_goals omega

/-- One stage that reads a word at a port and sends its own to a port. -/
theorem runStages_one {tile : Nat} {key : Word} {inp : Nat → List Nat} (q : FMap Line) (hout : swOut st.w = 0x10 + o)
    (ha : swA st.w = 0x10 + p) (hb : swB st.w = 0) (hc : swC st.w = 0) (line : Line)
    (hline : lineOfLanes (wordOp st.w (stageRm x st.w) { c0 := x.fires % 2 ^ 32, c3 := stageC3 tile st.v st.j, key := key } (inp (0x10 + p))
      (List.replicate 16 0) (List.replicate 16 0)) = line) :
    runStages tile key x inp [st] [] q [] = (mset q st.j line, [(0x10 + o, line)]) := by
  have hzero (prev old : List Nat) : laneSrc inp st prev old 0 = List.replicate 16 0 := rfl
  have hsends : ¬ 0x10 + o = 0 := by omega
  simp only [runStages, hout, ha, hb, hc, laneSrc_port, hzero, hline, if_neg hsends, List.nil_append]

theorem fireCompute_one {tile : Nat} {key : Word} (hp : p < 16) (ho : o < 16) (hrun : r.state = .running)
    (hins : groupInputs [st] = [(0x10 + p, 0)]) (hheld : mget? x.held (0x10 + p) = none) (hitems : (ipOf t p).items = .word w :: rest)
    (houts : groupOutputs [st] = [0x10 + o]) (hout : swOut st.w = 0x10 + o) (ha : swA st.w = 0x10 + p) (hb : swB st.w = 0)
    (hc : swC st.w = 0) (hroom : places (opOf t o).items < 4) (line : Line)
    (hline : lineOfLanes (wordOp st.w (stageRm x st.w) { c0 := x.fires % 2 ^ 32, c3 := stageC3 tile st.v st.j, key := key } (laneList w)
      (List.replicate 16 0) (List.replicate 16 0)) = line) :
    fireCompute tile key t r x [st] =
      some (setOp (setIp t p { ipOf t p with items := rest }) o (pushItem (opOf t o) (.word line)), r,
        { x with q := mset x.q st.j line, fires := x.fires + 1 }) := by
  have hword := inputWord_port hp hrun hheld hitems
  have hspace : places (opOf t o).items + 1 ≤ 4 := hroom
  have hstage := runStages_one (tile := tile) (key := key) (x := x) (inp := fun code => laneList ((inputWord t r x code).getD 0)) x.q hout ha hb
    hc line (by rw [hword, Option.getD_some]; exact hline)
  simp only [fireCompute, hins, houts, List.all_cons, List.all_nil, hword, Option.isSome_some, dstRoom_port ho, hspace, decide_true,
    Bool.and_self, if_true, hstage, List.foldl_cons, List.foldl_nil, spendInput_port hp hrun hheld hitems, putDst_port ho]
  rfl

end

theorem regionAt_setTile (s : State) (tile n : Nat) (x : Tile) : regionAt (setTile s tile x) tile n = mget x.regions n {} := by
  rw [regionAt, tileOf_setTile_same]

theorem readyGroupsFire : ReadyGroupsFire := by
  intro s tile n g p o w rest t r x st res ht hr hx hst htyp hrun haligned hp ho hins hheld hitems houts hout ha hb hc hroom hres
  have hfire := fireCompute_one (tile := tile) (key := srKey s tile) hp ho hrun hins hheld hitems houts hout ha hb hc hroom (lineOfLanes res)
    (by rw [hres])
  have hacts : regionActs r = true := by simp [regionActs, hrun]
  have hfired : fireGroup s tile n g = some (setTile s tile
      { setOp (setIp t p { ipOf t p with items := rest }) o (pushItem (opOf t o) (.word (lineOfLanes res))) with
        regions := mset t.regions n { r with groups := mset r.groups g { x with q := mset x.q st.j (lineOfLanes res), fires := x.fires + 1 } } }) := by
    have hready : ([st].isEmpty || !regionActs r || groupAligned r g) = false := by rw [groupAligned, haligned, hacts]; rfl
    have hcompute : ¬ r.typ = .reducer := by simp [htyp]
    simp only [fireGroup, ht, hr, hst, hx, hready, Bool.false_eq_true, if_false, if_neg hcompute, hfire, Option.map_some]
    rfl
  refine ⟨_, by rw [exec_groupFire, execGroupFire, hfired, Option.getD_some], ?_⟩
  rw [regionAt_setTile, tileOf_setTile_same]
  refine ⟨?_, ?_, ?_, ?_⟩ <;> simp [ipOf, opOf, setIp, setOp, pushItem]

/-! Regions that settle, freeze or time out. -/

/-- A region that has been read out is FROZEN, and its image is kept (R259). -/
theorem readOut_frozen (s : State) (tile n : Nat) : (regionAt (readOut s tile n).1 tile n).state = .frozen ∧
    (mget? (readOut s tile n).1.images (readOut s tile n).2).isSome = true := by
  constructor
  · simp [readOut, regionAt, tileOf, setTile]
  · simp [readOut]

theorem execKilnWaveComplete_frozen {s s1 : State} {tile region : Nat} (hstate : (regionAt s tile region).state = .freezing)
    (halign : alignAll (insertSnaps s tile region) tile region = s1) (hall : waveAligned (regionAt s1 tile region) = true)
    (hover : tasksOver s1 tile (regionAt s1 tile region) = true) (hfree : (tileOf (readOut s1 tile region).1 tile).cfg = none) :
    execKilnWaveComplete tile region s = .next (readOut s1 tile region).1 := by
  simp [execKilnWaveComplete, hstate, halign, hall, hover, hfree]

/-- The configuration unit's note that a region has settled changes no region. -/
theorem cfgSettled_keeps (s : State) (tile n : Nat) : (∀ m, regionAt (cfgSettled s tile n) tile m = regionAt s tile m) ∧
    (cfgSettled s tile n).mem = s.mem ∧ (cfgSettled s tile n).fe = s.fe := by
  unfold cfgSettled
  dsimp only
  split
  · split
    · exact ⟨fun m => regionAt_setTile .., rfl, rfl⟩
    · exact ⟨fun _ => rfl, rfl, rfl⟩
  · exact ⟨fun _ => rfl, rfl, rfl⟩

/-- A wave that timed out leaves its region marked, in the state that it had before (R260). -/
theorem timeoutRegion_marks {t : Tile} {n : Nat} (h : (mget t.regions n {}).state = .freezing) :
    (mget (timeoutRegion t n).regions n {}).kto = true ∧ (mget (timeoutRegion t n).regions n {}).state ≠ .freezing := by
  have hback : ∀ b : Bool, (if b then RegionState.running else .stopped) ≠ .freezing := by decide
  simp only [timeoutRegion, quitWave, clearSnaps, mget_mset_same, unhold, h, or_true, if_true]
  exact ⟨trivial, hback _⟩

theorem execKilnTimeout_late {s : State} {tile region : Nat} (hstate : (regionAt s tile region).state = .freezing)
    (hown : (regionAt s tile region).waveByFe = false) (hlate : (regionAt s tile region).waveStart + kilnLimit s tile ≤ s.fab) :
    execKilnTimeout tile region s = .next (cfgSettled (setTile (postTimeout s tile region) tile
      (timeoutRegion (tileOf (postTimeout s tile region) tile) region)) tile region) := by
  have hopen : waveLate s tile region = true := by
    have hstate' : (mget (tileOf s tile).regions region {}).state = .freezing := hstate
    simp only [waveLate, waveOpen, hstate', hlate, beq_self_eq_true, Bool.true_or, decide_true, Bool.and_self]
  simp [execKilnTimeout, hopen, hown]

theorem regionsSettleFreezeOrTimeOut : RegionsSettleFreezeOrTimeOut := by
  refine ⟨fun s tile region u hcfg hstate hin hnot hquiet => ?_, fun s s1 tile region hstate halign hall hover hfree => ⟨?_, readOut_frozen ..⟩,
    fun s tile region hstate hown hlate => ?_⟩
  · rw [exec_settleReport]
    simp only [execSettleReport, hcfg]
    exact if_pos ⟨.inl ⟨hstate, hquiet⟩, hin, by rw [hnot, Bool.not_false]⟩
  · exact (exec_kilnWaveComplete ..).trans (execKilnWaveComplete_frozen hstate halign hall hover hfree)
  · obtain ⟨hregions, hmem, hfe⟩ := cfgSettled_keeps (setTile (postTimeout s tile region) tile
      (timeoutRegion (tileOf (postTimeout s tile region) tile) region)) tile region
    obtain ⟨hkto, hback⟩ := timeoutRegion_marks (t := tileOf (postTimeout s tile region) tile) (n := region) hstate
    refine ⟨_, { offerFor s tile .k .kilnTimeout 6 with unit := region },
      (exec_kilnTimeout ..).trans (execKilnTimeout_late hstate hown hlate), ?_, ?_, hmem, congrArg (·.offers) hfe, rfl, rfl⟩
    · rw [hregions, regionAt_setTile, hkto]
    · rw [hregions, regionAt_setTile]
      exact hback

/-- Settles O48: a step of a region writes its tile or rejects a marker, a firing is computed piece by piece, and each wave's end is read
off the event that ends it. -/
theorem arrayRegionsStepSettleAndFreeze : Obligations.ArrayRegionsStepSettleAndFreeze :=
  ⟨arrayStepsChangeOnlyTheirTile, readyGroupsFire, regionsSettleFreezeOrTimeOut⟩

end Sys2Proof.Proofs
end

/-! PROOFS. Tokens of TKW and TKS, which move together. -/
section

namespace Sys2Proof.Proofs

open Sys2Proof Sys2Proof.Machine Sys2Proof.Claims

/-! TKW and TKS (R157). -/

section
variable {o : FormTk} {s : State} {n k : Nat}

theorem exec_tkw_pops (hissues : Issues s o.tk) (hn : o.n1.toNat + 1 = n) (hk : (if (if o.right then tkWR o.tk else tkWL o.tk) then 1 else 0) = k)
    (henough : n + k ≤ tokens (cur s) o.right) : exec (.tkw o) s = .next (goesOn s (popTokens (popped s o.tk) o.right n) o.tk) := by
  subst hn hk
  refine issue_ok (canIssue_of_issues hissues) ?_
  simp only [tokensReady_of_issues hissues, chk_bind_ok, waitFor_true (decide_eq_true henough)]

theorem exec_tks_pushes (hissues : Issues s o.tk) (hn : o.n1.toNat + 1 = n) (hk : (if (if o.right then tkSR o.tk else tkSL o.tk) then 1 else 0) = k)
    (hroom : pushedTokens s s.curTile s.curStrm o.right + n + k ≤ 8) :
    exec (.tks o) s = .next (retire (pushN (setCur s (popped s o.tk)) s.curTile s.curStrm o.right n) o.tk .seq) := by
  subst hn hk
  refine issue_ok (canIssue_of_issues hissues) ?_
  simp only [tokensReady_of_issues hissues, chk_bind_ok, need_true (decide_eq_true hroom)]

/-- A TKS without room for all of its tokens traps with their number, and nothing else has changed. -/
theorem exec_tks_over (hissues : Issues s o.tk) (hn : o.n1.toNat + 1 = n) (hk : (if (if o.right then tkSR o.tk else tkSL o.tk) then 1 else 0) = k)
    (hfull : 8 < pushedTokens s s.curTile s.curStrm o.right + n + k) :
    exec (.tks o) s = .next (takeTrap s .tokenOver (BitVec.ofNat 64 n) (cur s).pc) := by
  subst hn hk
  refine issue_trap (canIssue_of_issues hissues) ?_
  simp only [tokensReady_of_issues hissues, chk_bind_ok, need_false (decide_eq_false (Nat.not_le.mpr hfull))]
  rfl

end

/-- Settles O28: each word passes its one test of its neighbour's FIFO, or of its own, and moves its tokens in one step. -/
theorem tokenWordsMoveTheirTokensTogether : Obligations.TokenWordsMoveTheirTokensTogether := by
  refine ⟨fun o s hissues henough => ⟨exec_tkw_pops hissues rfl rfl henough, ?_⟩,
    fun o s hissues hroom => ⟨exec_tks_pushes hissues rfl rfl hroom, ?_⟩, fun o s hissues hfull => exec_tks_over hissues rfl rfl hfull⟩
  · rw [tokens_popTokens, tokens_popBits, if_pos rfl]
    cases o.right <;> simp only [Bool.false_eq_true, if_false, if_true] <;> omega
  · rw [pushedTokens_pushN_same, setCur, pushedTokens_setStrm_own]

end Sys2Proof.Proofs
end

/-! PROOFS. Queue registers: their words, and the replies that reach them. -/
section

namespace Sys2Proof.Proofs

open Sys2Proof Sys2Proof.Machine Sys2Proof.Claims

/-! The words of a queue register (R158 to R161). -/

section
variable {o : FormQPop} {s : State}

theorem exec_qpop_held {w : Word} {rest : List Word} (hissues : Issues s o.tk) (hd : Writes s o.d)
    (hheld : (qreg (cur s) o.q.toNat).held = w :: rest) :
    exec (.qpop o) s = .next (goesOn s (putReg (setQreg (learn (popped s o.tk) (headKnow (qreg (cur s) o.q.toNat))) o.q.toNat
        { qreg (cur s) o.q.toNat with held := rest, know := (qreg (cur s) o.q.toNat).know.drop 1 }) o.d w) o.tk) := by
  refine issue_ok (canIssue_of_issues hissues) ?_
  simp only [tokensReady_of_issues hissues, destReady_of_writes hd, chk_bind_ok, hheld, dropHead, List.drop_one, List.tail_cons]

theorem exec_qpeek_held {w : Word} {rest : List Word} (hissues : Issues s o.tk) (hd : Writes s o.d)
    (hheld : (qreg (cur s) o.q.toNat).held = w :: rest) :
    exec (.qpeek o) s = .next (goesOn s (putReg (learn (popped s o.tk) (headKnow (qreg (cur s) o.q.toNat))) o.d w) o.tk) := by
  refine issue_ok (canIssue_of_issues hissues) ?_
  simp only [tokensReady_of_issues hissues, destReady_of_writes hd, chk_bind_ok, hheld]

/-- The two words on an empty register that owes nothing unclaimed, or under the trap bit: QUNDER (R159, R160). -/
theorem exec_qpop_qpeek_under (hissues : Issues s o.tk) (hd : Writes s o.d) (hnone : (qreg (cur s) o.q.toNat).held = [])
    (hunder : o.t = true ∨ freeOwed (qreg (cur s) o.q.toNat) = 0) :
    exec (.qpeek o) s = .next (takeTrap s .qunder 0 (cur s).pc) ∧ exec (.qpop o) s = .next (takeTrap s .qunder 0 (cur s).pc) := by
  have hneed : need (!(o.t || freeOwed (qreg (cur s) o.q.toNat) == 0)) .qunder 0 = .error (.trap .qunder 0) :=
    need_false (by rcases hunder with h | h <;> simp [h])
  constructor
  all_goals
    refine issue_trap (canIssue_of_issues hissues) ?_
    simp only [tokensReady_of_issues hissues, destReady_of_writes hd, chk_bind_ok, hnone, hneed]
    rfl

/-- An empty register that owes a reply makes QPEEK wait and QPOP claim it (R159, R160). -/
theorem exec_qpop_qpeek_owed (hissues : Issues s o.tk) (hd : Writes s o.d) (hnone : (qreg (cur s) o.q.toNat).held = [])
    (ht : o.t = false) (howed : 0 < freeOwed (qreg (cur s) o.q.toNat)) :
    exec (.qpeek o) s = .next s ∧
      exec (.qpop o) s = .next (goesOn s (clearFull (setQreg (popped s o.tk) o.q.toNat
        { qreg (cur s) o.q.toNat with claims := (qreg (cur s) o.q.toNat).claims ++ [physReg (cur s) o.d] }) (physReg (cur s) o.d)) o.tk) := by
  have hneed : need (!(o.t || freeOwed (qreg (cur s) o.q.toNat) == 0)) .qunder 0 = .ok () :=
    need_true (by simp [ht, howed.ne'])
  constructor
  · refine issue_stall ?_
    simp only [tokensReady_of_issues hissues, destReady_of_writes hd, chk_bind_ok, hnone, hneed]
  · refine issue_ok (canIssue_of_issues hissues) ?_
    simp only [tokensReady_of_issues hissues, destReady_of_writes hd, chk_bind_ok, hnone, hneed]

end

section
variable {o : FormQPush} {s : State} {b : Word}

theorem exec_qpush_appends (hissues : Issues s o.tk) (hb : Reads s o.b b)
    (hroom : (qreg (cur s) o.q.toNat).held.length + (qreg (cur s) o.q.toNat).owed < 4) (hnone : (qreg (cur s) o.q.toNat).claims = []) :
    exec (.qpush o) s = .next (goesOn s (setQreg (popped s o.tk) o.q.toNat (addWord (qreg (cur s) o.q.toNat) b {})) o.tk) := by
  refine issue_ok (canIssue_of_issues hissues) ?_
  simp only [tokensReady_of_issues hissues, readSrc_of_reads hb, chk_bind_ok, need_true (decide_eq_true hroom), hnone]

theorem exec_qpush_claimed {p : Nat} {rest : List Nat} (hissues : Issues s o.tk) (hb : Reads s o.b b)
    (hroom : (qreg (cur s) o.q.toNat).held.length + (qreg (cur s) o.q.toNat).owed < 4) (hclaim : (qreg (cur s) o.q.toNat).claims = p :: rest) :
    exec (.qpush o) s = .next (goesOn s (putPhys (setQreg (popped s o.tk) o.q.toNat
      { qreg (cur s) o.q.toNat with claims := rest }) p b) o.tk) := by
  refine issue_ok (canIssue_of_issues hissues) ?_
  simp only [tokensReady_of_issues hissues, readSrc_of_reads hb, chk_bind_ok, need_true (decide_eq_true hroom), hclaim]

theorem exec_qpush_over (hissues : Issues s o.tk) (hb : Reads s o.b b)
    (hfull : 4 ≤ (qreg (cur s) o.q.toNat).held.length + (qreg (cur s) o.q.toNat).owed) :
    exec (.qpush o) s = .next (takeTrap s .qover 0 (cur s).pc) := by
  refine issue_trap (canIssue_of_issues hissues) ?_
  simp only [tokensReady_of_issues hissues, readSrc_of_reads hb, chk_bind_ok, need_false (decide_eq_false (Nat.not_lt.mpr hfull))]
  rfl

end

theorem exec_qcnt_counts {o : FormQCnt} {s : State} (hissues : Issues s o.tk) (hd : Writes s o.d) :
    exec (.qcnt o) s = .next (goesOn s (putReg (popped s o.tk) o.d (BitVec.ofNat 64 ((qreg (cur s) o.q.toNat).held.length
      + freeOwed (qreg (cur s) o.q.toNat) * 2 ^ 8 + (qreg (cur s) o.q.toNat).claims.length * 2 ^ 16))) o.tk) := by
  refine issue_ok (canIssue_of_issues hissues) ?_
  simp only [tokensReady_of_issues hissues, destReady_of_writes hd, chk_bind_ok]

theorem queueWordsFollowTheirQueue : QueueWordsFollowTheirQueue :=
  ⟨fun _ _ _ _ hissues hd hheld => ⟨exec_qpop_held hissues hd hheld, exec_qpeek_held hissues hd hheld⟩,
    fun _ _ hissues hd hnone => ⟨exec_qpop_qpeek_under hissues hd hnone, exec_qpop_qpeek_owed hissues hd hnone⟩,
    fun _ _ _ hissues hb => ⟨exec_qpush_appends hissues hb, fun _ _ => exec_qpush_claimed hissues hb, exec_qpush_over hissues hb⟩,
    fun _ _ => exec_qcnt_counts⟩

/-! Replies (R70, R158). -/

@[simp] theorem qreg_setQreg (st : Stream) (n : Nat) (x : QReg) : qreg (setQreg st n x) n = x := mget_mset_same ..

theorem qreg_putPhys (st : Stream) (p n : Nat) (v : Word) : qreg (putPhys st p v) n = qreg st n := by rw [qreg, putPhys_q, qreg]

/-- What a delivered reply leaves of its queue register, and of the register of the claim that it fills. -/
theorem deliverReply_effect (st : Stream) (n : Nat) (w : Word) (k : Know) :
    ((qreg st n).claims = [] → (qreg (deliverReply st n w k) n).held = (qreg st n).held ++ [w] ∧
      (qreg (deliverReply st n w k) n).owed = (qreg st n).owed - 1) ∧
    ∀ p rest, (qreg st n).claims = p :: rest → (p ≠ 0 → regAt (deliverReply st n w k) p = { val := w }) ∧
      (qreg (deliverReply st n w k) n).claims = rest ∧ (qreg (deliverReply st n w k) n).held = (qreg st n).held := by
  refine ⟨fun hnone => ?_, fun p rest hclaim => ?_⟩
  · simp [deliverReply, hnone, addWord]
  · refine ⟨fun hp => ?_, ?_⟩
    · simp [deliverReply, hclaim, regAt_putPhys, hp]
    · simp [deliverReply, hclaim, qreg_putPhys]

theorem replyTurn_eq_true {s : State} {n : Nat} {r : Reply} :
    replyTurn s n r = true ↔ ∀ x ∈ s.replies.take n, ¬ (x.tile = r.tile ∧ x.strm = r.strm ∧ x.q = r.q ∧ x.job = r.job) := by
  simp [replyTurn]

theorem repliesReachTheirQueueRegister : RepliesReachTheirQueueRegister := by
  intro s n r hr
  refine ⟨fun ⟨x, hx, hsame⟩ => ?_, fun hfirst hlive => ?_⟩
  · have hturn : replyTurn s n r = false := Bool.eq_false_iff.mpr fun h => replyTurn_eq_true.mp h x hx hsame
    rw [exec_replyArrival]
    simp [execReplyArrival, hr, hturn]
  · refine ⟨setStrm { s with replies := ldrop s.replies n } r.tile r.strm (deliverReply (strmAt s r.tile r.strm) r.q r.word r.know), ?_,
      rfl, rfl, ?_⟩
    · have hupd := updStrm_live (s := { s with replies := ldrop s.replies n }) r.strm (fun st => deliverReply st r.q r.word r.know) hlive
      rw [exec_replyArrival]
      simp only [execReplyArrival, hr, replyTurn_eq_true.mpr hfirst, Bool.not_true, Bool.false_eq_true, if_false, hupd]
      rfl
    · rw [strmAt_setStrm_same]
      exact deliverReply_effect ..

/-- Settles O29: each word is decided by what its queue register holds, owes and claims, and a reply by its turn and the oldest claim. -/
theorem queueWordsKeepFirstInFirstOut : Obligations.QueueWordsKeepFirstInFirstOut :=
  ⟨queueWordsFollowTheirQueue, repliesReachTheirQueueRegister⟩

end Sys2Proof.Proofs
end

/-! PROOFS. Atomics at their ports: the values of R170, the word written where nothing is poisoned, and the lines that fail. -/
section

namespace Sys2Proof.Proofs

open Sys2Proof Sys2Proof.Machine Sys2Proof.Claims

/-! The values of R170, width by width. -/

theorem sextN_toNat {w : Nat} (x : BitVec w) : sextN w x.toNat = x.toInt := by
  rw [sextN, Nat.mod_eq_of_lt x.isLt, BitVec.toInt_eq_toNat_cond]
  simp

/-- What a port writes for an atomic of a width is the value of R170's table on words of that width. -/
theorem portNew_atomic (op : AtomicOp) {narrow : Bool} {w : Nat} (hw : (if narrow then 32 else 64) = w) (old : BitVec w) (b c : Word) :
    portNew (.atomic op narrow b c) old.toNat = (atomicNewValue w old (b.truncate w) (c.truncate w) op).map BitVec.toNat := by
  have hb : b.toNat % 2 ^ w = (b.truncate w).toNat := (BitVec.toNat_setWidth ..).symm
  have hc : c.toNat % 2 ^ w = (c.truncate w).toNat := (BitVec.toNat_setWidth ..).symm
  simp only [portNew, hw, hb, hc, sextN_toNat]
  generalize b.truncate w = v
  generalize c.truncate w = u
  cases op with
  | add => simp [atomicNewValue]
  | min | max => simp [atomicNewValue, BitVec.sle, apply_ite BitVec.toNat]
  | minz | maxz => simp [atomicNewValue, BitVec.le_def, apply_ite BitVec.toNat]
  | and => exact congrArg some (BitVec.toNat_and ..).symm
  | or => exact congrArg some (BitVec.toNat_or ..).symm
  | xor => exact congrArg some (BitVec.toNat_xor ..).symm
  | xch => rfl
  | cas =>
    by_cases h : old = u
    · simp [atomicNewValue, h]
    · simp [atomicNewValue, h, BitVec.toNat_inj]

/-- An old word of 32 bits is returned with zeros by AMINZ and AMAXZ, and with its sign by the others (R170). -/
theorem portReturn_narrow (op : AtomicOp) (old : BitVec 32) (b c : Word) :
    portReturn (.atomic op true b c) old.toNat = if op = .minz ∨ op = .maxz then old.zeroExtend 64 else old.signExtend 64 := by
  have hsign : BitVec.ofInt 64 (sextN 32 old.toNat) = old.signExtend 64 := by rw [sextN_toNat]; rfl
  have hzero : BitVec.ofNat 64 old.toNat = old.zeroExtend 64 := BitVec.ofNat_toNat ..
  cases op <;> simp [portReturn, hsign, hzero]

theorem atomicsReplaceTheirWord : AtomicsReplaceTheirWord := by
  refine ⟨fun op old b c => ⟨?_, BitVec.ofNat_toNat .. |>.trans (BitVec.setWidth_eq _)⟩,
    fun op old b c => ⟨portNew_atomic op (narrow := true) (w := 32) rfl old b c, portReturn_narrow op old b c⟩⟩
  simpa using portNew_atomic op (narrow := false) (w := 64) rfl old b c

/-! Words written at a port of a line that is not poisoned. -/

/-- A span within a line that is not poisoned meets no poison. -/
theorem poisonIn_of_clean_line {s : State} {a n : Nat} (hclean : spanPoisoned s (lineOf a * 64) 64 = false) (hin : a % 64 + n ≤ 64) :
    poisonIn s a n = [] := by
  have hline : lineOf a * 64 + a % 64 = a := Nat.div_add_mod' a 64
  simp only [spanPoisoned, List.any_eq_false, Bool.and_eq_true, decide_eq_true_eq, not_and] at hclean
  simp only [poisonIn, List.filter_eq_nil_iff, Bool.and_eq_true, decide_eq_true_eq, not_and]
  intro g hg hlow hhigh
  exact hclean g hg (by omega) (by omega)

/-- An aligned word whose width divides that of a line lies within its line. -/
theorem aligned_in_line {a n : Nat} (hdvd : n ∣ 64) (halign : a % n = 0) : a % 64 + n ≤ 64 := by
  obtain ⟨k, hk⟩ := hdvd
  have hmod : a % 64 % n = 0 := by rw [hk, Nat.mod_mul_right_mod, halign]
  obtain ⟨m, hm⟩ := Nat.dvd_of_mod_eq_zero hmod
  have hlt : n * m < n * k := by rw [← hm, ← hk]; exact Nat.mod_lt _ (by decide)
  have hmk : m + 1 ≤ k := Nat.lt_of_mul_lt_mul_left hlt
  calc a % 64 + n = n * (m + 1) := by rw [hm, Nat.mul_succ]
    _ ≤ n * k := Nat.mul_le_mul_left n hmk
    _ = 64 := hk.symm

/-- Bytes written where nothing is poisoned are read back, and every other byte is as before. -/
theorem writeAt_clean {s : State} (g : Agent) {p : Nat} {bs : List Byte} (hmem : MemInv s) (hclean : poisonIn s p bs.length = []) :
    readAt (writeAt s g p bs) p bs.length = bs ∧
      ∀ q, (q < p ∨ p + bs.length ≤ q) → memGet (writeAt s g p bs).mem q = memGet s.mem q := by
  refine ⟨readAt_writeAt g p bs hmem, fun q hq => ?_⟩
  rw [writeAt_mem s g p bs hclean, memGet_write_other hmem p q bs hq]

theorem readNat_of_mem {s t : State} {p n : Nat} (h : t.mem = s.mem) : readNat t p n = readNat s p n := by
  rw [readNat, readNat, readAt, readAt, h]

/-- A number written where nothing is poisoned is read back in its bytes, and every other byte is as before. -/
theorem writeNat_clean {s : State} (g : Agent) {p n : Nat} (v : Nat) (hmem : MemInv s) (hclean : poisonIn s p n = []) :
    readNat (writeNat s g p n v) p n = v % 2 ^ (8 * n) ∧
      ∀ q, (q < p ∨ p + n ≤ q) → memGet (writeNat s g p n v).mem q = memGet s.mem q := by
  obtain ⟨hread, hother⟩ := writeAt_clean g (p := p) (bs := leBytes n v) hmem (by rw [leBytes_length]; exact hclean)
  rw [leBytes_length] at hread hother
  exact ⟨by rw [readNat, writeNat, hread, leNat_leBytes], hother⟩

/-! An operation applied at its port (R172). -/

theorem sameOutside_mem {s t : State} (h : SameOutside s t) : t.mem = s.mem := by rw [h]

theorem sameOutside_ports {s t : State} (h : SameOutside s t) : t.ports = s.ports := by rw [h]

theorem WritesPort.ports_eq {s t : State} (h : WritesPort s t) : t.ports = s.ports := by rw [h]

theorem WritesPort.strmAt_eq {s t : State} (h : WritesPort s t) (u : Nat) (sk : Strm) : strmAt t u sk = strmAt s u sk := by
  rw [h]
  rfl

/-- The agent as which a port operation writes. -/
def portAgent (x : PortOp) : Agent :=
  { tile := x.tile, strm := x.strm, path := x.path, scope := x.scope, key := x.key, heads := x.heads, rmw := true }

/-- A write of a port operation's word, with the versions that it raises. -/
def wordWritten (s : State) (x : PortOp) (v : Nat) : State :=
  noteCollapse (writeNat (if x.watch then raiseSpan s (changedBy s x.addr (leBytes (portBytes x.kind) v)) else s) (portAgent x) x.addr
    (portBytes x.kind) v) (portAgent x) x.addr (portBytes x.kind)

/-- The ports once an operation has replaced its word, where it replaces it. -/
def portReplaced (s : State) (x : PortOp) : State :=
  ((portNew x.kind (readNat s x.addr (portBytes x.kind))).map (wordWritten s x)).getD s

/-- What the stream of a port operation learns by it: the old value on its way, the writes that it has read, and its count. -/
def portAnswered (s : State) (x : PortOp) (old : Nat) : State :=
  let s2 := returnOld s x (portReturn x.kind old) none
  countApplied (if x.path = .core then seenAt s2 x.tile x.strm x.addr (portBytes x.kind) s2.wnext else s2) x

theorem applyPort_eq (s : State) (x : PortOp) :
    applyPort s x = portAnswered (portReplaced s x) x (readNat s x.addr (portBytes x.kind)) := by
  unfold applyPort portReplaced
  dsimp only
  cases portNew x.kind (readNat s x.addr (portBytes x.kind)) <;> rfl

theorem portsOnly_raised (s : State) (w : Bool) (c : List Nat) : PortsOnly s (if w then raiseSpan s c else s) := by
  split
  · exact portsOnly_raiseSpan ..
  · exact .refl s

theorem raised_mem (s : State) (w : Bool) (c : List Nat) : (if w then raiseSpan s c else s).mem = s.mem := by
  split
  · exact raiseSpan_mem ..
  · rfl

theorem raised_poison (s : State) (w : Bool) (c : List Nat) : (if w then raiseSpan s c else s).poison = s.poison := by
  split
  · rw [raiseSpan_eq]
  · rfl

theorem writesPort_wordWritten (s : State) (x : PortOp) (v : Nat) : WritesPort s (wordWritten s x v) :=
  ((portsOnly_raised ..).trans (portsOnly_writeAt ..)).writesPort.trans (writesPort_noteCollapse ..)

theorem writesPort_portReplaced (s : State) (x : PortOp) : WritesPort s (portReplaced s x) := by
  unfold portReplaced
  cases portNew x.kind (readNat s x.addr (portBytes x.kind)) with
  | none => rfl
  | some v => exact writesPort_wordWritten ..

theorem sameOutside_returnOld (s : State) (x : PortOp) (v : Word) (m : Option Word) : SameOutside s (returnOld s x v m) := by
  unfold returnOld
  split <;> rfl

theorem sameOutside_countApplied (s : State) (x : PortOp) : SameOutside s (countApplied s x) := by
  unfold countApplied
  split <;> rfl

theorem sameOutside_portAnswered (s : State) (x : PortOp) (old : Nat) : SameOutside s (portAnswered s x old) := by
  have hold := sameOutside_returnOld s x (portReturn x.kind old) none
  refine SameOutside.trans ?_ (sameOutside_countApplied _ x)
  split
  · exact hold.trans (sameOutside_setStrm ..)
  · exact hold

/-- The value that an operation returns is the one that it found. -/
theorem landings_portAnswered {s : State} {x : PortOp} {r : Nat} (old : Nat) (hdest : x.dest = some r) :
    (strmAt (portAnswered s x old) x.tile x.strm).landings =
      (strmAt s x.tile x.strm).landings ++ [{ phys := r, val := portReturn x.kind old, kind := .load }] := by
  have hcount : ∀ u, countApplied u x = u := fun u => by simp [countApplied, hdest]
  simp only [portAnswered, hcount, returnOld, hdest]
  split
  · simp [seenAt, noteSeen, enter]
  · simp

/-- A word written over a span that is not poisoned is there afterwards, and no other byte has changed. -/
theorem wordWritten_clean {s : State} {x : PortOp} (v : Nat) (hmem : MemInv s) (hclean : poisonIn s x.addr (portBytes x.kind) = []) :
    readNat (wordWritten s x v) x.addr (portBytes x.kind) = v % 2 ^ (8 * portBytes x.kind) ∧
      ∀ q, (q < x.addr ∨ x.addr + portBytes x.kind ≤ q) → memGet (wordWritten s x v).mem q = memGet s.mem q := by
  obtain ⟨hread, hother⟩ := writeNat_clean
    (s := if x.watch then raiseSpan s (changedBy s x.addr (leBytes (portBytes x.kind) v)) else s) (portAgent x) v
    (by rw [MemInv, raised_mem]; exact hmem) (by rw [poisonIn, raised_poison]; exact hclean)
  rw [raised_mem] at hother
  have hkeep : (wordWritten s x v).mem = (writeNat (if x.watch then raiseSpan s (changedBy s x.addr (leBytes (portBytes x.kind) v)) else s)
      (portAgent x) x.addr (portBytes x.kind) v).mem := noteCollapse_mem ..
  refine ⟨?_, by rwa [hkeep]⟩
  rw [readNat_of_mem hkeep, hread]

/-- An operation on a span that is not poisoned replaces the word by its new value, where it has one, and no other byte. -/
theorem portReplaced_clean {s : State} {x : PortOp} (hmem : MemInv s) (hclean : poisonIn s x.addr (portBytes x.kind) = []) :
    (∀ v, portNew x.kind (readNat s x.addr (portBytes x.kind)) = some v →
      readNat (portReplaced s x) x.addr (portBytes x.kind) = v % 2 ^ (8 * portBytes x.kind)) ∧
    (portNew x.kind (readNat s x.addr (portBytes x.kind)) = none → (portReplaced s x).mem = s.mem) ∧
    ∀ q, (q < x.addr ∨ x.addr + portBytes x.kind ≤ q) → memGet (portReplaced s x).mem q = memGet s.mem q := by
  unfold portReplaced
  cases hnew : portNew x.kind (readNat s x.addr (portBytes x.kind)) with
  | none => simp
  | some v =>
    obtain ⟨hread, hother⟩ := wordWritten_clean v hmem hclean
    exact ⟨fun w hw => by cases hw; exact hread, (nomatch ·), hother⟩

/-- What an operation applied on a span that is not poisoned leaves of the ports, of memory and of its stream's landings. -/
theorem applyPort_clean {s : State} {x : PortOp} (hmem : MemInv s) (hclean : poisonIn s x.addr (portBytes x.kind) = []) :
    (applyPort s x).ports = s.ports ∧
    (∀ v, portNew x.kind (readNat s x.addr (portBytes x.kind)) = some v →
      readNat (applyPort s x) x.addr (portBytes x.kind) = v % 2 ^ (8 * portBytes x.kind)) ∧
    (portNew x.kind (readNat s x.addr (portBytes x.kind)) = none → (applyPort s x).mem = s.mem) ∧
    (∀ q, (q < x.addr ∨ x.addr + portBytes x.kind ≤ q) → memGet (applyPort s x).mem q = memGet s.mem q) ∧
    ∀ r, x.dest = some r → (strmAt (applyPort s x) x.tile x.strm).landings = (strmAt s x.tile x.strm).landings ++
      [{ phys := r, val := portReturn x.kind (readNat s x.addr (portBytes x.kind)), kind := .load }] := by
  have hans := sameOutside_portAnswered (portReplaced s x) x (readNat s x.addr (portBytes x.kind))
  have hrep := writesPort_portReplaced s x
  obtain ⟨hnew, hsame, hother⟩ := portReplaced_clean hmem hclean
  rw [applyPort_eq]
  refine ⟨(sameOutside_ports hans).trans hrep.ports_eq, fun v hv => ?_, fun hv => (sameOutside_mem hans).trans (hsame hv),
    fun q hq => by rw [sameOutside_mem hans, hother q hq], fun r hr => by rw [landings_portAnswered _ hr, hrep.strmAt_eq]⟩
  rw [readNat_of_mem (sameOutside_mem hans), hnew v hv]

/-! Operations that fail together on a poisoned line (R173). -/

theorem failGather_keeps (s : State) (x : PortOp) : (failGather s x).mem = s.mem ∧ (failGather s x).ports = s.ports := by
  unfold failGather
  split
  · exact ⟨rfl, rfl⟩
  · dsimp only
    split <;> exact ⟨rfl, rfl⟩

theorem failLine_keeps (s : State) (line : Nat) :
    (failLine s line).mem = s.mem ∧ (failLine s line).ports = s.ports.filter (fun x => lineOf x.addr != line) := by
  have hop : ∀ u x, (failGather (returnOld u x 0 (some x.near)) x).mem = u.mem ∧ (failGather (returnOld u x 0 (some x.near)) x).ports = u.ports := by
    intro u x
    obtain ⟨hmem, hports⟩ := failGather_keeps (returnOld u x 0 (some x.near)) x
    have hold := sameOutside_returnOld u x 0 (some x.near)
    exact ⟨hmem.trans (sameOutside_mem hold), hports.trans (sameOutside_ports hold)⟩
  constructor
  · exact (foldl_keeps State.mem (fun _ ⟨_, _, _, _⟩ => offer_mem ..) _ _).trans (foldl_keeps State.mem (fun u x => (hop u x).1) _ _)
  · exact (foldl_keeps State.ports (fun _ ⟨_, _, _, _⟩ => offer_ports ..) _ _).trans (foldl_keeps State.ports (fun u x => (hop u x).2) _ _)

/-! The port's turn. -/

section
variable {s : State} {n : Nat} {x : PortOp}

/-- An operation that no earlier one of its stream and path is before, on its line: it is applied, or its line fails. -/
theorem execAtomicPortApply_turn (hx : s.ports[n]? = some x)
    (hfirst : ∀ y ∈ s.ports.take n, ¬ (y.tile = x.tile ∧ y.strm = x.strm ∧ y.path = x.path ∧ lineOf y.addr = lineOf x.addr)) :
    exec (.atomicPortApply n) s = .next (if spanPoisoned s (lineOf x.addr * 64) 64 then failLine s (lineOf x.addr)
      else applyPort { s with ports := ldrop s.ports n } x) := by
  have hnone : ((s.ports.take n).any fun y =>
      y.tile == x.tile && y.strm == x.strm && y.path == x.path && lineOf y.addr == lineOf x.addr) = false := by
    rw [List.any_eq_false]
    intro y hy
    simpa [and_assoc] using hfirst y hy
  rw [exec_atomicPortApply]
  simp only [execAtomicPortApply, hx, hnone, Bool.and_false, Bool.false_eq_true, if_false]
  split <;> rfl

end

theorem atomicPortAppliesOneWord : AtomicPortAppliesOneWord := by
  intro s n x hmem hx hfirst
  have hexec := execAtomicPortApply_turn hx hfirst
  refine ⟨fun hclean hdvd halign => ?_, fun hpoison => ?_⟩
  · rw [hclean, if_neg (by decide)] at hexec
    exact ⟨_, hexec, applyPort_clean (s := { s with ports := ldrop s.ports n }) hmem
      (poisonIn_of_clean_line hclean (aligned_in_line hdvd halign))⟩
  · rw [hpoison, if_pos rfl] at hexec
    obtain ⟨hkeep, hports⟩ := failLine_keeps s (lineOf x.addr)
    refine ⟨_, hexec, hkeep, fun y hy => ?_⟩
    rw [hports, List.mem_filter] at hy
    simpa using hy.2

/-- Settles O26: the table's functions agree width by width, and an operation in its turn writes its one word on a clean line. -/
theorem atomicsReplaceTheirWordAndReturnTheOld : Obligations.AtomicsReplaceTheirWordAndReturnTheOld :=
  ⟨atomicsReplaceTheirWord, atomicPortAppliesOneWord⟩

end Sys2Proof.Proofs
end

/-! PROOFS. The core clock, and the accesses that carry a physical address. -/
section

namespace Sys2Proof.Proofs

open Sys2Proof Sys2Proof.Machine Sys2Proof.Claims

/-! The core clock (R422). -/

theorem exec_clkreq_takes {s : State} {m : BitVec 12} (hopen : hostOpen s = true) (hm : m.toNat % 100 = 0 ∧ 1100 ≤ m.toNat ∧ m.toNat ≤ 3300) :
    exec (.clkreq 0 m) s = .next { s with pkg := { s.pkg with clkreq := m } } := by
  rw [exec_clkreq]
  simp [execClkreq, hopen, hm]

theorem exec_clkreq_ignores {s : State} {m : BitVec 12} (hopen : hostOpen s = true)
    (hm : ¬ (m.toNat % 100 = 0 ∧ 1100 ≤ m.toNat ∧ m.toNat ≤ 3300)) : exec (.clkreq 0 m) s = .next s := by
  rw [exec_clkreq]
  simp only [execClkreq, hopen, Bool.not_true, Bool.false_eq_true, if_false, ne_eq, not_true, if_neg hm]

/-- The clock after a cap step under a power limit, for a draw (R422). -/
def capped (p : PkgRegs) (limit draw : Nat) : BitVec 12 :=
  if limit < draw then BitVec.ofNat 12 (max 1100 (p.clkcur.toNat - 100))
  else if p.capped && decide (draw < limit) then BitVec.ofNat 12 (min p.clkreq.toNat (p.clkcur.toNat + 100))
  else p.clkcur

theorem capped_over {p : PkgRegs} {limit draw : Nat} (h : limit < draw) :
    capped p limit draw = BitVec.ofNat 12 (max 1100 (p.clkcur.toNat - 100)) := if_pos h

theorem capped_under {p : PkgRegs} {limit draw : Nat} (h : ¬ limit < draw) (hunder : (p.capped && decide (draw < limit)) = true) :
    capped p limit draw = BitVec.ofNat 12 (min p.clkreq.toNat (p.clkcur.toNat + 100)) := (if_neg h).trans (if_pos hunder)

theorem capped_same {p : PkgRegs} {limit draw : Nat} (h : ¬ limit < draw) (hsame : ¬ (p.capped && decide (draw < limit)) = true) :
    capped p limit draw = p.clkcur := (if_neg h).trans (if_neg hsame)

theorem exec_clockCapStep_limited {s : State} {l : Nat} (hl : s.pkg.limit = some l) :
    ∃ t, exec .clockCapStep s = .next t ∧ t.pkg.clkcur = capped s.pkg l (drawFree s).2.toNat ∧ t.mem = s.mem ∧ t.tiles = s.tiles := by
  rw [exec_clockCapStep]
  unfold execClockCapStep
  rw [hl]
  dsimp only
  split
  · next hover => exact ⟨_, rfl, (capped_over hover).symm, rfl, rfl⟩
  · next hover =>
    split
    · next hunder => exact ⟨_, rfl, (capped_under hover hunder).symm, rfl, rfl⟩
    · next hsame => exact ⟨_, rfl, (capped_same hover hsame).symm, rfl, rfl⟩

/-- A cap step moves the clock by at most 100 MHz, between 1,100 MHz and the request. -/
theorem capped_bounds {p : PkgRegs} (limit draw : Nat) (hlow : 1100 ≤ p.clkcur.toNat) (hhigh : p.clkcur.toNat ≤ p.clkreq.toNat) :
    1100 ≤ (capped p limit draw).toNat ∧ (capped p limit draw).toNat ≤ max p.clkreq.toNat 1100 ∧
      p.clkcur.toNat ≤ (capped p limit draw).toNat + 100 ∧ (capped p limit draw).toNat ≤ p.clkcur.toNat + 100 := by
  have hreq : p.clkreq.toNat < 2 ^ 12 := p.clkreq.isLt
  unfold capped
  split
  · rw [BitVec.toNat_ofNat, Nat.mod_eq_of_lt (by omega)]
    omega
  · split
    · rw [BitVec.toNat_ofNat, Nat.mod_eq_of_lt (by omega)]
      omega
    · omega

theorem theCoreClockFollowsItsRequest : TheCoreClockFollowsItsRequest := by
  refine ⟨fun s m hopen => ⟨fun h100 hlow hhigh => exec_clkreq_takes hopen ⟨h100, hlow, hhigh⟩, exec_clkreq_ignores hopen⟩,
    fun s hcap => ?_, fun s n => exec_powerLimit .., fun s l hl hlow hhigh => ?_⟩
  · rw [exec_clockSwitch]
    simp [execClockSwitch, hcap]
  · obtain ⟨t, hexec, hclk, hmem, htiles⟩ := exec_clockCapStep_limited hl
    obtain ⟨h1100, hmax, hdown, hup⟩ := capped_bounds l (drawFree s).2.toNat hlow hhigh
    rw [← hclk] at h1100 hmax hdown hup
    exact ⟨t, hexec, h1100, hmax, hdown, hup, hmem, htiles⟩

/-! Accesses from outside (R176, R417). -/

section
variable {s : State} {p : Nat} {bs : List Byte}

theorem raiseSpan_poison (s : State) (c : List Nat) (b : Option Nat) (w : Bool) : (raiseSpan s c b w).poison = s.poison := by
  unfold raiseSpan
  split <;> rfl

/-- A write from outside where nothing is poisoned is one write at the port. -/
theorem outsideWrite_clean (sc : Scope) (rmw : Bool) (hmem : MemInv s) (hclean : poisonIn s p bs.length = []) :
    readAt (outsideWrite s p sc bs rmw) p bs.length = bs ∧
      ∀ q, (q < p ∨ p + bs.length ≤ q) → memGet (outsideWrite s p sc bs rmw).mem q = memGet s.mem q := by
  have hraise := raiseSpan_mem s (changedBy s p bs) none true
  obtain ⟨hread, hother⟩ := writeAt_clean (s := raiseSpan s (changedBy s p bs) none true) { outsideAgent p sc with rmw := rmw }
    (by rw [MemInv, hraise]; exact hmem) (by rw [poisonIn, raiseSpan_poison]; exact hclean)
  exact ⟨hread, fun q hq => (hother q hq).trans (by rw [hraise])⟩

/-- An operation from outside on a span that is not poisoned replaces its word by the new value, where there is one, and no other byte. -/
theorem outsideApply_clean {off : Nat} {kind : PortKind} (hmem : MemInv s) (hclean : poisonIn s off (portBytes kind) = []) :
    (∀ v, portNew kind (readNat s off (portBytes kind)) = some v →
      readNat (outsideApply s off kind) off (portBytes kind) = v % 2 ^ (8 * portBytes kind)) ∧
    (portNew kind (readNat s off (portBytes kind)) = none → (outsideApply s off kind).mem = s.mem) ∧
    ∀ q, (q < off ∨ off + portBytes kind ≤ q) → memGet (outsideApply s off kind).mem q = memGet s.mem q := by
  unfold outsideApply
  cases hnew : portNew kind (readNat s off (portBytes kind)) with
  | none => simp
  | some v =>
    have hlen : (leBytes (portBytes kind) v).length = portBytes kind := leBytes_length ..
    obtain ⟨hread, hother⟩ := outsideWrite_clean (bs := leBytes (portBytes kind) v) .domain true hmem (by rw [hlen]; exact hclean)
    rw [hlen] at hread hother
    exact ⟨fun w hw => by cases hw; rw [readNat, hread, leNat_leBytes], (nomatch ·), hother⟩

theorem outsideApply_out (off : Nat) (kind : PortKind) : (outsideApply s off kind).out = s.out := by
  unfold outsideApply
  split
  · rw [outsideWrite, portsOnly_writeAt, portsOnly_raiseSpan s]
  · rfl

/-- Counting poisoned granules touches the dies alone. -/
theorem countPoisoned_keeps (n : Nat) :
    (countPoisoned s p n).mem = s.mem ∧ (countPoisoned s p n).poison = s.poison ∧ (countPoisoned s p n).out = s.out :=
  ⟨foldl_keeps State.mem (by intros; rfl) _ _, foldl_keeps State.poison (by intros; rfl) _ _, foldl_keeps State.out (by intros; rfl) _ _⟩

/-- A span without poison meets no poisoned granule. -/
theorem poisonIn_of_clean {n : Nat} (h : spanPoisoned s p n = false) : poisonIn s p n = [] := by
  rw [poisonIn, List.filter_eq_nil_iff]
  exact fun g hg => by simpa using List.any_eq_false.mp h g hg

end

theorem inBar2_inside {off n : Nat} (h : off + n ≤ 2 ^ 32) : inBar2 off n = true := decide_eq_true h

theorem inBar2_beyond {off n : Nat} (h : 2 ^ 32 < off + n) : inBar2 off n = false := decide_eq_false (Nat.not_le.mpr h)

section
variable {s : State} {fn off n : Nat}

theorem exec_bar2Read_inside (hready : s.boot.ready = true) (hwin : off + n ≤ 2 ^ 32) (hin : (fnRegs s fn).win.toNat + off + n ≤ Config.hbmBytes) :
    ∃ t, exec (.bar2Read fn off n) s = .next t ∧ t = { countPoisoned s ((fnRegs s fn).win.toNat + off) n with
      out := s.out ++ [.readData fn (readAt s ((fnRegs s fn).win.toNat + off) n) (spanPoisoned s ((fnRegs s fn).win.toNat + off) n)] } := by
  refine ⟨_, ?_, rfl⟩
  rw [exec_bar2Read]
  obtain ⟨-, -, hout⟩ := countPoisoned_keeps (s := s) (p := (fnRegs s fn).win.toNat + off) n
  simp only [execBar2Read, hready, inBar2_inside hwin, Nat.not_lt.mpr hin, Bool.not_true, Bool.or_self, Bool.false_eq_true, if_false, hout]

end

theorem exec_reduce_clean {s : State} {src off : Nat} {v u : BitVec 32} {rm : BitVec 3} (hready : s.boot.ready = true)
    (hin : off + 4 ≤ Config.hbmBytes) (hclean : spanPoisoned s (lineOf off * 64) 64 = false) :
    exec (.incomingWrite src off (.reduce false v rm u)) s = .next (outsideApply s off (.fadd32 v rm u)) := by
  rw [exec_incomingWrite]
  simp only [execIncomingWrite, linkReduction, portBytes, hready, hclean, Nat.not_lt.mpr hin, Bool.not_true, Bool.false_eq_true, if_false]

theorem outsideAccessesReachMemory : OutsideAccessesReachMemory := by
  refine ⟨fun s fn off n bs hready => ⟨fun hin => ?read, fun hout => ?beyond, fun hin hmem hclean => ?write,
      fun hwin hin hclean => ?bar2Read, fun hwin hin hmem hclean => ?bar2Write, fun hwin => ?readPastWindow, fun hwin => ?writePastWindow⟩,
    fun s fn off n hready hwin hin => ?bar2Poisoned, fun s src tile port ctxn w hready => ?pip,
    fun s src off v u rm hready hmem hin halign => ⟨fun hclean => ?reduce, fun hpoison => ?reducePoisoned⟩⟩
  case read =>
    rw [exec_incomingRead]
    simp [execIncomingRead, hready, Nat.not_lt.mpr hin]
  case beyond =>
    rw [exec_incomingRead]
    simp [execIncomingRead, hready, hout]
  case write =>
    refine ⟨outsideWrite s off .domain bs, ?_, outsideWrite_clean _ _ hmem hclean⟩
    rw [exec_incomingWrite]
    simp [execIncomingWrite, hready, Nat.not_lt.mpr hin]
  case bar2Read =>
    obtain ⟨t, hexec, ht⟩ := exec_bar2Read_inside hready hwin hin
    rw [hexec, ht, countPoisoned, poisonIn_of_clean hclean, hclean]
    rfl
  case bar2Write =>
    refine ⟨outsideWrite s ((fnRegs s fn).win.toNat + off) .system bs, ?_, outsideWrite_clean _ _ hmem hclean⟩
    rw [exec_bar2Write]
    simp [execBar2Write, hready, inBar2_inside hwin, Nat.not_lt.mpr hin]
  case readPastWindow =>
    rw [exec_bar2Read]
    simp [execBar2Read, inBar2_beyond hwin]
  case writePastWindow =>
    rw [exec_bar2Write]
    simp [execBar2Write, inBar2_beyond hwin]
  case bar2Poisoned =>
    obtain ⟨t, hexec, ht⟩ := exec_bar2Read_inside hready hwin hin
    obtain ⟨hmem, hpoison, -⟩ := countPoisoned_keeps (s := s) (p := (fnRegs s fn).win.toNat + off) n
    exact ⟨t, hexec, by rw [ht], by rw [ht]; exact hmem, by rw [ht]; exact hpoison⟩
  case pip =>
    refine ⟨incomingPip s src tile port ctxn w, _, ?_, rfl, rfl, rfl, rfl, rfl, rfl, rfl⟩
    rw [exec_incomingWrite]
    simp [execIncomingWrite, hready]
  case reduce =>
    have hword : poisonIn s off (portBytes (.fadd32 v rm u)) = [] :=
      poisonIn_of_clean_line hclean (aligned_in_line (n := 4) (by decide) halign)
    obtain ⟨hnew, -, hother⟩ := outsideApply_clean hmem hword
    exact ⟨_, exec_reduce_clean hready hin hclean, hnew _ rfl, hother⟩
  case reducePoisoned =>
    refine ⟨{ s with out := s.out ++ [.readData src [] true] }, ?_, rfl⟩
    rw [exec_incomingWrite]
    simp only [execIncomingWrite, linkReduction, portBytes, hready, hpoison, Nat.not_lt.mpr hin, Bool.not_true, Bool.false_eq_true, if_false,
      if_true]

section
variable {s : State} {src off : Nat} {op : AtomicOp} {wide : Bool} {v c : Word} {n : Nat}

theorem portBytes_incoming (hn : n = (if wide then 8 else 4)) : portBytes (.atomic op (!wide) v c) = n := by
  subst hn
  cases wide <;> rfl

/-- An atomic from outside, by the poison of its line and the end of HBM. -/
theorem exec_incomingAtomic_cases (hready : s.boot.ready = true) (hn : n = (if wide then 8 else 4)) :
    exec (.incomingAtomic src off op wide v c) s =
      if Config.hbmBytes < off + n then .fault (.noSuchMemory off)
      else if spanPoisoned s (lineOf off * 64) 64 then .next { s with out := s.out ++ [.readData src (List.replicate n 0) true] }
      else .next { outsideApply s off (.atomic op (!wide) v c) with out := s.out ++ [.readData src (leBytes n (readNat s off n)) false] } := by
  rw [exec_incomingAtomic]
  simp only [execIncomingAtomic, hready, portBytes_incoming hn, outsideApply_out, Bool.not_true, Bool.false_eq_true, if_false]

end

theorem incomingAtomicsReplaceTheirWord : IncomingAtomicsReplaceTheirWord := by
  intro s src off op wide v c n hready hmem hn halign
  have hbytes : portBytes (.atomic op (!wide) v c) = n := portBytes_incoming hn
  have hdvd : n ∣ 64 := by subst hn; cases wide <;> decide
  refine ⟨fun hin hclean => ?_, fun hin hpoison => ?_, fun hout => ?_⟩
  · obtain ⟨hnew, hsame, hother⟩ := outsideApply_clean (kind := .atomic op (!wide) v c) hmem
      (by rw [hbytes]; exact poisonIn_of_clean_line hclean (aligned_in_line hdvd halign))
    rw [hbytes] at hnew hsame hother
    refine ⟨_, (exec_incomingAtomic_cases hready hn).trans ((if_neg (Nat.not_lt.mpr hin)).trans (if_neg (by simp [hclean]))), hnew,
      hsame, rfl, hother⟩
  · exact (exec_incomingAtomic_cases hready hn).trans ((if_neg (Nat.not_lt.mpr hin)).trans (if_pos hpoison))
  · exact (exec_incomingAtomic_cases hready hn).trans (if_pos hout)

/-- Settles O59: the clock's words by their bounds, and each access from outside by what one write at the port leaves of memory. -/
theorem clocksAndOutsideAccessesAct : Obligations.ClocksAndOutsideAccessesAct :=
  ⟨theCoreClockFollowsItsRequest, outsideAccessesReachMemory, incomingAtomicsReplaceTheirWord⟩

end Sys2Proof.Proofs
end

/-! PROOFS. What a publication writes, and what it leaves of streams, ports and handles. -/
section

namespace Sys2Proof.Proofs

open Sys2Proof Sys2Proof.Machine Sys2Proof.Claims

/-! What a write at a port leaves of poison and of the reuse table. -/

@[simp] theorem putBytes_poison (s : State) (g : Agent) (p : Nat) (bs : List Byte) : (putBytes s g p bs).poison = s.poison := by
  induction bs generalizing s p with
  | nil => rfl
  | cons b bs ih => exact (ih ..).trans rfl

@[simp] theorem putBytes_reuse (s : State) (g : Agent) (p : Nat) (bs : List Byte) : (putBytes s g p bs).reuse = s.reuse := by
  induction bs generalizing s p with
  | nil => rfl
  | cons b bs ih => exact (ih ..).trans rfl

theorem scrubGranule_reuse (s : State) (g : Agent) (p n gr : Nat) : (scrubGranule s g p n gr).reuse = s.reuse := by
  unfold scrubGranule
  split
  · rfl
  · exact foldl_keeps State.reuse (by intros; rfl) _ _

@[simp] theorem writeAt_reuse (s : State) (g : Agent) (p : Nat) (bs : List Byte) : (writeAt s g p bs).reuse = s.reuse := by
  simp only [writeAt, putBytes_reuse]
  exact foldl_keeps State.reuse (fun _ _ => scrubGranule_reuse ..) _ _

theorem poisonIn_nil {s : State} (h : s.poison = []) (p n : Nat) : poisonIn s p n = [] := by simp [poisonIn, h]

theorem writeAt_poison_nil {s : State} (g : Agent) (p : Nat) (bs : List Byte) (h : s.poison = []) : (writeAt s g p bs).poison = [] := by
  simp [writeAt, poisonIn_nil h, h]

theorem putBelow_keeps (s : State) (g : Agent) (n p : Nat) (v : Byte) :
    (putBelow s g n p v).poison = s.poison ∧ (putBelow s g n p v).reuse = s.reuse := by
  unfold putBelow
  dsimp only
  split <;> exact ⟨rfl, rfl⟩

theorem raiseSpan_reuse_length (s : State) (c : List Nat) (b : Option Nat) (w : Bool) :
    (raiseSpan s c b w).reuse.length = s.reuse.length := by
  unfold raiseSpan
  split
  · rfl
  · exact List.length_map _

/-! Writes that stay within some bytes. -/

/-- From a canonical memory without poison the next state has one too, which differs at most in the bytes of a test; the reuse table keeps
its entries. -/
def WritesIn (P : Nat → Prop) (s t : State) : Prop :=
  (MemInv s → s.poison = [] → MemInv t ∧ t.poison = [] ∧ ∀ a, ¬ P a → memGet t.mem a = memGet s.mem a) ∧
    t.reuse.length = s.reuse.length

section
variable {P : Nat → Prop}

theorem WritesIn.of_keeps {s t : State} (hmem : t.mem = s.mem) (hpoison : t.poison = s.poison) (hreuse : t.reuse.length = s.reuse.length) :
    WritesIn P s t :=
  ⟨fun hs hp => ⟨by rw [MemInv, hmem]; exact hs, by rw [hpoison, hp], fun _ _ => by rw [hmem]⟩, hreuse⟩

theorem WritesIn.trans {s t u : State} (h : WritesIn P s t) (g : WritesIn P t u) : WritesIn P s u := by
  refine ⟨fun hs hp => ?_, g.2.trans h.2⟩
  obtain ⟨ht, htp, hst⟩ := h.1 hs hp
  obtain ⟨hu, hup, htu⟩ := g.1 ht htp
  exact ⟨hu, hup, fun a ha => (htu a ha).trans (hst a ha)⟩

theorem writesIn_foldl {α : Type} {f : State → α → State} (xs : List α) (h : ∀ s, ∀ x ∈ xs, WritesIn P s (f s x)) (s : State) :
    WritesIn P s (xs.foldl f s) := by
  induction xs generalizing s with
  | nil => exact .of_keeps rfl rfl rfl
  | cons x xs ih => exact (h s x List.mem_cons_self).trans (ih (fun s y hy => h s y (List.mem_cons_of_mem x hy)) _)

theorem writesIn_writeAt (s : State) (g : Agent) {p : Nat} {bs : List Byte} (hin : ∀ a, p ≤ a → a < p + bs.length → P a) :
    WritesIn P s (writeAt s g p bs) := by
  refine ⟨fun hs hp => ⟨writeAt_wf s g p bs hs, writeAt_poison_nil g p bs hp, fun a ha => ?_⟩, by rw [writeAt_reuse]⟩
  have hout : a < p ∨ p + bs.length ≤ a := by
    by_contra hcon
    exact ha (hin a (by omega) (by omega))
  rw [writeAt_mem s g p bs (poisonIn_nil hp ..), memGet_write_other hs p a bs hout]

theorem writesIn_raised (s : State) (w : Bool) (c : List Nat) : WritesIn P s (if w then raiseSpan s c else s) :=
  .of_keeps (raised_mem ..) (raised_poison ..) (by split; exact raiseSpan_reuse_length ..; rfl)

theorem writesIn_writePlaced (n : Nat) (g : Agent) (s : State) {x : Nat × Byte} (hx : P x.1) : WritesIn P s (writePlaced n g s x) := by
  obtain ⟨hpoison, hreuse⟩ := putBelow_keeps s g n x.1 x.2
  unfold writePlaced
  split
  · exact .of_keeps (putBelow_mem ..) hpoison (by rw [hreuse])
  · refine writesIn_writeAt s g fun a hlow hhigh => ?_
    rw [show a = x.1 by simp only [List.length_singleton] at hhigh; omega]
    exact hx

/-- A posted store is written within its own bytes, whatever its place among the writes (R178, R384). -/
theorem writesIn_publishOne (t : Nat) (sk : Strm) (sc : Scope) (s : State) {x : Posted}
    (hin : ∀ a, x.addr ≤ a → a < x.addr + x.bytes.length → P a) : WritesIn P s (publishOne t sk sc s x) := by
  unfold publishOne
  dsimp only
  split
  · exact (writesIn_raised ..).trans (writesIn_writeAt _ _ hin)
  · refine (writesIn_raised ..).trans (writesIn_foldl _ (fun u y hy => writesIn_writePlaced _ _ u ?_) _)
    have hspan : y.1 ∈ span x.addr x.bytes.length := (List.of_mem_zip hy).1
    rw [span_mem] at hspan
    exact hin y.1 hspan.1 hspan.2

end

/-! Publication (R178). -/

/-- Whether a store counts towards the publication of the addresses of a test. -/
def touches (p : Nat → Bool) (x : Posted) : Bool := x.bytes.isEmpty || (span x.addr x.bytes.length).any p

/-- The ports after a stream's posted stores to the addresses of a test are published. -/
def portsAfterIf (s : State) (t : Nat) (sk : Strm) (sc : Scope) (p : Nat → Bool) : State :=
  widen (((strmAt s t sk).posted.filter (touches p)).foldl (publishOne t sk sc) s) t sk sc p

/-- A stream without its stores to the addresses of a test. -/
def without (p : Nat → Bool) (st : Stream) : Stream := { st with posted := st.posted.filter fun x => !touches p x }

theorem portsOnly_portsAfterIf (s : State) (t : Nat) (sk : Strm) (sc : Scope) (p : Nat → Bool) : PortsOnly s (portsAfterIf s t sk sc p) :=
  (portsOnly_foldl (portsOnly_publishOne t sk sc) _ s).trans rfl

/-- A publication acts on the ports, and takes the stores that it publishes from its stream. -/
theorem publishIf_eq (s : State) (t : Nat) (sk : Strm) (sc : Scope) (p : Nat → Bool) :
    publishIf s t sk sc p = setStrm (portsAfterIf s t sk sc p) t sk (without p (strmAt s t sk)) := by
  rw [← (portsOnly_portsAfterIf s t sk sc p).strmAt_eq]
  rfl

/-- Whether a byte is one of some posted stores. -/
def PostedIn (ps : List Posted) (a : Nat) : Prop := ∃ x ∈ ps, x.addr ≤ a ∧ a < x.addr + x.bytes.length

/-- A publication writes only bytes of the stores that the stream has posted. -/
theorem writesIn_publishIf (s : State) (t : Nat) (sk : Strm) (sc : Scope) (p : Nat → Bool) :
    WritesIn (PostedIn (strmAt s t sk).posted) s (publishIf s t sk sc p) := by
  rw [publishIf_eq]
  exact (writesIn_foldl _ (fun u x hx => writesIn_publishOne t sk sc u fun a hlow hhigh => ⟨x, (List.mem_filter.mp hx).1, hlow, hhigh⟩) s).trans
    (.of_keeps rfl rfl rfl)

theorem publishIf_mem_of_none {s : State} {t : Nat} {sk : Strm} (sc : Scope) (p : Nat → Bool) (h : (strmAt s t sk).posted = []) :
    (publishIf s t sk sc p).mem = s.mem := by
  rw [publishIf_eq, portsAfterIf, h]
  rfl

/-- Whether an address lies in the span of a release point, which without one is everything. -/
def inSpan (sp : Option (Nat × Nat)) (a : Nat) : Bool :=
  match sp with
  | some (b, n) => decide (b ≤ a) && decide (a < b + n)
  | none => true

/-- The release point that a publication of a span notes. -/
def relPtIn (s : State) (t : Nat) (sk : Strm) (sc : Scope) (sp : Option (Nat × Nat)) (q : Option Path) : RelPt :=
  { tile := t, strm := sk, scope := sc, upto := (portsAfterIf s t sk sc (inSpan sp)).wnext
    know := (published (strmAt s t sk) s.nextRel).know, span := sp, toPath := q }

/-- The stream of a release point: without the stores that it has published, and with the point before what follows. -/
def releasedStrm (s : State) (sp : Option (Nat × Nat)) (st : Stream) : Stream :=
  { without (inSpan sp) st with know := (published st s.nextRel).know, rels := st.rels ++ [s.nextRel] }

theorem releaseIn_eq (s : State) (t : Nat) (sk : Strm) (sc : Scope) (sp : Option (Nat × Nat)) (q : Option Path) :
    releaseIn s t sk sc sp q = setStrm (noted (publishIf s t sk sc (inSpan sp)) (relPtIn s t sk sc sp q)) t sk
      (releasedStrm s sp (strmAt s t sk)) := by
  have hrel : (portsAfterIf s t sk sc (inSpan sp)).nextRel = s.nextRel := by rw [portsOnly_portsAfterIf s]
  have hspan : releaseIn s t sk sc sp q = setStrm (noted (publishIf s t sk sc (inSpan sp))
      { relPtIn s t sk sc sp q with
        upto := (publishIf s t sk sc (inSpan sp)).wnext
        know := (published (strmAt (publishIf s t sk sc (inSpan sp)) t sk) (publishIf s t sk sc (inSpan sp)).nextRel).know }) t sk
      { strmAt (publishIf s t sk sc (inSpan sp)) t sk with
        know := (published (strmAt (publishIf s t sk sc (inSpan sp)) t sk) (publishIf s t sk sc (inSpan sp)).nextRel).know
        rels := (strmAt (publishIf s t sk sc (inSpan sp)) t sk).rels ++ [(publishIf s t sk sc (inSpan sp)).nextRel] } := rfl
  rw [hspan, publishIf_eq, strmAt_setStrm_same, setStrm_nextRel, hrel]
  rfl

theorem PortsOnly.curs {s t : State} (h : PortsOnly s t) : t.curTile = s.curTile ∧ t.curStrm = s.curStrm := by
  rw [h]
  exact ⟨rfl, rfl⟩

end Sys2Proof.Proofs
end

/-! PROOFS. Words that publish: what they leave of registers and memory. -/
section

namespace Sys2Proof.Proofs

open Sys2Proof Sys2Proof.Machine Sys2Proof.Claims

/-! Steps of the acting stream that write no register and no byte. -/

@[simp] theorem advanced_regs (s : State) (st : Stream) (f : Flow) : (advanced s st f).regs = st.regs := by
  have key : (nextSeq st).regs = st.regs := by
    unfold nextSeq passA passB
    dsimp only
    repeat' split
    all_goals rfl
  cases f with
  | seq => exact key
  | jump target => rfl

@[simp] theorem trapped_regs (st : Stream) (c : Cause) (v r : Word) : (trapped st c v r).regs = st.regs := by
  unfold trapped
  split <;> rfl

/-- The same stream acts, with its registers; memory and the reuse table are as they were. -/
def Quiet (s t : State) : Prop :=
  (cur t).regs = (cur s).regs ∧ t.mem = s.mem ∧ t.poison = s.poison ∧ t.reuse = s.reuse ∧ t.curTile = s.curTile ∧ t.curStrm = s.curStrm

theorem Quiet.refl (s : State) : Quiet s s := ⟨rfl, rfl, rfl, rfl, rfl, rfl⟩

theorem Quiet.trans {s t u : State} (h : Quiet s t) (g : Quiet t u) : Quiet s u := by
  obtain ⟨hregs, hmem, hpoison, hreuse, htile, hstrm⟩ := h
  obtain ⟨gregs, gmem, gpoison, greuse, gtile, gstrm⟩ := g
  exact ⟨gregs.trans hregs, gmem.trans hmem, gpoison.trans hpoison, greuse.trans hreuse, gtile.trans htile, gstrm.trans hstrm⟩

theorem quiet_of_sameOutside {s t : State} (h : SameOutside s t) (hregs : (strmAt t s.curTile s.curStrm).regs = (cur s).regs) : Quiet s t := by
  refine ⟨by rw [cur_of_sameOutside h, hregs], ?_⟩
  rw [h]
  exact ⟨rfl, rfl, rfl, rfl, rfl⟩

theorem quiet_setCur {s : State} {x : Stream} (h : x.regs = (cur s).regs) : Quiet s (setCur s x) :=
  quiet_of_sameOutside (sameOutside_setCur s x) (by rw [setCur, strmAt_setStrm_same, h])

theorem quiet_setStrm {s : State} {t : Nat} {sk : Strm} {x : Stream} (ht : s.curTile = t) (hsk : s.curStrm = sk)
    (h : x.regs = (strmAt s t sk).regs) : Quiet s (setStrm s t sk x) := by
  subst ht hsk
  exact quiet_setCur h

theorem quiet_retire (s : State) (tk : BitVec 4) (f : Flow) : Quiet s (retire s tk f) := by
  refine quiet_of_sameOutside (sameOutside_retire s tk f) ?_
  rcases strmAt_retireAt s s.curTile s.curStrm tk f with h | ⟨v, h⟩ <;> rw [retire, h]
  · exact advanced_regs ..
  · exact (trapped_regs ..).trans (advanced_regs ..)

theorem quiet_takeTrap (s : State) (c : Cause) (v r : Word) (n : Nat) : Quiet s (takeTrap s c v r n) :=
  quiet_of_sameOutside (sameOutside_takeTrapAt_sub ..) (by rw [takeTrap, strmAt_takeTrapAt_sub, trapped_regs]; rfl)

theorem quiet_acquireIn {s : State} {t : Nat} {sk : Strm} (sc : Scope) (path : Option Path) (sp : Option (Nat × Nat)) (ht : s.curTile = t)
    (hsk : s.curStrm = sk) : Quiet s (acquireIn s t sk sc path sp) := quiet_setStrm ht hsk rfl

theorem quiet_syncFetch (s : State) : Quiet s (syncFetch s) := quiet_setCur rfl

/-- A release point changes beside its publication only what is noted of it. -/
theorem quiet_releaseIn (s : State) (sc : Scope) (sp : Option (Nat × Nat)) (q : Option Path) :
    Quiet (publishIf s s.curTile s.curStrm sc (inSpan sp)) (releaseIn s s.curTile s.curStrm sc sp q) := by
  have hcurs : (publishIf s s.curTile s.curStrm sc (inSpan sp)).curTile = s.curTile ∧
      (publishIf s s.curTile s.curStrm sc (inSpan sp)).curStrm = s.curStrm := by
    rw [publishIf_eq]
    exact (portsOnly_portsAfterIf s ..).curs
  have hregs : (strmAt (publishIf s s.curTile s.curStrm sc (inSpan sp)) s.curTile s.curStrm).regs = (cur s).regs := by
    rw [publishIf_eq, strmAt_setStrm_same]
    rfl
  rw [releaseIn_eq]
  exact quiet_setStrm (s := noted (publishIf s s.curTile s.curStrm sc (inSpan sp)) (relPtIn s s.curTile s.curStrm sc sp q)) hcurs.1 hcurs.2
    hregs.symm

/-! Words that publish. -/

/-- The acting stream keeps every register but one; memory changes only in the bytes of its posted stores. -/
def PublishesOnly (p : Nat) (s t : State) : Prop :=
  (∀ q, q ≠ p → regAt (cur t) q = regAt (cur s) q) ∧ WritesIn (PostedIn (cur s).posted) s t ∧ ((cur s).posted = [] → t.mem = s.mem)

section
variable {p : Nat} {s t u : State}

theorem PublishesOnly.quiet (h : PublishesOnly p s u) (hq : Quiet u t) : PublishesOnly p s t := by
  obtain ⟨hregs, hwrites, hnone⟩ := h
  obtain ⟨gregs, gmem, gpoison, greuse, -, -⟩ := hq
  exact ⟨fun q hne => by rw [regAt, gregs]; exact hregs q hne, hwrites.trans (.of_keeps gmem gpoison (by rw [greuse])),
    fun h => gmem.trans (hnone h)⟩

theorem PublishesOnly.refl (p : Nat) (s : State) : PublishesOnly p s s := ⟨fun _ _ => rfl, .of_keeps rfl rfl rfl, fun _ => rfl⟩

/-- A publication by the stream, which has changed one register at most. -/
theorem publishesOnly_publishIf {x : Stream} (sc : Scope) (f : Nat → Bool) (hposted : x.posted = (cur s).posted)
    (hregs : ∀ q, q ≠ p → regAt x q = regAt (cur s) q) : PublishesOnly p s (publishIf (setCur s x) s.curTile s.curStrm sc f) := by
  have hx : strmAt (setCur s x) s.curTile s.curStrm = x := strmAt_setStrm_same ..
  have hwrites := writesIn_publishIf (setCur s x) s.curTile s.curStrm sc f
  rw [hx, hposted] at hwrites
  refine ⟨fun q hne => ?_, (WritesIn.of_keeps rfl rfl rfl).trans hwrites, fun h => publishIf_mem_of_none sc f (by rw [hx, hposted, h])⟩
  have hcur : cur (publishIf (setCur s x) s.curTile s.curStrm sc f) = without f x := by
    rw [publishIf_eq, hx, cur, setStrm_curTile, setStrm_curStrm, portsOnly_portsAfterIf (setCur s x)]
    exact strmAt_setStrm_same ..
  rw [hcur]
  exact hregs q hne

/-- A release point of the stream once its tokens are popped. -/
theorem publishesOnly_releaseIn (p : Nat) (s : State) (tk : BitVec 4) (sc : Scope) (sp : Option (Nat × Nat)) (q : Option Path) :
    PublishesOnly p s (releaseIn (setCur s (popBits (cur s) tk)) s.curTile s.curStrm sc sp q) :=
  (publishesOnly_publishIf sc (inSpan sp) (by simp) (by simp)).quiet (quiet_releaseIn (setCur s (popBits (cur s) tk)) sc sp q)

/-- An outcome that goes on, waits or traps so. -/
def Publishes (p : Nat) (s : State) (out : Out) : Prop := ∀ t, out = .next t → PublishesOnly p s t

theorem publishes_issue {m : Chk State} (hm : EndsIn (PublishesOnly p s) m) : Publishes p s (issue s m) := by
  intro t h
  rcases issue_cases h with hok | rfl | ⟨c, v, n, -, rfl⟩
  · exact hm t hok
  · exact .refl p t
  · exact (PublishesOnly.refl p s).quiet (quiet_takeTrap s c v _ n)

end

/-- An atomic or a reduction sent to its port, by the stream with one register at most changed. -/
theorem publishesOnly_sendAtomic {p : Nat} {s : State} {x : Stream} (kind : PortKind) (acc : NearAcc) (near : Word) (sc : Scope)
    (dest : Option Nat) (tk : BitVec 4) (hposted : x.posted = (cur s).posted) (hregs : ∀ q, q ≠ p → regAt x q = regAt (cur s) q) :
    PublishesOnly p s (retire (sendAtomic (setCur s x) kind acc near sc dest) tk .seq) := by
  refine PublishesOnly.quiet ?_ (quiet_retire ..)
  exact (publishesOnly_publishIf sc (fun a => lineOf a == lineOf (accAddr acc).1) hposted hregs).quiet ⟨rfl, rfl, rfl, rfl, rfl, rfl⟩

theorem atomicOp_publishes (op : AtomicOp) (o : FormAtomic) (s : State) : Publishes (physReg (cur s) o.d) s (atomicOp op o s) := by
  refine publishes_issue (endsIn_bind fun _ => endsIn_bind fun _ => ?_)
  dsimp only
  split
  all_goals
    exact endsIn_bind fun _ => endsIn_bind fun _ => endsIn_bind fun _ => endsIn_bind fun _ => endsIn_bind fun _ =>
      endsIn_ok (publishesOnly_sendAtomic _ _ _ _ _ _ ((clearFull_posted ..).trans (popBits_posted ..))
        fun q hne => (regAt_clearFull_other _ hne).trans (popBits_regAt ..))

theorem execAred_publishes (o : FormAred) (s : State) : Publishes 0 s (execAred o s) :=
  publishes_issue (endsIn_bind fun _ => endsIn_bind fun _ => endsIn_bind fun _ => endsIn_bind fun _ => endsIn_bind fun _ =>
    endsIn_ok (publishesOnly_sendAtomic _ _ _ _ _ _ (by simp) fun q _ => by simp [regAt]))

/-- A publication leaves the stream that acts. -/
theorem publish_curs (s : State) (t : Nat) (sk : Strm) (sc : Scope) (q : Option Path) :
    (publish s t sk sc q).curTile = s.curTile ∧ (publish s t sk sc q).curStrm = s.curStrm := by
  obtain ⟨-, -, -, htile, hstrm⟩ := publish_effect s t sk sc q
  exact ⟨htile, hstrm⟩

theorem quiet_acquire_publish {s : State} {x : Stream} (sc sc' : Scope) (q : Option Path) (path : Path) :
    Quiet (publish (setCur s x) s.curTile s.curStrm sc q) (acquire (publish (setCur s x) s.curTile s.curStrm sc q) s.curTile s.curStrm sc' path) :=
  quiet_acquireIn _ _ _ (publish_curs ..).1 (publish_curs ..).2

theorem execPhase_publishes (o : FormPhase) (s : State) : Publishes 0 s (execPhase o s) :=
  publishes_issue (endsIn_bind fun _ => endsIn_bind fun _ => endsIn_bind fun _ => endsIn_ok (PublishesOnly.quiet
    (publishesOnly_releaseIn 0 s o.tk o.scope none none)
    (((quiet_acquire_publish ..).trans (quiet_syncFetch _)).trans (quiet_retire ..))))

/-- FENCX's first path: a release of the core, or what the stream learns of commands that have ended. -/
theorem fenceFirst_publishes (o : FormFencx) (s : State) : EndsIn (PublishesOnly 0 s) (fenceFirst o s) := by
  unfold fenceFirst
  dsimp only
  split
  · exact endsIn_bind fun _ => endsIn_bind fun _ => endsIn_ok (publishesOnly_releaseIn 0 s o.tk o.scope none (some o.p2))
  · have hpop : Quiet s (setCur s (popBits (cur s) o.tk)) := quiet_setCur (by simp)
    exact endsIn_bind fun _ => endsIn_ok ((PublishesOnly.refl 0 s).quiet (hpop.trans (quiet_setCur rfl)))

theorem quiet_fenceSecond (o : FormFencx) (u : State) : Quiet u (fenceSecond o u) := by
  unfold fenceSecond
  split
  · have hacq : Quiet u (acquire u u.curTile u.curStrm o.scope o.p1) := quiet_acquireIn _ _ _ rfl rfl
    dsimp only
    split
    · exact hacq.trans (quiet_syncFetch _)
    · exact hacq
  · exact quiet_setCur rfl

theorem execFencx_publishes (o : FormFencx) (s : State) : Publishes 0 s (execFencx o s) := by
  refine publishes_issue (endsIn_bind fun _ => endsIn_bind fun _ => fun t ht => ?_)
  cases hfirst : fenceFirst o s with
  | error e => rw [hfirst] at ht; exact nomatch ht
  | ok u =>
    rw [hfirst] at ht
    cases ht
    exact (fenceFirst_publishes o s u hfirst).quiet ((quiet_fenceSecond o u).trans (quiet_retire ..))

theorem execRdvz_publishes (o : FormRdvz) (s : State) : Publishes 0 s (execRdvz o s) := by
  refine publishes_issue (endsIn_bind fun _ => endsIn_bind fun _ => endsIn_bind fun _ => endsIn_ok ?_)
  refine (publishesOnly_releaseIn 0 s o.tk (rdvzScope s o.block s.curTile) none none).quiet (quiet_setCur ?_)
  dsimp only
  split <;> rfl

theorem quiet_haltPush (s : State) (tk : BitVec 4) : Quiet s (haltPush s s.curTile s.curStrm tk) := by
  have hpush := quiet_of_sameOutside (sameOutside_pushBits s s.curTile s.curStrm (tkSL tk) (tkSR tk)) (by rw [pushBits_own]; rfl)
  unfold haltPush
  dsimp only
  split
  · exact hpush.trans ⟨rfl, rfl, rfl, rfl, rfl, rfl⟩
  · exact hpush

theorem execHalt_publishes (o : FormS0) (s : State) : Publishes 0 s (execHalt o s) := by
  refine publishes_issue (endsIn_bind fun _ => endsIn_bind fun _ => endsIn_bind fun _ => endsIn_ok ?_)
  obtain ⟨htile, hstrm⟩ := publish_curs (setCur s (popBits (cur s) o.tk)) s.curTile s.curStrm .system none
  have hend : Quiet (publish (issuedState s o.tk) s.curTile s.curStrm .system) (haltedState s o.tk) := quiet_setCur rfl
  have hpush := quiet_haltPush (haltedState s o.tk) o.tk
  have ⟨_, _, _, _, htile', hstrm'⟩ := hend
  rw [htile', hstrm', issuedState, htile, hstrm] at hpush
  exact (publishesOnly_releaseIn 0 s o.tk .system none none).quiet (hend.trans hpush)

/-- A change of the handle table and of what is noted of a handle is quiet. -/
theorem quiet_handle (s : State) (t h : Nat) (e : Word) (k : Know) : Quiet s (noteGive (setHandle s t h e) t h k) :=
  ⟨rfl, rfl, rfl, rfl, rfl, rfl⟩

theorem execHgive_publishes (o : FormAB) (s : State) : Publishes 0 s (execHgive o s) := by
  refine publishes_issue (endsIn_bind fun a => endsIn_bind fun _ => endsIn_bind fun _ => endsIn_bind fun _ => ?_)
  exact endsIn_bind fun _ => endsIn_bind fun _ => endsIn_bind fun _ => endsIn_bind fun _ => endsIn_ok
    ((publishesOnly_releaseIn 0 s o.tk .cluster (some (bufSpan s.curTile (handleAt s s.curTile (wf64 a 15 0)))) none).quiet
      ((quiet_handle ..).trans (quiet_retire ..)))

/-- Each word that publishes, by its kind. -/
theorem publishing_publishes {i : Instr} {d : BitVec 5} (s : State) (h : publishingDest i = some d) :
    Publishes (physReg (cur s) d) s (exec i s) := by
  cases i with
  | aadd o | amin o | amax o | aminz o | amaxz o | aand o | aor o | axor o | axch o | acas o => cases h; exact atomicOp_publishes _ o s
  | ared o => cases h; exact execAred_publishes o s
  | phase o => cases h; exact execPhase_publishes o s
  | fencx o => cases h; exact execFencx_publishes o s
  | rdvz o => cases h; exact execRdvz_publishes o s
  | halt o => cases h; exact execHalt_publishes o s
  | hgive o => cases h; exact execHgive_publishes o s
  | _ => cases h

/-- Settles O12: whatever a word publishes is written within the bytes of its stream's posted stores, and what it does besides is quiet. -/
theorem publicationChangesOnlyPostedBytes : Obligations.PublicationChangesOnlyPostedBytes := by
  intro i d s t hd hexec hmem hpoison
  obtain ⟨hregs, ⟨hwrites, hreuse⟩, hnone⟩ := publishing_publishes s hd t hexec
  obtain ⟨-, -, hkept⟩ := hwrites hmem hpoison
  refine ⟨hregs, fun p hp => hkept p fun ⟨x, hx, hlow, hhigh⟩ => ?_, hnone, hreuse⟩
  have := hp x hx
  omega

end Sys2Proof.Proofs
end

/-! PROOFS. Buffers passed from stream to stream. -/
section

namespace Sys2Proof.Proofs

open Sys2Proof Sys2Proof.Machine Sys2Proof.Claims

/-! The fields of a handle-table entry (R165). -/

theorem wf64_lt (w : Word) (hi lo : Nat) : wf64 w hi lo < 2 ^ (hi + 1 - lo) := Nat.mod_lt _ (Nat.two_pow_pos _)

/-- An entry from fields that fit holds them. -/
theorem hMake_fields {gen st holder off home base size ctxn : Nat} (hst : st < 2 ^ 4) (hholder : holder < 2 ^ 5) (hoff : off < 2 ^ 5)
    (hhome : home < 2 ^ 3) (hbase : base < 2 ^ 13) (hsize : size < 2 ^ 14) (hctxn : ctxn < 2 ^ 12) :
    hGen (hMake gen st holder off home base size ctxn) = gen % 256 ∧ hState (hMake gen st holder off home base size ctxn) = st ∧
      hHolder (hMake gen st holder off home base size ctxn) = holder ∧ hOffer (hMake gen st holder off home base size ctxn) = off := by
  have hgen : gen % 256 < 2 ^ 8 := Nat.mod_lt _ (by decide)
  simp only [hGen, hState, hHolder, hOffer, wf64, bitsN, hMake, BitVec.toNat_ofNat]
  omega

section
variable (e : Word)

theorem hWith_fields {st holder off : Nat} (hst : st < 2 ^ 4) (hholder : holder < 2 ^ 5) (hoff : off < 2 ^ 5) :
    hGen (hWith e st holder off) = hGen e ∧ hState (hWith e st holder off) = st ∧ hHolder (hWith e st holder off) = holder ∧
      hOffer (hWith e st holder off) = off := by
  have hgen : hGen e % 256 = hGen e := Nat.mod_eq_of_lt (wf64_lt e 63 56)
  rw [← hgen]
  exact hMake_fields hst hholder hoff (wf64_lt ..) (wf64_lt ..) (wf64_lt ..) (wf64_lt ..)

theorem hFree_fields : hGen (hFree e) = (hGen e + 1) % 256 ∧ hState (hFree e) = 0 := by
  obtain ⟨hgen, hstate, -, -⟩ := hMake_fields (gen := hGen e + 1) (st := 0) (holder := 0) (off := 0) (home := hHome e) (base := hBase e)
    (size := hSize e) (ctxn := hCtxn e) (by decide) (by decide) (by decide) (wf64_lt ..) (wf64_lt ..) (wf64_lt ..) (wf64_lt ..)
  exact ⟨hgen, hstate⟩

end

theorem holderCode_lt (t : Nat) (sk : Strm) : holderCode t sk < 2 ^ 5 := by
  have htile : tileIn t < 8 := Nat.mod_lt _ (by decide)
  have hstrm := sidx_lt sk
  rw [holderCode]
  omega

/-! The handle table through a retirement. -/

theorem handleAt_retire (s : State) (tk : BitVec 4) (f : Flow) (t h : Nat) : handleAt (retire s tk f) t h = handleAt s t h := by
  rw [sameOutside_retire s tk f]
  rfl

@[simp] theorem handleAt_noteGive (s : State) (t h : Nat) (k : Know) : handleAt (noteGive s t h k) t h = handleAt s t h := by
  simp [noteGive, handleAt]

/-! HGIVE (R166). -/

section
variable {o : FormAB} {s : State} {a b : Word}

/-- The entry that HGIVE leaves: offered to a stream, or free. -/
def givenEntry (e b : Word) : Word := if b.getLsbD 5 then hFree e else hWith e 2 0 (wf64 b 4 0)

/-- The state in which HGIVE has published the buffer's bytes. -/
def gaveState (s : State) (tk : BitVec 4) (a : Word) : State :=
  releaseIn (setCur s (popBits (cur s) tk)) s.curTile s.curStrm .cluster (some (bufSpan s.curTile (handleAt s s.curTile (wf64 a 15 0))))

theorem exec_hgive_gives (hissues : Issues s o.tk) (ha : Reads s o.a a) (hb : Reads s o.b b)
    (hvalid : handleValid s s.curTile (wf64 a 15 0) = true) (hheld : heldBy (handleAt s s.curTile (wf64 a 15 0)) s.curTile s.curStrm = true)
    (hposted : (cur s).posted = []) (hland : loadsLanded (cur s) = true) (hcmds : (cur s).cmds = [])
    (hat : atomicsOf s s.curTile s.curStrm = []) :
    exec (.hgive o) s = .next (retire (noteGive (setHandle (gaveState s o.tk a) s.curTile (wf64 a 15 0)
      (givenEntry (handleAt s s.curTile (wf64 a 15 0)) b)) s.curTile (wf64 a 15 0) (endedAll (cur (gaveState s o.tk a)))) o.tk .seq) := by
  refine issue_ok (canIssue_of_issues hissues) ?_
  simp only [readSrc_of_reads ha, readSrc_of_reads hb, tokensReady_of_issues hissues, chk_bind_ok, hvalid, hheld, Bool.and_self,
    need_true, hland, hcmds, hposted, hat, List.all_nil, waitFor_true]
  rfl

theorem exec_hgive_owner (hissues : Issues s o.tk) (ha : Reads s o.a a) (hb : Reads s o.b b)
    (hnot : (handleValid s s.curTile (wf64 a 15 0) && heldBy (handleAt s s.curTile (wf64 a 15 0)) s.curTile s.curStrm) = false) :
    exec (.hgive o) s = .next (takeTrap s .owner a (cur s).pc) := by
  refine issue_trap (canIssue_of_issues hissues) ?_
  simp only [readSrc_of_reads ha, readSrc_of_reads hb, tokensReady_of_issues hissues, chk_bind_ok, need_false hnot]
  rfl

theorem gaveState_mem (tk : BitVec 4) (hposted : (cur s).posted = []) : (gaveState s tk a).mem = s.mem := by
  obtain ⟨-, -, hnone⟩ := publishesOnly_releaseIn 0 s tk .cluster (some (bufSpan s.curTile (handleAt s s.curTile (wf64 a 15 0)))) none
  exact hnone hposted

end

/-! HQRY and HTAKE (R167, R168). -/

section
variable {o : FormDA} {s : State} {a : Word}

theorem exec_hqry_answers (hissues : Issues s o.tk) (ha : Reads s o.a a) (hd : Writes s o.d) :
    exec (.hqry o) s = .next (goesOn s (landLater (popped s o.tk) o.d
      (if handleValid s s.curTile (wf64 a 15 0) then handleAt s s.curTile (wf64 a 15 0) else 0) .fixed) o.tk) := by
  refine issue_ok (canIssue_of_issues hissues) ?_
  simp only [readSrc_of_reads ha, tokensReady_of_issues hissues, destReady_of_writes hd, chk_bind_ok]

theorem exec_htake_waits (hissues : Issues s o.tk) (ha : Reads s o.a a) (hd : Writes s o.d) (hat : atomicsOf s s.curTile s.curStrm ≠ []) :
    exec (.htake o) s = .next s := by
  refine issue_stall ?_
  simp only [readSrc_of_reads ha, tokensReady_of_issues hissues, destReady_of_writes hd, chk_bind_ok,
    waitFor_false (List.isEmpty_eq_false_iff.mpr hat), chk_bind_error]

/-- The stream of an HTAKE, with its status on its way. -/
def answered (s : State) (o : FormDA) (code : Nat) : State := setCur s (landLater (popped s o.tk) o.d (BitVec.ofNat 64 code) .fixed)

/-- The state of an HTAKE that takes its buffer, before it retires. -/
def tookState (s : State) (o : FormDA) (h : Nat) : State :=
  takeBuffer (setHandle (answered s o 0) s.curTile h (hWith (handleAt s s.curTile h) 1 (holderCode s.curTile s.curStrm) 0)) s.curTile s.curStrm h
    (bufSpan s.curTile (handleAt s s.curTile h)).1 (bufSpan s.curTile (handleAt s s.curTile h)).2

/-- HTAKE, by its status. -/
theorem exec_htake_status {code : Nat} (hissues : Issues s o.tk) (ha : Reads s o.a a) (hd : Writes s o.d)
    (hat : atomicsOf s s.curTile s.curStrm = []) (hcode : htakeStatus s s.curTile s.curStrm (wf64 a 15 0) = code) :
    exec (.htake o) s = .next (retire (if code = 0 then tookState s o (wf64 a 15 0) else answered s o code) o.tk .seq) := by
  refine issue_ok (canIssue_of_issues hissues) ?_
  simp only [readSrc_of_reads ha, tokensReady_of_issues hissues, destReady_of_writes hd, chk_bind_ok, hat, List.isEmpty_nil, waitFor_true,
    hcode]
  split
  · next h => subst h; rfl
  · rfl

/-- A buffer taken: the stream is its holder, with its status on its way, and memory is as it was. -/
theorem tookState_effect (h : Nat) : handleAt (tookState s o h) s.curTile h = hWith (handleAt s s.curTile h) 1 (holderCode s.curTile s.curStrm) 0 ∧
    (tookState s o h).mem = s.mem ∧ (tookState s o h).curTile = s.curTile ∧ (tookState s o h).curStrm = s.curStrm ∧
      (strmAt (tookState s o h) s.curTile s.curStrm).landings =
        (cur s).landings ++ [{ phys := physReg (cur s) o.d, val := 0, kind := .fixed }] := by
  refine ⟨?_, rfl, rfl, rfl, ?_⟩
  · simp [tookState, takeBuffer, acquireIn]
  · simp [tookState, takeBuffer, acquireIn, enter, learn, answered, setCur, landLater]

end

/-! HTAKE's status (R167). -/

section
variable {s : State} {t h : Nat} {sk : Strm}

theorem htakeStatus_offered (hvalid : handleValid s t h = true) (hoffered : hState (handleAt s t h) = 2 ∧ hOffer (handleAt s t h) = holderCode t sk) :
    htakeStatus s t sk h = 0 := by
  simp [htakeStatus, hvalid, hoffered]

theorem htakeStatus_invalid (hvalid : handleValid s t h = false) : htakeStatus s t sk h = 2 := by simp [htakeStatus, hvalid]

theorem htakeStatus_held (hvalid : handleValid s t h = true) (hheld : heldBy (handleAt s t h) t sk = true) : htakeStatus s t sk h = 3 := by
  have hstate : hState (handleAt s t h) = 1 := by
    simp only [heldBy, Bool.and_eq_true, beq_iff_eq] at hheld
    exact hheld.1
  simp [htakeStatus, hvalid, hheld, hstate]

theorem htakeStatus_other (hvalid : handleValid s t h = true) (hheld : heldBy (handleAt s t h) t sk = false)
    (hnot : ¬ (hState (handleAt s t h) = 2 ∧ hOffer (handleAt s t h) = holderCode t sk)) : htakeStatus s t sk h = 1 := by
  simp only [htakeStatus, hvalid, hheld, Bool.not_true, Bool.false_eq_true, if_false, if_neg hnot]

end

/-- Retirement moves no result that is still to land. -/
theorem landings_retire (s : State) (tk : BitVec 4) : (cur (retire s tk .seq)).landings = (strmAt s s.curTile s.curStrm).landings := by
  have hadv : ∀ st, (advanced s st .seq).landings = st.landings := by
    intro st
    simp only [advanced]
    unfold nextSeq passA passB
    dsimp only
    repeat' split
    all_goals rfl
  have htrap : ∀ st c v r, (trapped st c v r).landings = st.landings := by
    intro st c v r
    unfold trapped
    split <;> rfl
  rw [cur_retire]
  rcases strmAt_retireAt s s.curTile s.curStrm tk .seq with hr | ⟨v, hr⟩ <;> rw [retire, hr]
  · exact hadv _
  · exact (htrap ..).trans (hadv _)

/-- Settles O31: HGIVE writes the entry that its b names once the buffer's bytes are released, and HTAKE goes by its status. -/
theorem handlesPassFromStreamToStream : Obligations.HandlesPassFromStreamToStream := by
  refine ⟨fun o s a b hissues ha hb _ _ hvalid hheld hposted hland hcmds hat => ?give, fun o s a b => exec_hgive_owner,
    fun o s a hissues ha hd => ⟨exec_hqry_answers hissues ha hd, exec_htake_waits hissues ha hd, fun e he hat => ?take⟩⟩
  case give =>
    refine ⟨_, exec_hgive_gives hissues ha hb hvalid hheld hposted hland hcmds hat, (retire_mem ..).trans (gaveState_mem o.tk hposted), ?_⟩
    rw [handleAt_retire, handleAt_noteGive, handleAt_setHandle]
    refine ⟨fun h5 => ?_, fun h5 => ?_⟩
    · obtain ⟨hgen, hstate, -, hoffer⟩ := hWith_fields (handleAt s s.curTile (wf64 a 15 0)) (st := 2) (holder := 0) (off := wf64 b 4 0)
        (by decide) (by decide) (wf64_lt b 4 0)
      rw [givenEntry, h5]
      exact ⟨hstate, hoffer, hgen⟩
    · obtain ⟨hgen, hstate⟩ := hFree_fields (handleAt s s.curTile (wf64 a 15 0))
      rw [givenEntry, h5]
      exact ⟨hstate, hgen⟩
  case take =>
    subst he
    have htake := fun code => exec_htake_status (code := code) hissues ha hd hat
    refine ⟨fun hvalid hstate hoffer => ?_, fun hvalid => htake 2 (htakeStatus_invalid hvalid),
      fun hvalid hheld => htake 3 (htakeStatus_held hvalid hheld),
      fun hvalid hheld hnot => htake 1 (htakeStatus_other hvalid hheld hnot)⟩
    obtain ⟨hentry, hmem, htile, hstrm, hlandings⟩ := tookState_effect (o := o) (s := s) (wf64 a 15 0)
    obtain ⟨-, hone, hholder, -⟩ := hWith_fields (handleAt s s.curTile (wf64 a 15 0)) (st := 1) (holder := holderCode s.curTile s.curStrm)
      (off := 0) (by decide) (holderCode_lt ..) (by decide)
    refine ⟨_, htake 0 (htakeStatus_offered hvalid ⟨hstate, hoffer⟩), ?_, (retire_mem ..).trans hmem, ?_⟩
    · rw [handleAt_retire, if_pos rfl, hentry, heldBy, hone, hholder]
      simp
    · rw [landings_retire, if_pos rfl, htile, hstrm, hlandings]

end Sys2Proof.Proofs
end

/-! PROOFS. What an acquire point makes certain, and what an engine reads. -/
section

namespace Sys2Proof.Proofs

open Sys2Proof Sys2Proof.Machine Sys2Proof.Claims

/-! What a read returns of the writes that are in its view (R177, R180). -/

/-- The last of some writes that pass a test lies at or after each that does. -/
theorem getLast?_filter_after {α : Type} {f : α → Bool} {pre post : List α} {w : α} (hw : f w = true) :
    ∃ v ∈ w :: post, ((pre ++ w :: post).filter f).getLast? = some v := by
  have hsplit : (pre ++ w :: post).filter f = pre.filter f ++ (w :: post).filter f := List.filter_append ..
  have hmem : w ∈ (w :: post).filter f := List.mem_filter.mpr ⟨List.mem_cons_self, hw⟩
  cases hlast : ((w :: post).filter f).getLast? with
  | none => exact absurd (List.getLast?_eq_none_iff.mp hlast) (List.ne_nil_of_mem hmem)
  | some v =>
    refine ⟨v, (List.mem_filter.mp (List.mem_of_getLast? hlast)).1, ?_⟩
    rw [hsplit, List.getLast?_append, hlast]
    rfl

/-- A byte by some writes is as one of them at or after each that passes the test leaves it. -/
theorem viewBy_after {f : WriteRec → Bool} {pre post : List WriteRec} {w : WriteRec} (now : Byte) (hw : f w = true) :
    ∃ v ∈ w :: post, viewBy f (pre ++ w :: post) now = v.new := by
  obtain ⟨v, hv, hlast⟩ := getLast?_filter_after (pre := pre) (post := post) hw
  exact ⟨v, hv, by simp only [viewBy, hlast]⟩

/-! What an acquire point makes certain (R180, R183). -/

theorem inSpan_iff {sp : Option (Nat × Nat)} {a : Nat} : inSpan sp a = true ↔ ∀ b n, sp = some (b, n) → b ≤ a ∧ a < b + n := by
  rcases sp with _ | ⟨b, n⟩ <;> simp [inSpan]

theorem covers_eq (t : Nat) (sc : Scope) (r : RelPt) (w : WriteRec) : covers t sc r w =
    (r.tile == w.tile && r.strm == w.strm && decide (w.id < r.upto) && sameInst r.scope r.tile t && sameInst sc r.tile t &&
      inSpan r.span w.addr) := rfl

theorem releasedWritesAreCertain : ReleasedWritesAreCertain := by
  intro s t sc x w path hcore hpath
  have hsel : (path.isNone || path == some w.path) = true := by rcases hpath with h | h <;> simp [h, hcore]
  have hcovers : ∀ r, covers t sc r w = true ↔ r.tile = w.tile ∧ r.strm = w.strm ∧ w.id < r.upto ∧ sameInst r.scope r.tile t = true ∧
      sameInst sc r.tile t = true ∧ (∀ b n, r.span = some (b, n) → b ≤ w.addr ∧ w.addr < b + n) := by
    intro r
    rw [covers_eq]
    simp only [Bool.and_eq_true, beq_iff_eq, decide_eq_true_eq, inSpan_iff, and_assoc]
  rw [acquirable, hsel, Bool.true_and, certain, if_pos hcore, List.any_eq_true]
  simp only [Option.any_eq_true, hcovers]

theorem acquiredWritesAreReturned : AcquiredWritesAreReturned := by
  intro s t sk sc path q pre post w hlog hacq hposted
  have hstrm : strmAt (acquire s t sk sc path) t sk =
      enter { strmAt s t sk with know := knowAt s t sk sc } (certainIds s t sc (knowAt s t sk sc) (some path) none) := strmAt_setStrm_same ..
  have hw : w ∈ s.wlog := (List.mem_filter.mp (hlog ▸ List.mem_append_right pre List.mem_cons_self)).1
  have hid : w.id ∈ certainIds s t sc (knowAt s t sk sc) (some path) none :=
    List.mem_map_of_mem (List.mem_filter.mpr ⟨hw, by simpa using hacq⟩)
  have hview : inView t sk (strmAt (acquire s t sk sc path) t sk) w = true := by
    have hin : w.id ∈ (strmAt (acquire s t sk sc path) t sk).entered := by
      rw [hstrm, enter]
      by_cases h : w.id ∈ (strmAt s t sk).entered <;> simp [h, hid]
    simp [inView, hin]
  obtain ⟨v, hv, hbyte⟩ := viewBy_after (pre := pre) (post := post) (memGet s.mem q) hview
  refine ⟨v, hv, ?_⟩
  have hown : (strmAt (acquire s t sk sc path) t sk).posted = (strmAt s t sk).posted := by rw [hstrm]; rfl
  rw [loadByte_own, hown, hposted, ← hbyte, ← hlog]
  rfl

/-! What the engines of a stream read (R184, R185). -/

theorem getElem?_span {a n i : Nat} (h : i < n) : (span a n)[i]? = some (a + i) := by
  induction n generalizing a i with
  | zero => exact absurd h (Nat.not_lt_zero i)
  | succ n ih =>
    cases i with
    | zero => rfl
    | succ i =>
      rw [span, List.getElem?_cons_succ, ih (Nat.lt_of_succ_lt_succ h)]
      exact congrArg some (Nat.add_right_comm a 1 i)

theorem segRead_all_seen {s : State} {w : Who} {g : Seg}
    (h : ∀ x ∈ s.wlog, g.phys ≤ x.addr → x.addr < g.phys + g.len → surelySeen w x = true) : segRead s w g = readAt s g.phys g.len := by
  have hall : (s.wlog.filter fun x => decide (g.phys ≤ x.addr) && decide (x.addr < g.phys + g.len)).all (surelySeen w) = true := by
    simp only [List.all_eq_true, List.mem_filter, Bool.and_eq_true, decide_eq_true_eq]
    exact fun x ⟨hx, hlow, hhigh⟩ => h x hx hlow hhigh
  rw [segRead, if_pos hall]

/-- A byte of a piece that a read may not take from the port. -/
theorem segRead_some_unseen {s : State} {w : Who} {g : Seg} {i : Nat} {y : WriteRec} (hi : i < g.len) (hy : y ∈ s.wlog)
    (hlow : g.phys ≤ y.addr) (hhigh : y.addr < g.phys + g.len) (hnot : surelySeen w y = false) :
    (segRead s w g)[i]? = some (viewBy (fun x => surelySeen w x || hasReached s w x) (s.wlog.filter fun z => z.addr == g.phys + i)
      (memGet s.mem (g.phys + i))) := by
  have hany : ¬ (s.wlog.filter fun x => decide (g.phys ≤ x.addr) && decide (x.addr < g.phys + g.len)).all (surelySeen w) = true := by
    rw [List.all_eq_true]
    intro h
    have hseen := h y (List.mem_filter.mpr ⟨hy, by simp [hlow, hhigh]⟩)
    rw [hnot] at hseen
    exact nomatch hseen
  have hfilter : (s.wlog.filter fun x => decide (g.phys ≤ x.addr) && decide (x.addr < g.phys + g.len)).filter (·.addr == g.phys + i) =
      s.wlog.filter fun z => z.addr == g.phys + i := by
    rw [List.filter_filter]
    refine List.filter_congr fun z _ => ?_
    by_cases hz : z.addr = g.phys + i
    · simp [hz, hi]
    · simp [hz]
  rw [segRead, if_neg hany, List.getElem?_map, getElem?_span hi, Option.map_some, hfilter]

/-- What is guaranteed to a stream's later commands on a path: what its FENCXs have noted, and what a release point to the path covers. -/
theorem mem_reachOf {s : State} {t : Nat} {st : Stream} {k : Know} {q : Path} {i : Nat} :
    i ∈ reachOf s t st k q ↔ (q, i) ∈ st.reach ∨ i ∈ (s.wlog.filter (fenced s t k.rels q)).map (·.id) := by
  rw [reachOf, List.mem_append]
  refine or_congr_left ?_
  rw [List.mem_map]
  constructor
  · rintro ⟨⟨p, j⟩, hp, rfl⟩
    obtain ⟨hin, hpath⟩ := List.mem_filter.mp hp
    rw [← eq_of_beq hpath]
    exact hin
  · exact fun h => ⟨(q, i), List.mem_filter.mpr ⟨h, beq_self_eq_true q⟩, rfl⟩

theorem enginesReadWhatIsGuaranteed : EnginesReadWhatIsGuaranteed := by
  refine ⟨fun s w g => segRead_all_seen, fun s w g i pre post x y hi hlog hx hy hlow hhigh hnot => ?_, fun w x b ids hsees => ?_,
    fun s t st k p q ids i hi => ⟨?_, fun hne => ?_⟩⟩
  · obtain ⟨z, hz, hbyte⟩ := viewBy_after (f := fun x => surelySeen w x || hasReached s w x) (pre := pre) (post := post)
      (memGet s.mem (g.phys + i)) (by rw [hx, Bool.true_or])
    exact ⟨z, hz, by rw [segRead_some_unseen hi hy hlow hhigh hnot, hlog, hbyte]⟩
  · simp only [surelySeen, hsees, Bool.or_eq_true, beq_iff_eq, decide_eq_true_eq, List.contains_iff_mem, or_assoc]
  · exact mem_reachOf.mpr (.inl ((mem_guarantee_reach ..).mpr (.inr ⟨List.mem_singleton_self p, hi⟩)))
  · rw [mem_reachOf, mem_reachOf, mem_guarantee_reach]
    have hout : ¬ (q ∈ [p] ∧ i ∈ ids) := fun h => hne (List.mem_singleton.mp h.1).symm
    simp only [hout, or_false]

end Sys2Proof.Proofs
end

/-! PROOFS. Release points, PHASE and FENCX. -/
section

namespace Sys2Proof.Proofs

open Sys2Proof Sys2Proof.Machine Sys2Proof.Claims

/-! The memory that a release point leaves (R178). -/

/-- A byte of canonical memory after a write of bytes. -/
theorem memGet_memWrite {m : Mem} (h : Memory.wf m = true) (p a : Nat) (bs : List Byte) :
    memGet (memWrite m p bs) a = (byteOf p bs a).getD (memGet m a) := by
  by_cases hin : p ≤ a ∧ a < p + bs.length
  · obtain ⟨hlow, hhigh⟩ := hin
    obtain ⟨i, rfl⟩ := Nat.exists_eq_add_of_le hlow
    have hi : i < bs.length := Nat.lt_of_add_lt_add_left hhigh
    rw [memGet_write_in h p i bs hi, byteOf, if_pos hlow, Nat.add_sub_cancel_left]
    simp [hi]
  · have hnone : byteOf p bs a = none := by
      rw [byteOf]
      split
      · exact List.getElem?_eq_none (by omega)
      · rfl
    rw [memGet_write_other h p a bs (by omega), hnone, Option.getD_none]

section
variable {t : Nat} {sk : Strm} {sc : Scope} {s : State}

/-- A store that no TLBI has placed is written whole at its port. -/
theorem memGet_publishOne {x : Posted} (hmem : MemInv s) (hclean : s.poison = []) (hx : x.placed = none) (a : Nat) :
    memGet (publishOne t sk sc s x).mem a = (byteOf x.addr x.bytes a).getD (memGet s.mem a) := by
  have hplace : placeOf s x = none := by rw [placeOf, hx]; rfl
  unfold publishOne
  simp only [hplace]
  rw [writeAt_mem _ _ _ _ (poisonIn_nil (by rw [raised_poison, hclean]) ..), raised_mem, memGet_memWrite hmem]

/-- Stores that no TLBI has placed are written in order, so that the latest over a byte decides. -/
theorem memGet_foldl_publishOne (ps : List Posted) (hmem : MemInv s) (hclean : s.poison = []) (hps : ∀ x ∈ ps, x.placed = none) (a : Nat) :
    memGet (ps.foldl (publishOne t sk sc) s).mem a = (postedByte ps a).getD (memGet s.mem a) := by
  induction ps generalizing s with
  | nil => rfl
  | cons x xs ih =>
    obtain ⟨hmem', hclean', -⟩ := (writesIn_publishOne (P := fun _ => True) t sk sc s (x := x) fun _ _ _ => trivial).1 hmem hclean
    have hone := memGet_publishOne (t := t) (sk := sk) (sc := sc) hmem hclean (hps x List.mem_cons_self) a
    rw [List.foldl_cons, ih hmem' hclean' (fun y hy => hps y (List.mem_cons_of_mem x hy)), hone,
      show x :: xs = [x] ++ xs from rfl, postedByte_append, postedByte_singleton]
    cases postedByte xs a <;> rfl

/-- A publication leaves no own write of its stream at a scope that does not contain it. -/
theorem scope_portsAfter {w : WriteRec} (hw : w ∈ (portsAfter s t sk sc).wlog) (hown : ownWrite t sk w = true) : scopeGe w.scope sc = true := by
  obtain ⟨v, -, rfl⟩ := List.mem_map.mp hw
  by_cases hcond : (ownWrite t sk v && true && !scopeGe v.scope sc) = true
  · rw [if_pos hcond]
    simp [scopeGe]
  · rw [if_neg hcond] at hown ⊢
    simpa [hown] using hcond

end

theorem releasesPublishEveryEarlierWrite : ReleasesPublishEveryEarlierWrite := by
  rintro s u t sk sc q rfl
  obtain ⟨hstrm, hrel, hupto, -, -⟩ := publish_effect s t sk sc q
  have hports : (publish s t sk sc q).mem = (portsAfter s t sk sc).mem ∧ (publish s t sk sc q).wlog = (portsAfter s t sk sc).wlog := by
    rw [publish_eq]
    exact ⟨rfl, rfl⟩
  obtain ⟨hmem, hwlog⟩ := hports
  rw [hstrm, hmem, hwlog]
  exact ⟨rfl, rfl, fun w hw hown => scope_portsAfter hw hown, fun hs hclean hplaced a => memGet_foldl_publishOne _ hs hclean hplaced a,
    by simp [published], _, hrel, rfl, rfl, rfl, hupto.symm, rfl, rfl, rfl⟩

/-! PHASE and FENCX (R179, R186). -/

/-- A word that waits where one of its conditions fails, whatever the others are. -/
theorem waits_of_bind {α β : Type} {x : Chk α} {f : α → Chk β} (hx : (∃ a, x = .ok a) ∨ x = .error .stall)
    (hf : ∀ a, x = .ok a → f a = .error .stall) : (x >>= f) = .error .stall := by
  rcases hx with ⟨a, rfl⟩ | rfl
  · exact hf a rfl
  · rfl

theorem waitFor_cases (b : Bool) : (∃ a, waitFor b = .ok a) ∨ waitFor b = .error .stall := by
  cases b
  · exact .inr rfl
  · exact .inl ⟨_, rfl⟩

section
variable {o : FormPhase} {s : State}

theorem exec_phase_publishes (hissues : Issues s o.tk) (hland : loadsLanded (cur s) = true)
    (hperf : performed s s.curTile s.curStrm o.scope = true) :
    exec (.phase o) s = .next (retire (syncFetch (acquire (publish (setCur s (popped s o.tk)) s.curTile s.curStrm o.scope)
      s.curTile s.curStrm o.scope .core)) o.tk .seq) := by
  refine issue_ok (canIssue_of_issues hissues) ?_
  simp only [tokensReady_of_issues hissues, chk_bind_ok, waitFor_true hland, waitFor_true hperf]

theorem exec_phase_waits (hissues : Issues s o.tk)
    (h : loadsLanded (cur s) = false ∨ performed s s.curTile s.curStrm o.scope = false) : exec (.phase o) s = .next s := by
  refine issue_stall ?_
  simp only [tokensReady_of_issues hissues, chk_bind_ok]
  refine waits_of_bind (waitFor_cases _) fun _ hland => ?_
  have hperf : performed s s.curTile s.curStrm o.scope = false := by
    refine h.resolve_left fun hf => ?_
    rw [hf] at hland
    exact nomatch hland
  rw [waitFor_false hperf]
  rfl

end

section
variable {o : FormFencx} {s : State}

theorem feAhead_iff {t : Nat} {sk : Strm} : feAhead s t sk = true ↔ ∃ f ∈ s.fe.launchq, f.tile = t ∧ f.strm = sk := by
  simp [feAhead]

/-- FENCX once its tokens are there: its wait for atomics, its first path, then its second. -/
theorem execFencx_issued {u : State} (hissues : Issues s o.tk) (hat : o.p2 = .core → atomicsOf s s.curTile s.curStrm = [])
    (hfirst : fenceFirst o s = .ok u) : exec (.fencx o) s = .next (retire (fenceSecond o u) o.tk .seq) := by
  have hwait : (o.p2 != .core || (atomicsOf s s.curTile s.curStrm).isEmpty) = true := by
    by_cases h : o.p2 = .core
    · simp [hat h]
    · simp [h]
  refine issue_ok (canIssue_of_issues hissues) ?_
  simp only [tokensReady_of_issues hissues, chk_bind_ok, waitFor_true hwait, hfirst]

theorem execFencx_stalls (hissues : Issues s o.tk)
    (h : (o.p2 = .core ∧ atomicsOf s s.curTile s.curStrm ≠ []) ∨ fenceFirst o s = .error .stall) : exec (.fencx o) s = .next s := by
  refine issue_stall ?_
  simp only [tokensReady_of_issues hissues, chk_bind_ok]
  refine waits_of_bind (waitFor_cases _) fun _ hwait => ?_
  have hfirst : fenceFirst o s = .error .stall := by
    refine h.resolve_left fun ⟨hcore, hat⟩ => ?_
    simp [waitFor, hcore, hat] at hwait
  rw [hfirst]
  rfl

theorem fenceFirst_core (hcore : o.p1 = .core) (hland : loadsLanded (cur s) = true)
    (hperf : performed s s.curTile s.curStrm o.scope = true) :
    fenceFirst o s = .ok (publish (setCur s (popped s o.tk)) s.curTile s.curStrm o.scope (some o.p2)) := by
  simp only [fenceFirst, if_pos hcore, waitFor_true hland, waitFor_true hperf, chk_bind_ok]

theorem fenceFirst_core_waits (hcore : o.p1 = .core)
    (h : loadsLanded (cur s) = false ∨ performed s s.curTile s.curStrm o.scope = false) : fenceFirst o s = .error .stall := by
  simp only [fenceFirst, if_pos hcore]
  refine waits_of_bind (waitFor_cases _) fun _ hland => ?_
  have hperf : performed s s.curTile s.curStrm o.scope = false := by
    refine h.resolve_left fun hf => ?_
    rw [hf] at hland
    exact nomatch hland
  rw [waitFor_false hperf]
  rfl

theorem pathBusy_eq_false (hcmds : ∀ c ∈ (cur s).cmds, c.path ≠ o.p1) (hfe : o.p1 = .front → feAhead s s.curTile s.curStrm = false) :
    pathBusy s s.curTile s.curStrm o.p1 = false := by
  have hnone : (cur s).cmds.any (·.path == o.p1) = false := by simpa using hcmds
  have hfront : (o.p1 == .front && feAhead s s.curTile s.curStrm) = false := by
    by_cases h : o.p1 = .front
    · simp [hfe h]
    · simp [h]
  rw [pathBusy, hfront, Bool.or_false]
  exact hnone

theorem fenceFirst_engine (hcore : o.p1 ≠ .core) (hbusy : pathBusy s s.curTile s.curStrm o.p1 = false) :
    fenceFirst o s = .ok (setCur (setCur s (popped s o.tk)) (learn (cur (setCur s (popped s o.tk))) (endedKnow (cur s) o.p1))) := by
  simp only [fenceFirst, if_neg hcore, hbusy, Bool.not_false, waitFor_true, chk_bind_ok]

theorem fenceFirst_engine_waits (hcore : o.p1 ≠ .core) (hbusy : pathBusy s s.curTile s.curStrm o.p1 = true) :
    fenceFirst o s = .error .stall := by
  simp only [fenceFirst, if_neg hcore, hbusy, Bool.not_true, waitFor_false, chk_bind_error]

/-- FENCX from the core, to itself or to another path. -/
theorem exec_fencx_core (hissues : Issues s o.tk) (hcore : o.p1 = .core) (hland : loadsLanded (cur s) = true)
    (hperf : performed s s.curTile s.curStrm o.scope = true) :
    exec (.fencx o) s = .next (retire (let t := publish (setCur s (popped s o.tk)) s.curTile s.curStrm o.scope (some o.p2)
      if o.p2 = .core then syncFetch (acquire t s.curTile s.curStrm o.scope .core) else onward s o t) o.tk .seq) := by
  obtain ⟨htile, hstrm⟩ := publish_curs (setCur s (popped s o.tk)) s.curTile s.curStrm o.scope (some o.p2)
  have hat : atomicsOf s s.curTile s.curStrm = [] := by
    simp only [performed, Bool.and_eq_true, List.isEmpty_iff] at hperf
    exact hperf.2
  rw [execFencx_issued hissues (fun _ => hat) (fenceFirst_core hcore hland hperf), fenceSecond, htile, hstrm]
  simp only [onward, hcore, setCur_curTile, setCur_curStrm, if_true]

/-- FENCX from an engine's path once its commands have ended. -/
theorem exec_fencx_engine (hissues : Issues s o.tk) (hcore : o.p1 ≠ .core) (hbusy : pathBusy s s.curTile s.curStrm o.p1 = false)
    (hat : o.p2 = .core → atomicsOf s s.curTile s.curStrm = []) :
    exec (.fencx o) s = .next (retire (let u := setCur s (popped s o.tk)
      let t := setCur u (learn (cur u) { cmds := ((cur s).ended.filter (·.1 == o.p1)).map (·.2) })
      if o.p2 = .core then acquire t s.curTile s.curStrm o.scope o.p1 else onward s o t) o.tk .seq) := by
  rw [execFencx_issued hissues hat (fenceFirst_engine hcore hbusy), fenceSecond]
  simp only [if_neg hcore]
  rfl

end

theorem fencesPublishAndAcquire : FencesPublishAndAcquire := by
  refine ⟨fun o s => exec_phase_publishes, fun o s => exec_phase_waits,
    fun o s hissues => ⟨exec_fencx_core hissues, fun hcore hcmds hfe => exec_fencx_engine hissues hcore (pathBusy_eq_false hcmds hfe), ?_⟩,
    fun s t sk => feAhead_iff⟩
  rintro (⟨hcore, hwait⟩ | ⟨hcore, c, hc, hpath⟩ | ⟨hfront, hfe⟩ | hat)
  · exact execFencx_stalls hissues (.inr (fenceFirst_core_waits hcore hwait))
  · have hbusy : pathBusy s s.curTile s.curStrm o.p1 = true := by
      rw [pathBusy, Bool.or_eq_true, List.any_eq_true]
      exact .inl ⟨c, hc, by simp [hpath]⟩
    exact execFencx_stalls hissues (.inr (fenceFirst_engine_waits hcore hbusy))
  · have hbusy : pathBusy s s.curTile s.curStrm o.p1 = true := by simp [pathBusy, hfront, hfe]
    exact execFencx_stalls hissues (.inr (fenceFirst_engine_waits (by simp [hfront]) hbusy))
  · exact execFencx_stalls hissues (.inl hat)

end Sys2Proof.Proofs
end

/-! PROOFS. The rendezvous. -/
section

namespace Sys2Proof.Proofs

open Sys2Proof Sys2Proof.Machine Sys2Proof.Claims

/-! The arrival (R162). -/

/-- A stream that has arrived at a rendezvous of a kind and waits there; prior is what happened before its RDVZ. -/
def arrivedAt (x : Stream) (block : Bool) (tk : BitVec 4) (prior : Know) : Stream :=
  { x with wait := .rdvz block tk, rdvzKnow := x.know, rdvzPrior := prior
           rdvzTile := if block then x.rdvzTile else x.rdvzTile + 1
           rdvzBlock := if block then x.rdvzBlock + 1 else x.rdvzBlock }

theorem rdvzCount_arrivedAt (x : Stream) (block : Bool) (tk : BitVec 4) (prior : Know) :
    rdvzCount (arrivedAt x block tk prior) block = rdvzCount x block + 1 ∧
      rdvzCount (arrivedAt x block tk prior) (!block) = rdvzCount x (!block) := by
  cases block <;> exact ⟨rfl, rfl⟩

section
variable {o : FormRdvz} {s : State}

/-- The state in which RDVZ has published the writes of its stream. -/
def rdvzState (o : FormRdvz) (s : State) : State :=
  publish (setCur s (popped s o.tk)) s.curTile s.curStrm (rdvzScope s o.block s.curTile)

theorem cur_rdvzState : cur (rdvzState o s) = published (popped s o.tk) s.nextRel := by
  obtain ⟨hstrm, -, -, htile, hsk⟩ := publish_effect (setCur s (popped s o.tk)) s.curTile s.curStrm (rdvzScope s o.block s.curTile) none
  rw [rdvzState, cur, htile, hsk]
  exact hstrm.trans (by simp [setCur])

/-- The arrival is a release point of the rendezvous's scope (R162). -/
theorem rdvzState_release : ∃ r, mget? (rdvzState o s).rels s.nextRel = some r ∧ r.scope = rdvzScope s o.block s.curTile ∧
    r.upto = (rdvzState o s).wnext := by
  obtain ⟨-, hrel, hupto, -, -⟩ := publish_effect (setCur s (popped s o.tk)) s.curTile s.curStrm (rdvzScope s o.block s.curTile) none
  exact ⟨_, hrel, rfl, hupto.symm⟩

theorem exec_rdvz_arrives (hissues : Issues s o.tk) (hland : loadsLanded (cur s) = true) (hat : atomicsOf s s.curTile s.curStrm = []) :
    exec (.rdvz o) s = .next (setCur (rdvzState o s) (arrivedAt (cur (rdvzState o s)) o.block o.tk (cur s).know)) := by
  refine issue_ok (canIssue_of_issues hissues) ?_
  simp only [tokensReady_of_issues hissues, chk_bind_ok, waitFor_true hland, hat, List.isEmpty_nil, waitFor_true]
  cases hb : o.block <;> simp only [arrivedAt, rdvzState, hb] <;> rfl

theorem exec_rdvz_waits (hissues : Issues s o.tk) (h : loadsLanded (cur s) = false ∨ atomicsOf s s.curTile s.curStrm ≠ []) :
    exec (.rdvz o) s = .next s := by
  refine issue_stall ?_
  simp only [tokensReady_of_issues hissues, chk_bind_ok]
  refine waits_of_bind (waitFor_cases _) fun _ hland => ?_
  have hat : (atomicsOf s s.curTile s.curStrm).isEmpty = false := by
    rcases h with hf | hne
    · rw [hf] at hland
      exact nomatch hland
    · simpa using hne
  rw [waitFor_false hat]
  rfl

end

theorem rdvzCount_popBits (st : Stream) (tk : BitVec 4) (b : Bool) : rdvzCount (popBits st tk) b = rdvzCount st b := by
  simp [rdvzCount]

/-! An arrival taken back (R381). -/

theorem abandon_rdvz {x : Stream} {b : Bool} {tk : BitVec 4} (h : x.wait = .rdvz b tk) : abandon x = unjoin x b tk := by
  rw [abandon, h]

theorem length_returned (w : Bool) (n : Nat) (k : Know) :
    (if w && decide (n < 8) then [k] else []).length = if w ∧ n < 8 then 1 else 0 := by
  by_cases hw : w = true <;> by_cases hn : n < 8 <;> simp [hw, hn]

theorem unjoin_effect (x : Stream) (b : Bool) (tk : BitVec 4) :
    (unjoin x b tk).wait = .none ∧ rdvzCount (unjoin x b tk) b = rdvzCount x b - 1 ∧
      rdvzCount (unjoin x b tk) (!b) = rdvzCount x (!b) ∧
      (unjoin x b tk).fromLeft = x.fromLeft + (if tkWL tk ∧ x.fromLeft < 8 then 1 else 0) ∧
      (unjoin x b tk).fromRight = x.fromRight + (if tkWR tk ∧ x.fromRight < 8 then 1 else 0) ∧
      (unjoin x b tk).know = x.rdvzPrior ∧ (unjoin x b tk).regs = x.regs ∧ (unjoin x b tk).pc = x.pc := by
  have hcount : rdvzCount (unjoin x b tk) b = rdvzCount x b - 1 ∧ rdvzCount (unjoin x b tk) (!b) = rdvzCount x (!b) := by
    cases b <;> exact ⟨rfl, rfl⟩
  exact ⟨rfl, hcount.1, hcount.2, congrArg (x.fromLeft + ·) (length_returned ..), congrArg (x.fromRight + ·) (length_returned ..),
    rfl, rfl, rfl⟩

/-! The completion of a rendezvous (R162). -/

theorem mem_rdvzParties {s : State} {b : Bool} {t : Nat} {p : Nat × Strm} :
    p ∈ rdvzParties s b t ↔ p.1 ∈ (if b then blockOf s t else [t]) := by
  obtain ⟨u, sk⟩ := p
  cases sk <;> simp [rdvzParties]

theorem allArrived_iff {s : State} {b : Bool} {t n : Nat} : allArrived s b t n = true ↔
    ∀ u ∈ (if b then blockOf s t else [t]), ∀ sk, (strmAt s u sk).halted = true ∨ n ≤ rdvzCount (strmAt s u sk) b := by
  have hall : allArrived s b t n = true ↔
      ∀ p ∈ rdvzParties s b t, (strmAt s p.1 p.2).halted = true ∨ n ≤ rdvzCount (strmAt s p.1 p.2) b := by
    simp [allArrived]
  rw [hall]
  exact ⟨fun h u hu sk => h (u, sk) (mem_rdvzParties.mpr hu), fun h p hp => h p.1 (mem_rdvzParties.mp hp) p.2⟩

theorem mem_rels_kmerge {i : Nat} {x y : Know} : i ∈ (kmerge x y).rels ↔ i ∈ x.rels ∨ i ∈ y.rels := by
  by_cases hx : i ∈ x.rels <;> simp [kmerge, hx]

/-- What a fold of merges knows: what its start knew, and what each member knows. -/
theorem mem_rels_foldl_kmerge {α : Type} (f : α → Know) (ps : List α) {i : Nat} {x : Know} :
    i ∈ (ps.foldl (fun k p => kmerge k (f p)) x).rels ↔ i ∈ x.rels ∨ ∃ p ∈ ps, i ∈ (f p).rels := by
  induction ps generalizing x with
  | nil => simp
  | cons p ps ih => simp [ih, mem_rels_kmerge, or_assoc]

theorem exec_rendezvousComplete_of_arrived {s : State} {b : Bool} {t : Nat}
    (h : ∀ u ∈ (if b then blockOf s t else [t]), ∀ sk, allArrived s b t (rdvzCount (strmAt s u sk) b) = true) :
    exec (.rendezvousComplete b t) s = .next ((rdvzParties s b t).foldl (leaveRdvz b (arrivalsKnow s b t)) s) := by
  have hready : ((rdvzParties s b t).filter fun (u, sk) => allArrived s b t (rdvzCount (strmAt s u sk) b)) = rdvzParties s b t :=
    List.filter_eq_self.mpr fun p hp => h p.1 (mem_rdvzParties.mp hp) p.2
  rw [exec_rendezvousComplete, execRendezvousComplete]
  exact congrArg (fun ps => Host.Outcome.next (List.foldl _ s ps)) hready

theorem mem_arrivalsKnow {s : State} {b : Bool} {t u i : Nat} {sk : Strm} (hu : (u, sk) ∈ rdvzParties s b t)
    (hi : i ∈ (strmAt s u sk).rdvzKnow.rels) : i ∈ (arrivalsKnow s b t).rels :=
  (mem_rels_foldl_kmerge (fun p : Nat × Strm => (strmAt s p.1 p.2).rdvzKnow) _).mpr (.inr ⟨(u, sk), hu, hi⟩)

/-! The departure (R162). -/

section
variable {s : State} {b : Bool} {t : Nat} {sk : Strm} {tk : BitVec 4} {x : Know}

/-- A stream that knows every arrival of its rendezvous and no longer waits there. -/
def departing (st : Stream) (x : Know) : Stream := learn { st with wait := .none } x

/-- The state in which a stream leaves its rendezvous, before its word retires. -/
def departState (s : State) (b : Bool) (t : Nat) (sk : Strm) (x : Know) : State :=
  acquire (setStrm s t sk (departing (strmAt s t sk) x)) t sk (rdvzScope s b t) .core

theorem leaveRdvz_stopped (hwait : (strmAt s t sk).wait = .rdvz b tk) (hrun : (strmAt s t sk).running = false) :
    leaveRdvz b x s (t, sk) = s := by
  simp [leaveRdvz, hwait, hrun]

theorem leaveRdvz_running (hwait : (strmAt s t sk).wait = .rdvz b tk) (hrun : (strmAt s t sk).running = true) :
    leaveRdvz b x s (t, sk) = retireAt (departState s b t sk x) t sk tk .seq := by
  simp only [leaveRdvz, hwait]
  exact if_pos ⟨trivial, hrun⟩

/-- The stream as it departs: it has acquired with every arrival before it. -/
theorem strmAt_departState : ∃ y ids, strmAt (departState s b t sk x) t sk = enter { strmAt s t sk with wait := .none, know := y } ids ∧
    ∀ i ∈ x.rels, i ∈ y.rels := by
  have hown : strmAt (setStrm s t sk (departing (strmAt s t sk) x)) t sk = departing (strmAt s t sk) x := strmAt_setStrm_same ..
  refine ⟨_, _, (strmAt_setStrm_same ..).trans (by rw [hown]; rfl), fun i hi => ?_⟩
  rw [knowAt, mem_rels_foldl_kmerge RelPt.know, hown]
  exact .inl (mem_rels_kmerge.mpr (.inr hi))

theorem leaveRdvz_departs (hwait : (strmAt s t sk).wait = .rdvz b tk) (hrun : (strmAt s t sk).running = true)
    (hsl : tkSL tk = false) (hsr : tkSR tk = false) (hloop : NoLoopEnd (strmAt s t sk)) :
    (strmAt (leaveRdvz b x s (t, sk)) t sk).wait = .none ∧ (strmAt (leaveRdvz b x s (t, sk)) t sk).pc = (strmAt s t sk).pc + 4 ∧
      ∀ i ∈ x.rels, i ∈ (strmAt (leaveRdvz b x s (t, sk)) t sk).know.rels := by
  obtain ⟨y, ids, hstrm, hknow⟩ := strmAt_departState (s := s) (b := b) (t := t) (sk := sk) (x := x)
  have hretired := (strmAt_retireAt_room (departState s b t sk x) t sk tk .seq (by simp [hsl]) (by simp [hsr])).1
  rw [leaveRdvz_running hwait hrun, hretired, hstrm, advanced_no_loop (by exact hloop)]
  exact ⟨rfl, rfl, hknow⟩

end

theorem rendezvousJoinsTheStreamsOfATile : RendezvousJoinsTheStreamsOfATile := by
  refine ⟨fun o s hissues hland hat => ?_, fun x b tk hwait _ => ?_, fun o s => exec_rdvz_waits, fun s b t x hall hx => ?_,
    fun s b t n => allArrived_iff, fun s b t sk tk x hwait => ⟨leaveRdvz_stopped hwait, leaveRdvz_departs hwait⟩⟩
  · obtain ⟨r, hrel, hscope, hupto⟩ := rdvzState_release (o := o) (s := s)
    obtain ⟨hcount, hother⟩ := rdvzCount_arrivedAt (cur (rdvzState o s)) o.block o.tk (cur s).know
    have hpopped : ∀ b, rdvzCount (cur (rdvzState o s)) b = rdvzCount (cur s) b := fun b => by
      rw [cur_rdvzState]
      exact rdvzCount_popBits ..
    refine ⟨_, r, exec_rdvz_arrives hissues hland hat, ?_⟩
    rw [cur_setCur, hcount, hother, hpopped, hpopped]
    refine ⟨rfl, ?_, ?_, rfl, rfl, rfl, rfl, ?_, hrel, hscope, hupto⟩
    all_goals rw [arrivedAt, cur_rdvzState]; simp [published]
  · rw [abandon_rdvz hwait]
    exact unjoin_effect x b tk
  · subst hx
    exact ⟨exec_rendezvousComplete_of_arrived hall, fun u hu sk =>
      ⟨mem_rdvzParties.mpr hu, fun i hi => mem_arrivalsKnow (mem_rdvzParties.mpr hu) hi⟩⟩

/-- Settles O30: each of its six parts by the lemma of that part. A release point leaves none of its stream's writes out of its scope, and
an acquire point takes into the stream's view each write that a release before it covers, after which the view returns nothing older. -/
theorem fencesAndRendezvousPublish : Obligations.FencesAndRendezvousPublish :=
  ⟨fencesPublishAndAcquire, enginesReadWhatIsGuaranteed, releasesPublishEveryEarlierWrite, releasedWritesAreCertain,
    acquiredWritesAreReturned, rendezvousJoinsTheStreamsOfATile⟩

end Sys2Proof.Proofs
end

/-! PROOFS. Barriers, waited writes and pips. -/
section

namespace Sys2Proof.Proofs

open Sys2Proof Sys2Proof.Machine Sys2Proof.Claims

/-! SBAR and SWT (R208, R209). -/

/-- None of the commands that a unit waits for is held any longer. -/
theorem any_contains_eq_false {ids held : List Nat} (h : ∀ i ∈ ids, held.contains i = false) : ids.any held.contains = false :=
  List.any_eq_false.mpr fun i hi => Bool.eq_false_iff.mp (h i hi)

theorem exec_sbar_ends {s : State} {tile n : Nat} {c : Cmd} (hc : (tileOf s tile).barriers[n]? = some c)
    (hready : barrierReady (tileOf s tile) c = true) :
    exec (.sbar tile n) s = .next (finish (dropBarrier s tile c.id) c 0 (BitVec.ofNat 40 (barrierCounts s tile c))) := by
  rw [exec_sbar, execSbar]
  simp only [hc, hready, if_true]

theorem exec_swt_writes {s s2 : State} {tile n : Nat} {x : SwtWait} (hx : (tileOf s tile).swts[n]? = some x)
    (hended : ∀ i ∈ x.awaits, (tileCmdIds (tileOf s tile)).contains i = false)
    (hwrite : engWrite (setTile s tile { tileOf s tile with swts := ldrop (tileOf s tile).swts n })
      { whoOf x.cmd .stream with know := doneKnow x.cmd }
      (ownAddr (scS x.cmd.tmpl 1 * 8)) (leBytes 8 (scAddr x.cmd.tmpl)) false = .ok s2) :
    exec (.swt tile n) s = .next (finish s2 x.cmd 0 0) := by
  rw [exec_swt, execSwt]
  simp only [hx, any_contains_eq_false hended, Bool.false_eq_true, if_false, hwrite]

theorem barriersAndWaitedWritesEndInOrder : BarriersAndWaitedWritesEndInOrder :=
  ⟨fun _ _ _ _ => exec_sbar_ends, fun _ _ _ _ _ => exec_swt_writes⟩

/-! SPIP (R215). -/

section
variable {s : State} {tile mp : Nat} {c : Cmd} {awaits : List Nat} {rest : List (Cmd × List Nat)}

theorem exec_spip_ends (hspip : (mportOf (tileOf s tile) mp).spip = (c, awaits) :: rest)
    (hflight : (mportOf (tileOf s tile) mp).spipInFlight = false)
    (hended : ∀ i ∈ awaits, (tileCmdIds (tileOf s tile)).contains i = false)
    (hsent : mpCount c.tmpl ≤ (mportOf (tileOf s tile) mp).spipSent) : exec (.spip tile mp) s = .next (endSpip s tile mp c 0) := by
  rw [exec_spip, execSpip]
  simp only [hspip, hflight, any_contains_eq_false hended, Bool.false_eq_true, or_self, if_false, hsent, if_true]

theorem exec_spip_sends (hspip : (mportOf (tileOf s tile) mp).spip = (c, awaits) :: rest)
    (hflight : (mportOf (tileOf s tile) mp).spipInFlight = false)
    (hended : ∀ i ∈ awaits, (tileCmdIds (tileOf s tile)).contains i = false)
    (hsent : (mportOf (tileOf s tile) mp).spipSent < mpCount c.tmpl) (hmode : mpMode c.tmpl = 0) :
    exec (.spip tile mp) s = .next (sendPip s tile mp c none) := by
  rw [exec_spip, execSpip]
  simp only [hspip, hflight, any_contains_eq_false hended, Bool.false_eq_true, or_self, if_false, Nat.not_le.mpr hsent, hmode, if_true]

end

/-! The arrival of a pip (R215, R218). -/

section
variable {s : State} {m : PipMsg}

/-- A change of a tile for a job, live or saved, touches tiles and saves alone. -/
theorem updTile_keeps (s : State) (job t : Nat) (f : Tile → Tile) : (updTile s job t f).mesh = s.mesh ∧ (updTile s job t f).mem = s.mem ∧
    (updTile s job t f).out = s.out ∧ (updTile s job t f).done = s.done := by
  unfold updTile
  dsimp only
  split <;> exact ⟨rfl, rfl, rfl, rfl⟩

theorem updSender_keeps (s : State) (m : PipMsg) (f : MeshPort → MeshPort) : (updSender s m f).mesh = s.mesh ∧
    (updSender s m f).mem = s.mem ∧ (updSender s m f).out = s.out ∧ (updSender s m f).done = s.done := by
  unfold updSender
  split
  · exact ⟨rfl, rfl, rfl, rfl⟩
  · exact updTile_keeps ..

/-- The sender of a live job's pip is changed in its tile. -/
theorem updSender_live (f : MeshPort → MeshPort) (hrem : m.remote = false) (hjob : (tileOf s m.srcTile).job = some m.job) :
    updSender s m f = setTile s m.srcTile (setMport (tileOf s m.srcTile) m.srcPort (f (mportOf (tileOf s m.srcTile) m.srcPort))) := by
  rw [updSender, hrem, updTile_live _ hjob]
  rfl

/-- The state in which a receiving port has taken pip n of the mesh. -/
def pipTaken (s : State) (n : Nat) (m : PipMsg) : State :=
  let x := mportOf (tileOf s m.dstTile) m.dstPort
  setTile { s with mesh := ldrop s.mesh n } m.dstTile (setMport (tileOf s m.dstTile) m.dstPort { x with recv := x.recv ++ [m.pip] })

theorem exec_pipArrival_accepts {n : Nat} (hm : s.mesh[n]? = some m) (hserves : tileServes s m.dstTile m.pip.ctxn = true)
    (hrem : m.remote = false) (hpkg : m.pkg = none) (hhalt : m.halted = false)
    (hroom : (mportOf (tileOf s m.dstTile) m.dstPort).recv.length < 16) :
    exec (.pipArrival n) s = .next (pipSent (pipTaken s n m) m) := by
  rw [exec_pipArrival, execPipArrival]
  simp only [hm, hhalt, hrem, hpkg, hserves, hroom, Bool.false_and, Bool.or_self, Bool.false_eq_true, if_false, if_true]
  rfl

theorem pipAccepted_effect {n : Nat} (hrem : m.remote = false) (hne : m.srcTile ≠ m.dstTile)
    (hjob : (tileOf s m.srcTile).job = some m.job) :
    (pipSent (pipTaken s n m) m).mesh = ldrop s.mesh n ∧ (pipSent (pipTaken s n m) m).mem = s.mem ∧
      (mportOf (tileOf (pipSent (pipTaken s n m) m) m.dstTile) m.dstPort).recv = (mportOf (tileOf s m.dstTile) m.dstPort).recv ++ [m.pip] ∧
      (mportOf (tileOf (pipSent (pipTaken s n m) m) m.srcTile) m.srcPort).spipInFlight = false ∧
      (mportOf (tileOf (pipSent (pipTaken s n m) m) m.srcTile) m.srcPort).spipSent =
        (mportOf (tileOf s m.srcTile) m.srcPort).spipSent + 1 := by
  obtain ⟨hmesh, hmem, -, -⟩ := updSender_keeps (pipTaken s n m) m fun y => { y with spipSent := y.spipSent + 1, spipInFlight := false }
  have hsrc : tileOf (pipTaken s n m) m.srcTile = tileOf s m.srcTile := tileOf_setTile_other _ _ _ _ hne
  have hdst : tileOf (pipTaken s n m) m.dstTile =
      setMport (tileOf s m.dstTile) m.dstPort { mportOf (tileOf s m.dstTile) m.dstPort with
        recv := (mportOf (tileOf s m.dstTile) m.dstPort).recv ++ [m.pip] } := tileOf_setTile_same ..
  refine ⟨hmesh, hmem, ?_⟩
  rw [pipSent, updSender_live _ hrem (by rw [hsrc]; exact hjob), hsrc, tileOf_setTile_same, tileOf_setTile_other _ _ _ _ hne.symm, hdst,
    mportOf_setMport, mportOf_setMport]
  exact ⟨rfl, rfl, rfl⟩

theorem pipSent_keeps (s : State) (m : PipMsg) : (pipSent s m).mesh = s.mesh ∧ (pipSent s m).mem = s.mem ∧
    (pipSent s m).out = s.out ∧ (pipSent s m).done = s.done := updSender_keeps ..

theorem endSender_keeps (s : State) (m : PipMsg) (status : BitVec 8) : (endSender s m status).mesh = s.mesh ∧
    (endSender s m status).mem = s.mem ∧ (endSender s m status).out = s.out := by
  unfold endSender
  split
  · exact ⟨rfl, rfl, rfl⟩
  · obtain ⟨hmesh, hmem, hout, -⟩ := updTile_keeps s m.job m.srcTile _
    exact ⟨hmesh, hmem, hout⟩

/-- The record that a refusal offers leaves all but the front end. -/
theorem refusePip_keeps (s : State) (m : PipMsg) : (refusePip s m).mesh = s.mesh ∧ (refusePip s m).mem = s.mem ∧
    (refusePip s m).out = s.out := by
  obtain ⟨hmesh, hmem, hout⟩ := endSender_keeps ((senderOffer s m .accessPath).elim s (offer s)) m (causeByte .accessPath)
  rw [refusePip, hmesh, hmem, hout]
  cases senderOffer s m .accessPath <;> exact ⟨rfl, rfl, rfl⟩

theorem senderOf_live {c : Cmd × List Nat} (hrem : m.remote = false) (hjob : (tileOf s m.srcTile).job = some m.job)
    (hc : (mportOf (tileOf s m.srcTile) m.srcPort).spip.head? = some c) :
    senderOf s m = some (c.1, (mportOf (tileOf s m.srcTile) m.srcPort).spipSent) := by
  rw [senderOf, jobTile_live hjob]
  simp [hrem, hc]

/-- A refused pip ends its SPIP with ACCESS_PATH (R218). -/
theorem refusePip_done {c : Cmd × List Nat} (hrem : m.remote = false) (hjob : (tileOf s m.srcTile).job = some m.job)
    (hc : (mportOf (tileOf s m.srcTile) m.srcPort).spip.head? = some c) :
    ∃ d, (refusePip s m).done = s.done ++ [d] ∧ d.cmd = c.1 ∧ d.status = causeByte .accessPath := by
  have hsender := senderOf_live hrem hjob hc
  have hoffered : senderOffer s m .accessPath = some { cmdOffer s c.1 .accessPath 7 m.srcPort with
      prog := BitVec.ofNat 64 (mportOf (tileOf s m.srcTile) m.srcPort).spipSent } := by rw [senderOffer, hsender]; rfl
  have hstill : ∀ o, senderOf (offer s o) m = senderOf s m := fun _ => by
    simp only [senderOf, jobTile, tileOf_offer]
    rfl
  rw [refusePip, hoffered, Option.elim_some, endSender, hstill, hsender]
  exact ⟨_, congrArg (· ++ _) (updTile_keeps ..).2.2.2, rfl, rfl⟩

end

section
variable {s : State} {m : PipMsg} {n pkg : Nat}

/-- The state in which a pip has left the mesh for another package. -/
def pipGone (s : State) (n : Nat) : State := { (drawFree s).1 with mesh := ldrop s.mesh n }

/-- The other package's port keeps the pip waiting, takes it, or refuses it (R218). -/
theorem farArrival_cases (s : State) (n : Nat) (m : PipMsg) (pkg : Nat) : farArrival s n m pkg = (drawFree s).1 ∨
    farArrival s n m pkg = pipSent { pipGone s n with out := s.out ++ [.pip pkg m.dstTile m.dstPort m.pip] } m ∨
    farArrival s n m pkg = refusePip (pipGone s n) m := by
  unfold farArrival
  dsimp only
  split
  · exact .inl rfl
  · exact .inr (.inl rfl)
  · exact .inr (.inr rfl)

theorem exec_pipArrival_far (hm : s.mesh[n]? = some m) (hrem : m.remote = false) (hpkg : m.pkg = some pkg) (hhalt : m.halted = false) :
    exec (.pipArrival n) s = .next (farArrival s n m pkg) := by
  rw [exec_pipArrival, execPipArrival]
  simp only [hm, hhalt, hrem, hpkg, Bool.false_and, Bool.or_self, Bool.false_eq_true, if_false]

theorem farArrival_effect (hrem : m.remote = false) : (farArrival s n m pkg).mem = s.mem ∧
    (((farArrival s n m pkg).mesh = s.mesh ∧ (farArrival s n m pkg).out = s.out ∧ (farArrival s n m pkg).done = s.done) ∨
      ((farArrival s n m pkg).mesh = ldrop s.mesh n ∧ (farArrival s n m pkg).out = s.out ++ [.pip pkg m.dstTile m.dstPort m.pip] ∧
        (farArrival s n m pkg).done = s.done) ∨
      ((farArrival s n m pkg).mesh = ldrop s.mesh n ∧ (farArrival s n m pkg).out = s.out ∧
        ∀ c, (mportOf (tileOf s m.srcTile) m.srcPort).spip.head? = some c → (tileOf s m.srcTile).job = some m.job →
          ∃ d, (farArrival s n m pkg).done = s.done ++ [d] ∧ d.cmd = c.1 ∧ d.status = causeByte .accessPath)) := by
  rcases farArrival_cases s n m pkg with h | h | h <;> rw [h]
  case inl => exact ⟨rfl, .inl ⟨rfl, rfl, rfl⟩⟩
  case inr.inl =>
    obtain ⟨hmesh, hmem, hout, hdone⟩ := pipSent_keeps { pipGone s n with out := s.out ++ [.pip pkg m.dstTile m.dstPort m.pip] } m
    exact ⟨hmem, .inr (.inl ⟨hmesh, hout, hdone⟩)⟩
  case inr.inr =>
    obtain ⟨hmesh, hmem, hout⟩ := refusePip_keeps (pipGone s n) m
    exact ⟨hmem, .inr (.inr ⟨hmesh, hout, fun c hc hjob => refusePip_done (s := pipGone s n) hrem hjob hc⟩)⟩

end

/-! SPRV (R216). -/

section
variable {s : State} {tile mp : Nat} {c : Cmd} {p : Pip} {cs : List Cmd} {ps : List Pip}

theorem exec_sprv_counts (hsprv : (mportOf (tileOf s tile) mp).sprv = c :: cs) (hrecv : (mportOf (tileOf s tile) mp).recv = p :: ps)
    (hmode : mpMode c.tmpl = 0) : exec (.sprv tile mp) s = .next (gotPip s tile mp c) := by
  rw [exec_sprv, execSprv]
  simp only [hsprv, hrecv, hmode]

theorem exec_sprv_feeds {w : Line} (hsprv : (mportOf (tileOf s tile) mp).sprv = c :: cs)
    (hrecv : (mportOf (tileOf s tile) mp).recv = p :: ps) (hpay : p.payload = some w) (hmode : mpMode c.tmpl = 1)
    (hfeed : canFeed (tileOf s tile) (mpArray c.tmpl) c.id = true) :
    exec (.sprv tile mp) s = .next (gotPip (setTile s tile (feed (tileOf s tile) (mpArray c.tmpl) (.word w))) tile mp c) := by
  rw [exec_sprv, execSprv]
  simp only [hsprv, hrecv, hpay, hmode, hfeed, if_true, Option.getD_some]

theorem exec_sprv_writes {s1 : State} {w : Line} (hsprv : (mportOf (tileOf s tile) mp).sprv = c :: cs)
    (hrecv : (mportOf (tileOf s tile) mp).recv = p :: ps) (hpay : p.payload = some w) (hmode : mpMode c.tmpl = 2)
    (hwrite : engWrite s (whoOf c .stream) (mpAddr c.tmpl + 64 * (mportOf (tileOf s tile) mp).sprvGot) (lineBytes w) false = .ok s1) :
    exec (.sprv tile mp) s = .next (gotPip s1 tile mp c) := by
  rw [exec_sprv, execSprv]
  simp only [hsprv, hrecv, hpay, hmode, sprvWrite, hwrite]

/-- A pip that is not the last leaves the buffer and is counted. -/
theorem mportOf_gotPip (hmore : (mportOf (tileOf s tile) mp).sprvGot + 1 < mpCount c.tmpl) :
    (mportOf (tileOf (gotPip s tile mp c) tile) mp).sprvGot = (mportOf (tileOf s tile) mp).sprvGot + 1 ∧
      (mportOf (tileOf (gotPip s tile mp c) tile) mp).recv = (mportOf (tileOf s tile) mp).recv.drop 1 := by
  unfold gotPip
  dsimp only
  rw [if_neg (Nat.not_le.mpr hmore), tileOf_setTile_same, mportOf_setMport]
  exact ⟨rfl, rfl⟩

end

theorem pipsTravelOneAtATime : PipsTravelOneAtATime :=
  ⟨fun _ _ _ _ _ _ hspip hflight hended => ⟨exec_spip_ends hspip hflight hended, exec_spip_sends hspip hflight hended⟩,
    fun _ _ _ hm hserves hrem hpkg hhalt hroom hne hjob =>
      ⟨_, exec_pipArrival_accepts hm hserves hrem hpkg hhalt hroom, pipAccepted_effect hrem hne hjob⟩,
    fun _ _ _ _ hm hrem hpkg hhalt => ⟨_, exec_pipArrival_far hm hrem hpkg hhalt, farArrival_effect hrem⟩,
    fun _ _ _ _ _ _ _ => exec_sprv_counts,
    fun _ _ _ _ _ _ _ _ hsprv hrecv hpay => ⟨exec_sprv_feeds hsprv hrecv hpay, fun _ => exec_sprv_writes hsprv hrecv hpay⟩,
    fun _ _ _ _ => mportOf_gotPip⟩

end Sys2Proof.Proofs
end

/-! PROOFS. Sections: squash and commit. -/
section

namespace Sys2Proof.Proofs

open Sys2Proof Sys2Proof.Machine Sys2Proof.Claims

/-! The regions of a tile through a change of slots (R188). -/

section
variable {s : State} {tile region : Nat}

theorem regionAt_setRegion (s : State) (tile n : Nat) (r : Region) : regionAt (setRegion s tile n r) tile n = r := by
  rw [setRegion, regionAt_setTile]
  exact mget_mset_same ..

theorem regionAt_putActive (s : State) (tile slot n : Nat) (a : ActiveCmd) : regionAt (putActive s tile slot a) tile n = regionAt s tile n := by
  rw [putActive, putSlot, regionAt_setTile]
  rfl

/-! A squash (R188, R193). -/

/-- What a squash leaves: memory, the counts of its node, and each section that its test does not name. -/
def SquashKeeps (tile region : Nat) (hit : Section → Bool) (s t : State) : Prop :=
  t.mem = s.mem ∧ (regionAt t tile region).squashes = (regionAt s tile region).squashes ∧
    (regionAt t tile region).commits = (regionAt s tile region).commits ∧
    ∀ y ∈ (regionAt s tile region).sections, hit y = false → y ∈ (regionAt t tile region).sections

theorem SquashKeeps.refl (tile region : Nat) (hit : Section → Bool) (s : State) : SquashKeeps tile region hit s s :=
  ⟨rfl, rfl, rfl, fun _ hy _ => hy⟩

theorem SquashKeeps.trans {hit : Section → Bool} {s t u : State} (h : SquashKeeps tile region hit s t)
    (g : SquashKeeps tile region hit t u) : SquashKeeps tile region hit s u := by
  obtain ⟨hmem, hsq, hcom, hsec⟩ := h
  obtain ⟨gmem, gsq, gcom, gsec⟩ := g
  exact ⟨gmem.trans hmem, gsq.trans hsq, gcom.trans hcom, fun y hy hn => gsec y (hsec y hy hn) hn⟩

theorem squashSlot_keeps (tile region : Nat) (hit : Section → Bool) (s : State) (slot : Nat) :
    SquashKeeps tile region hit s (squashSlot tile region hit s slot) := by
  unfold squashSlot
  split
  · exact .refl ..
  · dsimp only
    split
    · exact .refl ..
    · split
      · exact .refl ..
      · rw [SquashKeeps, regionAt_putActive, regionAt_setRegion]
        exact ⟨rfl, rfl, rfl, fun y hy hn => List.mem_filterMap.mpr ⟨y, hy, by simp [hn]⟩⟩

theorem squash_keeps (s : State) (tile region : Nat) (hit : Section → Bool) : SquashKeeps tile region hit s (squash s tile region hit) :=
  List.foldlRecOn _ _ (motive := SquashKeeps tile region hit s) (.refl ..) fun _ h _ _ => h.trans (squashSlot_keeps ..)

/-- A section is known by its command and its first element: one before another is not that one (R193). -/
theorem not_same_of_secBefore {x y : Section} (h : secBefore y x = true) : ¬ (y.owner.id = x.owner.id ∧ y.firstK = x.firstK) := by
  rintro ⟨hid, hk⟩
  simp [secBefore, hid, hk] at h

/-- A node whose section x has met conflicts, with the squashes that they bring counted (R193, assumption 26). -/
def conflicted (r : Region) (x : Section) (hs : List (Nat × Nat)) : Region :=
  { r with
    squashes := (r.squashes + (r.sections.filter fun y => !secBefore y x).length) % 2 ^ 20
    sections := r.sections.map fun y => if y.owner.id = x.owner.id ∧ y.firstK = x.firstK then { y with hits := y.hits ++ hs } else y }

/-- The sections before the one in conflict are as they were. -/
theorem mem_conflicted {r : Region} {x y : Section} (hs : List (Nat × Nat)) (hy : y ∈ r.sections) (hbefore : secBefore y x = true) :
    y ∈ (conflicted r x hs).sections :=
  List.mem_map.mpr ⟨y, hy, if_neg (not_same_of_secBefore hbefore)⟩

theorem exec_sectionSquash_squashes {sec : Nat} {x : Section} {a : ActiveCmd} (hmode : (regionAt s tile region).mode = 2)
    (hx : (regionAt s tile region).sections.find? (fun y => secNum (regionAt s tile region) y == sec && !y.sealed) = some x)
    (ha : (slotAt s tile x.slot).active = some a) (hid : a.cmd.id = x.owner.id)
    (hhits : newHits (regionAt s tile region) x (nextLines s a) (subWrites (cmdSub a.cmd)) ≠ []) :
    exec (.sectionSquash tile region sec) s = .next (squash (setRegion s tile region
      (conflicted (regionAt s tile region) x (newHits (regionAt s tile region) x (nextLines s a) (subWrites (cmdSub a.cmd)))))
      tile region fun y => !secBefore y x) := by
  have hgoes : ¬ ((regionAt s tile region).mode ≠ 2 ∨ a.cmd.id ≠ x.owner.id ∨
      (newHits (regionAt s tile region) x (nextLines s a) (subWrites (cmdSub a.cmd))).isEmpty = true) := by
    simp [hmode, hid, hhits]
  rw [exec_sectionSquash, execSectionSquash]
  unfold regionAt at hx hgoes ⊢
  simp only [hx, ha, if_neg hgoes]
  rfl

/-! A commit (R188, R193). -/

theorem performWrites_tiles (s : State) (x : Section) : (performWrites s x).tiles = s.tiles :=
  foldl_keeps State.tiles (fun s p => by rw [writesPort_segsWrite]) _ _

theorem regionAt_performWrites (s : State) (x : Section) (tile n : Nat) : regionAt (performWrites s x) tile n = regionAt s tile n := by
  rw [regionAt, tileOf, performWrites_tiles]
  rfl

theorem exec_sectionCommit_commits {x : Section} (hcfg : configured (regionAt s tile region) = true)
    (hnext : nextCommit (tileOf s tile) (regionAt s tile region) = some x) :
    exec (.sectionCommit tile region) s = .next (commitSection s tile region x) := by
  unfold regionAt at hcfg hnext
  rw [exec_sectionCommit, execSectionCommit]
  simp only [hcfg, hnext, if_true]

theorem exec_sectionCommit_none (hnone : nextCommit (tileOf s tile) (regionAt s tile region) = none) :
    exec (.sectionCommit tile region) s = .next s := by
  unfold regionAt at hnone
  rw [exec_sectionCommit, execSectionCommit]
  simp only [hnone, ite_self]

/-- A committed section's writes are in memory, and it has left its node, which counts it. -/
theorem commitSection_effect (s : State) (tile n : Nat) (x : Section) : (commitSection s tile n x).mem = (performWrites s x).mem ∧
    (regionAt (commitSection s tile n x) tile n).sections =
      (regionAt s tile n).sections.filter (fun y => !(y.owner.id == x.owner.id && y.firstK == x.firstK)) ∧
    (regionAt (commitSection s tile n x) tile n).commits = ((regionAt s tile n).commits + 1) % 2 ^ 20 ∧
    (regionAt (commitSection s tile n x) tile n).secNext = ((regionAt s tile n).secNext + 1) % 2 ^ 16 := by
  rw [← regionAt_performWrites s x, commitSection,
    regionAt_setRegion]
  exact ⟨rfl, rfl, rfl, rfl⟩

/-- The section that commits next is the oldest, sealed, with no earlier work. -/
theorem nextCommit_eq_some {t : Tile} {r : Region} {x : Section} (h : nextCommit t r = some x) :
    x ∈ r.sections ∧ x.sealed = true ∧ olderWork t r x.owner.id = false ∧ ∀ y ∈ r.sections, secBefore y x = false := by
  obtain ⟨hfind, hready⟩ := Option.filter_eq_some_iff.mp h
  have holdest := List.find?_some hfind
  obtain ⟨hsealed, hwork⟩ := Bool.and_eq_true_iff.mp hready
  exact ⟨List.mem_of_find?_eq_some hfind, hsealed, by simpa using hwork, by simpa using holdest⟩

end

theorem sectionsCommitInOrder : SectionsCommitInOrder := by
  refine ⟨?squash, ?commit, ?stays, fun _ _ _ => nextCommit_eq_some⟩
  case squash =>
    rintro s tile region sec x a r rfl hmode hx ha hid hhits
    obtain ⟨hmem, hsq, hcom, hsec⟩ := squash_keeps (setRegion s tile region (conflicted (regionAt s tile region) x
      (newHits (regionAt s tile region) x (nextLines s a) (subWrites (cmdSub a.cmd))))) tile region fun y => !secBefore y x
    rw [regionAt_setRegion] at hsq hcom hsec
    exact ⟨_, exec_sectionSquash_squashes hmode hx ha hid hhits, hmem, hsq, hcom,
      fun y hy hbefore => hsec y (mem_conflicted _ hy hbefore) (by simp [hbefore])⟩
  case commit =>
    rintro s tile region x r rfl hcfg hnext
    exact ⟨_, exec_sectionCommit_commits hcfg hnext, commitSection_effect s tile region x⟩
  case stays => exact fun _ _ _ => exec_sectionCommit_none

/-- Settles O47: barriers and waited writes, pips, and sections, each by the theorem of its part. A squash keeps every section before the one
in conflict, slot by slot, and a commit performs its section's writes, which reach no tile. -/
theorem barriersPipsAndSectionsEndInOrder : Obligations.BarriersPipsAndSectionsEndInOrder :=
  ⟨barriersAndWaitedWritesEndInOrder, pipsTravelOneAtATime, sectionsCommitInOrder⟩

end Sys2Proof.Proofs
end

/-! PROOFS. Stream slots: the steps of SREC, SCON and SCMP, and the record of SCLS (R203, R206, R207, R210). -/
section

namespace Sys2Proof.Proofs

open Sys2Proof Sys2Proof.Machine Sys2Proof.Claims

section
variable {s s1 : State} {tile slot : Nat} {a : ActiveCmd}

theorem exec_srec_works (h : Works s tile slot a 4) : exec (.srec tile slot) s = .next (srecStep tile slot s a) := by
  rw [exec_srec, execSrec, runSlot_works h]

theorem exec_scon_works (h : Works s tile slot a 5) : exec (.scon tile slot) s = .next (sconStep tile slot s a) := by
  rw [exec_scon, execScon, runSlot_works h]

theorem exec_scmp_works (h : Works s tile slot a 7) : exec (.scmp tile slot) s = .next (scmpStep tile slot s a) := by
  rw [exec_scmp, execScmp, runSlot_works h]

/-! The ends of commands at ports (R203). -/

theorem endsAtItsToken_of_awaitToken {result : Nat} {e : Nat → Nat → Instr}
    (h : exec (e tile slot) s = .next (awaitToken tile slot s a result)) : EndsAtItsToken s tile slot a result e :=
  ⟨fun heos => by rw [h, awaitToken, heos], fun _ hx hhead => by rw [h, awaitToken_other result hx hhead]⟩

/-- A command that waits for no token ends when its words are through. -/
theorem takeEnd_done (result : Nat) (hfree : scEos a.cmd.tmpl = false ∨ a.limit ≠ none) :
    takeEnd tile slot s a result = slotDone s tile slot a result := by
  rw [takeEnd, if_neg]
  rcases hfree with h | h <;> simp [h]

/-- Under EOS a command whose count ran out waits for its token. -/
theorem takeEnd_awaits (result : Nat) (heos : scEos a.cmd.tmpl = true) (hlimit : a.limit = none) :
    takeEnd tile slot s a result = putActive s tile slot { a with awaitEos := true } := by
  rw [takeEnd, if_pos]
  simp [heos, hlimit]

/-! SREC (R206). -/

theorem srecStep_word {w : Line} (hmore : a.k < actCount a) (hhead : canTake (tileOf s tile) (scPort a.cmd.tmpl) a.cmd.id = some (.word w))
    (hroom : allFeed s a.cmd = true) (hopen : openSection s tile slot a a.k = .ok s1) : srecStep tile slot s a =
      putActive (feedAll (takePort s1 tile (scPort a.cmd.tmpl)) a.cmd (.word w)) tile slot { a with k := a.k + 1 } := by
  simp only [srecStep, if_neg (Nat.not_le.mpr hmore), hhead, hroom, if_true, hopen]

theorem srecStep_token (hmore : a.k < actCount a) (hhead : canTake (tileOf s tile) (scPort a.cmd.tmpl) a.cmd.id = some .eos) :
    srecStep tile slot s a = putActive (takeToken s a.cmd (scPort a.cmd.tmpl)) tile slot { a with limit := some a.k } := by
  simp only [srecStep, if_neg (Nat.not_le.mpr hmore), hhead]

theorem srecStep_over (hover : actCount a ≤ a.k) (heos : scEos a.cmd.tmpl = false) :
    srecStep tile slot s a = slotDone s tile slot a a.k := by
  simp [srecStep, hover, heos]

theorem srecStep_overEos (hover : actCount a ≤ a.k) (heos : scEos a.cmd.tmpl = true) :
    srecStep tile slot s a = srecEnd tile slot s a := by
  simp [srecStep, hover, heos]

/-- Its own token goes out first, which is the model's reading (log entry 21). -/
theorem srecEnd_sends (hmarker : a.markerSent = false) (hroom : allFeed s a.cmd = true) :
    srecEnd tile slot s a = putActive (feedAll s a.cmd .eos) tile slot { a with markerSent := true } := by
  simp [srecEnd, hmarker, hroom]

theorem srecEnd_done (hmarker : a.markerSent = true) (hlimit : a.limit ≠ none) : srecEnd tile slot s a = slotDone s tile slot a a.k := by
  simp [srecEnd, hmarker, Option.isSome_iff_ne_none.mpr hlimit]

theorem srecEnd_awaits (hmarker : a.markerSent = true) (hlimit : a.limit = none) :
    srecEnd tile slot s a = awaitToken tile slot s a a.k := by
  simp [srecEnd, hmarker, hlimit]

/-! SCON (R206). -/

theorem sconStep_word (hmarker : a.markerSent = true) (hmore : a.k < actCount a) (hroom : allFeed s a.cmd = true)
    (hopen : openSection s tile slot a a.k = .ok s1) : sconStep tile slot s a =
      putActive (feedAll s1 a.cmd (.word (sconWord a.cmd.tmpl a.k))) tile slot { a with k := a.k + 1 } := by
  simp [sconStep, hmarker, Nat.not_le.mpr hmore, hroom, hopen]

theorem sconStep_over (hmarker : a.markerSent = true) (hover : actCount a ≤ a.k) : sconStep tile slot s a = feedEnd s tile slot a := by
  simp [sconStep, hmarker, hover]

theorem feedEnd_done (heos : scEos a.cmd.tmpl = false) : feedEnd s tile slot a = slotDone s tile slot a a.k := by
  simp [feedEnd, heos]

theorem feedEnd_sends (heos : scEos a.cmd.tmpl = true) (hroom : allFeed s a.cmd = true) :
    feedEnd s tile slot a = slotDone (feedAll s a.cmd .eos) tile slot a a.k := by
  simp [feedEnd, heos, hroom]

/-! SCMP (R207). -/

theorem scmpStep_awaits (hawait : a.awaitEos = true) : scmpStep tile slot s a = awaitToken tile slot s a a.survivors := by
  simp [scmpStep, hawait]

theorem scmpStep_over (hawait : a.awaitEos = false) (hover : actCount a ≤ a.k) :
    scmpStep tile slot s a = takeEnd tile slot s a a.survivors := by
  simp [scmpStep, hawait, hover]

theorem scmpStep_predicate {w : Line} (hawait : a.awaitEos = false) (hmore : a.k < actCount a) (hpred : a.pred = none)
    (hpreds : a.preds = []) (hhead : canTake (tileOf s tile) (scS a.cmd.tmpl 3 % 16) a.cmd.id = some (.word w)) : scmpStep tile slot s a =
      putActive (takePort s tile (scS a.cmd.tmpl 3 % 16)) tile slot { a with pred := some w } := by
  simp [scmpStep, hawait, Nat.not_le.mpr hmore, hpred, nextPred, hpreds, hhead]

theorem scmpStep_word {w v : Line} (hawait : a.awaitEos = false) (hmore : a.k < actCount a) (hpred : a.pred = some w)
    (hshort : a.buf.length < 64 * extent (scN a.cmd.tmpl 2))
    (hhead : canTake (tileOf s tile) (scPort a.cmd.tmpl) a.cmd.id = some (.word v)) : scmpStep tile slot s a =
      putActive (takePort s tile (scPort a.cmd.tmpl)) tile slot { a with buf := a.buf ++ lineBytes v } := by
  simp [scmpStep, hawait, Nat.not_le.mpr hmore, hpred, Nat.not_le.mpr hshort, hhead]

theorem scmpStep_row {w : Line} (hawait : a.awaitEos = false) (hmore : a.k < actCount a) (hpred : a.pred = some w)
    (hfull : 64 * extent (scN a.cmd.tmpl 2) ≤ a.buf.length) : scmpStep tile slot s a = rowStep tile slot s a w := by
  simp [scmpStep, hawait, Nat.not_le.mpr hmore, hpred, hfull]

/-- A command past a row that it drops, whose predicate word is spent with its last lane. -/
def pastRow (a : ActiveCmd) (w : Line) : ActiveCmd :=
  { a with buf := a.buf.drop (64 * extent (scN a.cmd.tmpl 2)), k := a.k + 1, pred := if (a.k + 1) % 16 = 0 then none else some w }

theorem rowStep_drops {w : Line} (hnode : ouNode s tile slot = none) (hlane : lane w (a.k % 16) = 0) :
    rowStep tile slot s a w = putActive s tile slot (pastRow a w) := by
  simp [rowStep, openSection_outside hnode, hlane, noteUse, onSection_outside hnode, pastRow]

theorem rowStep_writes {w : Line} (hnode : ouNode s tile slot = none) (hlane : lane w (a.k % 16) ≠ 0)
    (hwrite : (writeRow s tile slot a).1 = .ok s1) (hnode1 : ouNode s1 tile slot = none) :
    rowStep tile slot s a w = putActive s1 tile slot { pastRow a w with survivors := a.survivors + 1 } := by
  obtain ⟨x, hrow⟩ : ∃ x, writeRow s tile slot a = (.ok s1, x) := ⟨_, Prod.ext hwrite rfl⟩
  simp only [rowStep, openSection_outside hnode, if_neg hlane, hrow, noteUse, onSection_outside hnode1, pastRow, decide_eq_true_eq]

end

section
variable {a : ActiveCmd} {n : Nat}

/-- Word w of a row goes behind the words of the rows that survived before it. -/
theorem rowWord_mem_survivorWrites (hn : extent (scN a.cmd.tmpl 2) = n) {w : Nat} (hw : w < n) :
    (moveAddr (scAddr a.cmd.tmpl) ((64 * (a.survivors * n + w) : Nat) : Int), (a.buf.drop (64 * w)).take 64) ∈ survivorWrites a := by
  have hrow := List.mem_map_of_mem (f := fun w => (moveAddr (scAddr a.cmd.tmpl) ((64 * (a.survivors * n + w) : Nat) : Int),
    (a.buf.drop (64 * w)).take 64)) (List.mem_range.mpr hw)
  rw [survivorWrites]
  simp only [hn]
  split
  · exact List.mem_append_left _ hrow
  · exact hrow

theorem index_mem_survivorWrites (hlist : bitN (scS a.cmd.tmpl 3) 15 = true) :
    (ownAddr (scS a.cmd.tmpl 1 * 8 + 4 * a.survivors), leBytes 4 a.k) ∈ survivorWrites a := by
  simp [survivorWrites, hlist]

theorem survivorWrites_length (hn : extent (scN a.cmd.tmpl 2) = n) :
    (survivorWrites a).length = n + (if bitN (scS a.cmd.tmpl 3) 15 then 1 else 0) := by
  rw [survivorWrites]
  simp only [hn]
  split <;> simp

theorem survivorWrites_single (hn : extent (scN a.cmd.tmpl 2) = 1) (hlist : bitN (scS a.cmd.tmpl 3) 15 = false) :
    survivorWrites a = [(moveAddr (scAddr a.cmd.tmpl) ((64 * a.survivors : Nat) : Int), a.buf.take 64)] := by
  simp [survivorWrites, hn, hlist]

theorem writeRow_of_one {s s1 x : State} {tile slot : Nat} {p : Nat × List Byte} (hone : survivorWrites a = [p])
    (hwrite : slotWrite s tile slot a p.1 p.2 = (.ok s1, x)) : (writeRow s tile slot a).1 = .ok s1 := by
  simp only [writeRow, hone, List.foldl_cons, List.foldl_nil, hwrite]

/-- A row of one word without an index is one write. -/
theorem writeRow_single {s s1 x : State} {tile slot : Nat} (hn : extent (scN a.cmd.tmpl 2) = 1) (hlist : bitN (scS a.cmd.tmpl 3) 15 = false)
    (hwrite : slotWrite s tile slot a (moveAddr (scAddr a.cmd.tmpl) ((64 * a.survivors : Nat) : Int)) (a.buf.take 64) = (.ok s1, x)) :
    (writeRow s tile slot a).1 = .ok s1 := writeRow_of_one (survivorWrites_single hn hlist) hwrite

end

/-! The end of a slot's command, which leaves its slot, its ports, its fill and its sections (R211). -/

theorem KeepsSlots.slotAt_eq {s t : State} (h : KeepsSlots s t) (tile slot : Nat) : slotAt t tile slot = slotAt s tile slot := by
  rw [slotAt, slotAt, slotOf, slotOf, h tile]

/-- The two states agree but for tiles and clusters, and the tiles keep their slots. -/
def SettlesOnly (s t : State) : Prop := t = { s with tiles := t.tiles, clusters := t.clusters } ∧ KeepsSlots s t

theorem SettlesOnly.refl (s : State) : SettlesOnly s s := ⟨rfl, .refl s⟩

theorem SettlesOnly.trans {s t u : State} (h : SettlesOnly s t) (g : SettlesOnly t u) : SettlesOnly s u := by
  obtain ⟨hst, hslots⟩ := h
  obtain ⟨gtu, gslots⟩ := g
  rw [hst] at gtu
  exact ⟨gtu, hslots.trans gslots⟩

theorem settlesOnly_setTile {s : State} {n : Nat} {x : Tile} (h : x.slots = (tileOf s n).slots) : SettlesOnly s (setTile s n x) :=
  ⟨rfl, keepsSlots_setTile h⟩

theorem settlesOnly_setOpSlot (s : State) (cl n : Nat) (x : OpSlot) : SettlesOnly s (setOpSlot s cl n x) := ⟨rfl, fun _ => rfl⟩

theorem settlesOnly_onSection (s : State) (tile slot id : Nat) (f : Section → Section) : SettlesOnly s (onSection s tile slot id f) := by
  unfold onSection
  split
  · exact .refl s
  · exact settlesOnly_setTile rfl

theorem settlesOnly_leaveAll (s : State) (c : Cmd) : SettlesOnly s (leaveAll s c) :=
  List.foldlRecOn _ _ (motive := SettlesOnly s) (.refl s) fun _ h _ _ => h.trans (settlesOnly_setTile rfl)

theorem settlesOnly_freeDrained (s : State) (cl n : Nat) : SettlesOnly s (freeDrained s cl n) := by
  unfold freeDrained
  split
  · exact settlesOnly_setOpSlot ..
  · exact .refl s

theorem settlesOnly_settleFill (s : State) (c : Cmd) (ok : Bool) : SettlesOnly s (settleFill s c ok) := by
  unfold settleFill
  split
  · exact .refl s
  · exact (settlesOnly_setOpSlot ..).trans (settlesOnly_freeDrained ..)

/-- A slot's command ends: what it held elsewhere is settled, and it goes to the completion step. -/
theorem closeCmd_finishes (s : State) (tile slot : Nat) (c : Cmd) (status : BitVec 8) (result : Nat) :
    ∃ t, SettlesOnly s t ∧ closeCmd s tile slot c status result = finish t c status (BitVec.ofNat 40 result) :=
  ⟨_, ((settlesOnly_onSection ..).trans (settlesOnly_leaveAll ..)).trans (settlesOnly_settleFill ..), rfl⟩

/-- The active command of a slot ends: memory, the front end and the slot's range stay, and it completes after those that ended before. -/
theorem endActive_effect (s : State) (tile slot : Nat) (a : ActiveCmd) (result : Nat) :
    (endActive s tile slot a result).mem = s.mem ∧ (endActive s tile slot a result).fe = s.fe ∧
      (endActive s tile slot a result).done = s.done ++ [{ cmd := a.cmd, status := 0, result := BitVec.ofNat 40 result }] ∧
      (slotAt (endActive s tile slot a result) tile slot).range = (slotAt s tile slot).range := by
  obtain ⟨t, ⟨ht, hslots⟩, hclose⟩ :=
    closeCmd_finishes (putSlot s tile slot { slotAt s tile slot with active := none, halt := none }) tile slot a.cmd 0 result
  have hrange : (slotAt t tile slot).range = (slotAt s tile slot).range := by
    rw [hslots.slotAt_eq, slotAt_putSlot]
  rw [endActive, hclose]
  refine ⟨?_, ?_, ?_, hrange⟩
  · rw [finish_mem, ht]
    rfl
  · rw [finish_fe, ht]
    rfl
  · rw [finish, ht]
    rfl

/-! The log of dirty ranges (R210). -/

/-- Bytes that are the same are read the same. -/
theorem memRead_congr {m m' : Mem} {p n : Nat} (h : ∀ q, p ≤ q → q < p + n → memGet m' q = memGet m q) :
    memRead m' p n = memRead m p n := by
  induction n generalizing p with
  | zero => rfl
  | succ n ih => rw [memRead, memRead, h p (by omega) (by omega), ih fun q hlow hhigh => h q (by omega) (by omega)]

/-- Where nothing is poisoned, a write leaves the bytes that lie before it. -/
theorem readAt_writeAt_before {s : State} (g : Agent) {p x n : Nat} (bs : List Byte) (hmem : MemInv s) (hclean : s.poison = [])
    (hbefore : x + n ≤ p) : readAt (writeAt s g p bs) x n = readAt s x n := by
  obtain ⟨-, hother⟩ := writeAt_clean g hmem (poisonIn_nil hclean p bs.length)
  exact memRead_congr fun q _ hq => hother q (Or.inl (by omega))

theorem dirtyRecord_length (c : Cmd) (slot lo hi seq : Nat) : (dirtyRecord c slot lo hi seq).length = 32 := by
  simp [dirtyRecord, leBytes_length]

/-- The indices of a log written back: the context's own are in force, and a word of its descriptor is written at the port. -/
theorem writeDl_eq (s : State) (ctxn : Nat) (c : Ctx) : ∃ ws v, writeDl s ctxn c =
    writeNat (setCtx (setCtx s ctxn c) ctxn { c with words := ws }) (feAgent eventStrip) (s.pkg.ctxbase.toNat + 256 * ctxn + 82) 6 v := by
  have hctx : mget (setCtx s ctxn c).fe.ctxs ctxn {} = c := mget_mset_same ..
  rw [writeDl, setCtxField]
  simp only [hctx]
  exact ⟨_, _, rfl⟩

theorem writeDl_effect (s : State) (ctxn : Nat) (c : Ctx) : (writeDl s ctxn c).done = s.done ∧ (writeDl s ctxn c).tiles = s.tiles ∧
    ∃ ws, mget (writeDl s ctxn c).fe.ctxs ctxn {} = { c with words := ws } := by
  obtain ⟨ws, v, hwrite⟩ := writeDl_eq s ctxn c
  rw [hwrite, writeNat, portsOnly_writeAt]
  exact ⟨rfl, rfl, ws, mget_mset_same ..⟩

/-- What lies before a context's descriptor stays when its indices are written. -/
theorem readAt_writeDl_before {s : State} {ctxn p n : Nat} (c : Ctx) (hmem : MemInv s) (hclean : s.poison = [])
    (hbefore : p + n ≤ s.pkg.ctxbase.toNat + 256 * ctxn) : readAt (writeDl s ctxn c) p n = readAt s p n := by
  obtain ⟨ws, v, hwrite⟩ := writeDl_eq s ctxn c
  rw [hwrite, writeNat]
  exact readAt_writeAt_before _ _ hmem hclean (by omega)

/-- A slot's range closed. -/
def rangeClosed (s : State) (tile slot : Nat) : State := putSlot s tile slot { slotAt s tile slot with range := none }

/-- The records of a context's log that its reader has not passed. -/
def logUsed (s : State) (c : Ctx) : Nat := (c.dlPidx.toNat + 2 ^ 32 - readNat s (c.words.getD 11 0).toNat 4) % 2 ^ 32

/-- The records that a context's log has room for. -/
def logSize (c : Ctx) : Nat := 2 ^ wf64 (c.words.getD 10 0) 4 0

/-- Where a context's log takes its next record. -/
def logAt (c : Ctx) : Nat := (c.words.getD 9 0).toNat + 32 * (c.dlPidx.toNat % logSize c)

/-- A slot's range closed, and its record in the log. -/
def rangeLogged (s : State) (tile slot : Nat) (a : ActiveCmd) (c : Ctx) (lo hi : Nat) : State :=
  writeAt (rangeClosed s tile slot) (agentOf (whoOf a.cmd .stream)) (logAt c) (dirtyRecord a.cmd slot lo hi c.dlSeq.toNat)

section
variable {s : State} {tile slot lo hi : Nat} {a : ActiveCmd} {c : Ctx}

theorem exec_scls_open (h : Works s tile slot a 9) (hrange : (slotAt s tile slot).range = some (lo, hi)) :
    exec (.scls tile slot) s = .next (closeRange s tile slot a lo hi) := by
  rw [exec_scls, execScls, runSlot_works h]
  simp only [hrange]

theorem exec_scls_none (h : Works s tile slot a 9) (hrange : (slotAt s tile slot).range = none) :
    exec (.scls tile slot) s = .next (endActive s tile slot a 0) := by
  rw [exec_scls, execScls, runSlot_works h]
  simp only [hrange]

theorem closeRange_logs (hc : mget s.fe.ctxs a.cmd.ctxn {} = c) (hroom : logUsed s c < logSize c) : closeRange s tile slot a lo hi =
    endActive (writeDl (rangeLogged s tile slot a c lo hi) a.cmd.ctxn { c with dlPidx := c.dlPidx + 1, dlSeq := c.dlSeq + 1 })
      tile slot a 1 := by
  subst hc
  exact if_pos hroom

theorem closeRange_loses (hc : mget s.fe.ctxs a.cmd.ctxn {} = c) (hfull : logSize c ≤ logUsed s c) : closeRange s tile slot a lo hi =
    endActive (writeDl (rangeClosed s tile slot) a.cmd.ctxn { c with dlOvf := if c.dlOvf = 0xFFFF then c.dlOvf else c.dlOvf + 1 })
      tile slot a 2 := by
  subst hc
  exact if_neg (Nat.not_lt.mpr hfull)

/-- An SCLS that has written its context's indices ends: its slot's range stays closed, and the indices are in force. -/
theorem endActive_writeDl_effect (u : State) (tile slot : Nat) (a : ActiveCmd) (c : Ctx) (result : Nat) {t : State}
    (ht : t = endActive (writeDl u a.cmd.ctxn c) tile slot a result) :
    t.mem = (writeDl u a.cmd.ctxn c).mem ∧ (slotAt t tile slot).range = (slotAt u tile slot).range ∧
      t.done = u.done ++ [{ cmd := a.cmd, status := 0, result := BitVec.ofNat 40 result }] ∧
      ∃ ws, mget t.fe.ctxs a.cmd.ctxn {} = { c with words := ws } := by
  obtain ⟨hdone, htiles, ws, hctx⟩ := writeDl_effect u a.cmd.ctxn c
  obtain ⟨emem, efe, edone, erange⟩ := endActive_effect (writeDl u a.cmd.ctxn c) tile slot a result
  subst ht
  refine ⟨emem, ?_, by rw [edone, hdone], ws, by rw [efe, hctx]⟩
  rw [erange, slotAt, tileOf, htiles]
  rfl

theorem range_rangeClosed : (slotAt (rangeClosed s tile slot) tile slot).range = none := by rw [rangeClosed, slotAt_putSlot]

/-- The write of the record reaches no slot and no completion. -/
theorem portsOnly_rangeLogged : PortsOnly (rangeClosed s tile slot) (rangeLogged s tile slot a c lo hi) := portsOnly_writeAt ..

/-- The record lies in the log once it is written, and stays there where the log ends before the context's descriptor. -/
theorem readAt_logged (hmem : MemInv s) (hclean : s.poison = [])
    (hlog : logAt c + 32 ≤ s.pkg.ctxbase.toNat + 256 * a.cmd.ctxn) (c' : Ctx) :
    readAt (writeDl (rangeLogged s tile slot a c lo hi) a.cmd.ctxn c') (logAt c) 32 = dirtyRecord a.cmd slot lo hi c.dlSeq.toNat := by
  have hclosed : MemInv (rangeClosed s tile slot) := hmem
  have hwf : MemInv (rangeLogged s tile slot a c lo hi) := writeAt_wf _ _ _ _ hclosed
  have hpoison : (rangeLogged s tile slot a c lo hi).poison = [] := writeAt_poison_nil (s := rangeClosed s tile slot) _ _ _ hclean
  have hpkg : (rangeLogged s tile slot a c lo hi).pkg = s.pkg := by rw [portsOnly_rangeLogged]; rfl
  have hread := readAt_writeAt (agentOf (whoOf a.cmd .stream)) (logAt c) (dirtyRecord a.cmd slot lo hi c.dlSeq.toNat) hclosed
  rw [dirtyRecord_length] at hread
  rw [readAt_writeDl_before c' hwf hpoison (by rw [hpkg]; exact hlog)]
  exact hread

/-- Where the log has room, SCLS writes the record of its range and counts it (R210). -/
theorem closeRange_logged {t : State} (ht : t = closeRange s tile slot a lo hi) (hc : mget s.fe.ctxs a.cmd.ctxn {} = c)
    (hroom : logUsed s c < logSize c) :
    (slotAt t tile slot).range = none ∧ (mget t.fe.ctxs a.cmd.ctxn {}).dlPidx = c.dlPidx + 1 ∧
      (mget t.fe.ctxs a.cmd.ctxn {}).dlSeq = c.dlSeq + 1 ∧ t.done = s.done ++ [{ cmd := a.cmd, status := 0, result := 1 }] ∧
      (MemInv s → s.poison = [] → logAt c + 32 ≤ s.pkg.ctxbase.toNat + 256 * a.cmd.ctxn →
        readAt t (logAt c) 32 = dirtyRecord a.cmd slot lo hi c.dlSeq.toNat) := by
  obtain ⟨hmem, hrange, hdone, ws, hctx⟩ := endActive_writeDl_effect _ _ _ _ _ _ (ht.trans (closeRange_logs hc hroom))
  rw [hctx]
  refine ⟨?_, rfl, rfl, ?_, fun hs hclean hlog => ?_⟩
  · rw [hrange, portsOnly_rangeLogged]
    exact range_rangeClosed
  · rw [hdone, portsOnly_rangeLogged]
    rfl
  · rw [readAt, hmem]
    exact readAt_logged hs hclean hlog _

/-- Where the ring is full, SCLS counts its record as lost (R210). -/
theorem closeRange_lost {t : State} (ht : t = closeRange s tile slot a lo hi) (hc : mget s.fe.ctxs a.cmd.ctxn {} = c)
    (hfull : logSize c ≤ logUsed s c) :
    (slotAt t tile slot).range = none ∧ (mget t.fe.ctxs a.cmd.ctxn {}).dlPidx = c.dlPidx ∧
      (mget t.fe.ctxs a.cmd.ctxn {}).dlOvf = (if c.dlOvf = 0xFFFF then c.dlOvf else c.dlOvf + 1) ∧
      t.done = s.done ++ [{ cmd := a.cmd, status := 0, result := 2 }] := by
  obtain ⟨-, hrange, hdone, ws, hctx⟩ := endActive_writeDl_effect _ _ _ _ _ _ (ht.trans (closeRange_loses hc hfull))
  rw [hctx]
  exact ⟨hrange.trans range_rangeClosed, rfl, rfl, hdone⟩

end

/-- Settles O46: a command that works makes one step of its kind, and each clause is a branch of that step; the writes of a row are those
of its words and of its index; and the record of SCLS is read back where the log ends before the context's descriptor. -/
theorem otherSlotCommandsActOnTheirWords : Obligations.OtherSlotCommandsActOnTheirWords := by
  refine ⟨?srec, ?srecOver, ?scon, ?sconOver, ?scmpAwaits, ?scmp, ?rows, ?scls⟩
  case srec =>
    intro s tile slot a hworks hmore
    rw [exec_srec_works hworks]
    exact ⟨fun w s1 hhead hroom hopen => congrArg _ (srecStep_word hmore hhead hroom hopen),
      fun hhead => congrArg _ (srecStep_token hmore hhead)⟩
  case srecOver =>
    intro s tile slot a hworks hover
    have hstep := exec_srec_works hworks
    refine ⟨fun heos => ?_, fun heos hmarker hroom => ?_, fun heos hmarker hlimit => ?_, fun heos hmarker hlimit => ?_⟩
    · rw [hstep, srecStep_over hover heos]
    · rw [hstep, srecStep_overEos hover heos, srecEnd_sends hmarker hroom]
    · rw [hstep, srecStep_overEos hover heos, srecEnd_done hmarker hlimit]
    · rw [srecStep_overEos hover heos, srecEnd_awaits hmarker hlimit] at hstep
      exact endsAtItsToken_of_awaitToken hstep
  case scon =>
    intro s s1 tile slot a hworks hmarker hmore hroom hopen
    rw [exec_scon_works hworks, sconStep_word hmarker hmore hroom hopen]
  case sconOver =>
    intro s tile slot a hworks hmarker hover
    rw [exec_scon_works hworks, sconStep_over hmarker hover]
    exact ⟨fun heos => congrArg _ (feedEnd_done heos), fun heos hroom => congrArg _ (feedEnd_sends heos hroom)⟩
  case scmpAwaits =>
    intro s tile slot a hworks hawait
    have hstep := exec_scmp_works hworks
    rw [scmpStep_awaits hawait] at hstep
    exact endsAtItsToken_of_awaitToken hstep
  case scmp =>
    intro s tile slot a hworks hawait
    rw [exec_scmp_works hworks]
    refine ⟨fun hmore => ⟨fun w hpred hpreds hhead => congrArg _ (scmpStep_predicate hawait hmore hpred hpreds hhead),
      fun w v hpred hshort hhead => congrArg _ (scmpStep_word hawait hmore hpred hshort hhead), fun w hpred hfull hnode => ?_⟩,
      fun hover hfree => ?_, fun hover heos hlimit => ?_⟩
    · rw [scmpStep_row hawait hmore hpred hfull]
      exact ⟨fun hlane => ⟨_, congrArg _ (rowStep_drops hnode hlane), rfl, rfl, rfl⟩,
        fun s1 hlane hwrite hnode1 => ⟨_, congrArg _ (rowStep_writes hnode hlane hwrite hnode1), rfl, rfl, rfl⟩⟩
    · rw [scmpStep_over hawait hover, takeEnd_done _ hfree]
    · rw [scmpStep_over hawait hover, takeEnd_awaits _ heos hlimit]
  case rows =>
    intro s s1 x tile slot a n hn
    exact ⟨fun w hw => rowWord_mem_survivorWrites hn hw, index_mem_survivorWrites, survivorWrites_length hn,
      fun h1 hlist hwrite => writeRow_single (hn.trans h1) hlist hwrite⟩
  case scls =>
    intro s tile slot a hworks
    refine ⟨exec_scls_none hworks, ?_⟩
    rintro lo hi c p hrange hc rfl
    refine ⟨_, exec_scls_open hworks hrange, ?_, fun hroom => ?_, fun hfull => ?_⟩
    · rcases Nat.lt_or_ge (logUsed s c) (logSize c) with hroom | hfull
      · exact (closeRange_logged rfl hc hroom).1
      · exact (closeRange_lost rfl hc hfull).1
    · exact (closeRange_logged rfl hc hroom).2
    · exact (closeRange_lost rfl hc hfull).2

end Sys2Proof.Proofs
end

/-! PROOFS. The lanes of the array: integer, comparing and rounding operators, and those that move lanes and bits (R243, R244, R246, R247). -/
section

namespace Sys2Proof.Proofs

open Sys2Proof Sys2Proof.Machine Sys2Proof.Claims

/-! A lane as a signed number, and a number as a lane. -/

theorem sx32_toNat (x : Lane) : sx32 x.toNat = x.toInt := sextN_toNat x

theorem wr32_eq (x : Int) : wr32 x = (BitVec.ofInt 32 x).toNat := by
  rw [wr32, wrapI, BitVec.toNat_ofInt]
  norm_cast

theorem satS_eq (x : Int) : satS x = (BitVec.ofInt 32 (max (-2 ^ 31) (min (2 ^ 31 - 1) x))).toNat := wr32_eq _

/-- A lane's signed number wraps back to the lane. -/
theorem wr32_toInt (x : Lane) : wr32 x.toInt = x.toNat := by rw [wr32_eq, BitVec.ofInt_toInt]

section
variable (a b c : Lane) (rm u : Nat)

/-- R243: VADD and VSUB under each MOD. -/
theorem laneOp_sums :
    laneOp 0x01 0 rm u a.toNat b.toNat c.toNat = (a + b).toNat ∧
    laneOp 0x01 1 rm u a.toNat b.toNat c.toNat = (BitVec.ofInt 32 (max (-2 ^ 31) (min (2 ^ 31 - 1) (a.toInt + b.toInt)))).toNat ∧
    laneOp 0x01 2 rm u a.toNat b.toNat c.toNat = min (2 ^ 32 - 1) (a.toNat + b.toNat) ∧
    laneOp 0x02 0 rm u a.toNat b.toNat c.toNat = (a - b).toNat ∧
    laneOp 0x02 1 rm u a.toNat b.toNat c.toNat = (BitVec.ofInt 32 (max (-2 ^ 31) (min (2 ^ 31 - 1) (a.toInt - b.toInt)))).toNat ∧
    laneOp 0x02 2 rm u a.toNat b.toNat c.toNat = a.toNat - b.toNat := by
  have ha := a.isLt
  have hb := b.isLt
  refine ⟨?add, ?adds, ?addu, ?sub, ?subs, ?subu⟩
  case add =>
    change wr32 (a.toNat + b.toNat) = _
    rw [BitVec.toNat_add, wr32, wrapI]
    omega
  case adds =>
    change satS (sx32 a.toNat + sx32 b.toNat) = _
    rw [sx32_toNat, sx32_toNat, satS_eq]
  case addu =>
    change satU (a.toNat + b.toNat) = _
    rw [satU]
    omega
  case sub =>
    change wr32 (a.toNat - b.toNat) = _
    rw [BitVec.toNat_sub, wr32, wrapI]
    omega
  case subs =>
    change satS (sx32 a.toNat - sx32 b.toNat) = _
    rw [sx32_toNat, sx32_toNat, satS_eq]
  case subu =>
    change satU (a.toNat - b.toNat) = _
    rw [satU]
    omega

/-- R243: VMUL and VMAD. -/
theorem laneOp_products :
    laneOp 0x03 0 rm u a.toNat b.toNat c.toNat = (a * b).toNat ∧
    laneOp 0x03 1 rm u a.toNat b.toNat c.toNat = (BitVec.ofInt 32 (a.toInt * b.toInt / 2 ^ 32)).toNat ∧
    laneOp 0x03 2 rm u a.toNat b.toNat c.toNat = a.toNat * b.toNat / 2 ^ 32 ∧
    laneOp 0x04 0 rm u a.toNat b.toNat c.toNat = (a * b + c).toNat ∧
    laneOp 0x04 1 rm u a.toNat b.toNat c.toNat =
      (BitVec.ofInt 32 (max (-2 ^ 31) (min (2 ^ 31 - 1) (a.toInt * b.toInt + c.toInt)))).toNat := by
  refine ⟨(BitVec.toNat_mul a b).symm, ?high, rfl, ?mad, ?mads⟩
  case high =>
    change wr32 (sx32 a.toNat * sx32 b.toNat / 2 ^ 32) = _
    rw [sx32_toNat, sx32_toNat, wr32_eq]
  case mad =>
    change wr32 (sx32 a.toNat * sx32 b.toNat + sx32 c.toNat) = _
    rw [sx32_toNat, sx32_toNat, sx32_toNat, wr32_eq, BitVec.ofInt_add, BitVec.ofInt_mul, BitVec.ofInt_toInt, BitVec.ofInt_toInt,
      BitVec.ofInt_toInt]
  case mads =>
    change satS (sx32 a.toNat * sx32 b.toNat + sx32 c.toNat) = _
    rw [sx32_toNat, sx32_toNat, sx32_toNat, satS_eq]

theorem sx32_le_iff : sx32 a.toNat ≤ sx32 b.toNat ↔ a.sle b = true := by
  rw [sx32_toNat, sx32_toNat, BitVec.sle_iff_toInt_le]

/-- R243: VMIN, VMAX, VSEL and VABS. -/
theorem laneOp_selections :
    laneOp 0x05 0 rm u a.toNat b.toNat c.toNat = (if a.sle b then a else b).toNat ∧
    laneOp 0x06 0 rm u a.toNat b.toNat c.toNat = (if a.sle b then b else a).toNat ∧
    laneOp 0x0E 0 rm u a.toNat b.toNat c.toNat = (if c = 0 then b else a).toNat ∧
    laneOp 0x0F 0 rm u a.toNat b.toNat c.toNat = (if a.toInt < 0 then -a else a).toNat ∧
    laneOp 0x0F 1 rm u a.toNat b.toNat c.toNat = min (2 ^ 31 - 1) a.toInt.natAbs := by
  refine ⟨?least, ?greatest, ?select, ?magnitude, ?magnitudeSat⟩
  case least =>
    change (if sx32 a.toNat ≤ sx32 b.toNat then a.toNat else b.toNat) = _
    rw [apply_ite BitVec.toNat]
    exact if_congr (sx32_le_iff a b) rfl rfl
  case greatest =>
    change (if sx32 a.toNat ≤ sx32 b.toNat then b.toNat else a.toNat) = _
    rw [apply_ite BitVec.toNat]
    exact if_congr (sx32_le_iff a b) rfl rfl
  case select =>
    change (if c.toNat ≠ 0 then a.toNat else b.toNat) = _
    have hc : c = 0 ↔ c.toNat = 0 := BitVec.toNat_eq
    rw [apply_ite BitVec.toNat, ite_not]
    exact if_congr hc.symm rfl rfl
  case magnitude =>
    change wr32 (sx32 a.toNat).natAbs = _
    rw [sx32_toNat]
    split
    · next hneg => rw [Int.ofNat_natAbs_of_nonpos hneg.le, wr32_eq, BitVec.ofInt_neg, BitVec.ofInt_toInt]
    · next hpos => rw [Int.natAbs_of_nonneg (not_lt.mp hpos), wr32_toInt]
  case magnitudeSat =>
    change satS (sx32 a.toNat).natAbs = _
    rw [sx32_toNat, satS, wr32, wrapI]
    omega

/-- R243, R246: the shifts, VPOPC and VROT. -/
theorem laneOp_shifts :
    laneOp 0x0A 0 rm u a.toNat b.toNat c.toNat = (a <<< (b.toNat % 32)).toNat ∧
    laneOp 0x0B 0 rm u a.toNat b.toNat c.toNat = (a >>> (b.toNat % 32)).toNat ∧
    laneOp 0x0C 0 rm u a.toNat b.toNat c.toNat = (a.sshiftRight (b.toNat % 32)).toNat ∧
    laneOp 0x21 0 rm u a.toNat b.toNat c.toNat = (a.rotateLeft (b.toNat % 32)).toNat := by
  refine ⟨?left, ?right, ?arith, ?rotate⟩
  case left =>
    rw [BitVec.toNat_shiftLeft, Nat.shiftLeft_eq]
    rfl
  case right =>
    rw [BitVec.toNat_ushiftRight, Nat.shiftRight_eq_div_pow]
    rfl
  case arith =>
    change wr32 (sx32 a.toNat / 2 ^ (b.toNat % 32)) = _
    rw [sx32_toNat, wr32_eq, BitVec.sshiftRight, Int.shiftRight_eq_div_pow]
    norm_cast
  case rotate =>
    have hn : b.toNat % 32 < 32 := Nat.mod_lt _ (by decide)
    have hpow : 2 ^ 32 = 2 ^ (b.toNat % 32) * 2 ^ (32 - b.toNat % 32) := (pow_mul_pow_sub 2 hn.le).symm
    have hlow : a.toNat / 2 ^ (32 - b.toNat % 32) < 2 ^ (b.toNat % 32) := by
      rw [Nat.div_lt_iff_lt_mul (Nat.two_pow_pos _), ← hpow]
      exact a.isLt
    rw [BitVec.toNat_rotateLeft, Nat.mod_eq_of_lt hn, Nat.shiftLeft_eq, Nat.shiftRight_eq_div_pow, hpow, mul_comm a.toNat,
      Nat.mul_mod_mul_left, ← Nat.two_pow_add_eq_or_of_lt hlow, ← Nat.mul_mod_mul_left, ← hpow, mul_comm]
    rfl

/-- A sum of bits counts those that are set. -/
theorem foldl_add_bit (f : Nat → Nat) (p : Nat → Bool) (h : ∀ i, f i = if p i then 1 else 0) (is : List Nat) (n : Nat) :
    is.foldl (fun n i => n + f i) n = n + (is.filter p).length := by
  induction is generalizing n with
  | nil => rfl
  | cons i is ih =>
    rw [List.foldl_cons, ih, h, List.filter_cons]
    cases p i
    · rfl
    · rw [if_pos rfl, if_pos rfl, List.length_cons, Nat.add_assoc, Nat.add_comm 1]

theorem laneOp_popc : laneOp 0x20 0 rm u a.toNat b.toNat c.toNat = ((List.range 32).filter fun i => a.getLsbD i).length := by
  refine (foldl_add_bit _ a.getLsbD (fun i => ?_) _ 0).trans (Nat.zero_add _)
  rw [← BitVec.testBit_toNat, Nat.testBit_eq_decide_div_mod_eq]
  split <;> simp_all

end

theorem integerLanesWriteTheirResult : IntegerLanesWriteTheirResult := by
  intro a b c rm u
  obtain ⟨hadd, hadds, haddu, hsub, hsubs, hsubu⟩ := laneOp_sums a b c rm u
  obtain ⟨hmul, hmulh, hmulhz, hmad, hmads⟩ := laneOp_products a b c rm u
  obtain ⟨hmin, hmax, hsel, habs, habss⟩ := laneOp_selections a b c rm u
  obtain ⟨hshl, hshr, hsar, hrot⟩ := laneOp_shifts a b c rm u
  exact ⟨rfl, hadd, hadds, haddu, hsub, hsubs, hsubu, hmul, hmulh, hmulhz, hmad, hmads, hmin, rfl, hmax, rfl,
    (BitVec.toNat_and ..).symm, (BitVec.toNat_or ..).symm, (BitVec.toNat_xor ..).symm, hshl, hshr, hsar, hsel, habs, habss,
    laneOp_popc a b c rm u, hrot⟩

/-! Comparisons and selections (R243, R244). -/

theorem ones32_ite (p : Prop) [Decidable p] : ones32 (decide p) = if p then 0xFFFFFFFF else 0 := by
  by_cases h : p <;> simp [ones32, h]

/-- R243: VCMP's six conditions. -/
theorem laneOp_vcmp (a b c : Lane) (rm u : Nat) :
    laneOp 0x0D 0 rm u a.toNat b.toNat c.toNat = (if a = b then 0xFFFFFFFF else 0) ∧
    laneOp 0x0D 1 rm u a.toNat b.toNat c.toNat = (if a = b then 0 else 0xFFFFFFFF) ∧
    laneOp 0x0D 2 rm u a.toNat b.toNat c.toNat = (if a.slt b then 0xFFFFFFFF else 0) ∧
    laneOp 0x0D 3 rm u a.toNat b.toNat c.toNat = (if a.slt b then 0 else 0xFFFFFFFF) ∧
    laneOp 0x0D 4 rm u a.toNat b.toNat c.toNat = (if a < b then 0xFFFFFFFF else 0) ∧
    laneOp 0x0D 5 rm u a.toNat b.toNat c.toNat = (if a < b then 0 else 0xFFFFFFFF) := by
  have heq : decide (a.toNat = b.toNat) = decide (a = b) := decide_eq_decide.mpr BitVec.toNat_inj
  have hslt : decide (sx32 a.toNat < sx32 b.toNat) = a.slt b := by rw [sx32_toNat, sx32_toNat]; rfl
  have hsge : decide (sx32 b.toNat ≤ sx32 a.toNat) = !a.slt b := by rw [← hslt, ← decide_not, decide_eq_decide, not_lt]
  have hge : decide (b.toNat ≤ a.toNat) = decide (¬ a < b) := by rw [decide_eq_decide, BitVec.lt_def, not_lt]
  refine ⟨?eq, ?ne, ?lt, ?ge, ?lo, ?hs⟩
  case eq =>
    change ones32 (decide (a.toNat = b.toNat)) = _
    rw [heq, ones32_ite]
  case ne =>
    change ones32 (!decide (a.toNat = b.toNat)) = _
    rw [heq, ← decide_not, ones32_ite, ite_not]
  case lt =>
    change ones32 (decide (sx32 a.toNat < sx32 b.toNat)) = _
    rw [hslt]
    rfl
  case ge =>
    change ones32 (decide (sx32 b.toNat ≤ sx32 a.toNat)) = _
    rw [hsge]
    cases a.slt b <;> rfl
  case lo => exact ones32_ite (a.toNat < b.toNat)
  case hs =>
    change ones32 (decide (b.toNat ≤ a.toNat)) = _
    rw [hge, ones32_ite, ite_not]

theorem vlt_of_nan {x y : Val} (h : x = .nan ∨ y = .nan) : vlt x y = false := by
  rcases h with rfl | rfl
  · rfl
  · cases x <;> rfl

theorem unordered_of_nan {x y : Val} (h : x = .nan ∨ y = .nan) : (visNan x || visNan y) = true := by
  rcases h with rfl | rfl
  · rfl
  · exact Bool.or_true _

theorem veq_of_nan {x y : Val} (h : x = .nan ∨ y = .nan) : veq x y = false := by
  rw [veq, ← Bool.not_or, unordered_of_nan h]
  rfl

theorem vadd_of_nan {x y : Val} (h : x = .nan ∨ y = .nan) : vadd x y = .nan := by
  rcases h with rfl | rfl
  · rfl
  · cases x <;> rfl

theorem vmul_of_nan {x y : Val} (h : x = .nan ∨ y = .nan) : vmul x y = .nan := by
  rcases h with rfl | rfl
  · rfl
  · cases x <;> rfl

/-- R244: with a NaN operand VFCMP is unordered. -/
theorem laneOp_vfcmp_nan {a b : Nat} (c rm u : Nat) (h : fdecode fp32 a = .nan ∨ fdecode fp32 b = .nan) :
    laneOp 0x18 0 rm u a b c = 0 ∧ laneOp 0x18 1 rm u a b c = 0xFFFFFFFF ∧ laneOp 0x18 2 rm u a b c = 0 ∧
      laneOp 0x18 3 rm u a b c = 0 ∧ laneOp 0x18 4 rm u a b c = 0xFFFFFFFF := by
  have hlt := vlt_of_nan h
  have heq := veq_of_nan h
  have hun := unordered_of_nan h
  have hcond : ∀ m, laneOp 0x18 m rm u a b c = ones32 (fcmpMod m a b) := fun _ => rfl
  simp [hcond, fcmpMod, hlt, heq, hun, ones32]

theorem bitN_toNat {n : Nat} (x : BitVec n) (i : Nat) : bitN x.toNat i = x.getLsbD i := by
  rw [← BitVec.testBit_toNat, Nat.testBit_eq_decide_div_mod_eq]
  rfl

/-- R244: VFSEL takes a where c is a number with a clear sign. -/
theorem laneOp_vfsel (a b rm u : Nat) (c : Lane) :
    laneOp 0x19 0 rm u a b c.toNat = if fdecode fp32 c.toNat ≠ .nan ∧ c.msb = false then a else b := by
  have hnan : ∀ x : Val, (!visNan x) = true ↔ x ≠ .nan := fun x => by cases x <;> simp [visNan]
  have hsign : bitN c.toNat 31 = c.msb := by rw [bitN_toNat, BitVec.msb_eq_getLsbD_last]
  change (if (!visNan (fdecode fp32 c.toNat) && !bitN c.toNat 31) = true then a else b) = _
  rw [hsign]
  exact if_congr (by rw [Bool.and_eq_true, hnan, Bool.not_eq_true']) rfl rfl

theorem laneComparisonsAnswerAllOnesOrZero : LaneComparisonsAnswerAllOnesOrZero :=
  ⟨laneOp_vcmp, fun _ _ c rm u h => laneOp_vfcmp_nan c rm u h, fun _ _ _ => ⟨rfl, rfl, rfl, rfl, rfl⟩, laneOp_vfsel⟩

/-! Rounding operators (R244). -/

theorem roundScalar_nan (rm u : Nat) (nv : Bool) : (roundScalar fp32 rm u .nan nv).1 = fnanCode fp32 := rfl

theorem faddOf_nan {x y : Val} (rm u : Nat) (h : x = .nan ∨ y = .nan) : (faddOf fp32 rm u x y).1 = fnanCode fp32 := by
  rw [faddOf, vadd_of_nan h, roundScalar_nan]

theorem fmulOf_nan {x y : Val} (rm u : Nat) (h : x = .nan ∨ y = .nan) : (fmulOf fp32 rm u x y).1 = fnanCode fp32 := by
  rw [fmulOf, vmul_of_nan h, roundScalar_nan]

theorem floatLanesRoundOnce : FloatLanesRoundOnce := by
  intro a b c rm u
  refine ⟨rfl, rfl, rfl, rfl, rfl, rfl, fun h => ⟨faddOf_nan rm u h, faddOf_nan rm u (h.imp_right fun hb => ?_), fmulOf_nan rm u h⟩⟩
  rw [hb]
  rfl

/-! Operators that move lanes and bits (R246, R247). -/

/-- A list over the sixteen lanes, read at one of them. -/
theorem getD_map_lanes (f : Nat → Nat) {l : Nat} (h : l < 16) : ((List.range 16).map f).getD l 0 = f l := by
  simp [List.getD, h]

theorem bitN_eq_one {x i : Nat} : bitN x i = true ↔ x / 2 ^ i % 2 = 1 := by rw [bitN, beq_iff_eq]

theorem laneMovesPickTheirLanes : LaneMovesPickTheirLanes := by
  intro w rm x a b c l hl
  refine ⟨fun hop => ?bcast, fun hop => ?perm, fun hop hmod => ?low, fun hop hmod => ?high, fun hop hmod => ?blend, fun hop hmod => ?pick,
    fun hop hlen => ?pack, fun hop hmod => ?unpack, fun hop w0 w1 w2 w3 hw => ?rand⟩
  case bcast => simp only [wordOp, hop, getD_map_lanes _ hl]
  case perm =>
    simp only [wordOp, hop, getD_map_lanes _ hl, bitN_eq_one]
    rfl
  case low =>
    simp only [wordOp, hop, hmod, getD_map_lanes _ hl]
    split
    · rfl
    · rw [show l / 2 = (l - 1) / 2 by omega]
  case high =>
    simp only [wordOp, hop, hmod, getD_map_lanes _ hl]
    split
    · rfl
    · rw [show l / 2 = (l - 1) / 2 by omega]
  case blend => simp only [wordOp, hop, hmod, getD_map_lanes _ hl, bitN_eq_one]
  case pick => simp only [wordOp, hop, getD_map_lanes _ hl]
  case pack =>
    have hel : ∀ i, (if i < 16 then a.getD i 0 else b.getD (i - 16) 0) = (a ++ b).getD i 0 := fun i => by
      split
      · next hi => rw [List.getD_append _ _ _ _ (hlen ▸ hi)]
      · next hi => rw [List.getD_append_right _ _ _ _ (by omega), hlen]
    simp only [wordOp, hop, getD_map_lanes _ hl, hel]
  case unpack =>
    simp only [wordOp, hop, getD_map_lanes _ hl, halfOf]
    obtain h0 | h1 : swMod w = 0 ∨ swMod w = 1 := by omega
    · rw [h0, if_pos rfl]
      rfl
    · rw [h1, if_neg one_ne_zero, show (l + 16) % 2 = l % 2 by omega]
  case rand =>
    refine ⟨fun hmod => ?_, fun hmod => ?_, fun hmod => ?_, fun hmod => ?_⟩
    all_goals simp only [wordOp, hop, hmod, getD_map_lanes _ hl, hw]

end Sys2Proof.Proofs
end

/-! PROOFS. Reductions over the lanes of a word and over the words of a run (R248, R249). -/
section

namespace Sys2Proof.Proofs

open Sys2Proof Sys2Proof.Machine Sys2Proof.Claims

/-! Reductions over the lanes of a word (R248). -/

theorem redOp_sum (rm u a b : Nat) : redOp 0x28 1 rm u a b = (a + b) % 2 ^ 32 := rfl

theorem redOp_greatest (rm u a b : Nat) : redOp 0x29 2 rm u a b = max a b := rfl

theorem redOp_least (rm u a b : Nat) : redOp 0x2A 2 rm u a b = min a b := rfl

/-- The tree over the 2 ^ t lanes from l on, by a combination of two values. -/
def laneTree (f : Nat → Nat → Nat) (v : Nat → Nat) : Nat → Nat → Nat
  | 0, l => v l
  | t + 1, l => f (laneTree f v t l) (laneTree f v t (l + 2 ^ t))

section
variable {op mod rm : Nat} {f : Nat → Nat → Nat} (x : SrCtx) (v : List Nat)

theorem getD_crossLevel (hred : ∀ u a b, redOp op mod rm u a b = f a b) (t : Nat) {l : Nat} (hl : l < 16) (hroot : l % (2 * 2 ^ t) = 0) :
    (crossLevel op mod rm x t v).getD l 0 = f (v.getD l 0) (v.getD (l + 2 ^ t) 0) := by
  rw [crossLevel, getD_map_lanes _ hl, if_pos hroot, hred]

/-- After t levels the first lane of each 2 ^ t holds the tree over them. -/
theorem getD_crossLevels (hred : ∀ u a b, redOp op mod rm u a b = f a b) (t : Nat) {l : Nat} (hl : l + 2 ^ t ≤ 16) (hroot : l % 2 ^ t = 0) :
    ((List.range t).foldl (fun v t => crossLevel op mod rm x t v) v).getD l 0 = laneTree f (v.getD · 0) t l := by
  induction t generalizing l with
  | zero => rfl
  | succ t ih =>
    have hpow : 2 ^ (t + 1) = 2 * 2 ^ t := by rw [pow_succ, mul_comm]
    have hpos : 0 < 2 ^ t := Nat.two_pow_pos t
    rw [hpow] at hroot hl
    have hleft : l % 2 ^ t = 0 := Nat.mod_eq_zero_of_dvd ((Dvd.intro_left _ rfl).trans (Nat.dvd_of_mod_eq_zero hroot))
    rw [List.range_succ, List.foldl_append, List.foldl_cons, List.foldl_nil, getD_crossLevel x _ hred t (by omega) hroot,
      ih (by omega) hleft, ih (by omega) (by rw [Nat.add_mod_right, hleft])]
    rfl

/-- A reduction over lanes gives every lane the tree over all sixteen. -/
theorem getD_crossLanes (hred : ∀ u a b, redOp op mod rm u a b = f a b) {l : Nat} (hl : l < 16) :
    (crossLanes op mod rm x v).getD l 0 = laneTree f (v.getD · 0) 4 0 := by
  rw [crossLanes, List.getD_replicate _ hl]
  exact getD_crossLevels x v hred 4 (by decide) (by decide)

end

theorem eq_map_getD_lanes {a : List Nat} (h : a.length = 16) : a = (List.range 16).map (a.getD · 0) := by
  refine List.ext_getElem (by simp [h]) fun i hi _ => ?_
  simp [List.getD, hi]

section
variable (v : Nat → Nat)

theorem laneTree_sum : laneTree (fun a b => (a + b) % 2 ^ 32) v 4 0 = ((List.range 16).map v).sum % 2 ^ 32 := by
  simp only [laneTree, List.range_succ, List.range_zero, List.map_append, List.map_cons, List.map_nil, List.sum_append, List.sum_cons,
    List.sum_nil, Nat.add_mod_mod, Nat.mod_add_mod]
  congr 1
  ring_nf

/-- Where the order of combination does not matter, the tree combines its lanes from the first on. -/
theorem laneTree_eq_foldl {f : Nat → Nat → Nat} (hassoc : ∀ a b c, f (f a b) c = f a (f b c)) (t l : Nat) :
    laneTree f v t l = ((List.range' (l + 1) (2 ^ t - 1)).map v).foldl f (v l) := by
  have : Std.Associative f := ⟨hassoc⟩
  induction t generalizing l with
  | zero => rfl
  | succ t ih =>
    have hpos : 0 < 2 ^ t := Nat.two_pow_pos t
    have hsize : 2 ^ (t + 1) - 1 = 2 ^ t - 1 + (1 + (2 ^ t - 1)) := by rw [pow_succ]; omega
    have hmid : l + 1 + (2 ^ t - 1) = l + 2 ^ t := by omega
    rw [laneTree, ih, ih, hsize, ← List.range'_append_1, ← List.range'_append_1, hmid, List.map_append, List.foldl_append]
    simp [List.foldl_assoc]

theorem laneTree_max : laneTree max v 4 0 = ((List.range 16).map v).foldl max 0 := by
  have hfirst : List.range 16 = 0 :: List.range' (0 + 1) (2 ^ 4 - 1) := rfl
  rw [laneTree_eq_foldl v max_assoc, hfirst, List.map_cons, List.foldl_cons, Nat.zero_max]

theorem laneTree_min : laneTree min v 4 0 = ((List.range 16).map v).foldl min (v 0) := by
  have hfirst : List.range 16 = 0 :: List.range' (0 + 1) (2 ^ 4 - 1) := rfl
  rw [laneTree_eq_foldl v min_assoc, hfirst, List.map_cons, List.foldl_cons, min_self]

end

theorem wordOp_reduction (w : Word) (rm : Nat) (x : SrCtx) (a b c : List Nat) (h : swOp w = 0x28 ∨ swOp w = 0x29 ∨ swOp w = 0x2A) :
    wordOp w rm x a b c = crossLanes (swOp w) (swMod w) rm x a := by
  rcases h with h | h | h <;> simp only [wordOp, h]

theorem wordOp_reductions (w : Word) (rm : Nat) (x : SrCtx) (a b c : List Nat) (l : Nat) (hl : l < 16) (hlen : a.length = 16) :
    (swOp w = 0x28 → swMod w = 1 → (wordOp w rm x a b c).getD l 0 = a.sum % 2 ^ 32) ∧
    (swOp w = 0x29 → swMod w = 2 → (wordOp w rm x a b c).getD l 0 = a.foldl max 0) ∧
    (swOp w = 0x2A → swMod w = 2 → (wordOp w rm x a b c).getD l 0 = a.foldl min (a.getD 0 0)) := by
  have ha := eq_map_getD_lanes hlen
  refine ⟨fun hop hmod => ?sum, fun hop hmod => ?greatest, fun hop hmod => ?least⟩
  case sum =>
    rw [wordOp_reduction _ _ _ _ _ _ (.inl hop), hop, hmod, getD_crossLanes x a (redOp_sum rm) hl, laneTree_sum, ← ha]
  case greatest =>
    rw [wordOp_reduction _ _ _ _ _ _ (.inr (.inl hop)), hop, hmod, getD_crossLanes x a (redOp_greatest rm) hl, laneTree_max, ← ha]
  case least =>
    rw [wordOp_reduction _ _ _ _ _ _ (.inr (.inr hop)), hop, hmod, getD_crossLanes x a (redOp_least rm) hl, laneTree_min, ← ha]

/-! Runs of a reducer (R249). -/

/-- What a node of a reducer's tree holds in a lane; an absent one holds nothing. -/
def nodeLane (l : Nat) (p : Option (List Nat)) : Nat := (p.getD []).getD l 0

/-- Nodes whose lanes are 32-bit values, and the sum of a lane over them. -/
def SumsTo (l total n : Nat) (nodes : List (Option (List Nat))) : Prop :=
  nodes.length = n ∧ (∀ p ∈ nodes, nodeLane l p < 2 ^ 32) ∧ (nodes.map (nodeLane l)).sum % 2 ^ 32 = total % 2 ^ 32

section
variable {rm l : Nat} {x : SrCtx}

theorem nodeLane_joinNodes (hl : l < 16) (c2 : Nat) {p q : Option (List Nat)} (hp : nodeLane l p < 2 ^ 32) (hq : nodeLane l q < 2 ^ 32) :
    nodeLane l (joinNodes 0x28 1 rm x c2 p q) = (nodeLane l p + nodeLane l q) % 2 ^ 32 := by
  match p, q with
  | some a, some b => exact getD_map_lanes (fun l => redOp 0x28 1 rm (laneSr x rm l c2) (a.getD l 0) (b.getD l 0)) hl
  | some a, none => exact (Nat.mod_eq_of_lt hp).symm
  | none, q =>
    change nodeLane l q = (0 + nodeLane l q) % 2 ^ 32
    rw [Nat.zero_add, Nat.mod_eq_of_lt hq]

/-- A level of the tree halves the nodes and keeps their sum. -/
theorem sumsTo_treeLevel (hl : l < 16) (rlen n : Nat) {k : Nat} (i : Nat) {total : Nat} {nodes : List (Option (List Nat))}
    (h : SumsTo l total (2 * k) nodes) : SumsTo l total k (treeLevel 0x28 1 rm x rlen n i nodes) := by
  induction k generalizing i total nodes with
  | zero =>
    obtain ⟨hlen, hrest⟩ := h
    rw [List.length_eq_zero_iff.mp hlen] at hrest ⊢
    exact ⟨rfl, hrest⟩
  | succ k ih =>
    obtain ⟨hlen, hsmall, hsum⟩ := h
    match nodes, hlen with
    | a :: b :: rest, hlen =>
      have hjoin := nodeLane_joinNodes (rm := rm) (x := x) hl (rlen / n + i) (hsmall a (by simp)) (hsmall b (by simp))
      obtain ⟨ilen, ismall, isum⟩ := ih (i + 1) (nodes := rest) ⟨by simp at hlen; omega, fun p hp => hsmall p (by simp [hp]), rfl⟩
      refine ⟨by simp [treeLevel, ilen], fun p hp => ?_, ?_⟩
      · rcases List.mem_cons.mp hp with rfl | hp
        · rw [hjoin]
          exact Nat.mod_lt _ (by decide)
        · exact ismall p hp
      · rw [← hsum, treeLevel, List.map_cons, List.sum_cons, hjoin, Nat.mod_add_mod, ← Nat.add_mod_mod, isum, Nat.add_mod_mod]
        simp [add_assoc]

/-- The levels of a tree of 2 ^ e nodes leave one. -/
theorem sumsTo_levels (hl : l < 16) (rlen : Nat) {total : Nat} (size : Nat → Nat) (e k : Nat) {nodes : List (Option (List Nat))}
    (h : SumsTo l total (2 ^ (e + k)) nodes) :
    SumsTo l total (2 ^ k) ((List.range e).foldl (fun v t => treeLevel 0x28 1 rm x rlen (size t) 0 v) nodes) := by
  induction e generalizing k with
  | zero => rwa [Nat.zero_add] at h
  | succ e ih =>
    rw [List.range_succ, List.foldl_append]
    refine sumsTo_treeLevel hl _ _ _ ?_
    rw [← pow_succ']
    exact ih (k + 1) (by rwa [← Nat.add_assoc, Nat.add_right_comm])

theorem map_getElem?_range {α : Type} {n : Nat} {ws : List α} (h : ws.length ≤ n) :
    ((List.range n).map fun i => ws[i]?) = ws.map some ++ List.replicate (n - ws.length) none := by
  refine List.ext_getElem (by simp [h]) fun i hi _ => ?_
  rw [List.getElem_append]
  by_cases hlt : i < ws.length <;> simp [hlt]

/-- The leaves of a run that may be cut short hold its words, and nothing else. -/
theorem sumsTo_leaves {e : Nat} {ws : List (List Nat)} (hlen : ws.length ≤ 2 ^ e) (hsmall : ∀ w ∈ ws, w.getD l 0 < 2 ^ 32) :
    SumsTo l (ws.map (·.getD l 0)).sum (2 ^ e) ((List.range (2 ^ e)).map fun i => ws[i]?) := by
  have hnone : nodeLane l none = 0 := rfl
  rw [map_getElem?_range hlen]
  refine ⟨by simp [hlen], fun p hp => ?_, ?_⟩
  · rcases List.mem_append.mp hp with hp | hp
    · obtain ⟨w, hw, rfl⟩ := List.mem_map.mp hp
      exact hsmall w hw
    · rw [List.eq_of_mem_replicate hp, hnone]
      decide
  · simp only [List.map_append, List.map_map, List.map_replicate, List.sum_append, List.sum_replicate, hnone, smul_zero, add_zero]
    rfl

/-- R249: a lane of a run's tree is the sum of that lane over the words present. -/
theorem getD_runTree (hl : l < 16) {e : Nat} {ws : List (List Nat)} (hlen : ws.length ≤ 2 ^ e) (hsmall : ∀ w ∈ ws, w.getD l 0 < 2 ^ 32) :
    (runTree 0x28 1 rm x e ws).getD l 0 = (ws.map (·.getD l 0)).sum % 2 ^ 32 := by
  have h := sumsTo_levels (rm := rm) (x := x) hl (2 ^ e) (fun t => 2 ^ (t + 1)) e 0 (sumsTo_leaves hlen hsmall)
  rw [runTree]
  generalize (List.range e).foldl _ _ = top at h ⊢
  obtain ⟨hone, htop, hsum⟩ := h
  obtain ⟨p, rfl⟩ := List.length_eq_one_iff.mp hone
  rw [← hsum, List.map_singleton, List.sum_singleton, Nat.mod_eq_of_lt (htop p (by simp))]
  rfl

end

/-! Lanes of a word put together from them. -/

theorem packN_lane (ls : List Nat) (i : Nat) : packN 32 ls / 2 ^ (32 * i) % 2 ^ 32 = ls.getD i 0 % 2 ^ 32 := by
  induction ls generalizing i with
  | nil => simp [packN]
  | cons y ys ih =>
    cases i with
    | zero =>
      simp [packN]
    | succ i =>
      have hhigh : packN 32 (y :: ys) / 2 ^ 32 = packN 32 ys := by
        rw [packN]
        omega
      rw [Nat.mul_succ, Nat.add_comm, Nat.pow_add, ← Nat.div_div_eq_div_mul, hhigh, ih]
      rfl

/-- A lane of a port word, as the bits of the word. -/
theorem getD_laneList (w : Line) {l : Nat} (hl : l < 16) : (laneList w).getD l 0 = w.toNat / 2 ^ (32 * l) % 2 ^ 32 := by
  have hmap : laneList w = (List.range 16).map fun i => (lane w i).toNat := List.map_map
  rw [hmap, getD_map_lanes _ hl, lane, BitVec.toNat_ofNat]

/-- Truncation above a field leaves the field. -/
theorem mod_two_pow_field {n k j : Nat} (h : k + j ≤ n) (y : Nat) : y % 2 ^ n / 2 ^ k % 2 ^ j = y / 2 ^ k % 2 ^ j := by
  have hfield : j ≤ n - k := by omega
  rw [← pow_mul_pow_sub 2 (show k ≤ n by omega), Nat.mod_mul_right_div_self, ← pow_mul_pow_sub 2 hfield, Nat.mod_mul_right_mod]

theorem getD_laneList_lineOfLanes (ls : List Nat) {l : Nat} (hl : l < 16) : (laneList (lineOfLanes ls)).getD l 0 = ls.getD l 0 % 2 ^ 32 := by
  have hget : ((ls.map (BitVec.ofNat 32)).map (·.toNat)).getD l 0 % 2 ^ 32 = ls.getD l 0 % 2 ^ 32 := by
    simp only [List.map_map, List.getD, List.getElem?_map]
    cases ls[l]? <;> simp
  rw [getD_laneList _ hl, lineOfLanes, ofLanes, BitVec.toNat_ofNat]
  refine (mod_two_pow_field (by omega) _).trans ?_
  rw [packN_lane, hget]

theorem getD_reduceRun (tile : Nat) (key : Word) (g : GroupSt) (x : StageRef) (fires : Nat) (ws : List Line) (l : Nat) (hl : l < 16)
    (hop : swOp x.w = 0x28) (hmod : swMod x.w = 1) (hlen : ws.length ≤ 2 ^ (swImm x.w % 16)) :
      ((laneList (reduceRun tile key g x fires ws)).getD l 0) = (ws.map fun v => (laneList v).getD l 0).sum % 2 ^ 32 := by
  have htree := getD_runTree (rm := stageRm g x.w) (x := redSr tile key x fires) hl (ws := ws.map laneList) (e := swImm x.w % 16)
    (by rwa [List.length_map]) (fun w hw => by
      obtain ⟨v, -, rfl⟩ := List.mem_map.mp hw
      rw [getD_laneList v hl]
      exact Nat.mod_lt _ (by decide))
  rw [reduceRun]
  simp only [hop, hmod]
  rw [if_neg (by decide), getD_laneList_lineOfLanes _ hl, htree, Nat.mod_mod, List.map_map]
  rfl

theorem reductionsCombineEveryLaneOrWord : ReductionsCombineEveryLaneOrWord :=
  ⟨wordOp_reductions, fun tile key g x fires ws l hl hop hmod _ hlen => getD_reduceRun tile key g x fires ws l hl hop hmod hlen⟩

end Sys2Proof.Proofs
end

/-! PROOFS. VEXP2 and VLOG2 where they are exact: the values that FP32 holds, and whole powers of two (R89, R98, R245). -/
section

namespace Sys2Proof.Proofs

open Sys2Proof Sys2Proof.Machine Sys2Proof.Claims

/-! Values that FP32 holds exactly (R89, R98). -/

/-- The value m · 2 ^ e is one of FP32's: it is a multiple of ue's power of two, the unit of its binade, and not too large. -/
def Exact32 (m : Nat) (e ue : Int) : Prop :=
  m ≠ 0 ∧ max ((Nat.log2 m : Int) + e) (-126) - 23 = ue ∧ ue ≤ e ∧ (Nat.log2 m : Int) + e ≤ 127

section
variable {m : Nat} {e ue : Int}

/-- An exact value in units is its own floor, however many low zeros its magnitude is written with. -/
theorem inUnits_exact (h : ue ≤ e) (m k : Nat) : ∃ sh, inUnits (m * 2 ^ k) (e - k) ue = (m * 2 ^ (e - ue).toNat, 0, sh) := by
  by_cases hk : ue ≤ e - k
  · refine ⟨0, ?_⟩
    have hpow : (e - ue).toNat = k + (e - k - ue).toNat := by omega
    rw [inUnits, if_pos hk, hpow, pow_add, Nat.mul_assoc]
  · have hpow : k = (e - ue).toNat + (ue - (e - k)).toNat := by omega
    refine ⟨(ue - (e - k)).toNat, ?_⟩
    have hsplit : m * 2 ^ k = m * 2 ^ (e - ue).toNat * 2 ^ (ue - (e - k)).toNat := by rw [Nat.mul_assoc, ← pow_add, ← hpow]
    rw [inUnits, if_neg hk, hsplit]
    dsimp only
    rw [Nat.mul_div_cancel _ (Nat.two_pow_pos _), Nat.mul_mod_left]

theorem roundUp_exact (rm u : Nat) (neg : Bool) (t sh : Nat) : roundUp rm u neg t 0 sh false = false := by
  have hpos := Nat.two_pow_pos sh
  unfold roundUp
  split <;> simp [hpos.ne]

theorem log2_mul_two_pow (hm : m ≠ 0) (k : Nat) : Nat.log2 (m * 2 ^ k) = Nat.log2 m + k := by
  have hpos := Nat.two_pow_pos k
  refine (Nat.log2_eq_iff (by positivity)).mpr ⟨?_, ?_⟩
  · rw [pow_add]
    exact Nat.mul_le_mul_right _ (Nat.log2_self_le hm)
  · rw [Nat.add_right_comm, pow_add]
    exact Nat.mul_lt_mul_of_pos_right Nat.lt_log2_self hpos

namespace Exact32

theorem ne_zero (h : Exact32 m e ue) : m ≠ 0 := by
  obtain ⟨hm, -⟩ := h
  exact hm

theorem unit_le (h : Exact32 m e ue) : ue ≤ e := by
  obtain ⟨-, -, hle, -⟩ := h
  exact hle

/-- In units of its binade an exact value has at most 24 bits, and all of them where the binade is not the lowest. -/
theorem bounds (h : Exact32 m e ue) : -149 ≤ ue ∧ ue ≤ 104 ∧ m * 2 ^ (e - ue).toNat < 2 ^ 24 ∧
    (-149 < ue → 2 ^ 23 ≤ m * 2 ^ (e - ue).toNat) := by
  obtain ⟨hm, hue, hle, hbig⟩ := h
  have hlow := Nat.mul_le_mul_right (2 ^ (e - ue).toNat) (Nat.log2_self_le hm)
  have hhigh := Nat.mul_lt_mul_of_pos_right (Nat.lt_log2_self (n := m)) (Nat.two_pow_pos (e - ue).toNat)
  rw [← pow_add] at hlow hhigh
  refine ⟨by omega, by omega, hhigh.trans_le (Nat.pow_le_pow_right (by decide) (by omega)), fun hnormal => ?_⟩
  exact (Nat.pow_le_pow_right (by decide) (by omega)).trans hlow

/-- The code of an exact value: its exponent field above its units (R89, R98). -/
theorem roundFin_eq (h : Exact32 m e ue) (rm u k : Nat) (neg : Bool) : (roundFin fp32 false rm u neg (m * 2 ^ k) (e - k)).1 =
    fsign fp32 neg ((ue + 149).toNat * 2 ^ 23 + m * 2 ^ (e - ue).toNat) := by
  obtain ⟨hlow, hhigh, hbits, -⟩ := h.bounds
  obtain ⟨hm, hue, hle, -⟩ := h
  obtain ⟨sh, hunits⟩ := inUnits_exact hle m k
  have hunit : max ((Nat.log2 (m * 2 ^ k) : Int) + (e - k)) (1 - (fbias fp32 : Int)) - (fp32.fb : Int) = ue := by
    rw [← hue, log2_mul_two_pow hm]
    simp [fbias, fp32]
  have hcode : ue + (fp32.fb : Int) + (fbias fp32 : Int) - 1 = ue + 149 := by
    simp only [fbias, fp32]
    omega
  have hmax : ¬ (ue + 149).toNat * 2 ^ fp32.fb + m * 2 ^ (e - ue).toNat > fmaxCode fp32 := by
    rw [show fmaxCode fp32 = 2139095039 from rfl, show fp32.fb = 23 from rfl]
    omega
  rw [roundFin]
  simp only [hunit, hunits, roundUp_exact, hcode, Bool.false_eq_true, if_false, if_neg hmax]
  rfl

theorem rneFp32_eq (h : Exact32 m e ue) (neg : Bool) : rneFp32 (.fin neg m e) =
    fsign fp32 neg ((ue + 149).toNat * 2 ^ 23 + m * 2 ^ (e - ue).toNat) := by
  have hround := h.roundFin_eq 1 0 0 neg
  simp only [pow_zero, mul_one, Nat.cast_zero, sub_zero] at hround
  rw [← hround, rneFp32, toFloat, if_neg h.ne_zero]

/-- Low zeros of the magnitude do not change the rounding of an exact value. -/
theorem roundFin_shifted (h : Exact32 m e ue) (k : Nat) (neg : Bool) :
    (roundFin fp32 false 1 0 neg (m * 2 ^ k) (e - k)).1 = rneFp32 (.fin neg m e) := by
  rw [h.roundFin_eq, h.rneFp32_eq]

/-- The code of an exact value is read as that value. -/
theorem fdecode_rneFp32 (h : Exact32 m e ue) (neg : Bool) : fdecode fp32 (rneFp32 (.fin neg m e)) = .fin neg (m * 2 ^ (e - ue).toNat) ue := by
  obtain ⟨hlow, hhigh, hbits, hnormal⟩ := h.bounds
  rw [h.rneFp32_eq]
  generalize m * 2 ^ (e - ue).toNat = q at *
  have hsign : bitN (fsign fp32 neg ((ue + 149).toNat * 2 ^ 23 + q)) (fp32.eb + fp32.fb) = neg := by
    cases neg <;> simp [fsign, fp32, bitN] <;> omega
  have hfield : fsign fp32 neg ((ue + 149).toNat * 2 ^ 23 + q) / 2 ^ fp32.fb % 2 ^ fp32.eb = (ue + 149).toNat + q / 2 ^ 23 := by
    simp only [fsign, fp32]
    split <;> omega
  have hfrac : fsign fp32 neg ((ue + 149).toNat * 2 ^ 23 + q) % 2 ^ fp32.fb = q % 2 ^ 23 := by
    simp only [fsign, fp32]
    split <;> omega
  have hfinite : ¬ (ue + 149).toNat + q / 2 ^ 23 = 2 ^ fp32.eb - 1 := by
    rw [show 2 ^ fp32.eb - 1 = 255 from rfl]
    omega
  rw [fdecode]
  simp only [hsign, hfield, hfrac, hfinite, decide_false, Bool.false_and, Bool.false_eq_true, if_false]
  split
  · next hzero =>
    have hsub : ue = -149 := by omega
    rw [hsub, Nat.mod_eq_of_lt (by omega)]
    rfl
  · next hpos =>
    have hone : q / 2 ^ 23 = 1 := by omega
    have hq : q % 2 ^ 23 + 2 ^ 23 = q := by omega
    have hexp : (((ue + 149).toNat + q / 2 ^ 23 : Nat) : Int) - 127 - 23 = ue := by omega
    exact congrArg₂ (Val.fin neg) hq hexp

end Exact32

end

/-- A power of two is exact where its exponent is one of FP32's, and so is a number below 2 ^ 24. -/
theorem exact32_two_pow {x : Int} (hlow : -149 ≤ x) (hhigh : x ≤ 127) : Exact32 1 x (max x (-126) - 23) := by
  have hlog : Nat.log2 1 = 0 := by decide
  exact ⟨one_ne_zero, by rw [hlog, Nat.cast_zero, zero_add], by omega, by omega⟩

theorem exact32_natural {m : Nat} (hm : m ≠ 0) (hsmall : m < 2 ^ 24) : Exact32 m 0 ((Nat.log2 m : Int) - 23) := by
  have hlog : Nat.log2 m < 24 := (Nat.log2_lt hm).mpr hsmall
  exact ⟨hm, by omega, by omega, by omega⟩

/-! VEXP2 and VLOG2 where they are exact (R245). -/

theorem expSum_zero (x n k : Nat) : expSum x n k 0 = 0 := by
  induction n generalizing k with
  | zero => rfl
  | succ n ih => rw [expSum, Nat.zero_mul, Nat.zero_div, Nat.zero_div, ih]

/-- No fraction gives the power 1. -/
theorem exp2Frac_zero : exp2Frac 0 = 2 ^ fixBits := by
  rw [exp2Frac, Nat.zero_mul, Nat.zero_div, expSum, Nat.mul_zero, Nat.zero_div, Nat.zero_div, expSum_zero, Nat.add_zero]

/-- A whole number in FP32's range of exponents lies within the ends of VEXP2's range, in any unit. -/
theorem within_ends {x p : Int} (hp : 0 < p) (hlow : -149 ≤ x) (hhigh : x ≤ 127) : ¬ 128 * p ≤ x * p ∧ ¬ x * p < -(150 * p) := by
  constructor <;> nlinarith

theorem fixUnit_pos : (0 : Int) < 2 ^ fixBits := by positivity

theorem exp2Fix_whole (x : Int) : exp2Fix (x * 2 ^ fixBits) = (2 ^ fixBits, x) := by
  rw [exp2Fix, Int.mul_emod_left, Int.mul_ediv_cancel _ fixUnit_pos.ne', Int.toNat_zero, exp2Frac_zero]

/-- A pair that is known, taken apart. -/
theorem match_of_eq_mk {α β γ : Type} {p : α × β} {a : α} {b : β} (g : α → β → γ) :
    p = (a, b) → (match p with | (f, i) => g f i) = g a b := by
  rintro rfl
  rfl

/-- 2 to a whole power in FP32's range. -/
theorem vexp2Code_whole {a m : Nat} {neg : Bool} {e x : Int} (ha : fdecode fp32 a = .fin neg m e) (hfix : toFix neg m e = x * 2 ^ fixBits)
    (hlow : -149 ≤ x) (hhigh : x ≤ 127) : vexp2Code a = rneFp32 (.fin false 1 x) := by
  obtain ⟨hover, hunder⟩ := within_ends fixUnit_pos hlow hhigh
  have hround := (exact32_two_pow hlow hhigh).roundFin_shifted fixBits false
  rw [Nat.one_mul] at hround
  unfold vexp2Code
  split
  · next h => exact nomatch ha.symm.trans h
  · next h => exact nomatch ha.symm.trans h
  · next h =>
    cases ha.symm.trans h
    rw [hfix]
    refine (if_neg hover).trans ((if_neg hunder).trans ?_)
    rw [Int.mul_emod_left, bne_self_eq_false]
    exact (match_of_eq_mk (fun f i => (roundFin fp32 false 1 0 false f (i - fixBits) false).1) (exp2Fix_whole x)).trans hround

/-- The logarithm of a power of two. -/
theorem vlog2Code_two_pow {a j : Nat} {e x : Int} (ha : fdecode fp32 a = .fin false (2 ^ j) e) (hj : j ≤ fixBits) (hx : (j : Int) + e = x)
    (hsmall : x.natAbs < 2 ^ 24) : vlog2Code a = rneFp32 (.fin (decide (x < 0)) x.natAbs 0) := by
  have hunit := fixUnit_pos
  have hfrac : 2 ^ j * 2 ^ (fixBits - j) = 2 ^ fixBits := pow_mul_pow_sub 2 hj
  have hneg : x * 2 ^ fixBits < 0 ↔ x < 0 := ⟨fun h => neg_of_mul_neg_left h hunit.le, fun h => mul_neg_of_neg_of_pos h hunit⟩
  have habs : (x * 2 ^ fixBits).natAbs = x.natAbs * 2 ^ fixBits := by simp [Int.natAbs_mul, Int.natAbs_pow]
  rw [vlog2Code, ha]
  simp only [Nat.log2_two_pow, hfrac, if_true, Nat.cast_zero, add_zero, hx, (Nat.two_pow_pos j).ne', Bool.false_eq_true, if_false,
    bne_self_eq_false, habs, hneg]
  by_cases h0 : x = 0
  · rw [h0, zero_mul, if_pos rfl]
    rfl
  · have hround := (exact32_natural (Int.natAbs_ne_zero.mpr h0) hsmall).roundFin_shifted fixBits (decide (x < 0))
    rw [zero_sub] at hround
    rw [if_neg (mul_ne_zero h0 hunit.ne'), hround]

/-- FP32's code of a small whole number is read as that number. -/
theorem toFix_whole {x : Int} (hsmall : x.natAbs < 2 ^ 24) : ∃ m e, fdecode fp32 (rneFp32 (.fin (decide (x < 0)) x.natAbs 0)) =
    .fin (decide (x < 0)) m e ∧ toFix (decide (x < 0)) m e = x * 2 ^ fixBits := by
  by_cases h0 : x = 0
  · subst h0
    exact ⟨0, -149, rfl, by rw [toFix, zero_mul]; simp⟩
  · have hexact := exact32_natural (Int.natAbs_ne_zero.mpr h0) hsmall
    obtain ⟨hlow, -⟩ := hexact.bounds
    have hunit := hexact.unit_le
    refine ⟨_, _, hexact.fdecode_rneFp32 _, ?_⟩
    have hbits : (fixBits : Int) = 320 := rfl
    have hscale : 0 ≤ (Nat.log2 x.natAbs : Int) - 23 + fixBits := by omega
    have hpow : 2 ^ (0 - ((Nat.log2 x.natAbs : Int) - 23)).toNat * 2 ^ ((Nat.log2 x.natAbs : Int) - 23 + fixBits).toNat = 2 ^ fixBits := by
      rw [← pow_add]
      congr 1
      omega
    rw [toFix]
    simp only [if_pos hscale, Nat.mul_assoc, hpow, Nat.cast_mul, decide_eq_true_eq]
    split
    · next hneg => rw [Int.ofNat_natAbs_of_nonpos hneg.le]; simp
    · next hpos => rw [Int.natAbs_of_nonneg (not_lt.mp hpos)]; simp

/-- R245: the cases of VEXP2 and VLOG2 outside the finite numbers, and at zeros and negatives. -/
theorem vexp2Code_vlog2Code_ends (a : Nat) : (fdecode fp32 a = .nan → vexp2Code a = fnanCode fp32 ∧ vlog2Code a = fnanCode fp32) ∧
    (fdecode fp32 a = .inf false → vexp2Code a = finfCode fp32 ∧ vlog2Code a = finfCode fp32) ∧
    (fdecode fp32 a = .inf true → vexp2Code a = 0 ∧ vlog2Code a = fnanCode fp32) ∧
    (∀ n e, fdecode fp32 a = .fin n 0 e → vlog2Code a = fsign fp32 true (finfCode fp32)) ∧
    (∀ m e, fdecode fp32 a = .fin true m e → m ≠ 0 → vlog2Code a = fnanCode fp32) := by
  refine ⟨fun h => ?_, fun h => ?_, fun h => ?_, fun n e h => ?_, fun m e h hm => ?_⟩
  · simp only [vexp2Code, vlog2Code, h, and_self]
  · simp only [vexp2Code, vlog2Code, h, Bool.false_eq_true, if_false, and_self]
  · simp only [vexp2Code, vlog2Code, h, if_true, and_self]
  · simp only [vlog2Code, h, if_true]
  · simp only [vlog2Code, h, if_neg hm, if_true]

/-- R245: 2 to a whole power, and the logarithm of that power. -/
theorem vexp2Code_vlog2Code_whole {x : Int} (hlow : -149 ≤ x) (hhigh : x ≤ 127) :
    vexp2Code (rneFp32 (.fin (decide (x < 0)) x.natAbs 0)) = rneFp32 (.fin false 1 x) ∧
    vlog2Code (rneFp32 (.fin false 1 x)) = rneFp32 (.fin (decide (x < 0)) x.natAbs 0) := by
  have hsmall : x.natAbs < 2 ^ 24 := by omega
  obtain ⟨m, e, hdecode, hfix⟩ := toFix_whole hsmall
  have hpower := (exact32_two_pow hlow hhigh).fdecode_rneFp32 false
  rw [Nat.one_mul] at hpower
  have hbits : fixBits = 320 := rfl
  exact ⟨vexp2Code_whole hdecode hfix hlow hhigh, vlog2Code_two_pow hpower (by omega) (by omega) hsmall⟩

theorem powersAndLogarithmsHaveTheirExactCases : PowersAndLogarithmsHaveTheirExactCases := by
  refine ⟨vexp2Code_vlog2Code_ends, by decide +kernel, by decide +kernel, fun i hi x hx => ?_⟩
  have hi := List.mem_range.mp hi
  exact vexp2Code_vlog2Code_whole (by omega) (by omega)

/-- Settles O49: an operator of one lane by its arithmetic, one that moves lanes by its index, a reduction by the tree over the lanes and a run
by the tree over its words; and 2 to a whole power is exact in fixed point, since no fraction adds nothing to the series. -/
theorem stagesComputeTheirOperator : Obligations.StagesComputeTheirOperator :=
  ⟨integerLanesWriteTheirResult, laneComparisonsAnswerAllOnesOrZero, floatLanesRoundOnce, powersAndLogarithmsHaveTheirExactCases,
    laneMovesPickTheirLanes, reductionsCombineEveryLaneOrWord⟩

end Sys2Proof.Proofs
end

/-! PROOFS. The configuration words while the unit serves another stream, when they act, and in service (R253 to R258, R261). -/
section

namespace Sys2Proof.Proofs

open Sys2Proof Sys2Proof.Machine Sys2Proof.Claims

/-! Whom the configuration unit serves (R253). -/

section
variable {s : State} {u : CfgUnit}

theorem cfg_none_of_takes {t : Nat} {sk : Strm} (h : cfgTakes s t sk = true) : (tileOf s t).cfg = none := by
  rw [cfgTakes, Bool.and_eq_true, Option.isNone_iff_eq_none] at h
  exact h.1

/-- A free unit takes a stream's word where no earlier stream of the tile waits for it. -/
theorem cfgTakes_of_free {t : Nat} (h : (tileOf s t).cfg = none) (sk : Strm) :
    cfgTakes s t sk = true ↔ ∀ j ∈ strmsBefore sk, cfgWaits s t j = false := by
  simp [cfgTakes, h]

theorem cfgTakes_of_serving {t : Nat} (h : (tileOf s t).cfg ≠ none) (sk : Strm) : cfgTakes s t sk = false :=
  Bool.eq_false_iff.mpr fun htakes => h (cfg_none_of_takes htakes)

theorem cfgFree_taken (h : cfgTakes s s.curTile s.curStrm = true) : cfgFree s = .ok () := waitFor_true h

theorem cfgFree_held (h : cfgTakes s s.curTile s.curStrm = false) : cfgFree s = .error .stall := by
  rw [cfgFree, h]
  rfl

theorem myCfg_own (hcfg : (tileOf s s.curTile).cfg = some u) (hown : u.strm = s.curStrm) : myCfg s = some u := by
  simp [myCfg, hcfg, hown]

theorem myCfg_other (hcfg : (tileOf s s.curTile).cfg = some u) (hother : u.strm ≠ s.curStrm) : myCfg s = none := by
  simp [myCfg, hcfg, hother]

theorem settled_all : (u.settle.all u.settled.contains) = true ↔ ∀ n ∈ u.settle, n ∈ u.settled := by
  simp

end

/-! Checks of a mask (R250, R253). -/

theorem maskClean_of_zero {a : Word} (h : wf64 a 63 8 = 0) : maskClean a = .ok () := by
  rw [maskClean, if_pos h]
  rfl

theorem stateFail_none {t : Tile} {mask : List Nat} {bad : RegionState → Bool} (h : ∀ n ∈ mask, bad (mget t.regions n {}).state = false) :
    stateFail t mask bad = none := by
  rw [stateFail, Option.map_eq_none_iff, List.find?_eq_none]
  exact fun n hn => by rw [h n hn]; decide

/-- An action at once, or the start of a settling where there is a region to settle. -/
theorem ok_ite_isEmpty (rk : List Nat) (x y : State) :
    (if rk.isEmpty then (.ok x : Chk State) else .ok y) = .ok (if rk = [] then x else y) := by
  cases rk with
  | nil => rfl
  | cons n ns => simp

/-! The words of the unit before they act: one that the unit does not take waits, and a zero register goes on (R253). -/

section
variable {o : FormAB} {p : FormA} {s : State} {a b : Word}

theorem exec_cfgq_reads {q : FormDA} (hissues : Issues s q.tk) (ha : Reads s q.a a) (hd : Writes s q.d) :
    exec (.cfgq q) s =
      .next (goesOn s (landLater (popped s q.tk) q.d (cfgqWord (regionAt s s.curTile (wf64 a 2 0))) .fixed) q.tk) := by
  refine issue_ok (canIssue_of_issues hissues) ?_
  simp only [readSrc_of_reads ha, tokensReady_of_issues hissues, destReady_of_writes hd, chk_bind_ok]

theorem exec_cfgWord_waits (ho : Issues s o.tk) (hp : Issues s p.tk) (ha : Reads s o.a a) (hb : Reads s o.b b) (hpa : Reads s p.a a)
    (hheld : cfgTakes s s.curTile s.curStrm = false) (hmine : myCfg s = none) :
    exec (.cfgld o) s = .next s ∧ exec (.thaw o) s = .next s ∧ exec (.rack p) s = .next s ∧ exec (.kiln p) s = .next s ∧
      exec (.rgo p) s = .next s := by
  refine ⟨issue_stall ?_, issue_stall ?_, issue_stall ?_, issue_stall ?_, issue_stall ?_⟩
  · simp only [hmine, readSrc_of_reads ha, readSrc_of_reads hb, tokensReady_of_issues ho, cfgFree_held hheld, chk_bind_ok, chk_bind_error]
  · simp only [readSrc_of_reads ha, readSrc_of_reads hb, tokensReady_of_issues ho, cfgFree_held hheld, chk_bind_ok, chk_bind_error]
  · simp only [hmine, readSrc_of_reads hpa, tokensReady_of_issues hp, cfgFree_held hheld, chk_bind_ok, chk_bind_error]
  · simp only [hmine, readSrc_of_reads hpa, tokensReady_of_issues hp, cfgFree_held hheld, chk_bind_ok, chk_bind_error]
  · simp only [readSrc_of_reads hpa, tokensReady_of_issues hp, cfgFree_held hheld, chk_bind_ok, chk_bind_error]

theorem exec_cfgld_thaw_zero (ho : Issues s o.tk) (ha : Reads s o.a a) (hb : Reads s o.b 0) (htakes : cfgTakes s s.curTile s.curStrm = true) :
    exec (.cfgld o) s = .next (goesOn s (popped s o.tk) o.tk) ∧ exec (.thaw o) s = .next (goesOn s (popped s o.tk) o.tk) := by
  have hmine := myCfg_none (cfg_none_of_takes htakes)
  refine ⟨issue_ok (canIssue_of_issues ho) ?_, issue_ok (canIssue_of_issues ho) ?_⟩
  · simp only [hmine, readSrc_of_reads ha, readSrc_of_reads hb, tokensReady_of_issues ho, cfgFree_taken htakes, chk_bind_ok, if_true]
  · simp only [readSrc_of_reads ha, readSrc_of_reads hb, tokensReady_of_issues ho, cfgFree_taken htakes, chk_bind_ok, if_true]

theorem exec_rack_kiln_rgo_zero (hp : Issues s p.tk) (ha : Reads s p.a 0) (htakes : cfgTakes s s.curTile s.curStrm = true) :
    exec (.rack p) s = .next (goesOn s (popped s p.tk) p.tk) ∧ exec (.kiln p) s = .next (goesOn s (popped s p.tk) p.tk) ∧
      exec (.rgo p) s = .next (goesOn s (popped s p.tk) p.tk) := by
  have hmine := myCfg_none (cfg_none_of_takes htakes)
  refine ⟨issue_ok (canIssue_of_issues hp) ?_, issue_ok (canIssue_of_issues hp) ?_, issue_ok (canIssue_of_issues hp) ?_⟩
  · simp only [hmine, readSrc_of_reads ha, tokensReady_of_issues hp, cfgFree_taken htakes, chk_bind_ok, if_true]
  · simp only [hmine, readSrc_of_reads ha, tokensReady_of_issues hp, cfgFree_taken htakes, chk_bind_ok, if_true]
  · simp only [readSrc_of_reads ha, tokensReady_of_issues hp, cfgFree_taken htakes, chk_bind_ok, if_true]

/-! The words that act (R254, R255, R258, R261). -/

theorem exec_cfgld_acts {new : FMap Region} {rk : List Nat} (ho : Issues s o.tk) (ha : Reads s o.a a) (hb : Reads s o.b b)
    (htakes : cfgTakes s s.curTile s.curStrm = true) (hb0 : b ≠ 0) (hnew : cfgldRegions s a b = .ok new)
    (hrk : toRack (tileOf s s.curTile) (maskOf b) = rk) :
    exec (.cfgld o) s = .next (if rk = [] then cfgReplace (noteCur s (imageSeen s a)) new o.tk
      else setTile s s.curTile { rk.foldl startRack (tileOf s s.curTile) with
        cfg := some { strm := s.curStrm, settle := rk, image := new, seen := imageSeen s a } }) := by
  refine issue_ok (canIssue_of_issues ho) ?_
  simp only [myCfg_none (cfg_none_of_takes htakes), readSrc_of_reads ha, readSrc_of_reads hb, tokensReady_of_issues ho, cfgFree_taken htakes,
    chk_bind_ok, if_neg hb0, hnew, hrk, ok_ite_isEmpty]

theorem exec_rack_acts {rk : List Nat} (hp : Issues s p.tk) (ha : Reads s p.a a) (htakes : cfgTakes s s.curTile s.curStrm = true)
    (ha0 : a ≠ 0) (hclean : wf64 a 63 8 = 0) (hrk : toRack (tileOf s s.curTile) (maskOf a) = rk) :
    exec (.rack p) s = .next (if rk = [] then rackRelease s (maskOf a) p.tk
      else setTile s s.curTile { rk.foldl startRack (tileOf s s.curTile) with
        cfg := some { strm := s.curStrm, settle := rk, release := maskOf a } }) := by
  refine issue_ok (canIssue_of_issues hp) ?_
  simp only [myCfg_none (cfg_none_of_takes htakes), readSrc_of_reads ha, tokensReady_of_issues hp, cfgFree_taken htakes, chk_bind_ok,
    if_neg ha0, maskClean_of_zero hclean, hrk, ok_ite_isEmpty]

theorem exec_kiln_acts {rk : List Nat} {pages : FMap (Nat × Nat × Bool)} (hp : Issues s p.tk) (ha : Reads s p.a a)
    (htakes : cfgTakes s s.curTile s.curStrm = true) (ha0 : a ≠ 0) (hclean : wf64 a 63 8 = 0)
    (hrk : toRack (tileOf s s.curTile) (maskOf a) = rk) (hpages : kilnPages s rk = .ok pages)
    (hstates : ∀ n ∈ maskOf a, (regionAt s s.curTile n).state ≠ .frozen ∧ (regionAt s s.curTile n).state ≠ .faulted) :
    exec (.kiln p) s = .next (if rk = [] then cfgRetire s p.tk
      else rk.foldl (fun s n => startWave s s.curTile n false) (setTile s s.curTile { tileOf s s.curTile with
        cfg := some { strm := s.curStrm, settle := rk, kiln := true, pages := pages } })) := by
  have hfail : stateFail (tileOf s s.curTile) (maskOf a) (fun x => x == .frozen || x == .faulted) = none :=
    stateFail_none fun n hn => by
      obtain ⟨hfrozen, hfaulted⟩ := hstates n hn
      exact Bool.or_eq_false_iff.mpr ⟨beq_eq_false_iff_ne.mpr hfrozen, beq_eq_false_iff_ne.mpr hfaulted⟩
  refine issue_ok (canIssue_of_issues hp) ?_
  simp only [myCfg_none (cfg_none_of_takes htakes), readSrc_of_reads ha, tokensReady_of_issues hp, cfgFree_taken htakes, chk_bind_ok,
    if_neg ha0, maskClean_of_zero hclean, hrk, hpages, hfail, cfgNeed, ok_ite_isEmpty]

theorem exec_thaw_acts {ws : List Word} {recs : List RecImg} {imgs : List (Nat × KilnImage)} (ho : Issues s o.tk) (ha : Reads s o.a a)
    (hb : Reads s o.b b) (htakes : cfgTakes s s.curTile s.curStrm = true) (hb0 : b ≠ 0) (hclean : wf64 b 63 8 = 0)
    (himage : readImage s a = .ok ws) (hrecs : checkedRecs true ws (maskOf b) = .ok recs) (himgs : imagesFor s recs = .ok imgs)
    (hstates : chkStates (tileOf s s.curTile) (imgs.map fun p => (p.1, p.2.region))
      (fun x => x == .stopped || x == .running || x == .faulted) (maskOf b) = none) :
    exec (.thaw o) s = .next (cfgRetire (thawAll s.curTile (some s.curStrm) (noteCur s (imageSeen s a)) imgs) o.tk) := by
  refine issue_ok (canIssue_of_issues ho) ?_
  simp only [readSrc_of_reads ha, readSrc_of_reads hb, tokensReady_of_issues ho, cfgFree_taken htakes, chk_bind_ok, if_neg hb0, himage,
    maskClean_of_zero hclean, hrecs, himgs, hstates, cfgNeed]

/-! A word in service (R254, R255, R258). -/

section
variable {u : CfgUnit}

theorem exec_cfgWord_unsettled (hmine : myCfg s = some u) (hopen : ∃ n ∈ u.settle, n ∉ u.settled) :
    exec (.cfgld o) s = .next s ∧ exec (.rack p) s = .next s ∧ exec (.kiln p) s = .next s := by
  have hall : (u.settle.all u.settled.contains) = false := Bool.eq_false_iff.mpr fun h => by
    obtain ⟨n, hn, hnot⟩ := hopen
    exact hnot (settled_all.mp h n hn)
  refine ⟨issue_stall ?_, issue_stall ?_, issue_stall ?_⟩
  all_goals
    simp only [hmine, hall]
    rfl

theorem exec_cfgWord_settled (hissue : canIssue (cur s) = true) (hmine : myCfg s = some u) (hall : ∀ n ∈ u.settle, n ∈ u.settled) :
    exec (.cfgld o) s = .next (cfgReplace (noteCur s u.seen) u.image o.tk) ∧ exec (.rack p) s = .next (rackRelease s u.release p.tk) ∧
      exec (.kiln p) s = .next (cfgRetire s p.tk) := by
  have hwait := waitFor_true (settled_all.mpr hall)
  refine ⟨issue_ok hissue ?_, issue_ok hissue ?_, issue_ok hissue ?_⟩
  all_goals simp only [hmine, hwait, chk_bind_ok]

end

end

end Sys2Proof.Proofs
end

/-! PROOFS. What leaves a tile's array as it is (R252), RGO's start of regions, and regions placed, released and restored (R254 to R261). -/
section

namespace Sys2Proof.Proofs

open Sys2Proof Sys2Proof.Machine Sys2Proof.Claims

/-- What a configuration word acts on in a tile: its regions, their channels and the unit. -/
def arrayOf (t : Tile) : FMap Region × FMap Fifo × Option CfgUnit := (t.regions, t.chs, t.cfg)

/-- Memory and every tile's array are as they were. -/
structure KeepsArray (s t : State) : Prop where
  mem : t.mem = s.mem
  array : ∀ u, arrayOf (tileOf t u) = arrayOf (tileOf s u)

namespace KeepsArray

variable {s t u : State}

theorem refl (s : State) : KeepsArray s s := ⟨rfl, fun _ => rfl⟩

theorem trans (h : KeepsArray s t) (g : KeepsArray t u) : KeepsArray s u :=
  ⟨g.mem.trans h.mem, fun v => (g.array v).trans (h.array v)⟩

theorem regions (h : KeepsArray s t) (v : Nat) : (tileOf t v).regions = (tileOf s v).regions := congrArg Prod.fst (h.array v)

theorem chs (h : KeepsArray s t) (v : Nat) : (tileOf t v).chs = (tileOf s v).chs := congrArg (·.2.1) (h.array v)

theorem cfg (h : KeepsArray s t) (v : Nat) : (tileOf t v).cfg = (tileOf s v).cfg := congrArg (·.2.2) (h.array v)

theorem regionAt (h : KeepsArray s t) (v n : Nat) : regionAt t v n = Machine.regionAt s v n := by
  rw [Machine.regionAt, h.regions]
  rfl

theorem setTile {v : Nat} {x : Tile} (h : arrayOf x = arrayOf (tileOf s v)) : KeepsArray s (setTile s v x) := by
  refine ⟨rfl, fun w => ?_⟩
  by_cases hw : w = v
  · rw [hw, tileOf_setTile_same, h]
  · rw [tileOf_setTile_other _ _ _ _ hw]

theorem foldl {α : Type} {f : State → α → State} (h : ∀ s a, KeepsArray s (f s a)) (l : List α) (s : State) : KeepsArray s (l.foldl f s) := by
  induction l generalizing s with
  | nil => exact refl s
  | cons a l ih => exact (h s a).trans (ih _)

theorem ite {p : Prop} {_ : Decidable p} (h : KeepsArray s t) (g : KeepsArray s u) : KeepsArray s (if p then t else u) := by
  split
  · exact h
  · exact g

end KeepsArray

/-! Streams, ports and slots are no part of the array. -/

theorem keepsArray_setStrm (s : State) (t : Nat) (sk : Strm) (x : Stream) : KeepsArray s (setStrm s t sk x) :=
  .setTile (by cases sk <;> rfl)

theorem keepsArray_putSlot (s : State) (t n : Nat) (x : Slot) : KeepsArray s (putSlot s t n x) := .setTile rfl

theorem keepsArray_leaveAll (s : State) (c : Cmd) : KeepsArray s (leaveAll s c) := by
  refine .foldl (fun s t => ?_) _ s
  exact .setTile rfl

theorem keepsArray_dropBarrier (s : State) (t id : Nat) : KeepsArray s (dropBarrier s t id) := .setTile rfl

theorem keepsArray_insertSnaps (s : State) (tile n : Nat) : KeepsArray s (insertSnaps s tile n) := by
  refine .foldl (fun s p => ?_) _ s
  exact .ite (.refl s) (.setTile rfl)

theorem keepsArray_joinIps (s : State) (ps : List (Nat × Nat)) (id : Nat) :
    KeepsArray s (ps.foldl (fun s p => setTile s p.1 (joinIp (tileOf s p.1) p.2 id)) s) := by
  refine .foldl (fun s p => ?_) _ s
  exact .setTile rfl

theorem keepsArray_joinOps (s : State) (tile : Nat) (ps : List Nat) (id : Nat) :
    KeepsArray s (ps.foldl (fun s p => setTile s tile (joinOp (tileOf s tile) p id)) s) := by
  refine .foldl (fun s p => ?_) _ s
  exact .setTile rfl

theorem keepsArray_rejoin (s : State) (tile : Nat) (c : Cmd) : KeepsArray s (rejoin s tile c) := by
  refine .trans ?_ (.ite (.setTile rfl) (.refl _))
  refine .trans ?_ (.ite (.refl _) (keepsArray_joinOps _ tile _ c.id))
  exact .ite (.refl s) (keepsArray_joinIps s _ c.id)

/-! The slots of a region given up (R252). -/

/-- A slot without its commands. -/
def SlotEmpty (x : Slot) : Prop := x.active = none ∧ x.pending = [] ∧ x.halt = none

/-- The emptying of one slot, as dropSlots does it for each slot of the region. -/
def emptySlot (tile : Nat) (s : State) (n : Nat) : State :=
  putSlot s tile n { slotAt s tile n with active := none, pending := [], halt := none }

theorem slotAt_putSlot_other {t n m : Nat} (s : State) (x : Slot) (h : m ≠ n) : slotAt (putSlot s t n x) t m = slotAt s t m := by
  rw [slotAt, putSlot, tileOf_setTile_same]
  exact mget_mset_other _ _ _ _ _ h

theorem slotEmpty_emptySlot {tile n m : Nat} {s : State} (h : m = n ∨ SlotEmpty (slotAt s tile m)) :
    SlotEmpty (slotAt (emptySlot tile s n) tile m) := by
  by_cases hm : m = n
  · rw [hm, emptySlot, slotAt_putSlot]
    exact ⟨rfl, rfl, rfl⟩
  · rw [emptySlot, slotAt_putSlot_other _ _ hm]
    exact h.resolve_left hm

theorem slotEmpty_foldl {tile m : Nat} {l : List Nat} {s : State} (h : m ∈ l ∨ SlotEmpty (slotAt s tile m)) :
    SlotEmpty (slotAt (l.foldl (emptySlot tile) s) tile m) := by
  induction l generalizing s with
  | nil => exact h.resolve_left (List.not_mem_nil)
  | cons n l ih =>
    refine ih ?_
    rw [List.mem_cons, or_assoc] at h
    rcases h with hm | hm | hm
    · exact .inr (slotEmpty_emptySlot (.inl hm))
    · exact .inl hm
    · exact .inr (slotEmpty_emptySlot (.inr hm))

theorem mem_maskBits {n m i : Nat} (x : BitVec n) : i ∈ maskBits m x.toNat ↔ i < m ∧ x.getLsbD i = true := by
  rw [maskBits, List.mem_filter, List.mem_range, bitN_toNat]

theorem dropSlots_empties {tile m : Nat} (s : State) (r : Region) (keep : List Nat) (hm : m < 16) (hr : r.slots.getLsbD m = true) :
    SlotEmpty (slotAt (dropSlots s tile r keep) tile m) :=
  slotEmpty_foldl (.inl ((mem_maskBits r.slots).mpr ⟨hm, hr⟩))

theorem keepsArray_dropSlots (s : State) (tile : Nat) (r : Region) (keep : List Nat) : KeepsArray s (dropSlots s tile r keep) := by
  refine .trans (.foldl (fun s c => ?_) _ s) (.foldl (fun s n => keepsArray_putSlot s tile n _) _ _)
  exact .trans (.ite (keepsArray_dropBarrier s tile c.id) (.refl s)) (keepsArray_leaveAll _ c)

theorem keepsArray_discardHeld (s : State) (tile n : Nat) : KeepsArray s (discardHeld s tile n) :=
  .ite (keepsArray_dropSlots s tile _ []) (.refl s)

theorem keepsArray_giveUp (s : State) (tile n : Nat) (keep : List Cmd) : KeepsArray s (giveUp s tile n keep) :=
  .ite (keepsArray_dropSlots s tile _ _) (.refl s)

theorem discardHeld_empties {s : State} {tile n m : Nat} (h : (regionAt s tile n).state = .frozen ∨ (regionAt s tile n).state = .faulted)
    (hm : m < 16) (hr : (regionAt s tile n).slots.getLsbD m = true) : SlotEmpty (slotAt (discardHeld s tile n) tile m) := by
  rw [discardHeld, if_pos h]
  exact dropSlots_empties s _ [] hm hr

theorem giveUp_empties {s : State} {tile n m : Nat} (keep : List Cmd) (h : (regionAt s tile n).state = .frozen) (hm : m < 16)
    (hr : (regionAt s tile n).slots.getLsbD m = true) : SlotEmpty (slotAt (giveUp s tile n keep) tile m) := by
  rw [giveUp, if_pos h]
  exact dropSlots_empties s _ _ hm hr

/-! The retirement of a word of the unit: the array stays, and the unit is free (R253). -/

theorem keepsArray_pushOne (s : State) (t : Nat) (sk : Strm) (right : Bool) : KeepsArray s (pushOne s t sk right).1 := by
  unfold pushOne
  split
  · exact keepsArray_setStrm ..
  · exact .refl s

theorem keepsArray_pushBits (s : State) (t : Nat) (sk : Strm) (sl sr : Bool) : KeepsArray s (pushBits s t sk sl sr).1 := by
  cases sl <;> cases sr
  · exact .refl s
  · exact keepsArray_pushOne ..
  · exact keepsArray_pushOne ..
  · exact (keepsArray_pushOne ..).trans (keepsArray_pushOne ..)

theorem abandonCfg_none {s : State} {t : Nat} (sk : Strm) (h : (tileOf s t).cfg = none) : abandonCfg s t sk = s := by
  simp [abandonCfg, h]

/-- A trap of a stream of a tile whose unit serves nobody has no instruction to abandon. -/
theorem keepsArray_takeTrapAt {s : State} {t : Nat} (sk : Strm) (c : Cause) (v r : Word) (h : (tileOf s t).cfg = none) :
    KeepsArray s (takeTrapAt s t sk c v r) := by
  have hdrop : abandonCfg (dropWatch s t sk) t sk = dropWatch s t sk := abandonCfg_none sk h
  have hwatch : KeepsArray s (dropWatch s t sk) := ⟨rfl, fun _ => rfl⟩
  rw [takeTrapAt, hdrop]
  refine hwatch.trans (.ite (keepsArray_setStrm ..) ?_)
  exact (keepsArray_setStrm ..).trans ⟨rfl, fun _ => rfl⟩

theorem keepsArray_retireAt {s : State} {t : Nat} (sk : Strm) (tk : BitVec 4) (f : Flow) (h : (tileOf s t).cfg = none) :
    KeepsArray s (retireAt s t sk tk f) := by
  have hpush (x : Stream) := (keepsArray_setStrm s t sk x).trans (keepsArray_pushBits (setStrm s t sk x) t sk (tkSL tk) (tkSR tk))
  refine (hpush _).trans (.ite (keepsArray_takeTrapAt _ _ _ _ ?_) (.refl _))
  rw [(hpush _).cfg, h]

/-- The state in which the tile's unit serves nobody. -/
def freeUnit (s : State) : State := setTile s s.curTile { tileOf s s.curTile with cfg := none }

theorem regionAt_freeUnit (s : State) (v n : Nat) : regionAt (freeUnit s) v n = regionAt s v n := by
  by_cases hv : v = s.curTile
  · rw [hv, freeUnit, regionAt_setTile, regionAt]
  · rw [regionAt, freeUnit, tileOf_setTile_other _ _ _ _ hv, regionAt]

theorem keepsArray_cfgRetire (s : State) (tk : BitVec 4) : KeepsArray (freeUnit s) (cfgRetire s tk) := by
  have hpop := keepsArray_setStrm (freeUnit s) s.curTile s.curStrm (popBits (cur (freeUnit s)) tk)
  refine hpop.trans (keepsArray_retireAt _ tk .seq ?_)
  refine (hpop.cfg s.curTile).trans ?_
  rw [freeUnit, tileOf_setTile_same]

theorem cfgRetire_mem (s : State) (tk : BitVec 4) : (cfgRetire s tk).mem = s.mem := (keepsArray_cfgRetire s tk).mem

theorem cfgRetire_cfg (s : State) (tk : BitVec 4) : (tileOf (cfgRetire s tk) s.curTile).cfg = none := by
  rw [(keepsArray_cfgRetire s tk).cfg, freeUnit, tileOf_setTile_same]

theorem regionAt_cfgRetire (s : State) (tk : BitVec 4) (v n : Nat) : regionAt (cfgRetire s tk) v n = regionAt s v n := by
  rw [(keepsArray_cfgRetire s tk).regionAt, regionAt_freeUnit]

/-! RGO (R256). -/

/-- A STOPPED region started, as RGO does it for each region of its mask. -/
def startStopped (t : Tile) (n : Nat) : Tile :=
  let r := mget t.regions n {}
  if r.state = .stopped then { t with regions := mset t.regions n { r with state := .running } } else t

/-- A region as it stands after it started where it was STOPPED. -/
def started (r : Region) : Region := if r.state = .stopped then { r with state := .running } else r

theorem started_stopped {r : Region} (h : r.state = .stopped) : started r = { r with state := .running } := if_pos h

theorem started_other {r : Region} (h : r.state ≠ .stopped) : started r = r := if_neg h

theorem started_started (r : Region) : started (started r) = started r := by
  by_cases h : r.state = .stopped
  · rw [started_stopped h, started_other RegionState.noConfusion]
  · rw [started_other h, started_other h]

theorem startStopped_same (t : Tile) (n : Nat) : mget (startStopped t n).regions n {} = started (mget t.regions n {}) := by
  by_cases h : (mget t.regions n {}).state = .stopped
  · rw [startStopped, if_pos h, started_stopped h]
    exact mget_mset_same ..
  · rw [startStopped, if_neg h, started_other h]

theorem startStopped_other {n m : Nat} (t : Tile) (h : m ≠ n) : mget (startStopped t n).regions m {} = mget t.regions m {} := by
  rw [startStopped]
  split
  · exact mget_mset_other _ _ _ _ _ h
  · rfl

theorem foldl_startStopped (l : List Nat) (t : Tile) (m : Nat) :
    mget (l.foldl startStopped t).regions m {} = if m ∈ l then started (mget t.regions m {}) else mget t.regions m {} := by
  induction l generalizing t with
  | nil => rfl
  | cons n l ih =>
    rw [List.foldl_cons, ih]
    by_cases hm : m = n
    · subst hm
      rw [startStopped_same, started_started, ite_self, if_pos List.mem_cons_self]
    · rw [startStopped_other t hm]
      exact if_congr (List.mem_cons.trans (or_iff_right hm)).symm rfl rfl

section
variable {p : FormA} {s : State} {a : Word}

theorem exec_rgo_starts (hp : Issues s p.tk) (ha : Reads s p.a a) (htakes : cfgTakes s s.curTile s.curStrm = true) (ha0 : a ≠ 0)
    (hclean : wf64 a 63 8 = 0) (hstates : ∀ n ∈ maskOf a, (regionAt s s.curTile n).state ≠ .unconfigured ∧
      (regionAt s s.curTile n).state ≠ .frozen ∧ (regionAt s s.curTile n).state ≠ .faulted) :
    exec (.rgo p) s = .next (cfgRetire (setTile s s.curTile ((maskOf a).foldl startStopped (tileOf s s.curTile))) p.tk) := by
  have hfail : stateFail (tileOf s s.curTile) (maskOf a) (fun x => x == .unconfigured || x == .frozen || x == .faulted) = none :=
    stateFail_none fun n hn => by
      obtain ⟨hun, hfrozen, hfaulted⟩ := hstates n hn
      exact Bool.or_eq_false_iff.mpr ⟨Bool.or_eq_false_iff.mpr ⟨beq_eq_false_iff_ne.mpr hun, beq_eq_false_iff_ne.mpr hfrozen⟩,
        beq_eq_false_iff_ne.mpr hfaulted⟩
  refine issue_ok (canIssue_of_issues hp) ?_
  simp only [readSrc_of_reads ha, tokensReady_of_issues hp, cfgFree_taken htakes, chk_bind_ok, if_neg ha0, maskClean_of_zero hclean, hfail,
    cfgNeed]
  rfl

end

theorem regionAt_rgo (s : State) (l : List Nat) (tk : BitVec 4) (n : Nat) :
    regionAt (cfgRetire (setTile s s.curTile (l.foldl startStopped (tileOf s s.curTile))) tk) s.curTile n =
      if n ∈ l then started (regionAt s s.curTile n) else regionAt s s.curTile n := by
  rw [regionAt_cfgRetire, regionAt_setTile, foldl_startStopped, regionAt]

theorem configurationWordsActOnTheirRegions : ConfigurationWordsActOnTheirRegions := by
  refine ⟨fun o s a hi ha hd => exec_cfgq_reads hi ha hd, fun o p s a b u ho hp ha hb hpa hheld hother hcfg => ?waits,
    fun o s a ho ha hb htakes => exec_cfgld_thaw_zero ho ha hb htakes, fun o s hp ha htakes => exec_rack_kiln_rgo_zero hp ha htakes,
    fun o s a b new rk ho ha hb htakes hb0 hnew hrk => exec_cfgld_acts ho ha hb htakes hb0 hnew hrk,
    fun o s a rk hp ha htakes ha0 hclean hrk => exec_rack_acts hp ha htakes ha0 hclean hrk,
    fun o s a rk pages hp ha htakes ha0 hclean hrk hpages hstates => exec_kiln_acts hp ha htakes ha0 hclean hrk hpages hstates,
    fun o p s u hissue hcfg hown => ⟨exec_cfgWord_unsettled (myCfg_own hcfg hown), exec_cfgWord_settled hissue (myCfg_own hcfg hown)⟩,
    fun o s a b ws recs imgs ho ha hb htakes hb0 hclean himage hrecs himgs hstates =>
      exec_thaw_acts ho ha hb htakes hb0 hclean himage hrecs himgs hstates,
    fun o s a hp ha htakes ha0 hclean hstates => ⟨_, exec_rgo_starts hp ha htakes ha0 hclean hstates, cfgRetire_mem .., cfgRetire_cfg ..,
      fun n hn hstop => ?starts, fun n hn => ?keeps⟩⟩
  case waits =>
    refine exec_cfgWord_waits ho hp ha hb hpa hheld ?_
    rcases hcfg with hfree | hserves
    · exact myCfg_none hfree
    · exact myCfg_other hserves (hother hserves)
  case starts => rw [regionAt_rgo, if_pos hn, started_stopped hstop]
  case keeps =>
    rw [regionAt_rgo]
    split
    · next hmem => exact started_other (hn.resolve_left (not_not_intro hmem))
    · rfl

/-! Regions placed, released and restored (R252, R254, R255, R259, R261). -/

theorem regionAt_cfgReplace (s : State) (tk : BitVec 4) (n : Nat) (r : Region) : regionAt (cfgReplace s [(n, r)] tk) s.curTile n = r := by
  rw [cfgReplace, regionAt_cfgRetire, regionAt_setTile]
  exact mget_mset_same ..

theorem clearRanges_unconfigured (t : Tile) : (clearRanges t {}).slots = t.slots := by
  simp [clearRanges]

section
variable {s : State} {tile n m : Nat}

theorem regionAt_releaseRegion_same : regionAt (releaseRegion s tile n) tile n = {} := by
  rw [releaseRegion, regionAt_setTile]
  exact mget_mset_same ..

theorem regionAt_releaseRegion_other (h : m ≠ n) : regionAt (releaseRegion s tile n) tile m = regionAt s tile m := by
  rw [releaseRegion, regionAt_setTile, ← (keepsArray_discardHeld s tile n).regionAt]
  exact mget_mset_other _ _ _ _ _ h

theorem slotAt_releaseRegion : slotAt (releaseRegion s tile n) tile m = slotAt (discardHeld s tile n) tile m := by
  rw [releaseRegion, slotAt, tileOf_setTile_same]
  exact congrArg (mget · m ({} : Slot)) (clearRanges_unconfigured _)

theorem regionAt_startWave (byFe : Bool) : regionAt (startWave s tile n byFe) tile n =
    { regionAt s tile n with state := .freezing, wasRunning := (regionAt s tile n).state == .running, aligned := []
                             waveStart := s.fab, waveByFe := byFe } := by
  rw [startWave, (keepsArray_insertSnaps _ tile n).regionAt, regionAt_setRegion]

end

/-! THAW's restoration of a region (R261): its array stands once its tile is written, and its slots and commands follow. -/

section
variable (tile : Nat) (sk : Option Strm) (s : State) (n : Nat) (m : KilnImage)

/-- The commands that an image restores. -/
def imageCmds (m : KilnImage) : List Cmd := m.slots.flatMap fun (_, x) => slotCmds x

/-- The tile with the FIFOs and the region of an image, before its slots. -/
def thawTile (t : Tile) : Tile :=
  { t with ips := restoreItems t.ips m.ips, ops := restoreItems t.ops m.ops, chs := restoreItems t.chs m.chs
           regions := mset t.regions n { m.region with secNext := 0, spanStrm := sk.getD m.region.spanStrm } }

/-- The state in which a THAW has restored FIFOs and region. -/
def thawArray : State :=
  setTile (giveUp s tile n (imageCmds m)) tile (thawTile sk n m (tileOf (giveUp s tile n (imageCmds m)) tile))

theorem keepsArray_thawRegion : KeepsArray (thawArray tile sk s n m) (thawRegion tile sk s (n, m)) :=
  .trans (.foldl (fun s _ => keepsArray_putSlot s tile _ _) _ _) (.foldl (fun s c => keepsArray_rejoin s tile c) _ _)

theorem thawRegion_mem : (thawRegion tile sk s (n, m)).mem = s.mem :=
  (keepsArray_thawRegion tile sk s n m).mem.trans (keepsArray_giveUp s tile n _).mem

theorem regionAt_thawRegion : regionAt (thawRegion tile sk s (n, m)) tile n =
    { m.region with secNext := 0, spanStrm := sk.getD m.region.spanStrm } := by
  rw [(keepsArray_thawRegion tile sk s n m).regionAt, thawArray, regionAt_setTile]
  exact mget_mset_same ..

theorem chs_thawRegion : (tileOf (thawRegion tile sk s (n, m)) tile).chs = restoreItems (tileOf s tile).chs m.chs := by
  rw [(keepsArray_thawRegion tile sk s n m).chs, thawArray, tileOf_setTile_same, ← (keepsArray_giveUp s tile n (imageCmds m)).chs]
  rfl

theorem restoreItems_single (f : FMap Fifo) (i : Nat) (xs : List Item) :
    (mget (restoreItems f [(i, xs)]) i {}).items = xs ++ (mget f i {}).items := by
  rw [restoreItems, List.foldl_cons, List.foldl_nil, mget_mset_same]

variable {m} in
/-- An image without slots leaves those that the region gave up as they are. -/
theorem slotAt_thawRegion (h : m.slots = []) (j : Nat) :
    slotAt (thawRegion tile sk s (n, m)) tile j = slotAt (giveUp s tile n []) tile j := by
  have hrun : thawRegion tile sk s (n, m) = thawArray tile sk s n m := by
    cases m
    cases h
    rfl
  rw [hrun, thawArray, slotAt, tileOf_setTile_same, imageCmds, h]
  rfl

end

theorem regionsArePlacedReleasedAndRestored : RegionsArePlacedReleasedAndRestored := by
  refine ⟨regionAt_cfgReplace, ?release, fun s tile n byFe => regionAt_startWave byFe, ?thaw,
    fun s t => ⟨cfgTakes_of_serving, fun hfree => ⟨(cfgTakes_of_free hfree .k).mpr (by simp [strmsBefore]), cfgTakes_of_free hfree⟩⟩⟩
  case release =>
    rintro s _ tile n rfl
    refine ⟨regionAt_releaseRegion_same, fun m hm => regionAt_releaseRegion_other hm, fun hheld m hm hslot => ?_⟩
    rw [slotAt_releaseRegion]
    exact discardHeld_empties hheld hm hslot
  case thaw =>
    rintro s _ tile n sk m rfl
    refine ⟨regionAt_thawRegion tile (some sk) s n m, thawRegion_mem tile (some sk) s n m, fun i xs hchs => ?_,
      fun hfrozen hslots j hj hslot => ?_⟩
    · rw [chs_thawRegion, hchs, restoreItems_single]
    · rw [slotAt_thawRegion tile (some sk) s n hslots]
      exact giveUp_empties [] hfrozen hj hslot

/-- Settles O40: each word by the branch of its checks that it takes, and what becomes of a region by the frame of the array, which the
dropping of commands, the restoring of slots and the retirement of a word all keep. -/
theorem configurationWordsAndRegionsAct : Obligations.ConfigurationWordsAndRegionsAct :=
  ⟨configurationWordsActOnTheirRegions, regionsArePlacedReleasedAndRestored⟩

end Sys2Proof.Proofs
end
